-- ==== Sys2Proof/Word.lean ====
section
/-! DEFINITION. The word types of the IKB-7 and the plainest arithmetic on them: bytes, 32-bit register words,
128-bit operation words, and natural-number bit fields (00 R12: bit 0 is the least significant bit). -/

namespace Sys2Proof

abbrev Byte := BitVec 8
/-- A register (00 R12: all registers are 32 bits wide). -/
abbrev Word32 := BitVec 32
/-- An operation word (02 R49). -/
abbrev OpBits := BitVec 128

/-- Bits `lo + width - 1 .. lo` of a natural number. -/
def bitField (n lo width : Nat) : Nat := n / 2 ^ lo % 2 ^ width

/-- Bit `i` of a natural number. -/
def bitAt (n i : Nat) : Bool := bitField n i 1 == 1

/-- The two's-complement integer that the low `w` bits of `n` spell. -/
def toSigned (w n : Nat) : Int :=
  let m := n % 2 ^ w
  if m < 2 ^ (w - 1) then (m : Int) else (m : Int) - (2 ^ w : Nat)

/-- The `w`-bit two's-complement pattern of an integer. -/
def ofSigned (w : Nat) (x : Int) : Nat := (x % ((2 ^ w : Nat) : Int)).toNat

/-- Rounded-up quotient. -/
def ceilDiv (a b : Nat) : Nat := (a + b - 1) / b

end Sys2Proof
end

