-- ==== Sys2Proof/Syntax/Inputs.lean ====
section
/-! DEFINITION. The operands of the device commands: what the host, the pins, the sensors and the other chips present to the
part in one command. -/

namespace Sys2Proof

/-- Bytes that host software stores into host memory. -/
structure HostWrite where
  addr : Nat
  bytes : List Byte
  deriving DecidableEq, Repr

/-- How a PCIe request that the part issues completes when it does not succeed (11 R311). -/
inductive BadCompletion where
  | ur | ca | poison
  deriving DecidableEq, Repr

/-- A configuration register of a function (11 R289, R293, R304): VF Enable of the PF, AtomicOp Requester Enable, the uncorrectable error
status of AER and its header log, or another. -/
inductive CfgField where
  | vfEnable | atomicEnable | aerStatus | aerHeader (dword : Fin 4) | other
  deriving DecidableEq, Repr

/-- What a configuration request asks for. -/
inductive CfgReq where
  | read (x : CfgField)
  | write (x : CfgField) (v : BitVec 32)
  deriving DecidableEq, Repr

/-- A configuration request to a function. -/
structure CfgPacket where
  fn : Fin 64
  req : CfgReq
  deriving DecidableEq, Repr

/-- What host software does to an entry of an MSI-X table, or to the pending-bit array, in BAR2 (11 R292, R316). -/
inductive MsixAccess where
  | unmask
  | mask
  | message (addr : BitVec 64) (data : BitVec 32)
  | read (dword : Fin 4)
  | pba
  deriving DecidableEq, Repr

/-- An access to the table entry of a vector, or to its pending bits. -/
structure MsixPacket where
  vector : BitVec 11
  access : MsixAccess
  deriving DecidableEq, Repr

/-- An argument entry of a work descriptor (11 R297). -/
structure ArgEntry where
  addr : BitVec 64 := 0
  bytes : BitVec 32 := 0
  rsvd : BitVec 32 := 0
  deriving DecidableEq, Repr

/-- A work descriptor with OP RUN (11 R297). -/
structure RunDesc where
  seq : BitVec 64 := 0
  planId : BitVec 32 := 0
  dflags : BitVec 8 := 0
  narg : BitVec 8 := 0
  rsvd0 : BitVec 8 := 0
  arg0 : ArgEntry := {}
  arg1 : ArgEntry := {}
  argtAddr : BitVec 64 := 0
  rsvd1 : BitVec 64 := 0
  deriving DecidableEq, Repr

/-- An admin descriptor without its OP, which the command names (11 R315). -/
structure AdminDesc where
  seq : BitVec 64 := 0
  dflags : BitVec 8 := 0
  a : BitVec 32 := 0
  b : BitVec 64 := 0
  c : BitVec 64 := 0
  d : BitVec 64 := 0
  rsvd0 : BitVec 16 := 0
  rsvd1 : BitVec 192 := 0
  deriving DecidableEq, Repr

/-- What the host, the sensors and the links present during a turn head (10 R264 steps 1 to 5; 11 R303 to R305). -/
structure HeadIn where
  /-- stores of host software since the last head, in order -/
  stores : List HostWrite := []
  /-- bits that host software sets in a doorbell word between the read and a CAS: function, word, bits, one entry per
  failing compare -/
  casLost : List (Nat × Nat × BitVec 64) := []
  /-- functions whose CAS completes with UR or CA -/
  casFailed : List (Fin 64) := []
  /-- descriptors whose read, or argument-table read, has not returned 1.0 us after the head: ring, and place among those fetched -/
  late : List (Fin 65536 × Nat) := []
  /-- host time in ns by PTM, where PTM is valid -/
  ptm : Option Nat := none
  /-- rings with class-0 work for which a host read of the staging in the head completes badly: how, and its address -/
  stageFails : List (Fin 65536 × BadCompletion × BitVec 64) := []
  deriving DecidableEq, Repr

/-- What the sensors and the host present during a turn tail (10 R270, R271; 11 R310). -/
structure TailIn where
  /-- VIN, 1 ms average, in mV -/
  vinMv : Nat := 52000
  /-- power not driven by slices over the turn, as energy in uJ -/
  fixUj : Nat := 0
  /-- measured input energy of the turn in uJ -/
  drawnUj : Nat := 0
  /-- rings whose completion record or COMPLETED write fails, and how -/
  recordFails : List (Fin 65536 × BadCompletion) := []
  /-- core clock averaged over the turn, in MHz -/
  coreMhz : BitVec 12 := 0
  /-- host time in ns by PTM at the head of the turn, where PTM is valid -/
  ptm : Option Nat := none
  deriving DecidableEq, Repr

/-- What the part finds of itself while it powers up (15 R408, R418, R421 to R424; 14 R398). -/
structure BringUpIn where
  /-- VIN within 46 V to 56 V -/
  vinMv : Nat := 52000
  factoryOk : Bool := true
  pufOk : Bool := true
  identityOk : Bool := true
  diesOk : Bool := true
  flashOk : Bool × Bool := (true, true)
  /-- physical cores that fail self-test -/
  coreFails : List (Fin 144) := []
  /-- SRAM rows that BIST repairs: kind 2 to 4, core, SUB, spare row (R421) -/
  rowRepairs : List (Fin 3 × Fin 144 × BitVec 16 × BitVec 16) := []
  /-- stacks that fail training -/
  stackFails : List (Fin 8) := []
  /-- lanes that reach ACTIVE -/
  lanesUp : List (Fin 104) := []
  /-- bank voltage drop of the 20 ms draw in mV, its step in mV, and the bank voltage in 10 mV units (R425) -/
  bankDropMv : Nat := 0
  bankStepMv : Nat := 0
  bankVolt : BitVec 16 := 0
  /-- an OWNER record whose MAC fails, and user slots A and B whose code signatures verify -/
  ownerMacOk : Bool := true
  slotSigOk : Bool × Bool := (true, true)
  deriving DecidableEq, Repr

/-- One update of the thermal model (10 R268, R269): measured power of the 152 nodes in mW, and the 600 sensors in
thousandths of a degree Celsius. -/
structure ThermalIn where
  powerMw : List Nat := []
  sensors : List Int := []
  deriving DecidableEq, Repr

/-- What a window has measured when re-planning runs (17 R460 to R465). -/
structure ReplanIn where
  /-- margins in mV: physical core, then points P0 to P5 -/
  coreMargins : List (Fin 144 × List Int) := []
  /-- margins in mV of the H-die, L-die East, L-die West and M-die -/
  dieMargins : List Int := []
  /-- lanes: eye height in mV, width in hundredths of a UI -/
  lanes : List (Fin 104 × Int × Nat) := []
  /-- physical channels: the smaller of the two eyes in ps -/
  channels : List (Fin 256 × Int) := []
  /-- cores with a bank, Chuck or memory row that finds no spare row -/
  rowsOut : List (Fin 144) := []
  /-- rows with 4 corrected errors within a day: kind 2 to 4, core, SUB, spare row (08 R212) -/
  rowRepairs : List (Fin 3 × Fin 144 × BitVec 16 × BitVec 16) := []
  /-- phases whose daily loss is 30 % above calibration: tile, rail -/
  phases : List (Fin 4 × Fin 9) := []
  deriving DecidableEq, Repr

/-- A flit of 256 bytes (14 R379). -/
structure Flit where
  ftype : BitVec 8
  fflags : BitVec 8
  lseq : BitVec 16
  src : BitVec 16
  dst : BitVec 16
  eseq : BitVec 32
  payload : List Byte
  crc : BitVec 32
  deriving DecidableEq, Repr

/-- How an attempt to train a lane ends (14 R398). -/
inductive TrainResult where
  | active | failed
  deriving DecidableEq, Repr

/-- Who asks an SPDM request (16 R454). -/
inductive SpdmPort where
  | doe (fn : Fin 64)
  | mctp
  deriving DecidableEq, Repr

/-- A PLL of the CLK block (18 R488). -/
inductive Pll where
  | core0 | core1 | pcie | lnkE | lnkW
  deriving DecidableEq, Repr

/-- A filtered control input: its pin code of 12 R335 is its index plus 1. -/
inductive PinId where
  | pwrbrk | turnSync | pps | presence
  deriving DecidableEq, Repr

/-- The MCTP control requests that matter to the M-die's answer: command code and parameter bytes. -/
structure MctpControl where
  command : BitVec 8
  data : List Byte
  deriving DecidableEq, Repr

end Sys2Proof
end

