-- ==== Sys2Proof/Syntax/OpWords.lean ====
section
/-! DEFINITION. The operand fields of the 128-bit operation words, one structure per word shape, each field at the width
the spec gives it, so that a reserved bit cannot be written. Every word carries DELAY and UNIT (02 R49). -/

namespace Sys2Proof

/-- MMA and MMA_T (03 R82); `tside` is reserved (zero) in MMA. -/
structure MmaWord where
  delay : BitVec 10 := 0
  unit : BitVec 4 := 0
  acc : BitVec 1 := 0
  tside : BitVec 1 := 0
  aBase : BitVec 17 := 0
  k : BitVec 15 := 0
  bBase : BitVec 17 := 0
  mm1 : BitVec 6 := 0
  nm1 : BitVec 6 := 0
  qBase : BitVec 17 := 0
  deriving DecidableEq, Repr

/-- CONV (03 R93). -/
structure ConvWord where
  delay : BitVec 10 := 0
  unit : BitVec 4 := 0
  acc : BitVec 1 := 0
  cdBase : BitVec 17 := 0
  qBase : BitVec 17 := 0
  deriving DecidableEq, Repr

/-- GRAD_PAIR (07 R190). -/
structure GradWord where
  delay : BitVec 10 := 0
  unit : BitVec 4 := 0
  accx : BitVec 1 := 0
  accw : BitVec 1 := 0
  dxen : BitVec 1 := 0
  dwen : BitVec 1 := 0
  wsc : BitVec 1 := 0
  xsc : BitVec 1 := 0
  gdBase : BitVec 17 := 0
  qxBase : BitVec 17 := 0
  qwBase : BitVec 17 := 0
  gfmt : BitVec 4 := 0
  wfmt : BitVec 4 := 0
  xfmt : BitVec 4 := 0
  deriving DecidableEq, Repr

/-- LUT_CFG (03 R92). -/
structure LutWord where
  delay : BitVec 10 := 0
  unit : BitVec 4 := 0
  cbBase : BitVec 17 := 0
  deriving DecidableEq, Repr

/-- ARR_CFG (03 R79). -/
structure ArrCfgWord where
  delay : BitVec 10 := 0
  unit : BitVec 4 := 0
  fmtA : BitVec 4 := 0
  fmtB : BitVec 4 := 0
  gsize : BitVec 2 := 0
  spill : BitVec 6 := 0
  bsm : BitVec 2 := 0
  scfA : BitVec 1 := 0
  scfB : BitVec 1 := 0
  sgrp : BitVec 2 := 0
  za : BitVec 8 := 0
  zb : BitVec 8 := 0
  deriving DecidableEq, Repr

/-- QZERO (04 R113). -/
structure QzeroWord where
  delay : BitVec 10 := 0
  unit : BitVec 4 := 0
  qBase : BitVec 17 := 0
  count : BitVec 17 := 0
  deriving DecidableEq, Repr

/-- QSTORE (04 R107). -/
structure QstoreWord where
  delay : BitVec 10 := 0
  unit : BitVec 4 := 0
  req : BitVec 1 := 0
  satfp : BitVec 1 := 0
  qBase : BitVec 17 := 0
  qw : BitVec 2 := 0
  dfmt : BitVec 4 := 0
  mm1 : BitVec 6 := 0
  dBase : BitVec 17 := 0
  nm1 : BitVec 5 := 0
  dpc : BitVec 8 := 0
  tsBase : BitVec 17 := 0
  ch0 : BitVec 12 := 0
  deriving DecidableEq, Repr

/-- QIMG_ST (04 R113). -/
structure QimgStWord where
  delay : BitVec 10 := 0
  unit : BitVec 4 := 0
  qBase : BitVec 17 := 0
  qw : BitVec 2 := 0
  cntm1 : BitVec 13 := 0
  dBase : BitVec 17 := 0
  tsBase : BitVec 17 := 0
  deriving DecidableEq, Repr

/-- QIMG_LD (04 R113). -/
structure QimgLdWord where
  delay : BitVec 10 := 0
  unit : BitVec 4 := 0
  acc : BitVec 1 := 0
  qBase : BitVec 17 := 0
  qw : BitVec 2 := 0
  cntm1 : BitVec 13 := 0
  sBase : BitVec 17 := 0
  deriving DecidableEq, Repr

/-- RED_MAX, RED_MIN and RED_TOPK (04 R115); `lowest` is reserved in RED_MAX and RED_MIN. -/
structure RedWord where
  delay : BitVec 10 := 0
  unit : BitVec 4 := 0
  acc : BitVec 1 := 0
  lowest : BitVec 1 := 0
  rdBase : BitVec 17 := 0
  deriving DecidableEq, Repr

/-- TREE_STEP (04 R120). -/
structure TreeWord where
  delay : BitVec 10 := 0
  unit : BitVec 4 := 0
  chip : BitVec 1 := 0
  down : BitVec 1 := 0
  arrival : BitVec 1 := 0
  mode : BitVec 2 := 0
  lowest : BitVec 1 := 0
  base : BitVec 17 := 0
  qw : BitVec 2 := 0
  level : BitVec 4 := 0
  pfmt : BitVec 4 := 0
  land : BitVec 17 := 0
  ctr : BitVec 5 := 0
  count : BitVec 17 := 0
  km1 : BitVec 6 := 0
  deriving DecidableEq, Repr

/-- The Profile words except TBL_LOAD (05 R130); `flags` are the per-word flags [103:96]. -/
structure ProfWord where
  delay : BitVec 10 := 0
  unit : BitVec 4 := 0
  flags : BitVec 8 := 0
  pdBase : BitVec 17 := 0
  mm1 : BitVec 6 := 0
  fmtS0 : BitVec 4 := 0
  fmtS1 : BitVec 4 := 0
  cols : BitVec 16 := 0
  fmtD : BitVec 4 := 0
  fmtS2 : BitVec 4 := 0
  slot : BitVec 3 := 0
  tsBase : BitVec 17 := 0
  ow : BitVec 15 := 0
  deriving DecidableEq, Repr

/-- TBL_LOAD (05 R137). -/
structure TblWord where
  delay : BitVec 10 := 0
  unit : BitVec 4 := 0
  rom : BitVec 1 := 0
  dump : BitVec 1 := 0
  tBase : BitVec 17 := 0
  slot : BitVec 3 := 0
  romid : BitVec 4 := 0
  dumpBase : BitVec 17 := 0
  deriving DecidableEq, Repr

/-- STREAM_DEF (08 R214): SD_BASE. -/
structure StreamDefWord where
  delay : BitVec 10 := 0
  unit : BitVec 4 := 0
  sdBase : BitVec 17 := 0
  deriving DecidableEq, Repr

/-- STREAM_START and STREAM_STOP (08 R219): UNIT alone. -/
structure StreamWord where
  delay : BitVec 10 := 0
  unit : BitVec 4 := 0
  deriving DecidableEq, Repr

/-- STREAM_REARM (08 R226): RA_BASE. -/
structure RearmWord where
  delay : BitVec 10 := 0
  unit : BitVec 4 := 0
  raBase : BitVec 17 := 0
  deriving DecidableEq, Repr

/-- PUT, GET and QADD (08 R231): RD_BASE. -/
structure RemoteWord where
  delay : BitVec 10 := 0
  unit : BitVec 4 := 0
  rdBase : BitVec 17 := 0
  deriving DecidableEq, Repr

/-- SIGNAL (08 R231). -/
structure SignalWord where
  delay : BitVec 10 := 0
  unit : BitVec 4 := 0
  chip : BitVec 12 := 0
  tgt : BitVec 8 := 0
  ctr : BitVec 5 := 0
  inc : BitVec 16 := 0
  tparam : BitVec 5 := 0
  deriving DecidableEq, Repr

/-- WAIT (08 R231). -/
structure WaitWord where
  delay : BitVec 10 := 0
  unit : BitVec 4 := 0
  ctr : BitVec 5 := 0
  count : BitVec 32 := 0
  deriving DecidableEq, Repr

/-- FENCE, NOP, ENDLOOP and SLICE_END: no operand fields. -/
structure PlainWord where
  delay : BitVec 10 := 0
  unit : BitVec 4 := 0
  deriving DecidableEq, Repr

/-- SWAP with DEF 1 (08 R224). -/
structure SwapDefWord where
  delay : BitVec 10 := 0
  unit : BitVec 4 := 0
  pair : BitVec 3 := 0
  wBase : BitVec 17 := 0
  hsize : BitVec 17 := 0
  deriving DecidableEq, Repr

/-- SWAP with DEF 0 (08 R224). -/
structure SwapWord where
  delay : BitVec 10 := 0
  unit : BitVec 4 := 0
  pair : BitVec 3 := 0
  deriving DecidableEq, Repr

/-- BAR_LOCAL (02 R51): F0[15:0] and F0[21:16]. -/
structure BarWord where
  delay : BitVec 10 := 0
  unit : BitVec 4 := 0
  units : BitVec 16 := 0
  engines : BitVec 6 := 0
  deriving DecidableEq, Repr

/-- CREDIT_SET (08 R222). -/
structure CreditWord where
  delay : BitVec 10 := 0
  unit : BitVec 4 := 0
  edge : BitVec 8 := 0
  filled : BitVec 16 := 0
  deriving DecidableEq, Repr

/-- CAL_TAP with COP 0, OPEN (06 R167). -/
structure TapOpenWord where
  delay : BitVec 10 := 0
  unit : BitVec 4 := 0
  tmw : BitVec 1 := 0
  tmBase : BitVec 17 := 0
  deriving DecidableEq, Repr

/-- CAL_TAP with COP 1, PUSH (06 R167). -/
structure TapPushWord where
  delay : BitVec 10 := 0
  unit : BitVec 4 := 0
  psrc : BitVec 1 := 0
  hbBase : BitVec 17 := 0
  cvBase : BitVec 17 := 0
  cvnm1 : BitVec 12 := 0
  recBase : BitVec 17 := 0
  deriving DecidableEq, Repr

/-- CAL_TAP with COP 2, CLOSE (06 R167). -/
structure TapCloseWord where
  delay : BitVec 10 := 0
  unit : BitVec 4 := 0
  cvBase : BitVec 17 := 0
  cvnm1 : BitVec 12 := 0
  deriving DecidableEq, Repr

/-- SCALE_ADAPT (06 R172). -/
structure AdaptWord where
  delay : BitVec 10 := 0
  unit : BitVec 4 := 0
  cb : BitVec 1 := 0
  scf : BitVec 1 := 0
  hbBase : BitVec 17 := 0
  tfmt : BitVec 4 := 0
  margin : BitVec 4 := 0
  depth : BitVec 4 := 0
  sAddr : BitVec 23 := 0
  z : BitVec 8 := 0
  cbBase : BitVec 17 := 0
  deriving DecidableEq, Repr

/-- QUANT (06 R175). -/
structure QuantWord where
  delay : BitVec 10 := 0
  unit : BitVec 4 := 0
  src : BitVec 1 := 0
  req : BitVec 1 := 0
  meas : BitVec 1 := 0
  scope : BitVec 1 := 0
  scf : BitVec 1 := 0
  cb : BitVec 1 := 0
  qdBase : BitVec 17 := 0
  qw : BitVec 2 := 0
  dfmt : BitVec 4 := 0
  mm1 : BitVec 6 := 0
  deriving DecidableEq, Repr

/-- HADAMARD (06 R183). -/
structure HadamardWord where
  delay : BitVec 10 := 0
  unit : BitVec 4 := 0
  en : BitVec 1 := 0
  blk : BitVec 3 := 0
  srcfmt : BitVec 4 := 0
  deriving DecidableEq, Repr

/-- SMOOTH (06 R183). -/
structure SmoothWord where
  delay : BitVec 10 := 0
  unit : BitVec 4 := 0
  en : BitVec 1 := 0
  svBase : BitVec 17 := 0
  srcfmt : BitVec 4 := 0
  deriving DecidableEq, Repr

/-- REQ_LOAD (06 R163). -/
structure ReqLoadWord where
  delay : BitVec 10 := 0
  unit : BitVec 4 := 0
  rtBase : BitVec 17 := 0
  first : BitVec 12 := 0
  count : BitVec 13 := 0
  deriving DecidableEq, Repr

/-- LOOP (02 R53): the trip count. -/
structure LoopWord where
  delay : BitVec 10 := 0
  unit : BitVec 4 := 0
  trip : BitVec 24 := 0
  deriving DecidableEq, Repr

/-- MARK (12 R336): the mark value. -/
structure MarkWord where
  delay : BitVec 10 := 0
  unit : BitVec 4 := 0
  value : BitVec 64 := 0
  deriving DecidableEq, Repr

/-- The operation words of the opcode map (02 R51); SWAP and CAL_TAP are split as the opcode table splits them. -/
inductive OpWord where
  | mma (w : MmaWord)
  | mmaT (w : MmaWord)
  | conv (w : ConvWord)
  | gradPair (w : GradWord)
  | lutCfg (w : LutWord)
  | arrCfg (w : ArrCfgWord)
  | qzero (w : QzeroWord)
  | qstore (w : QstoreWord)
  | qimgSt (w : QimgStWord)
  | qimgLd (w : QimgLdWord)
  | redMax (w : RedWord)
  | redMin (w : RedWord)
  | redTopk (w : RedWord)
  | treeStep (w : TreeWord)
  | fn (w : ProfWord)
  | shape (w : ProfWord)
  | gate (w : ProfWord)
  | smaxStep (w : ProfWord)
  | normStats (w : ProfWord)
  | normApply (w : ProfWord)
  | tblLoad (w : TblWord)
  | deriv (w : ProfWord)
  | elem (w : ProfWord)
  | sel (w : ProfWord)
  | streamDef (w : StreamDefWord)
  | streamStart (w : StreamWord)
  | streamRearm (w : RearmWord)
  | streamStop (w : StreamWord)
  | put (w : RemoteWord)
  | get (w : RemoteWord)
  | qadd (w : RemoteWord)
  | signal (w : SignalWord)
  | wait (w : WaitWord)
  | fence (w : PlainWord)
  | swapDef (w : SwapDefWord)
  | swap (w : SwapWord)
  | barLocal (w : BarWord)
  | creditSet (w : CreditWord)
  | calTapOpen (w : TapOpenWord)
  | calTapPush (w : TapPushWord)
  | calTapClose (w : TapCloseWord)
  | scaleAdapt (w : AdaptWord)
  | quant (w : QuantWord)
  | hadamard (w : HadamardWord)
  | smooth (w : SmoothWord)
  | reqLoad (w : ReqLoadWord)
  | nop (w : PlainWord)
  | loop (w : LoopWord)
  | endLoop (w : PlainWord)
  | mark (w : MarkWord)
  | sliceEnd (w : PlainWord)
  deriving DecidableEq, Repr

end Sys2Proof
end

