-- ==== Sys2Proof/Syntax.lean ====
section
/-! DEFINITION. The commands of the block: one constructor per row of the opcode table. The first 51 are operation words,
given to a physical core `c` by its sequencer; the others are events and requests that reach the part from outside or from
one of its engines. -/

namespace Sys2Proof

/-- The commands, in the order of the opcode table. -/
inductive Instr where
  -- array words; `residue` is a cell whose residue check mismatches while the word runs (03 R71): 0 to 127 of Array A, 128 to 255 of Array B
  | mma (c : Fin 144) (w : MmaWord) (residue : Option (Fin 256))
  | mmaT (c : Fin 144) (w : MmaWord) (residue : Option (Fin 256))
  | conv (c : Fin 144) (w : ConvWord) (residue : Option (Fin 256))
  | gradPair (c : Fin 144) (w : GradWord) (residue : Option (Fin 256))
  | lutCfg (c : Fin 144) (w : LutWord)
  | arrCfg (c : Fin 144) (w : ArrCfgWord)
  -- quire words
  | qzero (c : Fin 144) (w : QzeroWord)
  | qstore (c : Fin 144) (w : QstoreWord)
  | qimgSt (c : Fin 144) (w : QimgStWord)
  | qimgLd (c : Fin 144) (w : QimgLdWord)
  | redMax (c : Fin 144) (w : RedWord)
  | redMin (c : Fin 144) (w : RedWord)
  | redTopk (c : Fin 144) (w : RedWord)
  | treeStep (c : Fin 144) (w : TreeWord)
  -- Profile words
  | fn (c : Fin 144) (w : ProfWord)
  | shape (c : Fin 144) (w : ProfWord)
  | gate (c : Fin 144) (w : ProfWord)
  | smaxStep (c : Fin 144) (w : ProfWord)
  | normStats (c : Fin 144) (w : ProfWord)
  | normApply (c : Fin 144) (w : ProfWord)
  | tblLoad (c : Fin 144) (w : TblWord)
  | deriv (c : Fin 144) (w : ProfWord)
  | elem (c : Fin 144) (w : ProfWord)
  | sel (c : Fin 144) (w : ProfWord)
  -- stream words; `inFlight` counts the requests issued and not yet retired when STREAM_STOP runs (08 R219)
  | streamDef (c : Fin 144) (w : StreamDefWord)
  | streamStart (c : Fin 144) (w : StreamWord)
  | streamRearm (c : Fin 144) (w : RearmWord)
  | streamStop (c : Fin 144) (w : StreamWord) (inFlight : Nat)
  -- remote words
  | put (c : Fin 144) (w : RemoteWord)
  | get (c : Fin 144) (w : RemoteWord)
  | qadd (c : Fin 144) (w : RemoteWord)
  | signal (c : Fin 144) (w : SignalWord)
  | wait (c : Fin 144) (w : WaitWord)
  | fence (c : Fin 144) (w : PlainWord)
  -- barrier words
  | swapDef (c : Fin 144) (w : SwapDefWord)
  | swap (c : Fin 144) (w : SwapWord)
  | barLocal (c : Fin 144) (w : BarWord)
  | creditSet (c : Fin 144) (w : CreditWord)
  -- Caliper words
  | calTapOpen (c : Fin 144) (w : TapOpenWord)
  | calTapPush (c : Fin 144) (w : TapPushWord)
  | calTapClose (c : Fin 144) (w : TapCloseWord)
  | scaleAdapt (c : Fin 144) (w : AdaptWord)
  | quant (c : Fin 144) (w : QuantWord)
  | hadamard (c : Fin 144) (w : HadamardWord)
  | smooth (c : Fin 144) (w : SmoothWord)
  | reqLoad (c : Fin 144) (w : ReqLoadWord)
  -- control words
  | nop (c : Fin 144) (w : PlainWord)
  | loop (c : Fin 144) (w : LoopWord)
  | endLoop (c : Fin 144) (w : PlainWord)
  | mark (c : Fin 144) (w : MarkWord)
  | sliceEnd (c : Fin 144) (w : PlainWord)
  -- core events; `p` is an index into the placements of the turn in force
  | sliceStart (p : Fin 4096)
  | arrayOpDone (c : Fin 144) (arr : Fin 2)
  | remoteLanding (srcs : List (Fin 144))
  | waitComplete (c : Fin 144) (cycle : Nat)
  | streamRetire (c : Fin 144) (engine : Fin 16) (cycle : Nat)
  | deadlockBreak (p : Fin 4096)
  | progEcc (c : Fin 144)
  | cmemCe (c : Fin 144) (addr : BitVec 23)
  | cmemEcc (c : Fin 144) (addr : BitVec 23)
  | chuckCe (c : Fin 144) (unit : BitVec 17)
  | chuckEcc (c : Fin 144) (unit : BitVec 17)
  | profEcc (c : Fin 144) (corrected : Bool)
  -- HBM events
  | hbmCe (stack : Fin 8) (pch : Fin 32) (sector : Nat)
  | hbmUe (stack : Fin 8) (lch : Fin 31) (sector : Nat) (p : Fin 4096)
  | patrolScrub (stack : Fin 8) (lch : Fin 31) (corrected : List Nat) (uncorrectable : List Nat)
  | hbmSpare (stack : Fin 8) (lch : Fin 31) (readable : Bool)
  | channelCopyDone (stack : Fin 8)
  | stackLost (stack : Fin 8)
  | journalMoveDone
  -- Headstock, management processors, flash
  | coreFailed (c : Fin 144)
  | hstFailover (afterStep4 : Bool)
  | mpTakeover
  | nvDegraded (flash : Fin 2)
  -- turns
  | turnHead (h : HeadIn)
  | turnTail (t : TailIn)
  | sealSigned
  | voltageRaise
  | thermalModelUpdate (t : ThermalIn)
  | tsensor (sensor : Fin 600)
  | inputStaged (ring : Fin 65536) (seq : BitVec 64)
  | copyBackDone (ring : Fin 65536) (seq : BitVec 64)
  | hostDma (ring : Fin 65536) (seq : BitVec 64) (write : Bool) (how : BadCompletion) (addr : BitVec 64)
  -- brake and thermal events
  | brakeTrip
  | brakeHot (sensor : Fin 600)
  | brakeRelease
  | thermtrip
  | thetaStep (riseMk : Nat) (stepW : Nat)
  -- power
  | powerUp (b : BringUpIn)
  | deviceReady
  | vinLoss
  | vinLow
  | vinHigh
  | vinHighEnd
  | vinOvp
  | phaseFault (tile : Fin 4) (rail : Fin 9)
  | holdupMeasure (dropMv stepMv : Nat) (volt : BitVec 16)
  | sysclkLost
  | refclkLnkLoss (east : Bool)
  | refclkPcieLoss
  | ppsInPulse
  | perstAssert
  | perstDeassert (b : BringUpIn)
  -- control inputs
  | pinTransition (pin : PinId) (asserted : Bool) (tick : Nat)
  | pinUnstable (pin : PinId) (held : Bool) (tick : Nat)
  | pinUnstableClear (pin : PinId)
  | pinStuck (pin : PinId) (tick : Nat)
  | turnSyncPulse (sinceLast : Nat) (err : Int)
  | syncLost
  | resync (err : Nat)
  | backupMasterTakeover
  -- host resets and power states
  | pcieHotReset
  | pcieLinkDown
  | pfFlr
  | vfFlr (v : Fin 64)
  | d3hotEntry (f : Fin 64)
  | d0Return (f : Fin 64)
  | linkNarrow (width : BitVec 5) (gen : BitVec 4)
  | errResetWarm (rid : BitVec 16)
  | errResetCold (rid : BitVec 16) (b : BringUpIn)
  -- register accesses: requester, target function, byte offset in the function's BAR0, value
  | regWrite (rid : BitVec 16) (f : Fin 64) (off : BitVec 25) (v : BitVec 32) (whole : Bool)
  | guardedWriteStage (rid : BitVec 16) (f : Fin 64) (off : BitVec 25) (v : BitVec 32)
  | guardedWriteCommit (rid : BitVec 16) (f : Fin 64) (off : BitVec 25) (v : BitVec 32)
  | guardExpire (rid : BitVec 16) (f : Fin 64) (off : BitVec 25) (v : BitVec 32)
  | setAliasWrite (rid : BitVec 16) (f : Fin 64) (off : BitVec 25) (v : BitVec 32)
  | clearAliasWrite (rid : BitVec 16) (f : Fin 64) (off : BitVec 25) (v : BitVec 32)
  | toggleAliasWrite (rid : BitVec 16) (f : Fin 64) (off : BitVec 25) (v : BitVec 32)
  | w1cWrite (rid : BitVec 16) (f : Fin 64) (off : BitVec 25) (v : BitVec 32)
  | loReadLatch (rid : BitVec 16) (f : Fin 64) (off : BitVec 25)
  | hifEnableSet (rid : BitVec 16) (f : Fin 64)
  | hifEnableClear (rid : BitVec 16) (f : Fin 64)
  | dbmodeWrite (rid : BitVec 16) (v : BitVec 32)
  | sealNow (rid : BitVec 16)
  | measure (rid : BitVec 16) (dropMv stepMv : Nat) (volt : BitVec 16)
  | windowNow (rid : BitVec 16)
  | cntFreeze (rid : BitVec 16) (c : Fin 144) (on : Bool)
  -- descriptors that the ring engine fetches from a ring
  | run (ring : Fin 65536) (d : RunDesc)
  | ringEnable (ring : Fin 65536) (d : AdminDesc)
  | ringDisable (ring : Fin 65536) (d : AdminDesc)
  | ringResume (ring : Fin 65536) (d : AdminDesc)
  | planLoad (ring : Fin 65536) (d : AdminDesc)
  | planUnload (ring : Fin 65536) (d : AdminDesc)
  | wsetLoad (ring : Fin 65536) (d : AdminDesc)
  | epochStage (ring : Fin 65536) (d : AdminDesc)
  | partitionReset (ring : Fin 65536) (d : AdminDesc)
  | slotWrite (ring : Fin 65536) (d : AdminDesc)
  | slotActivate (ring : Fin 65536) (d : AdminDesc)
  | activateTakeover
  | activateFinal
  | fwRejected
  | sessionChallenge (ring : Fin 65536) (d : AdminDesc)
  | sessionOpen (ring : Fin 65536) (d : AdminDesc)
  | sessionClose (ring : Fin 65536) (d : AdminDesc)
  | challengeExpire (group : Fin 4096)
  | lockoutExpire (kslot : Fin 256)
  | keyProvision (ring : Fin 65536) (d : AdminDesc)
  | keyList (ring : Fin 65536) (d : AdminDesc)
  | sealRequest (ring : Fin 65536) (d : AdminDesc)
  | takeOwnership (ring : Fin 65536) (d : AdminDesc)
  -- sideband
  | sbChallenge (kslot : BitVec 8)
  | sbOpen (kslot role : BitVec 8) (mac : List Byte)
  | sbRead (handle : BitVec 8) (off : BitVec 32) (count : BitVec 8)
  | sbWrite (handle : BitVec 8) (off value : BitVec 32)
  | sbClose (handle : BitVec 8)
  | sbIdleTimeout (handle : BitVec 8)
  -- SPDM
  | getVersion (port : SpdmPort)
  | getCapabilities (port : SpdmPort)
  | negotiateAlgorithms (port : SpdmPort)
  | getDigests (port : SpdmPort)
  | getCertificate (port : SpdmPort) (slot : BitVec 4) (offset length : BitVec 16)
  | challenge (port : SpdmPort) (slot : BitVec 4) (nonce : List Byte)
  | getMeasurements (port : SpdmPort) (index : BitVec 8) (sign : Bool) (nonce : List Byte)
  -- flits that port `p` receives
  | data (p : Fin 24) (f : Flit)
  | release (p : Fin 24) (f : Flit)
  | e2eAck (p : Fin 24) (f : Flit)
  | linkAck (p : Fin 24) (f : Flit)
  | sync (p : Fin 24) (f : Flit) (err : Int)
  | peer (p : Fin 24) (f : Flit)
  | notice (p : Fin 24) (f : Flit)
  | idle (p : Fin 24) (f : Flit)
  -- link timers and repairs
  | e2eTimeout (dst : BitVec 12)
  | portDownNotice (p : Fin 24)
  | laneSpared (lane : Fin 104)
  | routeLost (dst : BitVec 12)
  | linkOrphan (src : BitVec 12) (index : Nat)
  | linkTrainRetry (lane : Fin 104) (result : TrainResult)
  -- maintenance
  | maintWindowOpen
  | replan (r : ReplanIn)
  | retireWaitExpire
  | ppsInLoss
  | nvStoreDone
  | stagingCopyFilled (ring : Fin 65536) (seq : BitVec 64)
  | wordResultsDelivered (c : Fin 144) (unit : Fin 3)
  | configurationRequest (q : CfgPacket)
  | pcieLinkUp (width : BitVec 5) (gen : BitVec 4)
  | regRead (rid : BitVec 16) (f : Fin 64) (off : BitVec 25) (size : BitVec 4)
  | mctpControlMessage (m : MctpControl)
  | alertResponseAddress
  | msixUnmask (f : Fin 64) (x : MsixPacket)
  | pllLossOfLock (pll : Pll)
  deriving DecidableEq, Repr

end Sys2Proof
end

