-- ==== Sys2Proof/Decode.lean ====
section
/-! DEFINITION. The command that a word of the opcode table's bits spells: the table gives no row any bits, so no word spells a
command. (Operation words, which the part reads as 128-bit words from slice images, are decoded in `Machine/OpCodec`.) -/

namespace Sys2Proof

/-- The command of a table word. No row of the table gives bits. -/
def decodeTableWord (_nbits _w : Nat) : Option Instr := none

end Sys2Proof
end

