-- ==== Sys2Proof/Machine/Map.lean ====
section
/-! DEFINITION. The one sparse store of the model: a list of key and value pairs in canonical form, keys strictly
rising and no entry equal to what an unlisted key reads as. Memories, register files and tables are all held so;
equal contents are equal lists. -/

namespace Sys2Proof.Machine

/-- A sparse table over natural-number keys. -/
abbrev SMap (α : Type) := List (Nat × α)

/-- What the table holds at key `k`; an unlisted key reads as `d`. -/
def SMap.get {α : Type} (d : α) : SMap α → Nat → α
  | [], _ => d
  | (j, v) :: rest, k => if k = j then v else SMap.get d rest k

/-- Lists `v` at key `k`, before the first greater key. -/
def SMap.put {α : Type} : SMap α → Nat → α → SMap α
  | [], k, v => [(k, v)]
  | (j, u) :: rest, k, v => if k < j then (k, v) :: (j, u) :: rest else (j, u) :: SMap.put rest k v

/-- The table without key `k`. -/
def SMap.without {α : Type} (k : Nat) : SMap α → SMap α
  | [] => []
  | (j, u) :: rest => if k = j then SMap.without k rest else (j, u) :: SMap.without k rest

/-- Writes `v` at key `k`, keeping the canonical form: writing the value that an unlisted key reads as removes the
entry. -/
def SMap.set {α : Type} [DecidableEq α] (d : α) (m : SMap α) (k : Nat) (v : α) : SMap α :=
  if v = d then SMap.without k m else SMap.put (SMap.without k m) k v

/-- Every key is at or above `lo`, keys rise strictly, and no entry equals `d`. -/
def SMap.wfFrom {α : Type} [DecidableEq α] (d : α) : Nat → SMap α → Bool
  | _, [] => true
  | lo, (j, v) :: rest => decide (lo ≤ j) && decide (v ≠ d) && SMap.wfFrom d (j + 1) rest

/-- The canonical form. -/
def SMap.wf {α : Type} [DecidableEq α] (d : α) (m : SMap α) : Bool := SMap.wfFrom d 0 m

/-- Updates the value at key `k` by `f`. -/
def SMap.upd {α : Type} [DecidableEq α] (d : α) (m : SMap α) (k : Nat) (f : α → α) : SMap α :=
  SMap.set d m k (f (SMap.get d m k))

/-- Drops every entry whose key the test rejects (they read as the default again). -/
def SMap.keep {α : Type} (p : Nat → Bool) (m : SMap α) : SMap α := m.filter (fun e => p e.1)

/-- Writes a list of values at consecutive keys from `k`. -/
def SMap.setList {α : Type} [DecidableEq α] (d : α) : SMap α → Nat → List α → SMap α
  | m, _, [] => m
  | m, k, v :: vs => SMap.setList d (SMap.set d m k v) (k + 1) vs

/-- Reads `n` consecutive keys from `k`. -/
def SMap.getList {α : Type} (d : α) (m : SMap α) (k : Nat) : Nat → List α
  | 0 => []
  | n + 1 => SMap.get d m k :: SMap.getList d m (k + 1) n

end Sys2Proof.Machine
end

