-- ==== Sys2Proof/Machine/Bytes.lean ====
section
/-! DEFINITION. Byte order (00 R12: every multi-byte field is little-endian) and byte memories over `SMap`. -/

namespace Sys2Proof.Machine

/-- The number a list of bytes spells, least significant byte first. -/
def bytesToNat : List Byte → Nat
  | [] => 0
  | b :: bs => b.toNat + 256 * bytesToNat bs

/-- The `n` low bytes of a number, least significant first. -/
def natToBytes : Nat → Nat → List Byte
  | 0, _ => []
  | n + 1, x => BitVec.ofNat 8 x :: natToBytes n (x / 256)

/-- The number a list of bytes spells, most significant byte first (SHA-512 and RSA use this order). -/
def bytesToNatBE (bs : List Byte) : Nat := bs.foldl (fun acc b => acc * 256 + b.toNat) 0

/-- The `n` low bytes of a number, most significant first. -/
def natToBytesBE (n x : Nat) : List Byte := (natToBytes n x).reverse

/-- A byte memory in which an unlisted address reads as zero. -/
abbrev Mem := SMap Byte

/-- Reads one byte. -/
def Mem.readByte (m : Mem) (a : Nat) : Byte := SMap.get 0 m a

/-- Writes one byte. -/
def Mem.writeByte (m : Mem) (a : Nat) (b : Byte) : Mem := SMap.set 0 m a b

/-- Reads `n` bytes from address `a`. -/
def Mem.readBytes (m : Mem) (a n : Nat) : List Byte := SMap.getList 0 m a n

/-- Writes consecutive bytes from address `a`. -/
def Mem.writeBytes (m : Mem) (a : Nat) (bs : List Byte) : Mem := SMap.setList 0 m a bs

/-- Reads an `n`-byte little-endian number. -/
def Mem.readNat (m : Mem) (a n : Nat) : Nat := bytesToNat (Mem.readBytes m a n)

/-- Writes an `n`-byte little-endian number. -/
def Mem.writeNat (m : Mem) (a n x : Nat) : Mem := Mem.writeBytes m a (natToBytes n x)

/-- The canonical form of a byte memory. -/
def Mem.wf (m : Mem) : Bool := SMap.wf 0 m

/-- The `n` bytes of a byte list from offset `o`, short where the list ends. -/
def sliceBytes (bs : List Byte) (o n : Nat) : List Byte := (bs.drop o).take n

/-- An `n`-byte little-endian field of a structure at offset `o`. -/
def fieldAt (bs : List Byte) (o n : Nat) : Nat := bytesToNat (sliceBytes bs o n)

end Sys2Proof.Machine
end

