-- ==== Sys2Proof/Machine/Digest.lean ====
section
/-! DEFINITION. The digests and ciphers the part uses: CRC-32 of IEEE 802.3 (14 R379; 15 R413), SHA-512 (FIPS 180-4), HMAC-SHA-512,
AES-256 key unwrap (RFC 3394) and RSA verification of a PSS signature (16 R440, R445, R447, R449). -/

namespace Sys2Proof.Machine

/-! ### CRC-32 -/

def crcBit (c : Nat) : Nat := if c % 2 = 1 then (c / 2) ^^^ 0xEDB88320 else c / 2

def crcByte (c : Nat) (b : Byte) : Nat :=
  let x := c ^^^ b.toNat
  crcBit (crcBit (crcBit (crcBit (crcBit (crcBit (crcBit (crcBit x)))))))

/-- CRC-32 with the IEEE 802.3 polynomial. -/
def crc32 (bs : List Byte) : Nat := bs.foldl crcByte 0xFFFFFFFF ^^^ 0xFFFFFFFF

/-! ### SHA-512 -/

abbrev W64 := BitVec 64

def shaKLow : List W64 :=
  [0x428A2F98D728AE22, 0x7137449123EF65CD, 0xB5C0FBCFEC4D3B2F, 0xE9B5DBA58189DBBC,
   0x3956C25BF348B538, 0x59F111F1B605D019, 0x923F82A4AF194F9B, 0xAB1C5ED5DA6D8118,
   0xD807AA98A3030242, 0x12835B0145706FBE, 0x243185BE4EE4B28C, 0x550C7DC3D5FFB4E2,
   0x72BE5D74F27B896F, 0x80DEB1FE3B1696B1, 0x9BDC06A725C71235, 0xC19BF174CF692694,
   0xE49B69C19EF14AD2, 0xEFBE4786384F25E3, 0x0FC19DC68B8CD5B5, 0x240CA1CC77AC9C65,
   0x2DE92C6F592B0275, 0x4A7484AA6EA6E483, 0x5CB0A9DCBD41FBD4, 0x76F988DA831153B5,
   0x983E5152EE66DFAB, 0xA831C66D2DB43210, 0xB00327C898FB213F, 0xBF597FC7BEEF0EE4,
   0xC6E00BF33DA88FC2, 0xD5A79147930AA725, 0x06CA6351E003826F, 0x142929670A0E6E70,
   0x27B70A8546D22FFC, 0x2E1B21385C26C926, 0x4D2C6DFC5AC42AED, 0x53380D139D95B3DF,
   0x650A73548BAF63DE, 0x766A0ABB3C77B2A8, 0x81C2C92E47EDAEE6, 0x92722C851482353B]

def shaKHigh : List W64 :=
  [0xA2BFE8A14CF10364, 0xA81A664BBC423001, 0xC24B8B70D0F89791, 0xC76C51A30654BE30,
   0xD192E819D6EF5218, 0xD69906245565A910, 0xF40E35855771202A, 0x106AA07032BBD1B8,
   0x19A4C116B8D2D0C8, 0x1E376C085141AB53, 0x2748774CDF8EEB99, 0x34B0BCB5E19B48A8,
   0x391C0CB3C5C95A63, 0x4ED8AA4AE3418ACB, 0x5B9CCA4F7763E373, 0x682E6FF3D6B2B8A3,
   0x748F82EE5DEFB2FC, 0x78A5636F43172F60, 0x84C87814A1F0AB72, 0x8CC702081A6439EC,
   0x90BEFFFA23631E28, 0xA4506CEBDE82BDE9, 0xBEF9A3F7B2C67915, 0xC67178F2E372532B,
   0xCA273ECEEA26619C, 0xD186B8C721C0C207, 0xEADA7DD6CDE0EB1E, 0xF57D4F7FEE6ED178,
   0x06F067AA72176FBA, 0x0A637DC5A2C898A6, 0x113F9804BEF90DAE, 0x1B710B35131C471B,
   0x28DB77F523047D84, 0x32CAAB7B40C72493, 0x3C9EBE0A15C9BEBC, 0x431D67C49C100D4C,
   0x4CC5D4BECB3E42B6, 0x597F299CFC657E2A, 0x5FCB6FAB3AD6FAEC, 0x6C44198C4A475817]

def shaK : List W64 := shaKLow ++ shaKHigh

/-- The eight working words. -/
structure Sha where
  a : W64
  b : W64
  c : W64
  d : W64
  e : W64
  f : W64
  g : W64
  h : W64
  deriving DecidableEq, Repr

def shaInit : Sha :=
  ⟨0x6A09E667F3BCC908, 0xBB67AE8584CAA73B, 0x3C6EF372FE94F82B, 0xA54FF53A5F1D36F1,
   0x510E527FADE682D1, 0x9B05688C2B3E6C1F, 0x1F83D9ABFB41BD6B, 0x5BE0CD19137E2179⟩

def Sha.round (s : Sha) (k w : W64) : Sha :=
  let s1 := s.e.rotateRight 14 ^^^ s.e.rotateRight 18 ^^^ s.e.rotateRight 41
  let ch := (s.e &&& s.f) ^^^ ((~~~ s.e) &&& s.g)
  let t1 := s.h + s1 + ch + k + w
  let s0 := s.a.rotateRight 28 ^^^ s.a.rotateRight 34 ^^^ s.a.rotateRight 39
  let maj := (s.a &&& s.b) ^^^ (s.a &&& s.c) ^^^ (s.b &&& s.c)
  ⟨t1 + s0 + maj, s.a, s.b, s.c, s.d + t1, s.e, s.f, s.g⟩

/-- The rounds over the message words; `ws` is the window of 16 words still to use. -/
def shaRounds : List W64 → List W64 → Sha → Sha
  | [], _, s => s
  | k :: ks, ws, s =>
    match ws with
    | w :: rest =>
      let x1 := ws.getD 1 0
      let x14 := ws.getD 14 0
      let s0 := x1.rotateRight 1 ^^^ x1.rotateRight 8 ^^^ (x1 >>> 7)
      let s1 := x14.rotateRight 19 ^^^ x14.rotateRight 61 ^^^ (x14 >>> 6)
      shaRounds ks (rest ++ [w + s0 + ws.getD 9 0 + s1]) (s.round k w)
    | [] => s

def Sha.plus (x y : Sha) : Sha := ⟨x.a + y.a, x.b + y.b, x.c + y.c, x.d + y.d, x.e + y.e, x.f + y.f, x.g + y.g, x.h + y.h⟩

def wordsOf : Nat → List Byte → List W64
  | 0, _ => []
  | n + 1, bs => BitVec.ofNat 64 (bytesToNatBE (bs.take 8)) :: wordsOf n (bs.drop 8)

def shaBlocks : Nat → List Byte → Sha → Sha
  | 0, _, s => s
  | n + 1, bs, s => shaBlocks n (bs.drop 128) (s.plus (shaRounds shaK (wordsOf 16 bs) s))

/-- SHA-512. -/
def sha512 (m : List Byte) : List Byte :=
  let padLen := (239 - m.length % 128) % 128
  let full := m ++ [0x80] ++ List.replicate padLen 0 ++ natToBytesBE 16 (8 * m.length)
  let s := shaBlocks (full.length / 128) full shaInit
  [s.a, s.b, s.c, s.d, s.e, s.f, s.g, s.h].flatMap (fun w => natToBytesBE 8 w.toNat)

/-- HMAC-SHA-512. -/
def hmacSha512 (key m : List Byte) : List Byte :=
  let k0 := if key.length ≤ 128 then key else sha512 key
  let k := k0 ++ List.replicate (128 - k0.length) 0
  sha512 (k.map (fun b => b ^^^ 0x5C) ++ sha512 (k.map (fun b => b ^^^ 0x36) ++ m))

/-! ### AES-256 -/

/-- Multiplication by x in the AES field. -/
def gfX (a : Nat) : Nat := if a < 128 then 2 * a else (2 * a) ^^^ 0x11B

def gfMulGo : Nat → Nat → Nat → Nat
  | 0, _, _ => 0
  | n + 1, a, b => (if b % 2 = 1 then a else 0) ^^^ gfMulGo n (gfX a) (b / 2)

def gfMul (a b : Nat) : Nat := gfMulGo 8 a b

def gfSquares : Nat → Nat → Nat
  | 0, _ => 1
  | n + 1, a => let s := gfMul a a; gfMul s (gfSquares n s)

/-- The inverse in the field: the 254th power (0 to itself). -/
def gfInv (a : Nat) : Nat := gfSquares 7 a

def rotl8 (x n : Nat) : Nat := (x * 2 ^ n) % 256 + x / 2 ^ (8 - n)

def sbox (x : Nat) : Nat :=
  let i := gfInv x
  i ^^^ rotl8 i 1 ^^^ rotl8 i 2 ^^^ rotl8 i 3 ^^^ rotl8 i 4 ^^^ 0x63

def invSbox (y : Nat) : Nat := gfInv (rotl8 y 1 ^^^ rotl8 y 3 ^^^ rotl8 y 6 ^^^ 0x05)

/-- The words of the expanded key, each as four bytes. -/
def aesExpand (key : List Nat) : Nat → List (List Nat)
  | 0 => []
  | i + 1 =>
    let ws := aesExpand key i
    if i < 8 then ws ++ [[key.getD (4 * i) 0, key.getD (4 * i + 1) 0, key.getD (4 * i + 2) 0, key.getD (4 * i + 3) 0]]
    else
      let t := ws.getD (i - 1) []
      let t1 :=
        if i % 8 = 0 then [sbox (t.getD 1 0) ^^^ 2 ^ (i / 8 - 1), sbox (t.getD 2 0), sbox (t.getD 3 0), sbox (t.getD 0 0)]
        else if i % 8 = 4 then t.map sbox
        else t
      ws ++ [List.zipWith (fun a b => a ^^^ b) (ws.getD (i - 8) []) t1]

def roundKey (ws : List (List Nat)) (r : Nat) : List Nat :=
  ws.getD (4 * r) [] ++ ws.getD (4 * r + 1) [] ++ ws.getD (4 * r + 2) [] ++ ws.getD (4 * r + 3) []

def xorList (a b : List Nat) : List Nat := List.zipWith (fun x y => x ^^^ y) a b

def invShiftRows (s : List Nat) : List Nat :=
  (List.range 16).map (fun i => s.getD ((i + 16 - 4 * (i % 4)) % 16 / 4 * 4 + i % 4) 0)

def invMixColumn (s : List Nat) (c : Nat) : List Nat :=
  let g (i : Nat) : Nat := s.getD (4 * c + i % 4) 0
  (List.range 4).map (fun i => gfMul 14 (g i) ^^^ gfMul 11 (g (i + 1)) ^^^ gfMul 13 (g (i + 2)) ^^^ gfMul 9 (g (i + 3)))

def invMixColumns (s : List Nat) : List Nat := invMixColumn s 0 ++ invMixColumn s 1 ++ invMixColumn s 2 ++ invMixColumn s 3

def aesInvRounds (ws : List (List Nat)) : Nat → List Nat → List Nat
  | 0, s => xorList ((invShiftRows s).map invSbox) (roundKey ws 0)
  | r + 1, s => aesInvRounds ws r (invMixColumns (xorList ((invShiftRows s).map invSbox) (roundKey ws (r + 1))))

/-- AES-256 decryption of one block under the expanded key. -/
def aesDecrypt (ws : List (List Nat)) (block : List Nat) : List Nat := aesInvRounds ws 13 (xorList block (roundKey ws 14))

/-- One unwrapping step of RFC 3394: counter `t`, block index `i`. -/
def unwrapStep (ws : List (List Nat)) (t i : Nat) (st : List Nat × List (List Nat)) : List Nat × List (List Nat) :=
  let tb := (natToBytesBE 8 t).map BitVec.toNat
  let b := aesDecrypt ws (xorList st.1 tb ++ st.2.getD i [])
  (b.take 8, st.2.set i (b.drop 8))

def unwrapGo (ws : List (List Nat)) (n : Nat) : Nat → List Nat × List (List Nat) → List Nat × List (List Nat)
  | 0, st => st
  | t + 1, st => unwrapGo ws n t (unwrapStep ws (t + 1) (t % n) st)

def shiftRows (s : List Nat) : List Nat := (List.range 16).map (fun i => s.getD ((i / 4 + i % 4) % 4 * 4 + i % 4) 0)

def mixColumn (s : List Nat) (c : Nat) : List Nat :=
  let g (i : Nat) : Nat := s.getD (4 * c + i % 4) 0
  (List.range 4).map (fun i => gfMul 2 (g i) ^^^ gfMul 3 (g (i + 1)) ^^^ g (i + 2) ^^^ g (i + 3))

def mixColumns (s : List Nat) : List Nat := mixColumn s 0 ++ mixColumn s 1 ++ mixColumn s 2 ++ mixColumn s 3

/-- AES-256 encryption of one block under the expanded key. -/
def aesEncrypt (ws : List (List Nat)) (block : List Nat) : List Nat :=
  let body := (List.range 13).foldl (fun s r => xorList (mixColumns (shiftRows (s.map sbox))) (roundKey ws (r + 1)))
    (xorList block (roundKey ws 0))
  xorList (shiftRows (body.map sbox)) (roundKey ws 14)

/-- One wrapping step of RFC 3394. -/
def wrapStep (ws : List (List Nat)) (t i : Nat) (st : List Nat × List (List Nat)) : List Nat × List (List Nat) :=
  let b := aesEncrypt ws (st.1 ++ st.2.getD i [])
  (xorList (b.take 8) ((natToBytesBE 8 t).map BitVec.toNat), st.2.set i (b.drop 8))

def chunks8 : Nat → List Nat → List (List Nat)
  | 0, _ => []
  | n + 1, l => l.take 8 :: chunks8 n (l.drop 8)

/-- AES-256 key wrap. -/
def aesKeyWrap (kek key : List Byte) : List Byte :=
  let ws := aesExpand (kek.map BitVec.toNat) 60
  let n := key.length / 8
  let st := (List.range (6 * n)).foldl (fun st t => wrapStep ws (t + 1) (t % n) st)
    (List.replicate 8 0xA6, chunks8 n (key.map BitVec.toNat))
  (st.1 ++ st.2.flatten).map (BitVec.ofNat 8)

/-- AES-256 key unwrap: none where the integrity check fails. -/
def aesKeyUnwrap (kek wrapped : List Byte) : Option (List Byte) :=
  let ws := aesExpand (kek.map BitVec.toNat) 60
  let n := wrapped.length / 8 - 1
  let c := wrapped.map BitVec.toNat
  let st := unwrapGo ws n (6 * n) (c.take 8, chunks8 n (c.drop 8))
  if st.1 = List.replicate 8 0xA6 then some (st.2.flatten.map (BitVec.ofNat 8)) else none

/-! ### RSA with PSS -/

def powModGo (m : Nat) : Nat → Nat → Nat → Nat → Nat
  | 0, _, _, acc => acc
  | fuel + 1, b, e, acc =>
    if e = 0 then acc else powModGo m fuel (b * b % m) (e / 2) (if e % 2 = 1 then acc * b % m else acc)

def powMod (m b e : Nat) : Nat := if m = 0 then 0 else powModGo m (Nat.log2 e + 1) (b % m) e (1 % m)

/-- MGF1 over SHA-512. -/
def mgf1 (seed : List Byte) (n : Nat) : List Byte :=
  ((List.range (ceilDiv n 64)).flatMap (fun i => sha512 (seed ++ natToBytesBE 4 i))).take n

/-- EMSA-PSS verification with SHA-512 and a 64-byte salt; `bits` is the modulus length less one. -/
def pssCheck (bits : Nat) (em hash : List Byte) : Bool :=
  let n := em.length
  let db0 := em.take (n - 65)
  let h := sliceBytes em (n - 65) 64
  let db := List.zipWith (fun a b => a ^^^ b) db0 (mgf1 h (n - 65))
  let top := 8 * n - bits
  let db' := db.set 0 (BitVec.ofNat 8 ((db.getD 0 0).toNat % 2 ^ (8 - top)))
  let pad := n - 65 - 65
  decide (em.getD (n - 1) 0 = 0xBC) && decide ((db0.getD 0 0).toNat / 2 ^ (8 - top) = 0)
    && decide (db'.take pad = List.replicate pad 0) && decide (db'.getD pad 0 = 0x01)
    && decide (sha512 (List.replicate 8 0 ++ hash ++ db'.drop (pad + 1)) = h)

/-- RSA-PSS verification of a big-endian signature over a message's digest. -/
def rsaPssVerify (modulus : List Byte) (exponent : Nat) (hash sig : List Byte) : Bool :=
  let m := bytesToNatBE modulus
  let s := bytesToNatBE sig
  let bits := Nat.log2 m
  decide (s < m) && pssCheck bits (natToBytesBE (ceilDiv bits 8) (powMod m s exponent)) hash

end Sys2Proof.Machine
end

