-- ==== Sys2Proof/Machine/Codes.lean ====
section
/-! DEFINITION. Error causes (13 R364, R518; 14 R405; 15 R433; 16 R458; 17 R471; 19 R516) with code, severity and unit, and the
status codes of completion records (11 R314; 13 R345, R371; 14 R405; 15 R428 to R430; 16 R458). -/

namespace Sys2Proof.Machine

/-- Error causes. -/
inductive Cause where
  | cmemCe | chuckCe | hbmCe | arrayResidue | cmemEcc | chuckEcc | profEcc | progEcc | hbmUe | codebookNar | convDesc
  | redDesc | profDesc | tblFormat | seamNonmono | smaxOrder | smaxState | reqTable | calHist | quantDesc | gradDesc
  | streamDesc | remoteAddr | ctrOvf | deadlock | cycleMismatch | coresShort | stashShort | persistMismatch | certStall
  | deadlockBreak | tsensor | opRange | turnShort | hstFailover | hbmUeScrub | hbmSpare | stackLost | ringSeq | ringOverrun
  | ringWrite | hifAtomic | vfFlr | replayDiverge | holdupLow | mpTakeover | nvDegraded | coreFailed | partReset
  | ringRecover | inputChanged | regionLost | hostDma | thermtrip | stackSecond | journalLost | mpBoth | hstBoth
  | linkReplay | laneSpared | portNarrow | portDown | syncLost | resync | linkFull | linkOrphan | routeLost | peerReset
  | topoMismatch | linkAddr | slotInvalid | factoryOne | nvCopyRepair | holdupDegraded | selftestRepair | fwRejected
  | microcodeDefer | authFail | authLocked | ownershipTaken | keyChanged | identityFail | offsetRaised | coreRetired
  | dieMargin | laneMargin | hbmMargin | phaseMargin | timHigh | lifeLow | sparesOut | replanLate | phaseSpared | phaseShort
  | vinLow | vinHigh | vinOvp | sysclkLost | pinUnstable | pinStuck
  deriving DecidableEq, Repr

/-- CAUSE, SEV and UNIT of an error record. DIE_MARGIN carries the unit of its die, see `dieUnit`. -/
def Cause.row : Cause → Nat × Nat × Nat
  | .cmemCe => (0x01, 0, 1)
  | .chuckCe => (0x02, 0, 1)
  | .hbmCe => (0x03, 0, 2)
  | .arrayResidue => (0x10, 2, 1)
  | .cmemEcc => (0x11, 2, 1)
  | .chuckEcc => (0x12, 2, 1)
  | .profEcc => (0x13, 2, 1)
  | .progEcc => (0x14, 2, 1)
  | .hbmUe => (0x15, 2, 2)
  | .codebookNar => (0x20, 2, 1)
  | .convDesc => (0x21, 2, 1)
  | .redDesc => (0x22, 2, 1)
  | .profDesc => (0x23, 2, 1)
  | .tblFormat => (0x24, 2, 1)
  | .seamNonmono => (0x25, 2, 1)
  | .smaxOrder => (0x26, 2, 1)
  | .smaxState => (0x27, 2, 1)
  | .reqTable => (0x28, 2, 1)
  | .calHist => (0x29, 2, 1)
  | .quantDesc => (0x2A, 2, 1)
  | .gradDesc => (0x2B, 2, 1)
  | .streamDesc => (0x2C, 2, 1)
  | .remoteAddr => (0x2D, 2, 1)
  | .ctrOvf => (0x2E, 2, 1)
  | .deadlock => (0x2F, 2, 1)
  | .cycleMismatch => (0x40, 1, 1)
  | .coresShort => (0x41, 1, 6)
  | .stashShort => (0x42, 1, 6)
  | .persistMismatch => (0x43, 1, 1)
  | .certStall => (0x44, 1, 1)
  | .deadlockBreak => (0x45, 1, 1)
  | .tsensor => (0x46, 1, 10)
  | .opRange => (0x47, 1, 6)
  | .turnShort => (0x48, 1, 6)
  | .hstFailover => (0x49, 1, 6)
  | .hbmUeScrub => (0x4A, 1, 2)
  | .hbmSpare => (0x4B, 1, 2)
  | .stackLost => (0x4C, 1, 2)
  | .ringSeq => (0x4D, 1, 9)
  | .ringOverrun => (0x4E, 1, 9)
  | .ringWrite => (0x4F, 1, 9)
  | .hifAtomic => (0x50, 1, 8)
  | .vfFlr => (0x51, 1, 8)
  | .replayDiverge => (0x52, 1, 9)
  | .holdupLow => (0x53, 1, 11)
  | .mpTakeover => (0x54, 1, 5)
  | .nvDegraded => (0x55, 1, 7)
  | .coreFailed => (0x56, 1, 1)
  | .partReset => (0x57, 1, 9)
  | .ringRecover => (0x58, 1, 9)
  | .inputChanged => (0x59, 1, 9)
  | .regionLost => (0x5A, 1, 2)
  | .hostDma => (0x5B, 1, 8)
  | .thermtrip => (0x70, 3, 10)
  | .stackSecond => (0x71, 3, 2)
  | .journalLost => (0x72, 3, 2)
  | .mpBoth => (0x73, 3, 5)
  | .hstBoth => (0x74, 3, 6)
  | .linkReplay => (0x80, 0, 3)
  | .laneSpared => (0x81, 1, 3)
  | .portNarrow => (0x82, 1, 3)
  | .portDown => (0x83, 1, 3)
  | .syncLost => (0x84, 1, 3)
  | .resync => (0x85, 1, 3)
  | .linkFull => (0x86, 2, 3)
  | .linkOrphan => (0x87, 1, 3)
  | .routeLost => (0x88, 1, 3)
  | .peerReset => (0x89, 1, 3)
  | .topoMismatch => (0x8A, 1, 3)
  | .linkAddr => (0x8B, 1, 3)
  | .slotInvalid => (0x90, 1, 11)
  | .factoryOne => (0x91, 1, 7)
  | .nvCopyRepair => (0x92, 0, 7)
  | .holdupDegraded => (0x93, 1, 11)
  | .selftestRepair => (0x94, 1, 11)
  | .fwRejected => (0x95, 1, 11)
  | .microcodeDefer => (0x96, 1, 11)
  | .authFail => (0xA0, 1, 5)
  | .authLocked => (0xA1, 1, 5)
  | .ownershipTaken => (0xA2, 1, 5)
  | .keyChanged => (0xA3, 1, 5)
  | .identityFail => (0xA4, 1, 5)
  | .offsetRaised => (0xB0, 1, 1)
  | .coreRetired => (0xB1, 1, 1)
  | .dieMargin => (0xB2, 1, 8)
  | .laneMargin => (0xB3, 1, 3)
  | .hbmMargin => (0xB4, 1, 2)
  | .phaseMargin => (0xB5, 1, 4)
  | .timHigh => (0xB6, 1, 10)
  | .lifeLow => (0xB7, 1, 11)
  | .sparesOut => (0xB8, 1, 11)
  | .replanLate => (0xB9, 1, 5)
  | .phaseSpared => (0xC0, 1, 4)
  | .phaseShort => (0xC1, 1, 4)
  | .vinLow => (0xC2, 1, 4)
  | .vinHigh => (0xC3, 1, 4)
  | .vinOvp => (0xC4, 3, 4)
  | .sysclkLost => (0xC5, 1, 5)
  | .pinUnstable => (0xC6, 1, 5)
  | .pinStuck => (0xC7, 1, 5)

def Cause.code (c : Cause) : Nat := c.row.1
def Cause.sev (c : Cause) : Nat := c.row.2.1
def Cause.unit (c : Cause) : Nat := c.row.2.2

/-- UNIT of DIE_MARGIN by die: H-die, L-die East, L-die West, M-die (17 R471). -/
def dieUnit (d : Nat) : Nat := if d = 0 then 8 else if d = 3 then 5 else 3

/-! ### Status codes -/

def stOk : Nat := 0x00
def stStateLost : Nat := 0x01
def stTargetReset : Nat := 0x02
def stWeightsReloadWait : Nat := 0x03
def stDeadlock : Nat := 0x04
def stRsvdNonzero : Nat := 0x08
def stBadOp : Nat := 0x09
def stArgRange : Nat := 0x0A
def stArgOverlap : Nat := 0x0B
def stHostDma : Nat := 0x0C
def stRingConfig : Nat := 0x0D
def stPlanUnknown : Nat := 0x0E
def stPlanStoreFull : Nat := 0x0F
def stPlanHeader : Nat := 0x10
def stPlanDigest : Nat := 0x11
def stPlanOpword : Nat := 0x12
def stPlanLoop : Nat := 0x13
def stPlanFormat : Nat := 0x14
def stPlanQformat : Nat := 0x15
def stPlanWidth : Nat := 0x16
def stPlanCreditCycle : Nat := 0x17
def stPlanCredit : Nat := 0x18
def stPlanEmptyRow : Nat := 0x19
def stPlanStash : Nat := 0x1A
def stPlanCycles : Nat := 0x1B
def stPlanQundef : Nat := 0x1C
def stPlanTblundef : Nat := 0x1D
def stPlanRequndef : Nat := 0x1E
def stPlanMirror : Nat := 0x1F
def stPlanHostkind : Nat := 0x20
def stPlanChain : Nat := 0x21
def stPlanRegion : Nat := 0x22
def stInputChanged : Nat := 0x40
def stEpochInvalid : Nat := 0x41
def stPlanMismatch : Nat := 0x42
def stRouteLost : Nat := 0x43
def stChipGroup : Nat := 0x44
def stSlotInvalid : Nat := 0x48
def stSlotBusy : Nat := 0x49
def stFwRejected : Nat := 0x4A
def stNoSession : Nat := 0x50
def stRoleDenied : Nat := 0x51
def stAuthFail : Nat := 0x52
def stAuthLocked : Nat := 0x53
def stChallengeStale : Nat := 0x54
def stOwned : Nat := 0x55
def stPresenceRequired : Nat := 0x56
def stKeySlotBad : Nat := 0x57

/-- The status with which a word's own check ends its work (codes 0x30 to 0x3E in the order of R314). -/
def wordStatus (cause : Cause) : Nat := cause.code + 0x10

end Sys2Proof.Machine
end

