-- ==== Sys2Proof/Config.lean ====
section
/-! DEFINITION. The free values of the model: what the spec leaves open or does not give, each a constant with no body, so
that no statement can rest on a value of it. A free value that may differ from use to use is applied to a counter that
the state holds and every use advances. -/

namespace Sys2Proof

/-- Bits the spec leaves undefined (core memory read under a hazard, an undelivered result): core, counter, address. -/
opaque Config.freeByte : Nat → Nat → Nat → Byte

/-- An undefined number (a Chuck entry read under a hazard, a signature, a random challenge): domain, counter, index.
Callers reduce it to the width they need. -/
opaque Config.freeNat : Nat → Nat → Nat → Nat

/-- An undefined truth value: domain, counter, index. -/
opaque Config.freeBool : Nat → Nat → Nat → Bool

/-- The core cycles that a certified slice waits beyond those the model counts: for banks and mesh maintenance slots (08 R209) and for
the fixed deliveries of its HBM requests. They repeat with the slice (12 R322): image digest, fold 2. -/
opaque Config.certifiedWaits : Nat → Bool → Nat

/-- The contents of the built-in Profile ROM tables 0 to 3 and 8 to 11 (05 R137, R143): not given by the spec. -/
opaque Config.romImage : Nat → List Byte

/-- FN under strict conformance where the interval evaluation of `Machine/Elementary.lean` does not settle the rounding:
function code, numerator, denominator; the pattern is reduced to the destination width. -/
opaque Config.strictFn : Nat → Int → Nat → Nat → Nat

/-- The outbound share, in bytes, of a link buffer of the given size (14 R386 names the share and does not size it). -/
opaque Config.outboundShare : Nat → Nat

/-- The calibration constants of the factory region (15 R414): P_HU in mW, taken to fit 16 bits (PRESUMED, log entry 31). -/
opaque Config.holdupMw : BitVec 16

/-- The thermal model (10 R269): heat capacity in mJ per degree and thermal resistance in micro-degrees per watt of a node. -/
opaque Config.heatCap : Nat → Nat
opaque Config.thermalRes : Nat → Nat

/-- One 10 us update of a node: node, its temperature, its measured power, the other temperatures, its sensors, THETA. The
coupling coefficients and the correction gains are not given. -/
opaque Config.thermalStep : Nat → Int → Nat → List Int → List Int → Nat → Int

/-- The projection of a node to the start of the next usable window, and the cold-plate estimate (10 R269): not given. -/
opaque Config.thermalProject : Nat → List Int → Int
opaque Config.coldPlate : List Int → Int

/-- The largest E_next, in uJ, at which the projected current of a tile's share of a rail stays within (N - 1) / N of its rating, for a
share that runs that many phases short (19 R500): tile, rail, phases short. The projection is not given. -/
opaque Config.shareBudget : Nat → Nat → Nat → Nat

/-- The inbound share, in bytes, of a link buffer of the given size (14 R386 names the share and does not size it). -/
opaque Config.inboundShare : Nat → Nat

/-- The factory theta of the CALIBRATION record (17 R461), in thousandths of a degree per kilowatt. -/
opaque Config.factoryTheta : Nat

/-- The row of the Chuck that holds a 32-byte unit (04 R102; 17 R466): the spec gives the Chuck no rows. -/
opaque Config.chuckRow : Nat → Nat

/-- The 64-byte digests of what the part runs that the spec does not give as bytes: 0 DEVID, 1 the boot ROM image, 2 the base
management firmware, 3 to 7 base microcode of UNIT 1 to 5, 8 the factory region, 9 the vendor signing key (12 R333; 15 R416; 16
R453, R455). -/
opaque Config.partDigestBytes : Nat → Vector Byte 64
def Config.partDigest (n : Nat) : List Byte := (Config.partDigestBytes n).toList

/-- The modulus of the vendor firmware-signing key, carried in the factory IDENTITY record (16 R451). -/
opaque Config.vendorModulus : List Byte

/-- The identity certificates of slot 0 (16 R453): their bytes are not given; there is at least one. -/
opaque Config.certFirst : Byte
opaque Config.certRest : List Byte
def Config.certChain : List Byte := Config.certFirst :: Config.certRest

/-- The PUF secret S (16 R452), 32 bytes. -/
opaque Config.pufSecret : List Byte

/-- The base firmware's SVN and the COMPAT of a running unit (15 R414, R431). -/
opaque Config.baseSvn : Nat
opaque Config.compat : Nat → Nat

end Sys2Proof
end

