-- ==== Sys2Proof/Machine/Num.lean ====
section
/-! DEFINITION. Exact rational numbers and the values the sixteen formats spell (01): sums and products are computed
exactly and rounded once by `Machine/Formats.lean`. -/

namespace Sys2Proof.Machine

/-- An exact rational, `num / den`, not reduced; `den` is positive in every value the model builds. -/
structure Q where
  num : Int
  den : Nat
  deriving DecidableEq, Repr

def Q.ofInt (n : Int) : Q := ⟨n, 1⟩

/-- `m · 2^e`. -/
def Q.ofScaled (m : Int) (e : Int) : Q :=
  if 0 ≤ e then ⟨m * (2 ^ e.toNat : Nat), 1⟩ else ⟨m, 2 ^ (-e).toNat⟩

def Q.zero : Q := ⟨0, 1⟩
def Q.one : Q := ⟨1, 1⟩
def Q.neg (a : Q) : Q := ⟨-a.num, a.den⟩
def Q.add (a b : Q) : Q :=
  if a.den = b.den then ⟨a.num + b.num, a.den⟩
  else if a.den % b.den = 0 then ⟨a.num + b.num * (a.den / b.den : Nat), a.den⟩
  else if b.den % a.den = 0 then ⟨a.num * (b.den / a.den : Nat) + b.num, b.den⟩
  else ⟨a.num * b.den + b.num * a.den, a.den * b.den⟩
def Q.sub (a b : Q) : Q := Q.add a (Q.neg b)
def Q.mul (a b : Q) : Q := ⟨a.num * b.num, a.den * b.den⟩
def Q.abs (a : Q) : Q := ⟨a.num.natAbs, a.den⟩
def Q.isZero (a : Q) : Bool := a.num == 0
def Q.isNeg (a : Q) : Bool := decide (a.num < 0)

/-- The quotient; zero where the divisor is zero (no caller divides by zero). -/
def Q.div (a b : Q) : Q :=
  if b.num = 0 then Q.zero
  else if b.num < 0 then ⟨-(a.num * b.den), a.den * b.num.natAbs⟩
  else ⟨a.num * b.den, a.den * b.num.natAbs⟩

def Q.lt (a b : Q) : Bool := decide (a.num * b.den < b.num * a.den)
def Q.le (a b : Q) : Bool := decide (a.num * b.den ≤ b.num * a.den)
def Q.eqv (a b : Q) : Bool := decide (a.num * b.den = b.num * a.den)
def Q.max (a b : Q) : Q := if Q.lt a b then b else a
def Q.min (a b : Q) : Q := if Q.lt b a then b else a

/-- The value times `2^e`. -/
def Q.shift (a : Q) (e : Int) : Q :=
  if 0 ≤ e then ⟨a.num * (2 ^ e.toNat : Nat), a.den⟩ else ⟨a.num, a.den * 2 ^ (-e).toNat⟩

/-- A smaller form of the same value: common powers of two are divided out. -/
def Q.trim (a : Q) : Q :=
  let g := Nat.gcd a.num.natAbs a.den
  if g ≤ 1 then a else ⟨a.num / g, a.den / g⟩

/-- The integer at or below the value. -/
def Q.floor (a : Q) : Int := a.num / a.den

/-- Nearest integer of `n / d`, ties to even. -/
def rneNat (n d : Nat) : Nat :=
  let q := n / d
  let r := n % d
  if 2 * r < d then q else if d < 2 * r then q + 1 else if q % 2 = 0 then q else q + 1

/-- Nearest integer of `n / d`, ties upward in magnitude. -/
def rnaNat (n d : Nat) : Nat := (2 * n + d) / (2 * d)

/-- Nearest integer, ties away from zero (01 R26). -/
def Q.roundAway (a : Q) : Int :=
  let m : Int := rnaNat a.num.natAbs a.den
  if a.num < 0 then -m else m

/-- Nearest integer, ties to even. -/
def Q.roundEven (a : Q) : Int :=
  let m : Int := rneNat a.num.natAbs a.den
  if a.num < 0 then -m else m

/-- `2^e ≤ n / d`. -/
def pow2Le (e : Int) (n d : Nat) : Bool :=
  if 0 ≤ e then decide (d * 2 ^ e.toNat ≤ n) else decide (d ≤ n * 2 ^ (-e).toNat)

/-- The exponent of the binade of a non-zero magnitude `n / d`: the largest `e` with `2^e ≤ n / d`. -/
def ilog2 (n d : Nat) : Int :=
  let k : Int := (Nat.log2 n : Int) - (Nat.log2 d : Int)
  if pow2Le k n d then k else k - 1

/-- Nearest-even integer of `(n / d) / 2^e`. -/
def rneScaled (n d : Nat) (e : Int) : Nat :=
  if 0 ≤ e then rneNat n (d * 2 ^ e.toNat) else rneNat (n * 2 ^ (-e).toNat) d

/-- What a pattern of a format stands for. A NaN keeps its sign, its fraction bits below the quiet bit, their count
and whether it signals (01 R19); `nar` is the posit or quire NaR. -/
inductive Val where
  | nan (neg : Bool) (frac : Nat) (width : Nat) (signalling : Bool)
  | nar
  | inf (neg : Bool)
  | zero (neg : Bool)
  | fin (q : Q)
  deriving DecidableEq, Repr

/-- The exact value as a number; a special value gives none. -/
def Val.real : Val → Option Q
  | .zero _ => some Q.zero
  | .fin q => some q
  | _ => none

def Val.isNaNish : Val → Bool
  | .nan .. => true
  | .nar => true
  | _ => false

/-- A real number as a value; zero takes the positive sign. -/
def Val.ofQ (q : Q) : Val := if q.num = 0 then .zero false else .fin q

/-- The sign of a value; zero, infinity and NaN carry their own. -/
def Val.isNeg : Val → Bool
  | .nan n _ _ _ => n
  | .nar => false
  | .inf n => n
  | .zero n => n
  | .fin q => q.isNeg

/-- The product of two real values is exact; 01 R34 treats NaN, NaR and infinity alike. -/
def Val.mulReal (a b : Val) : Option Q :=
  match a.real, b.real with
  | some x, some y => some (Q.mul x y)
  | _, _ => none

end Sys2Proof.Machine
end

