-- ==== Sys2Proof/Machine/Formats.lean ====
section
/-! DEFINITION. The sixteen formats (01 R14, R52): decoding a pattern to its value, encoding a value by one rounding,
range flags, NaN rules and conversion (01 R15 to R42). -/

namespace Sys2Proof.Machine

/-- The formats, in the order of the format code (02 R52). -/
inductive Fmt where
  | p8 | p16 | p32 | e4m3 | e5m2 | fp16 | bf16 | fp32 | fp64 | int8 | c4 | a8z | q128 | q256 | q512 | q640
  deriving DecidableEq, Repr

/-- The format a 4-bit code names (02 R52). -/
def Fmt.ofCode (c : BitVec 4) : Fmt :=
  match c.toNat with
  | 0 => .p8 | 1 => .p16 | 2 => .p32 | 3 => .e4m3 | 4 => .e5m2 | 5 => .fp16 | 6 => .bf16 | 7 => .fp32
  | 8 => .fp64 | 9 => .int8 | 10 => .c4 | 11 => .a8z | 12 => .q128 | 13 => .q256 | 14 => .q512 | _ => .q640

/-- Width in bits (01 R14). -/
def Fmt.bits : Fmt → Nat
  | .p8 => 8 | .p16 => 16 | .p32 => 32 | .e4m3 => 8 | .e5m2 => 8 | .fp16 => 16 | .bf16 => 16 | .fp32 => 32
  | .fp64 => 64 | .int8 => 8 | .c4 => 4 | .a8z => 8 | .q128 => 128 | .q256 => 256 | .q512 => 512 | .q640 => 640

def Fmt.isPosit : Fmt → Bool
  | .p8 | .p16 | .p32 => true
  | _ => false

def Fmt.isQuire : Fmt → Bool
  | .q128 | .q256 | .q512 | .q640 => true
  | _ => false

/-- The three integer codes INT8, C4 and A8Z. -/
def Fmt.isCode : Fmt → Bool
  | .int8 | .c4 | .a8z => true
  | _ => false

/-- The six binary floating formats. -/
def Fmt.isFloat : Fmt → Bool
  | .e4m3 | .e5m2 | .fp16 | .bf16 | .fp32 | .fp64 => true
  | _ => false

/-- Formats whose results raise the five IEEE flags in strict mode (01 R42). -/
def Fmt.raisesIeee : Fmt → Bool
  | .fp16 | .bf16 | .fp32 | .fp64 | .e5m2 => true
  | _ => false

/-- The fields of a binary floating format (01 R17): exponent width, fraction width, bias, infinities. -/
structure FloatSpec where
  ew : Nat
  mw : Nat
  bias : Int
  hasInf : Bool
  deriving DecidableEq, Repr

def floatSpec : Fmt → FloatSpec
  | .e4m3 => ⟨4, 3, 7, false⟩
  | .e5m2 => ⟨5, 2, 15, true⟩
  | .fp16 => ⟨5, 10, 15, true⟩
  | .bf16 => ⟨8, 7, 127, true⟩
  | .fp32 => ⟨8, 23, 127, true⟩
  | .fp64 => ⟨11, 52, 1023, true⟩
  | _ => ⟨8, 23, 127, true⟩

/-- The tile flags (01 R36) and the strict-mode exception flags (01 R42). -/
structure Flags where
  sat : Bool := false
  ufl : Bool := false
  nanCode : Bool := false
  nv : Bool := false
  dz : Bool := false
  of : Bool := false
  uf : Bool := false
  nx : Bool := false
  deriving DecidableEq, Repr

def Flags.none : Flags := {}

/-- Sticky union. -/
def Flags.or (a b : Flags) : Flags :=
  ⟨a.sat || b.sat, a.ufl || b.ufl, a.nanCode || b.nanCode, a.nv || b.nv, a.dz || b.dz, a.of || b.of,
   a.uf || b.uf, a.nx || b.nx⟩

/-! ### Posits (01 R15, R16) -/

/-- The length of the run of bits equal to `r` from bit `i` down; the fuel is the pattern's width. -/
def regimeRun (p : Nat) (r : Bool) : Nat → Nat → Nat
  | 0, _ => 0
  | fuel + 1, i =>
    if bitAt p i == r then (if i = 0 then 1 else 1 + regimeRun p r fuel (i - 1)) else 0

/-- Decodes an `n`-bit posit pattern. -/
def decodePosit (n p0 : Nat) : Val :=
  let p := p0 % 2 ^ n
  let top := 2 ^ (n - 1)
  if p = 0 then .zero false
  else if p = top then .nar
  else
    let neg := decide (top ≤ p)
    let m := if neg then 2 ^ n - p else p
    let r := bitAt m (n - 2)
    let run := regimeRun m r n (n - 2)
    let k : Int := if r then (run : Int) - 1 else -(run : Int)
    let left := n - 1 - run - 1
    let e := if 2 ≤ left then bitField m (left - 2) 2 else if left = 1 then 2 * bitField m 0 1 else 0
    let fbits := left - 2
    let sig : Nat := 2 ^ fbits + m % 2 ^ fbits
    let v : Int := if neg then -(sig : Int) else sig
    .fin (Q.ofScaled v (4 * k + e - fbits))

/-- The body (the `n - 1` bits after the sign) nearest to a magnitude `a / d` between minpos and maxpos: the unbounded
pattern is rounded at its bit `n - 1`, ties to the even pattern. -/
def positBody (n a d : Nat) : Nat :=
  let scale := ilog2 a d
  let k : Int := scale / 4
  let e : Nat := (scale - 4 * k).toNat
  let pre : Nat := if 0 ≤ k then (2 ^ (k.toNat + 1) - 1) * 2 else 1
  let len : Nat := if 0 ≤ k then k.toNat + 2 else (-k).toNat + 1
  -- pattern value: pre, two exponent bits and the fraction a/(d·2^scale) - 1, scaled to n - 1 bits
  let fr := Q.shift ⟨a, d⟩ (-scale)
  let whole : Q := Q.add (Q.ofInt ((pre * 4 + e : Nat) - 1 : Int)) fr
  let sc := Q.shift whole ((n : Int) - 1 - len - 2)
  rneNat sc.num.natAbs sc.den

/-- Encodes a real value as an `n`-bit posit (01 R16): never zero, never NaR for a non-zero value. -/
def encodePositQ (n : Nat) (q : Q) : Nat × Flags :=
  if q.num = 0 then (0, {})
  else
    let a := q.num.natAbs
    let smax : Int := 4 * ((n : Int) - 2)
    let (body, fl) :=
      if !pow2Le smax a q.den then
        if pow2Le (-smax) a q.den then (positBody n a q.den, ({} : Flags))
        else (1, { ufl := true })
      else if decide (a * 1 = q.den * 2 ^ smax.toNat) then (2 ^ (n - 1) - 1, {})
      else (2 ^ (n - 1) - 1, { sat := true })
    (if q.num < 0 then (2 ^ n - body) % 2 ^ n else body, fl)

/-! ### Binary floats (01 R17 to R20) -/

/-- Decodes a binary float pattern. -/
def decodeFloat (f : FloatSpec) (x : Nat) : Val :=
  let neg := bitAt x (f.ew + f.mw)
  let e := bitField x f.mw f.ew
  let fr := bitField x 0 f.mw
  let emax := 2 ^ f.ew - 1
  let nan : Val := .nan neg (fr % 2 ^ (f.mw - 1)) (f.mw - 1) (f.hasInf && !(bitAt fr (f.mw - 1)))
  if e = emax && f.hasInf then (if fr = 0 then .inf neg else nan)
  else if e = emax && fr = 2 ^ f.mw - 1 then nan
  else if e = 0 && fr = 0 then .zero neg
  else
    let sig : Nat := if e = 0 then fr else 2 ^ f.mw + fr
    let sc : Int := (if e = 0 then 1 - f.bias else (e : Int) - f.bias) - f.mw
    .fin (Q.ofScaled (if neg then -(sig : Int) else sig) sc)

/-- The sign bit of a float format's pattern. -/
def signPattern (f : FloatSpec) (neg : Bool) : Nat := if neg then 2 ^ (f.ew + f.mw) else 0

/-- The pattern of the largest finite magnitude. -/
def maxFinitePattern (f : FloatSpec) : Nat :=
  if f.hasInf then (2 ^ f.ew - 1) * 2 ^ f.mw - 1 else (2 ^ f.ew - 1) * 2 ^ f.mw + (2 ^ f.mw - 2)

def infPattern (f : FloatSpec) : Nat := (2 ^ f.ew - 1) * 2 ^ f.mw

/-- The canonical quiet NaN (01 R19). -/
def canonicalNaN (fmt : Fmt) : Nat :=
  match fmt with
  | .e4m3 => 0x7F | .e5m2 => 0x7E | .fp16 => 0x7E00 | .bf16 => 0x7FC0 | .fp32 => 0x7FC00000
  | .fp64 => 0x7FF8000000000000
  | _ => 0

/-- What happens to a finite value beyond the largest finite magnitude. -/
inductive OverRule where
  | toInf
  | toMax
  deriving DecidableEq, Repr

/-- Conformance and range settings of one conversion: strict arithmetic (R41) and the SATFP bit (R37). -/
structure RoundCtx where
  strict : Bool := false
  satfp : Bool := false
  deriving DecidableEq, Repr

def overRule (c : RoundCtx) : Fmt → OverRule
  | .e4m3 => .toMax
  | .e5m2 => if c.strict then .toInf else .toMax
  | _ => if c.satfp then .toMax else .toInf

/-- Rounds a non-zero real value to a binary float: precision rounding with unbounded exponent, ties to even, then the
range rules of R36 to R38 and the flags of R42. -/
def encodeFloatQ (c : RoundCtx) (fmt : Fmt) (q : Q) : Nat × Flags :=
  let f := floatSpec fmt
  let a := q.num.natAbs
  let d := q.den
  let neg := decide (q.num < 0)
  let sgn := signPattern f neg
  let emin : Int := 1 - f.bias
  let e := ilog2 a d
  -- unbounded-range rounding, for the overflow and tininess tests
  let mU := rneScaled a d (e - f.mw)
  let ieee := c.strict && fmt.raisesIeee
  let exactAt (m : Nat) (s : Int) : Bool := Q.eqv ⟨a, d⟩ (Q.ofScaled m s)
  let maxF : Q := match decodeFloat f (maxFinitePattern f) with
    | .fin x => x
    | _ => Q.zero
  if Q.lt maxF (Q.ofScaled mU (e - f.mw)) then
    let pat := match overRule c fmt with
      | .toInf => infPattern f
      | .toMax => maxFinitePattern f
    (sgn + pat, { sat := true, of := ieee, nx := ieee })
  else
    let tiny := Q.lt (Q.ofScaled mU (e - f.mw)) (Q.ofScaled 1 emin)
    if emin ≤ e then
      let pat := (e - emin).toNat * 2 ^ f.mw + mU
      let inexact := !exactAt mU (e - f.mw)
      (sgn + pat, { nx := ieee && inexact })
    else
      let m := rneScaled a d (emin - f.mw)
      let inexact := !exactAt m (emin - f.mw)
      (sgn + m, { ufl := decide (m = 0), nx := ieee && inexact, uf := ieee && inexact && tiny })

/-- The NaN pattern of a float destination: canonical in fast mode and for NaR; in strict mode the sign is kept, a
signalling NaN is quieted, and the kept upper fraction bits are aligned at the top (R19). -/
def encodeNaN (c : RoundCtx) (fmt : Fmt) (v : Val) : Nat × Flags :=
  match v with
  | .nan neg fr w sig =>
    if !c.strict then (canonicalNaN fmt, {})
    else
      let f := floatSpec fmt
      let sgn := signPattern f neg
      let flags : Flags := { nv := sig && fmt.raisesIeee }
      if fmt = .e4m3 then (sgn + 0x7F, flags)
      else
        let room := f.mw - 1
        let kept := if w ≤ room then fr * 2 ^ (room - w) else fr / 2 ^ (w - room)
        (sgn + infPattern f + 2 ^ room + kept, flags)
  | _ => (canonicalNaN fmt, {})

/-! ### Integer codes (01 R23 to R27) -/

/-- A codebook: the P16 patterns of its 16 entries. -/
abbrev Codebook := List (BitVec 16)

/-- The default codebook (R24): a code reads as its 4-bit two's-complement integer. -/
def defaultCodebook : Codebook :=
  [0x0000, 0x4000, 0x4800, 0x4C00, 0x5000, 0x5200, 0x5400, 0x5600,
   0xA800, 0xAA00, 0xAC00, 0xAE00, 0xB000, 0xB400, 0xB800, 0xC000]

def codebookEntry (cb : Codebook) (i : Nat) : BitVec 16 := cb.getD i 0

def codebookVal (cb : Codebook) (i : Nat) : Val := decodePosit 16 (codebookEntry cb i).toNat

/-- R28: a codebook with a NaR entry is invalid. -/
def codebookInvalid (cb : Codebook) : Bool := cb.any (fun p => p == 0x8000)

/-- The clamp range and offset of an integer code (R26). -/
def codeRange (fmt : Fmt) (z : Nat) : Int × Int × Int :=
  match fmt with
  | .c4 => (-7, 7, 0)
  | .a8z => (0, 255, z)
  | _ => (-127, 127, 0)

/-- The stored pattern of an integer code's value. -/
def codePattern (fmt : Fmt) (x : Int) : Nat :=
  match fmt with
  | .c4 => ofSigned 4 x
  | .a8z => x.toNat
  | _ => ofSigned 8 x

/-- R26: quantises `x / scale`, ties away from zero, clamped; a NaN or NaR gives zero (or the zero point) and
NANCODE, an infinity exceeds any bound. -/
def quantiseCode (fmt : Fmt) (z : Nat) (scale : Q) (v : Val) : Nat × Flags :=
  let (lo, hi, off) := codeRange fmt z
  match v with
  | .nan .. => (codePattern fmt (if fmt = .a8z then (z : Int) else 0), { nanCode := true })
  | .nar => (codePattern fmt (if fmt = .a8z then (z : Int) else 0), { nanCode := true })
  | .inf neg => (codePattern fmt (if neg then lo else hi), { sat := true })
  | .zero _ => (codePattern fmt off, {})
  | .fin q =>
    let n := (Q.div q scale).roundAway + off
    if hi < n then (codePattern fmt hi, { sat := true })
    else if n < lo then (codePattern fmt lo, { sat := true })
    else (codePattern fmt n, {})

/-- The index whose entry lies nearest to `x`; a tie goes to the lower index. Entries that are not real are passed
over (a NaR entry makes the codebook invalid before any use, R28). -/
def nearestEntry (cb : Codebook) (x : Q) : Nat :=
  let step := fun (best : Option (Nat × Q)) (i : Nat) =>
    match (codebookVal cb i).real with
    | none => best
    | some y =>
      let dist := (Q.sub x y).abs
      match best with
      | none => some (i, dist)
      | some (_, bd) => if Q.lt dist bd then some (i, dist) else best
  match (List.range 16).foldl step none with
  | some (i, _) => i
  | none => 0

/-- The extreme entry value of a codebook. -/
def extremeEntry (cb : Codebook) (hi : Bool) : Q :=
  ((List.range 16).filterMap (fun i => (codebookVal cb i).real)).foldl
    (fun acc y => match acc with
      | none => some y
      | some z => some (if hi then Q.max z y else Q.min z y)) (none : Option Q) |>.getD Q.zero

/-- R27: quantises to the nearest codebook entry. -/
def quantiseCodebook (cb : Codebook) (scale : Q) (v : Val) : Nat × Flags :=
  match v with
  | .nan .. => (nearestEntry cb Q.zero, { nanCode := true })
  | .nar => (nearestEntry cb Q.zero, { nanCode := true })
  | .inf neg => (nearestEntry cb (extremeEntry cb (!neg)), { sat := true })
  | .zero _ =>
    (nearestEntry cb Q.zero,
      { sat := Q.lt (extremeEntry cb true) Q.zero || Q.lt Q.zero (extremeEntry cb false) })
  | .fin q =>
    let x := Q.div q scale
    (nearestEntry cb x, { sat := Q.lt (extremeEntry cb true) x || Q.lt x (extremeEntry cb false) })

/-! ### One decode and one encode for every format -/

/-- What a conversion to or from integer codes needs: the zero point, the scale, the codebook, and whether a C4 code is chosen as
the nearest entry of that codebook (R27). DESIGN CHOICE (log entry 10): a word with CB 1 chooses so by 06 R187 also where its
codebook's entries equal the default ones, for which R27 and 06 R171 name the rules of the default codebook. -/
structure CodeCtx where
  z : Nat := 0
  scale : Q := Q.one
  cb : Codebook := defaultCodebook
  nearest : Bool := false
  deriving DecidableEq, Repr

/-- Decodes a pattern of a format that is not a quire image. Integer codes give their unscaled value: INT8 the
integer, C4 the codebook value, A8Z `c - z` (01 R39). -/
def decodeFmt (cc : CodeCtx) (fmt : Fmt) (p : Nat) : Val :=
  match fmt with
  | .p8 => decodePosit 8 p
  | .p16 => decodePosit 16 p
  | .p32 => decodePosit 32 p
  | .int8 => Val.ofQ (Q.ofInt (toSigned 8 p))
  | .c4 => codebookVal cc.cb (p % 16)
  | .a8z => Val.ofQ (Q.ofInt ((p % 256 : Nat) - (cc.z : Int)))
  | _ => decodeFloat (floatSpec fmt) p

/-- Encodes a value in any format but a quire image, by the conversion matrix (01 R38) with one rounding. `fromQuire`
says that a NaR came from a quire, which raises IEEE_NV in strict mode (R42). -/
def encodeFmt (c : RoundCtx) (cc : CodeCtx) (fromQuire : Bool) (fmt : Fmt) (v : Val) : Nat × Flags :=
  if fmt.isPosit then
    match v with
    | .zero _ => (0, {})
    | .fin q => encodePositQ fmt.bits q
    | _ => (2 ^ (fmt.bits - 1), {})
  else if fmt.isCode then
    if fmt = .c4 && cc.nearest then quantiseCodebook cc.cb cc.scale v
    else quantiseCode fmt cc.z cc.scale v
  else
    let f := floatSpec fmt
    match v with
    | .zero neg => (signPattern f neg, {})
    | .fin q => if q.num = 0 then (0, {}) else encodeFloatQ c fmt q
    | .inf neg =>
      if fmt = .e4m3 then (signPattern f neg + maxFinitePattern f, { sat := true })
      else (signPattern f neg + infPattern f, {})
    | .nar =>
      (canonicalNaN fmt, { nv := c.strict && fromQuire && fmt.raisesIeee })
    | .nan .. => encodeNaN c fmt v

/-- A conversion that flags a signalling NaN input in strict mode even where the destination raises no flag. -/
def convertFmt (c : RoundCtx) (ccIn ccOut : CodeCtx) (src dst : Fmt) (p : Nat) : Nat × Flags :=
  encodeFmt c ccOut false dst (decodeFmt ccIn src p)

/-- 01 R20: a subnormal FP16, BF16 or FP32 pattern reads and is written as zero of its sign (fast Profile arithmetic). -/
def flushSubnormal (fmt : Fmt) (p : Nat) : Nat :=
  match fmt with
  | .fp16 | .bf16 | .fp32 =>
    let f := floatSpec fmt
    if bitField p f.mw f.ew = 0 then signPattern f (bitAt p (f.ew + f.mw)) else p
  | _ => p

/-! ### Element storage -/

/-- The bytes that `n` elements of a format occupy; C4 packs two to a byte. -/
def Fmt.bytesOf (fmt : Fmt) (n : Nat) : Nat := ceilDiv (n * fmt.bits) 8

/-- Reads element `i` of a packed run at byte address `a`; C4 packs the lower index in the low nibble. -/
def readElem (m : Mem) (fmt : Fmt) (a i : Nat) : Nat :=
  if fmt = .c4 then bitField (Mem.readByte m (a + i / 2)).toNat (4 * (i % 2)) 4
  else Mem.readNat m (a + i * (fmt.bits / 8)) (fmt.bits / 8)

/-- Writes element `i` of a packed run. -/
def writeElem (m : Mem) (fmt : Fmt) (a i x : Nat) : Mem :=
  if fmt = .c4 then
    let old := (Mem.readByte m (a + i / 2)).toNat
    let lo := if i % 2 = 0 then x % 16 else old % 16
    let hi := if i % 2 = 0 then old / 16 else x % 16
    Mem.writeByte m (a + i / 2) (BitVec.ofNat 8 (hi * 16 + lo))
  else Mem.writeNat m (a + i * (fmt.bits / 8)) (fmt.bits / 8) x

end Sys2Proof.Machine
end

