-- ==== Sys2Proof/Machine/CoreState.lean ====
section
/-! DEFINITION. The state of one physical core (02 R43): arrays, Chuck, Profile unit, Caliper, stream engines, swap pairs,
credit edges, remote-operation port, sequencer, unit queues, and the slice context that placement gives it. -/

namespace Sys2Proof.Machine

/-- What a Chuck unit of 16 bytes holds (04 R100): its bits, the entry it belongs to (first unit and units; 0 units for a
unit that QZERO wrote) and the entry's two side tags. -/
structure ChuckUnit where
  bits : BitVec 128
  start : Nat
  units : Nat
  ovf : Bool
  ufl : Bool
  deriving DecidableEq, Repr

/-- The configuration one array holds (03 R79, R80, R92; 06 R183). -/
structure ArrCfg where
  fmtA : BitVec 4 := 0
  fmtB : BitVec 4 := 0
  gsize : BitVec 2 := 2
  spill : BitVec 6 := 63
  bsm : BitVec 2 := 0
  scfA : BitVec 1 := 0
  scfB : BitVec 1 := 0
  sgrp : BitVec 2 := 0
  za : BitVec 8 := 0
  zb : BitVec 8 := 0
  codebook : Codebook := defaultCodebook
  smoothOn : Bool := false
  smoothBase : BitVec 17 := 0
  smoothFmt : BitVec 4 := 0
  rotOn : Bool := false
  rotBlk : BitVec 3 := 0
  rotFmt : BitVec 4 := 0
  deriving DecidableEq, Repr

/-- One requant table entry (06 R162). -/
structure ReqEntry where
  mult : BitVec 32
  bias : BitVec 32
  shift : BitVec 8
  deriving DecidableEq, Repr

/-- The Caliper (06 R166, R167): whether it watches, the tile-maxima option, the index of the next watched word and the
maxima as FP32 patterns. -/
structure Caliper where
  watching : Bool := false
  tmw : Bool := false
  tmBase : Nat := 0
  tile : Nat := 0
  channels : SMap Nat := []
  tensor : Nat := 0
  deriving DecidableEq, Repr

/-- A stream descriptor (08 R215), its signed strides as integers. -/
structure StreamDesc where
  src : Nat := 0
  dst : Nat := 0
  len0 : Nat := 1
  cnt : List Nat := [1, 1, 1, 1]
  sstr : List Int := [0, 0, 0, 0]
  dstr : List Int := [0, 0, 0, 0]
  slstr : Int := 0
  dlstr : Int := 0
  sfmt : BitVec 4 := 0
  dfmt : BitVec 4 := 0
  lsel : Nat := 0
  sparam : Nat := 0
  dparam : Nat := 0
  satfp : Bool := false
  persist : Bool := false
  back : Bool := false
  outEdge : Nat := 0xFFFF
  inEdge : Nat := 0xFFFF
  ruse : Nat := 0
  deriving DecidableEq, Repr

/-- A swap pair (08 R224): window and size in bytes, and whether the front half is Y. -/
structure SwapPair where
  base : Nat
  size : Nat
  flipped : Bool
  deriving DecidableEq, Repr

/-- A pass of a stream engine (08 R216): its descriptor, the loop counters and swap mapping it bound, how many
elements it has moved, and how many requests may still retire after a STREAM_STOP. -/
structure Pass where
  desc : StreamDesc
  loops : List Nat
  swaps : SMap (Option SwapPair)
  done : Nat
  limit : Option Nat := none
  deriving DecidableEq, Repr

/-- A stream engine (08 R214, R219, R226, R227). `pending` holds re-armed bases; `inFlight` is the number of requests in flight
that the last STREAM_STOP named; `carried` says that the descriptor is one of an earlier slice. -/
structure Engine where
  desc : Option StreamDesc := none
  carried : Bool := false
  armed : Bool := false
  pass : Option Pass := none
  pending : Option (Nat × Nat) := none
  inFlight : Nat := 0
  deriving DecidableEq, Repr

/-- The run-time state of a credit edge (08 R221): FULL chunks, reads of the current fill, bytes written into the chunk being
filled, and both positions; `base` is the buffer's address once a stream has bound it. -/
structure EdgeState where
  full : SMap Bool := []
  reads : SMap Nat := []
  filled : SMap Nat := []
  producer : Nat := 0
  consumer : Nat := 0
  base : Option Nat := none
  ruse : Nat := 1
  deriving DecidableEq, Repr

/-- A unit of a core, numbered as BAR_LOCAL names them (02 R51): 0 Array A, 1 Array B, 2 Chuck, 3 Profile unit, 4 Caliper,
5 remote-operation port, 6 + e stream engine e. -/
abbrev UnitId := Nat

def unitChuck : UnitId := 2
def unitProfile : UnitId := 3
def unitCaliper : UnitId := 4
def unitRemote : UnitId := 5
def unitStream (e : Nat) : UnitId := 6 + e

/-- A result that a unit has not delivered yet (03 R74, 04 R110): Chuck units or core-memory bytes `lo .. lo + len - 1`, and
whether the operation only adds to the Chuck entries (04 R105). -/
structure Flight where
  owner : UnitId
  op : Nat
  inChuck : Bool
  lo : Nat
  len : Nat
  adds : Bool := false
  deriving DecidableEq, Repr

/-- A word that the sequencer has dispatched (02 R44, R45): the loop counters it carries and its dispatch cycle. -/
structure Dispatched where
  word : OpWord
  loops : List Nat
  cycle : Nat
  deriving DecidableEq, Repr

/-- What an event must happen before the word that a unit runs completes. -/
inductive Blocked where
  | waitCounter (ctr count : Nat)
  | fence
  | getData
  | treeReceive (ctr : Nat) (w : TreeWord)
  deriving DecidableEq, Repr

/-- A unit's queue (02 R44): ends of occupancy of words that hold a place, words that wait to begin, the event that the
running word waits for, 1 + the number of the stall counter (08 R238) that its waiting head advances, the first cycle in which the unit may begin its next word, and the cycle of its last result. -/
structure UnitState where
  ends : List Nat := []
  waiting : List Dispatched := []
  blocked : Option Blocked := none
  stall : Nat := 0
  freeAt : Nat := 0
  idleAt : Nat := 0
  nextOp : Nat := 0
  doneOp : Nat := 0
  deriving DecidableEq, Repr

/-- A MARK record (12 R336): value, logical core, dispatch cycle. -/
structure MarkRec where
  value : BitVec 64
  logical : Nat
  cycle : Nat
  deriving DecidableEq, Repr

/-- The sequencer (02 R45, R53, R54): the open loops, innermost first, as trip count, counter and first word of the body; the
position in the body; the last dispatch cycle, the words dispatched in it and the units they went to; words that cannot
dispatch yet; the dispatch cycle of SLICE_END once it has dispatched. -/
structure Sequencer where
  loops : List (Nat × Nat × Nat) := []
  pos : Nat := 0
  cycle : Nat := 0
  slots : Nat := 0
  units : List UnitId := []
  held : List OpWord := []
  marks : List MarkRec := []
  ending : Option Nat := none
  ended : Option Nat := none
  deriving DecidableEq, Repr

/-- A credit edge of the slice image (02 R62): producer and consumer as unit kind and instance, credits, bytes. -/
structure EdgeDef where
  prodKind : Nat
  prodInst : Nat
  consKind : Nat
  consInst : Nat
  credits : Nat
  bytes : Nat
  deriving DecidableEq, Repr

/-- What placement tells a core about the slice it runs (02 R57 to R66, 08 R229): the work, the logical cores it carries,
the geometry, the switches, its parameter words, the credit graph, and where the slice's other logical cores run. `seed` is the model's
own: a number of all that a slice's bits may depend on (12 R321). -/
structure SliceCtx where
  work : Option Nat := none
  logical : Nat := 0
  width : Nat := 1
  chips : Nat := 1
  chip : Nat := 0
  strict : Bool := false
  repro : Bool := false
  elastic : Bool := false
  fold2 : Bool := false
  params : List Nat := []
  edges : List EdgeDef := []
  coreOf : List Nat := []
  seed : Option Nat := none
  deriving DecidableEq, Repr

/-- The counters of a core's register window (18 R489) that its units advance. -/
structure CoreCounts where
  stalls : SMap (BitVec 32) := []
  cmemCe : BitVec 32 := 0
  chuckCe : BitVec 32 := 0
  profCe : BitVec 32 := 0
  feedSat : BitVec 32 := 0
  rearmReplaced : BitVec 32 := 0
  deriving DecidableEq, Repr

/-- The counters L0 to L3 of the open loops, outermost first. -/
def Sequencer.counters (q : Sequencer) : List Nat := (q.loops.map (fun l => l.2.1)).reverse

/-- One physical core. `body` is the half of the program store that runs and `nextBody` the other half (02 R47); `counters2` are the
barrier counters of the second logical core in a fold-2 run (08 R232); `startEngines` are the engines as the slice found them. `freeCtr` is the model's own: each word advances it, and undefined values of the word are free values
of it. -/
structure Core where
  mem : Mem := []
  chuck : SMap (Option ChuckUnit) := []
  slots : SMap (Option (List Byte)) := []
  requant : SMap (Option ReqEntry) := []
  arrA : ArrCfg := {}
  arrB : ArrCfg := {}
  accSetA : Bool := false
  accSetB : Bool := false
  cal : Caliper := {}
  engines : SMap Engine := []
  startEngines : SMap Engine := []
  swaps : SMap (Option SwapPair) := []
  edges : SMap EdgeState := []
  counters : SMap (BitVec 32) := []
  startCounters : SMap (BitVec 32) := []
  counters2 : SMap (BitVec 32) := []
  startCounters2 : SMap (BitVec 32) := []
  startStalls : SMap (BitVec 32) := []
  xchip : List (Nat × Nat × Nat) := []
  seq : Sequencer := {}
  units : SMap UnitState := []
  flights : List Flight := []
  ctx : SliceCtx := {}
  summary : BitVec 15 := 0
  body : List (BitVec 128) := []
  nextBody : List (BitVec 128) := []
  counts : CoreCounts := {}
  freeCtr : Nat := 0
  wrote : List (Nat × Nat) := []
  deriving DecidableEq, Repr

/-- The domain of a core's free values: of the slice that runs, by its seed and logical core, so that no bit of them depends on the
physical core or the turn (12 R321); else of the core's number. -/
def Core.site (core : Core) (c : Nat) : Nat :=
  match core.ctx.seed with
  | some x => 65536 * (1 + x * 128 + core.ctx.logical)
  | none => c

/-- Why a word's own checks end the slice and its work (02 R50 note and the owning chapters). -/
inductive WordFault where
  | codebookNar
  | convDesc
  | redDesc
  | profDesc
  | tblFormat
  | seamNonmono
  | smaxOrder
  | smaxState
  | reqTable
  | calHist
  | quantDesc
  | gradDesc
  | streamDesc
  | remoteAddr
  | ctrOvf
  deriving DecidableEq, Repr

end Sys2Proof.Machine
end

