-- ==== Sys2Proof/Machine/Quire.lean ====
section
/-! DEFINITION. Quire entries of the Chuck (04): widths and images (01 R29 to R32), addends, the add and the overwrite of R103,
and reading and writing entries over 16-byte units (R100, R101). -/

namespace Sys2Proof.Machine

/-- The four quire widths, as the QW field codes them (04 R107). -/
inductive QW where
  | q128 | q256 | q512 | q640
  deriving DecidableEq, Repr

def QW.ofCode (c : BitVec 2) : QW :=
  match c.toNat with
  | 0 => .q128
  | 1 => .q256
  | 2 => .q512
  | _ => .q640

/-- U, the units an entry occupies (03 R76). -/
def QW.units : QW → Nat
  | .q128 => 1 | .q256 => 2 | .q512 => 4 | .q640 => 5

def QW.width (w : QW) : Nat := 128 * w.units

/-- The position of the bit of weight 2^0 (01 R29). -/
def QW.lsb : QW → Nat
  | .q128 => 48 | .q256 => 112 | .q512 => 240 | .q640 => 298

/-- R of 04 R110: entries per core cycle on the store path. -/
def QW.rate : QW → Nat
  | .q128 => 32 | .q256 => 32 | .q512 => 16 | .q640 => 16

/-- The largest magnitude, in units of the quire's LSB (04 R103). -/
def QW.qmax (w : QW) : Nat := 2 ^ (w.width - 1) - 1

/-- What an entry stands for (01 R30). -/
inductive QVal where
  | nar
  | num (v : Int)
  deriving DecidableEq, Repr

/-- A quire entry: its value in units of the LSB and the two side tags (04 R100). -/
structure QEntry where
  val : QVal
  ovf : Bool
  ufl : Bool
  deriving DecidableEq, Repr

/-- The four kinds of addend (04, "Adding into an entry"). -/
inductive Addend where
  | fin (v : Int)
  | satP
  | satN
  | nar
  deriving DecidableEq, Repr

def QEntry.zero : QEntry := ⟨.num 0, false, false⟩

/-- An entry is saturated when its value is ±qmax (04 R103). -/
def QEntry.satSign (w : QW) (e : QEntry) : Option Bool :=
  match e.val with
  | .nar => none
  | .num v => if v = (w.qmax : Int) then some false else if v = -(w.qmax : Int) then some true else none

def QEntry.isNar (e : QEntry) : Bool := decide (e.val = .nar)
def QEntry.isSat (w : QW) (e : QEntry) : Bool := (e.satSign w).isSome

/-- 04 R103: adds an addend into an entry. -/
def quireAdd (w : QW) (e : QEntry) (a : Addend) : QEntry :=
  match e.val with
  | .nar => e
  | .num v =>
    let sat (neg : Bool) : QEntry :=
      match e.satSign w with
      | some s => if s ≠ neg then { e with val := .nar, ovf := true }
        else { e with val := .num (if neg then -(w.qmax : Int) else w.qmax), ovf := true }
      | none => { e with val := .num (if neg then -(w.qmax : Int) else w.qmax), ovf := true }
    match a with
    | .nar => { e with val := .nar }
    | .satP => sat false
    | .satN => sat true
    | .fin x =>
      if e.isSat w then e
      else
        let s := v + x
        if (w.qmax : Int) < s then { e with val := .num w.qmax, ovf := true }
        else if s < -(w.qmax : Int) then { e with val := .num (-(w.qmax : Int)), ovf := true }
        else { e with val := .num s }

/-- 04 R103: overwrites an entry with an addend; both tags clear. -/
def quireOverwrite (w : QW) (a : Addend) : QEntry := quireAdd w QEntry.zero a

/-- The image pattern of a value (01 R29, R30). -/
def quireImage (w : QW) : QVal → Nat
  | .nar => 2 ^ (w.width - 1)
  | .num v => ofSigned w.width v

/-- The value an image pattern spells. -/
def quireOfImage (w : QW) (p : Nat) : QVal :=
  if p % 2 ^ w.width = 2 ^ (w.width - 1) then .nar else .num (toSigned w.width p)

/-- 04 R113: the addend an image becomes. -/
def addendOfImage (w : QW) (p : Nat) : Addend :=
  match quireOfImage w p with
  | .nar => .nar
  | .num v => if v = (w.qmax : Int) then .satP else if v = -(w.qmax : Int) then .satN else .fin v

/-- The exact value of an entry, for the one rounding out (01 R35). -/
def quireVal (w : QW) : QVal → Val
  | .nar => .nar
  | .num v => if v = 0 then .zero false else .fin (Q.ofScaled v (-(w.lsb : Int)))

/-- A real number in units of the quire's LSB, truncated toward zero, with whether bits were dropped. -/
def quireUnits (w : QW) (q : Q) : Int × Bool :=
  let n := q.num.natAbs * 2 ^ w.lsb
  let m : Int := n / q.den
  (if q.num < 0 then -m else m, n % q.den ≠ 0)

/-! ### Entries over the Chuck's units -/

/-- The number of 16-byte units of a Chuck (04 R100). -/
def chuckUnits : Nat := 98304

/-- Whether another unit of the core has an undelivered result in Chuck unit `u`, which makes a read or a write of the unit a
hazard (02 R46). Adds meet adds in any order (R105): for an access that adds, only an overwrite in flight is one. -/
def Core.chuckHazard (core : Core) (who : UnitId) (adding : Bool) (u : Nat) : Bool :=
  core.flights.any (fun f => f.inChuck && f.owner != who && !(adding && f.adds) && decide (f.lo ≤ u) && decide (u < f.lo + f.len))

/-- Whether units `u ..< u + n` hold one whole entry that starts at `u`, or exact zeros, free of hazards. -/
def Core.entryDefined (core : Core) (who : UnitId) (adding : Bool) (u n : Nat) : Bool :=
  (List.range n).all (fun i =>
    !core.chuckHazard who adding (u + i) &&
    match SMap.get none core.chuck (u + i) with
    | none => false
    | some x => decide (x.units = 0) || (decide (x.start = u) && decide (x.units = n)))

/-- The raw pattern of `n` units from `u`. -/
def Core.unitBits (core : Core) (u : Nat) : Nat → Nat
  | 0 => 0
  | n + 1 =>
    (match SMap.get none core.chuck u with
      | some x => x.bits.toNat
      | none => 0) + 2 ^ 128 * Core.unitBits core (u + 1) n

/-- The free entry of core `c` at unit `u`, under the word's counter. -/
def Core.freeEntry (c : Nat) (core : Core) (w : QW) (u : Nat) : QEntry :=
  ⟨quireOfImage w (Config.freeNat (1000 + core.site c) core.freeCtr u % 2 ^ w.width),
   Config.freeBool (1000 + core.site c) core.freeCtr (2 * u), Config.freeBool (1000 + core.site c) core.freeCtr (2 * u + 1)⟩

/-- Reads the entry of width `w` at unit `u`, for an add or for another use. Undefined contents (04 R101, 03 R99, a hazard of 02
R46) read as a free entry. -/
def Core.readEntry (c : Nat) (who : UnitId) (core : Core) (w : QW) (u : Nat) (adding : Bool := false) : QEntry :=
  if core.entryDefined who adding u w.units then
    let tag (f : ChuckUnit → Bool) : Bool :=
      match SMap.get none core.chuck u with
      | some x => f x
      | none => false
    ⟨quireOfImage w (core.unitBits u w.units), tag (·.ovf), tag (·.ufl)⟩
  else core.freeEntry c w u

/-- Makes every unit of an older entry that overlaps `u ..< u + n` undefined, except those the new write covers (04 R101). -/
def Core.clearOverlap (chuck : SMap (Option ChuckUnit)) (u n : Nat) : SMap (Option ChuckUnit) :=
  (List.range n).foldl
    (fun m i =>
      match SMap.get none m (u + i) with
      | some x =>
        if x.units = 0 then m
        else (List.range x.units).foldl (fun m' j => SMap.set none m' (x.start + j) none) m
      | none => m) chuck

/-- Writes the units of an entry. -/
def Core.setUnits (chuck : SMap (Option ChuckUnit)) (start n : Nat) (ovf ufl : Bool) :
    Nat → Nat → Nat → SMap (Option ChuckUnit)
  | 0, _, _ => chuck
  | k + 1, u, bits =>
    Core.setUnits (SMap.set none chuck u (some ⟨BitVec.ofNat 128 bits, start, n, ovf, ufl⟩)) start n ovf ufl k (u + 1)
      (bits / 2 ^ 128)

/-- Writes an entry of width `w` at unit `u`; units past the end of the Chuck do not exist and are not written. -/
def Core.writeEntry (core : Core) (w : QW) (u : Nat) (e : QEntry) : Core :=
  if u + w.units ≤ chuckUnits then
    let ch := Core.clearOverlap core.chuck u w.units
    { core with chuck := Core.setUnits ch u w.units e.ovf e.ufl w.units u (quireImage w e.val) }
  else core

/-- QZERO's write of one unit: exact zero, both tags clear (04 R113). The other units of an entry that held it keep their last
write, and the entry can be read as before (R101). Over results in flight the outcome depends on their cycles and is free. -/
def Core.zeroUnit (c : Nat) (who : UnitId) (core : Core) (u : Nat) : Core :=
  if u < chuckUnits then
    let bits := if core.chuckHazard who false u then BitVec.ofNat 128 (Config.freeNat (1000 + core.site c) core.freeCtr u) else 0
    { core with chuck := SMap.set none core.chuck u (some ⟨bits, u, 0, false, false⟩) }
  else core

/-- Adds an addend into the entry at `u` (04 R103). -/
def Core.addEntry (c : Nat) (who : UnitId) (core : Core) (w : QW) (u : Nat) (a : Addend) : Core :=
  core.writeEntry w u (quireAdd w (core.readEntry c who w u true) a)

/-- Overwrites the entry at `u` with an entry; over results in flight the outcome depends on their cycles (04 R105) and is free. -/
def Core.overwriteWith (c : Nat) (who : UnitId) (core : Core) (w : QW) (u : Nat) (e : QEntry) : Core :=
  core.writeEntry w u (if (List.range w.units).any (fun i => core.chuckHazard who false (u + i)) then core.freeEntry c w u else e)

/-- Overwrites the entry at `u` with an addend (04 R103). -/
def Core.overwriteEntry (c : Nat) (who : UnitId) (core : Core) (w : QW) (u : Nat) (a : Addend) : Core :=
  core.overwriteWith c who w u (quireOverwrite w a)

end Sys2Proof.Machine
end

