-- ==== Sys2Proof/Machine/Operands.lean ====
section
/-! DEFINITION. The operand forms of operation words: core memory through the swap windows (08 R225), panels in the B16 layout
(03 R85), scales (06 R158), the class and quire of a format pair (01 R33), and memory writes that stay undelivered until the
unit's result lands (04 R110). -/

namespace Sys2Proof.Machine

/-- The bytes of a core memory (08 R208). -/
def coreMemBytes : Nat := 6291456

/-- The byte that an address of a local unit reaches: an address in window X reaches the front half (08 R225). -/
def swapFront (swaps : SMap (Option SwapPair)) (a : Nat) : Nat :=
  match (List.range 8).find? (fun p => match SMap.get none swaps p with
      | some s => decide (s.base ≤ a) && decide (a < s.base + s.size)
      | none => false) with
  | none => a
  | some p => match SMap.get none swaps p with
    | some s => if s.flipped then a + s.size else a
    | none => a

/-- The byte that a landing, or a pass with BACK, reaches: an address in window X reaches the back half (08 R225). -/
def swapBack (swaps : SMap (Option SwapPair)) (a : Nat) : Nat :=
  match (List.range 8).find? (fun p => match SMap.get none swaps p with
      | some s => decide (s.base ≤ a) && decide (a < s.base + s.size)
      | none => false) with
  | none => a
  | some p => match SMap.get none swaps p with
    | some s => if s.flipped then a else a + s.size
    | none => a

/-- Whether another unit has an undelivered result over byte `a`. -/
def Core.memHazard (core : Core) (who : UnitId) (a : Nat) : Bool :=
  core.flights.any (fun f => !f.inChuck && f.owner != who && decide (f.lo ≤ a) && decide (a < f.lo + f.len))

/-- One byte as unit `who` of core `c` reads it; a byte under a hazard (02 R46) is a free value. -/
def Core.rdByte (c : Nat) (who : UnitId) (core : Core) (a0 : Nat) : Byte :=
  let a := swapFront core.swaps a0
  if core.memHazard who a then Config.freeByte (core.site c) core.freeCtr a else Mem.readByte core.mem a

def Core.rdBytes (c : Nat) (who : UnitId) (core : Core) (a : Nat) : Nat → List Byte
  | 0 => []
  | n + 1 => Core.rdByte c who core a :: Core.rdBytes c who core (a + 1) n

/-- An `n`-byte little-endian number as unit `who` reads it. -/
def Core.rdNat (c : Nat) (who : UnitId) (core : Core) (a n : Nat) : Nat := bytesToNat (Core.rdBytes c who core a n)

/-- Bytes a word has written: the core and the byte ranges, newest first, adjacent runs merged. -/
structure Written where
  core : Core
  ranges : List (Nat × Nat)
  deriving DecidableEq, Repr

def addRange (rs : List (Nat × Nat)) (a n : Nat) : List (Nat × Nat) :=
  match rs with
  | (lo, len) :: rest => if lo + len = a then (lo, len + n) :: rest else (a, n) :: (lo, len) :: rest
  | [] => [(a, n)]

/-- Writes one byte; a byte that another unit has still to deliver (02 R46) takes a free value. Bytes past the end of core
memory do not exist. -/
def Written.byte (c : Nat) (who : UnitId) (w : Written) (a0 : Nat) (b : Byte) : Written :=
  let a := swapFront w.core.swaps a0
  if a < coreMemBytes then
    let v := if w.core.memHazard who a then Config.freeByte (w.core.site c) w.core.freeCtr (a + 2 * coreMemBytes) else b
    ⟨{ w.core with mem := Mem.writeByte w.core.mem a v }, addRange w.ranges a 1⟩
  else w

def Written.bytes (c : Nat) (who : UnitId) (w : Written) (a : Nat) : List Byte → Written
  | [] => w
  | b :: bs => Written.bytes c who (Written.byte c who w a b) (a + 1) bs

def Written.nat (c : Nat) (who : UnitId) (w : Written) (a n x : Nat) : Written :=
  Written.bytes c who w a (natToBytes n x)

/-- Adds a byte range to what the slice has written in core memory (12 R327). -/
def noteRange (rs : List (Nat × Nat)) (r : Nat × Nat) : List (Nat × Nat) := if rs.contains r then rs else addRange rs r.1 r.2

/-- Records the written ranges as undelivered results of `who` (04 R110, 05 R134). -/
def Written.deliverLater (who : UnitId) (w : Written) : Core :=
  let op := (SMap.get {} w.core.units who).nextOp
  { w.core with
    flights := w.core.flights ++ w.ranges.reverse.map (fun r => ⟨who, op, false, r.1, r.2, false⟩)
    wrote := w.ranges.reverse.foldl noteRange w.core.wrote }

/-! ### Panels (03 R85) -/

/-- The bytes of a 16 × 16 tile. -/
def tileBytes (fmt : Fmt) : Nat := 32 * fmt.bits

/-- The byte address of element `(r, k)` of a panel whose tile rows hold `tpr` tiles. -/
def panelAddr (fmt : Fmt) (base tpr r k : Nat) : Nat :=
  base + (r / 16 * tpr + k / 16) * tileBytes fmt + ((r % 16) * 16 + k % 16) * fmt.bits / 8

/-- The bytes of a `rows × cols` panel block up to its last element (04 R107, 06 R176): other elements of its last tile row may
stand outside. With no tiles per tile row every tile row lies over the first. -/
def blockBytes (fmt : Fmt) (rows cols tpr : Nat) : Nat :=
  let m := rows - 1
  let n := cols - 1
  let r := if tpr = 0 ∧ 16 ≤ m then 15 else m % 16
  (m / 16 * tpr + n / 16) * tileBytes fmt + ceilDiv ((r * 16 + n % 16 + 1) * fmt.bits) 8

/-- The bytes of a whole `rows × cols` panel. -/
def panelBytes (fmt : Fmt) (rows tpr : Nat) : Nat := ceilDiv rows 16 * tpr * tileBytes fmt

/-- The pattern of an element at byte address `a`, column `k` choosing the nibble of a C4 byte. -/
def Core.rdAt (c : Nat) (who : UnitId) (core : Core) (fmt : Fmt) (a k : Nat) : Nat :=
  if fmt = .c4 then bitField (Core.rdByte c who core a).toNat (4 * (k % 2)) 4
  else Core.rdNat c who core a (fmt.bits / 8)

/-- The pattern of panel element `(r, k)`. -/
def Core.rdPanel (c : Nat) (who : UnitId) (core : Core) (fmt : Fmt) (base tpr r k : Nat) : Nat :=
  Core.rdAt c who core fmt (panelAddr fmt base tpr r k) k

/-- Element `i` of a run of consecutive elements. -/
def Core.rdRun (c : Nat) (who : UnitId) (core : Core) (fmt : Fmt) (base i : Nat) : Nat :=
  Core.rdAt c who core fmt (base + i * fmt.bits / 8) i

/-- Writes an element pattern at byte address `a`. -/
def Written.elem (c : Nat) (who : UnitId) (w : Written) (fmt : Fmt) (a k x : Nat) : Written :=
  if fmt = .c4 then
    let old := (Mem.readByte w.core.mem (swapFront w.core.swaps a)).toNat
    let b := if k % 2 = 0 then old / 16 * 16 + x % 16 else old % 16 + 16 * (x % 16)
    Written.byte c who w a (BitVec.ofNat 8 b)
  else Written.nat c who w a (fmt.bits / 8) x

/-! ### Scales (06 R158) -/

/-- The value of a stored scale: P16, or the power-of-two code E8; `none` where it is NaR or invalid. -/
def scaleVal (e8 : Bool) (p : Nat) : Option Q :=
  if e8 then
    if p % 256 = 0 then some Q.zero
    else if p % 256 = 255 then none
    else some (Q.ofScaled 1 ((p % 256 : Nat) - 127 : Int))
  else (decodePosit 16 p).real

def scaleBytes (e8 : Bool) : Nat := if e8 then 1 else 2

/-! ### Operand classes (01 R33, 03 R68) -/

inductive RateClass where
  | c8 | cC4 | c16 | c32
  deriving DecidableEq, Repr

/-- K values per step, s. -/
def RateClass.step : RateClass → Nat
  | .c8 => 4 | .cC4 => 8 | .c16 => 2 | .c32 => 1

/-- Core cycles per step, c. -/
def RateClass.cycles : RateClass → Nat
  | .c32 => 2
  | _ => 1

/-- The 8-bit class formats (01 R33). -/
def Fmt.is8 : Fmt → Bool
  | .p8 | .e4m3 | .e5m2 | .int8 | .a8z => true
  | _ => false

/-- The class and quire that 01 R33 selects, by its first matching row; `none` where it rejects the pair. -/
def operandClass (a b : Fmt) (blockScaled : Bool) : Option (RateClass × QW) :=
  if a = .fp64 || b = .fp64 || a.isQuire || b.isQuire then none
  else if a = .c4 then none
  else if b = .c4 then (if a.is8 then some (.cC4, .q256) else none)
  else if a = .fp32 || b = .fp32 || a = .bf16 || b = .bf16 then some (.c32, .q640)
  else if a = .p32 || b = .p32 then some (.c32, .q512)
  else if a = .p16 || b = .p16 || a = .fp16 || b = .fp16 then some (.c16, .q256)
  else if blockScaled then some (.c8, .q256)
  else some (.c8, .q128)

/-- G, the group size that GSIZE codes (03 R79). -/
def groupSize (gsize : BitVec 2) : Nat :=
  match gsize.toNat with
  | 0 => 4
  | 1 => 8
  | _ => 16

/-- SG, the scale group along K (03 R79). -/
def scaleGroup (sgrp : BitVec 2) : Nat := 32 * (sgrp.toNat + 1)

/-- F of 03 R77. -/
def feedCycles (cls : RateClass) (g k : Nat) : Nat := max 1 (ceilDiv k g * g * cls.cycles / cls.step)

/-- The byte address of a field in 64-byte units. -/
def addr64 {n : Nat} (b : BitVec n) : Nat := b.toNat * 64

end Sys2Proof.Machine
end

