-- ==== Sys2Proof/Machine/DeviceState.lean ====
section
/-! DEFINITION. The parts of the device state outside the cores: HBM, plans, rings, accepted work, placements, errors, audit,
NV image, sessions, links, power and maintenance (09 to 19). -/

namespace Sys2Proof.Machine

/-! ### Mesh -/

/-- What lands (08 R233, R234): bytes at a core, quire images to add, a counter increment, the bytes a GET brought, or bytes
that a PUT writes outside core memory, by class key. -/
inductive LandKind where
  | bytes (addr : Nat) (data : List Byte)
  | images (qw : QW) (unit : Nat) (imgs : List Nat)
  | signal (ctr inc : Nat)
  | got (addr : Nat) (data : List Byte)
  | hbm (key : Nat) (data : List Byte)
  deriving DecidableEq, Repr

/-- One effect on its way over the mesh. Effects of one source land in the order of this list (08 R234 item 2). -/
structure Landing where
  src : Nat
  srcLogical : Nat
  dst : Nat
  kind : LandKind
  deriving DecidableEq, Repr

/-! ### HBM (09) -/

/-- A stack (09 R242, R254, R256): its spare physical channel, the logical channel it serves (31 none), a copy in progress, whether
it is lost, and the corrections of its on-die ECC that firmware last read. -/
structure Stack where
  sparePch : Nat := 31
  spareFor : Nat := 31
  copying : Option Nat := none
  copyDone : Bool := false
  lost : Bool := false
  onDie : Nat := 0
  deriving DecidableEq, Repr

/-- The memory map in force since bring-up (09 R243, R246; 18 R484), in bytes. -/
structure Layout where
  localBytes : Nat := 2 * 2 ^ 30
  mirrorBytes : Nat := 6 * 2 ^ 30
  stashPool : Nat := 64 * 2 ^ 30
  ringArea : Nat := 16 * 2 ^ 30
  mirrorStage : Nat := 2 * 2 ^ 30
  linkBuffer : Nat := 2 ^ 30
  spread : Nat := 2
  syncMode : Nat := 0
  deriving DecidableEq, Repr

/-- A lost range of a placement class (13 R358): target code, first offset and length. -/
structure LostRange where
  target : Nat
  base : Nat
  bytes : Nat
  deriving DecidableEq, Repr

/-- A channel whose contents outside the mirrored class are lost (09 R256), and the class ranges rebuilt since. -/
structure LostChannel where
  stack : Nat
  lch : Nat
  healed : List (Nat × Nat)
  deriving DecidableEq, Repr

/-- A sector in error (09 R256): stack, logical channel, sector, and when, in ticks of `Turn.clock`. -/
structure SectorErr where
  stack : Nat
  lch : Nat
  sector : Nat
  clock : Nat
  deriving DecidableEq, Repr

/-- HBM (09): contents by stack × 2^36 + stack offset, stacks, sectors on the bad-sector list (same keys), lost ranges, stacks
declared lost in the turn (the degraded map follows at the next head), the journal move, sectors that scrub has listed and channels that
took over unread since the last head (by class key, or none), uncorrectable sectors of the last 7 days and corrected ones of the last
day. -/
structure Hbm where
  bytes : Mem := []
  stks : SMap Stack := []
  badSectors : List Nat := []
  lost : List LostRange := []
  lostCh : List LostChannel := []
  newlyLost : List Nat := []
  degraded : Option Nat := none
  journalMove : Bool := false
  ueTurn : List (Nat × Nat) := []
  scrubbed : List (Option Nat) := []
  ues : List SectorErr := []
  ces : List SectorErr := []
  layout : Layout := {}
  live : Bool := false
  deriving DecidableEq, Repr

/-! ### Plans (02 R57 to R62; 11 R315) -/

/-- A region table entry (02 R61). -/
structure Region where
  base : Nat
  bytes : Nat
  kind : Nat
  fmt : Nat
  wset : Nat
  deriving DecidableEq, Repr

/-- A loaded slice image (02 R57): header fields, tables and both bodies. -/
structure Image where
  strict : Bool
  repro : Bool
  elastic : Bool
  fold2 : Bool
  width : Nat
  chips : Nat
  minTurn : Nat
  cycles : List Nat
  cycles2 : List Nat
  energy : List Nat
  energy2 : List Nat
  stashCore : Nat
  stashHbm : Nat
  nParams : Nat
  params : List Nat
  regions : List Region
  edges : List EdgeDef
  body : List (BitVec 128)
  body2 : List (BitVec 128)
  digest : List Byte
  deriving DecidableEq, Repr

/-- A stash plan entry (07 R203). -/
structure StashSeg where
  fwdFirst : Nat
  fwdCount : Nat
  hbmKib : Nat
  rcFirst : Nat
  rcCount : Nat
  deriving DecidableEq, Repr

/-- A loaded plan (11 R315): function, ID, where its chain table lies, ODIG, images in chain order, stash plan, whether a PLAN_UNLOAD
waits, and the records logged once for a slice image: its index and the record's kind (02 R66; 10 R267, R277). -/
structure Plan where
  fn : Nat
  id : Nat
  tableAddr : Nat
  tableBytes : Nat
  odig : List Byte
  images : List Image
  stash : List StashSeg
  unloading : Bool := false
  noted : List (Nat × Nat) := []
  deriving DecidableEq, Repr

/-! ### Rings (11) -/

/-- A ring's context as read when it was enabled (11 R295). -/
structure RingCtx where
  drBase : Nat := 0
  crBase : Nat := 0
  seqBase : Nat := 1
  log2n : Nat := 6
  cls : Nat := 0
  scan : Bool := false
  imod : Nat := 0
  vector : Nat := 0xFFFF
  fetchMax : Nat := 1
  deriving DecidableEq, Repr

/-- Why a ring is in the error state (11 R302; 13 R354). -/
inductive RingFault where
  | seq | overrun | write | recover
  deriving DecidableEq, Repr

/-- An enabled ring (11 R301 to R305, R316). -/
structure Ring where
  fn : Nat := 0
  ctx : RingCtx := {}
  acc : Nat := 0
  cmp : Nat := 0
  err : Option RingFault := none
  stopped : Bool := false
  backlog : Bool := false
  held : List (List Byte) := []
  unsignalled : Bool := false
  irq : Bool := false
  lastMsg : Option Nat := none
  deriving DecidableEq, Repr

/-! ### Accepted work (13 R346) -/

inductive WorkState where
  | accepted | running | committed
  deriving DecidableEq, Repr

/-- A staging copy of a union of overlapping KIND 3, 4 and 5 regions (13 R347): class key range, contents, whether it is in
the mirror staging area. Keys are target × 2^44 + offset. -/
structure StageCopy where
  base : Nat
  bytes : Nat
  data : Mem
  mirrored : Bool
  filled : Bool
  deriving DecidableEq, Repr

/-- What an admin descriptor waits for before it completes. -/
inductive AdminWait where
  | none
  | ringDisable (first count : Nat)
  | planLoad
  | planUnload (id : Nat)
  | epoch (left : Nat)
  | activation
  | partition (fn : Nat)
  | key (kslot : Nat)
  deriving DecidableEq, Repr

/-- What a work's chain holds (07 R201 to R205; 08 R213): physical cores by logical core (or pair), the fold, the stash
reservation in KiB, the segments that run in stash form, and the cores that failed or retired since its pins were set. -/
structure ChainState where
  pins : List Nat := []
  fold2 : Option Bool := none
  stashKib : Option Nat := none
  stashSegs : List Nat := []
  counters : SMap (SMap (BitVec 32)) := []
  restartPins : Bool := false
  deriving DecidableEq, Repr

/-- What the completion record sums up (11 R309), and the turn of the last commit by `Turn.ord`. -/
structure WorkSums where
  flags : BitVec 16 := 0
  cycles : Nat := 0
  energy : Nat := 0
  nondet : Nat := 0
  turn : Nat := 0
  ord : Nat := 0
  carried : Nat := 0
  deriving DecidableEq, Repr

/-- What the Headstock remembers of a work between heads (10 R266 to R277). -/
structure WorkRank where
  rerun : Bool := false
  accTurn : Nat := 0
  passed : Nat := 0
  blocker : Bool := false
  opWait : Nat := 0
  firstHead : Bool := true
  serial : Bool := false
  deriving DecidableEq, Repr

/-- A journal entry (13 R346; 11 R306). -/
structure Work where
  ring : Nat
  seq : Nat
  desc : List Byte
  argTable : List Byte := []
  epoch : Nat := 0
  fn : Nat := 0
  role : Nat := 0
  sbase : Int := 0
  st : WorkState := .accepted
  result : Option Nat := none
  admin : AdminWait := .none
  stores : List Nat := []
  next : Nat := 0
  staged : Bool := false
  idig : Option (List Byte) := none
  odig : List Byte := []
  hostIn : Mem := []
  hostOut : SMap (Option Byte) := []
  copies : List StageCopy := []
  copiedBack : Bool := true
  chain : ChainState := {}
  sums : WorkSums := {}
  rank : WorkRank := {}
  deriving DecidableEq, Repr

/-! ### The turn (10) -/

/-- How a placed slice stands. -/
inductive SliceSt where
  | placed
  | running
  | ended (cycles : Nat)
  | aborted (cause : Nat)
  deriving DecidableEq, Repr

/-- A cross-chip word handed to the link die (08 R235; 14 R382): destination logical chip and the word's header fields and
data. -/
structure OutWord where
  chip : Nat
  isSignal : Bool
  score : Nat
  target : Nat
  offset : Nat
  len : Nat
  issue : Nat
  data : List Byte
  deriving DecidableEq, Repr

/-- A slice that admission has placed in the turn in force (10 R263, R278). `overlay` holds what its words have written
outside core memory, under class keys, until it commits; the last five fields are what its cores leave when it ends: flag
summary, MARKs, stall counters that advanced, barrier counters by logical core, and the blocks that it wrote in regions of core memory
(12 R327): region index, block offset and bytes. -/
structure Placed where
  ring : Nat
  seq : Nat
  slice : Nat
  cores : List Nat
  fold2 : Bool
  start : Nat
  length : Nat
  energy : Nat
  st : SliceSt := .placed
  status : Option Nat := none
  overlay : SMap (Option Byte) := []
  touched : List Nat := []
  out : List OutWord := []
  nd : List Nat := []
  deadlock : Bool := false
  linkFull : Bool := false
  flags : Nat := 0
  marks : List MarkRec := []
  stalls : List Nat := []
  ctrs : List (Nat × SMap (BitVec 32)) := []
  kept : List (Nat × Nat × List Byte) := []
  deriving DecidableEq, Repr

/-- Where a turn stands: the device has not begun its grid, between head and tail, or after its tail. -/
inductive TurnPhase where
  | none | window | done
  deriving DecidableEq, Repr

/-- The turn, the Headstock and the Tailstock's running quantities (10). `shares` are the cores that hold HBM share positions 0, 1, … in
the turn (09 R250; R281). `clock` counts reference ticks, and `ord` turns, since power came up: a reset does not restart them. `members` are the service set (02 R65), a core withheld for its test among
them, and `stand` the spares that stand in. -/
structure Turn where
  phase : TurnPhase := .none
  number : Nat := 0
  point : Nat := 0
  nextPoint : Nat := 0
  ticks : Nat := 10000
  budget : Nat := 0
  deficits : List Int := [0, 0, 0, 0, 0, 0, 0, 0]
  placed : List Placed := []
  withheld : List Nat := []
  served0 : Nat := 0
  served1 : Nat := 0
  noSlices : Bool := false
  braked : Bool := false
  stretched : Bool := false
  nacc : Nat := 0
  fixHist : List Nat := []
  kappaHist : List (Nat × Nat) := []
  raised : Bool := false
  vddMv : Nat := 0
  partNow : List Nat := []
  shares : List Nat := []
  clock : Nat := 0
  ord : Nat := 0
  members : List Nat := []
  stand : List Nat := []
  deriving DecidableEq, Repr

/-! ### Error records (13 R363, R365) -/

structure ErrRec where
  turn : Nat := 0
  sev : Nat := 1
  unit : Nat := 0
  cause : Nat := 0
  inst : Nat := 0
  ring : Nat := 0xFFFF
  seq : Nat := 0
  slice : Nat := 0xFFFF
  lcore : Nat := 0xFFFF
  tick : Nat := 0
  addr : Nat := 0
  count : Nat := 1
  detail : Nat := 0
  deriving DecidableEq, Repr

structure Errs where
  queue : List ErrRec := []
  overflow : List ErrRec := []
  dropped : Nat := 0
  deriving DecidableEq, Repr

/-! ### Audit (12) -/

/-- A record that waits for its slot on ring 2 or 3, without its K (12 R334); `flags` is RFLAGS. -/
structure RingRec where
  turn : Nat
  rtype : Nat
  part : Nat
  npart : Nat
  payload : List Byte
  flags : Nat := 0
  deriving DecidableEq, Repr

/-- A seal whose signature is being computed (12 R332, R333): its reason, and its first 304 bytes. -/
structure SealJob where
  reason : Nat
  turn : Nat
  body : List Byte
  deriving DecidableEq, Repr

/-- The audit chain, the trace and replay (12). `head` is the chain head, `last` H of the last completed turn; `stagedMine` and `stagedTrace`
are STAGED payloads of a replay that wait for their counterpart. -/
structure Audit where
  head : List Byte := []
  last : List Byte := []
  tr : List Byte := []
  tt : List Byte := []
  accepts : List (List Byte) := []
  admits : List (List Byte) := []
  comps : List (List Byte) := []
  turnTrace : List RingRec := []
  trace : List RingRec := []
  auditQ : List RingRec := []
  gap : Option (Nat × Nat × Nat) := none
  sealNo : Nat := 0
  reasons : List Nat := []
  waiting : List SealJob := []
  signing : Option SealJob := none
  ptm : Option Nat := none
  replay : List RingRec := []
  stagedMine : List (List Byte) := []
  stagedTrace : List (List Byte) := []
  deriving DecidableEq, Repr

/-! ### The NV image (15) -/

/-- A record of the log or of a slot (15 R413): type, sequence and value. -/
structure NvRec where
  type : Nat
  rseq : Nat
  value : List Byte
  deriving DecidableEq, Repr

/-- A user slot (15 R411, R412). -/
structure Slot where
  state : Nat := 0xFF
  gen : Nat := 0
  epoch : Nat := 0
  recs : List NvRec := []
  deriving DecidableEq, Repr

/-- A NOR device: whether it answers, whether its factory region verifies, the user slots and the log. -/
structure Flash where
  ok : Bool := true
  factoryOk : Bool := true
  slotA : Slot := {}
  slotB : Slot := {}
  log : List NvRec := []
  deriving DecidableEq, Repr

/-- A store of a log record in progress (15 R426): its number, the record's type and value, pages still to program, whether
it is deferred. -/
structure NvStore where
  sid : Nat
  type : Nat
  value : List Byte
  pages : Nat
  chunk : Nat
  deferred : Bool
  deriving DecidableEq, Repr

/-- A slot activation (15 R429): the slot, its admin descriptor, the takeover turn (by `Turn.ord`), the keys before the takeover, whether
the standby is ready to take over, and the epoch that the takeover began. -/
structure Activation where
  slot : Nat
  ring : Nat
  seq : Nat
  takeover : Option Nat
  oldKeys : List (Nat × Nat)
  ready : Bool := false
  epoch : Nat := 0
  deriving DecidableEq, Repr

/-- The NV image's running state: whether the factory repair map names the grade IKB-7B-112, both devices, stores that wait, the numbers given to stores and records, slots whose code
signatures verify, an activation, stores done, keys that a register write set before ready (R420), the MICROCODE
records that units run, and those that wait for a maintenance window (R431). -/
structure Nv where
  gradeB : Bool := false
  flash0 : Flash := {}
  flash1 : Flash := {}
  queue : List NvStore := []
  nextSid : Nat := 0
  nextSeq : Nat := 0
  slotSigA : Bool := true
  slotSigB : Bool := true
  activation : Option Activation := none
  written : List Nat := []
  early : List Nat := []
  ucode : List NvRec := []
  ucodeDue : List NvRec := []
  deriving DecidableEq, Repr

/-- A configuration epoch step that waits to apply (13 R370 to R372; 15 R429): the NV stores that come before it, what it sets, the admin
descriptor that it ends, whether it is of a list, and whether the hold-up check has held its record back. -/
inductive EpochStep where
  | regs (entries : List (Nat × Nat))
  | bind (group slot role fn : Nat) (challenge : List Byte)
  | owner
  | unbind (group : Nat)
  | slot
  deriving DecidableEq, Repr

structure EpochItem where
  needs : List Nat
  step : EpochStep
  ring : Nat
  seq : Nat
  list : Bool
  deferred : Bool
  deriving DecidableEq, Repr

/-! ### Sessions (16) -/

structure KeySlot where
  role : Nat
  fn : Nat
  kfl : Nat
  gfirst : Nat
  gcount : Nat
  salt : List Byte
  key : List Byte
  deriving DecidableEq, Repr

/-- A session bound to a group: its key slot, role and function scope, and the challenge that opened it (16 R441, R450). -/
structure Session where
  kslot : Nat
  role : Nat
  fn : Nat
  challenge : List Byte
  deriving DecidableEq, Repr

/-- The OWNER record (16 R449). -/
structure Owner where
  modulus : List Byte
  exponent : Nat
  ofl : Nat
  okeydig : List Byte
  deriving DecidableEq, Repr

structure Security where
  slots : SMap (Option KeySlot) := []
  owner : Option Owner := none
  pendingOwner : Option (Owner × KeySlot) := none
  sessions : SMap (Option Session) := []
  challenges : SMap (Option (List Byte)) := []
  fails : SMap Nat := []
  lockouts : SMap Nat := []
  locked : List Nat := []
  sbChallenges : SMap (Option (List Byte)) := []
  sbSessions : SMap (Option Nat) := []
  deriving DecidableEq, Repr

/-! ### Laros Links (14) -/

/-- A port (14 R380, R398 to R400): lanes that carry flits, training state, substitution, sequence numbers, the retry buffer,
and the peer that PEER flits found. -/
structure Port where
  lanes : List Nat := []
  state : Nat := 0
  spareIn : Bool := false
  txSeq : Nat := 0
  rxSeq : Nat := 0
  retry : List Flit := []
  nakSent : Bool := false
  found : Option (Nat × Nat × Bool) := none
  down : Bool := false
  deriving DecidableEq, Repr

/-- The sending side of a pair of chips (14 R385). -/
structure PairOut where
  next : Nat := 0
  held : List Flit := []
  retries : Nat := 0
  deriving DecidableEq, Repr

/-- A cross-chip word as it is assembled and held at its destination (14 R382, R384). -/
structure LinkWord where
  src : Nat
  isSignal : Bool
  fn : Nat
  ring : Nat
  seq : Nat
  slice : Nat
  score : Nat
  target : Nat
  offset : Nat
  len : Nat
  issue : Nat
  sturn : Nat
  data : List Byte
  due : Option Nat := none
  deriving DecidableEq, Repr

/-- A RELEASE (14 R387) as held at its destination: slices committed in source turn `sturn`. -/
structure ReleaseIn where
  sturn : Nat
  slices : List (Nat × Nat × Nat × Nat)
  last : Bool
  deriving DecidableEq, Repr

/-- The receiving side of a pair of chips (14 R385, R404); `late` are the source turns of releases that have been told as late (R389). -/
structure PairIn where
  expect : Nat := 0
  ahead : List Flit := []
  partialWord : Option LinkWord := none
  words : List LinkWord := []
  releases : List ReleaseIn := []
  late : List Nat := []
  boot : Nat := 0
  deriving DecidableEq, Repr

/-- The expected topology (14 R401). -/
structure Topology where
  kind : Nat := 0
  dims : Nat := 0
  ext : List Nat := [1, 1, 1]
  size : Nat := 1
  self : Nat := 0
  master : Nat := 0
  backup : Nat := 0
  ports : List (Nat × Nat × Nat) := []
  malformed : Bool := false
  deriving DecidableEq, Repr

/-- Turn alignment (14 R394 to R397): turns without a valid sync, turns over the correction limit, valid turns since the loss,
turns in SYNC_LOST, whether the turn's sync has come, the correction for the next head, a realign turn that is to come, the ticks by which
the turn in force is lengthened to realign, the master's system turn once a SYNC flit has told it, and who is master. -/
structure SyncState where
  seen : Bool := false
  missed : Nat := 0
  overLim : Nat := 0
  good : Nat := 0
  lostTurns : Nat := 0
  correction : Int := 0
  realign : Option Nat := none
  realigning : Option Nat := none
  known : Bool := false
  masterSturn : Nat := 0
  master : Nat := 0
  deriving DecidableEq, Repr

structure Links where
  topo : Topology := {}
  ports : SMap Port := []
  outs : SMap PairOut := []
  ins : SMap PairIn := []
  spares : SMap (Option Nat) := []
  deadLanes : List Nat := []
  sync : SyncState := {}
  turnOut : List (Nat × Nat) := []
  replays : SMap (List Nat) := []
  waiting : List Flit := []
  deriving DecidableEq, Repr

/-! ### Power, pins, thermal, maintenance (10, 17, 19) -/

inductive PowerState where
  | off | starting | cold | warm | ready | notReady | tripped
  deriving DecidableEq, Repr

/-- Phases of one tile's share of one rail (19 R500): spares used, phases removed whose spare joins at the next head. -/
structure Share where
  used : Nat := 0
  removed : Nat := 0
  deriving DecidableEq, Repr

structure Power where
  state : PowerState := .off
  perst : Bool := true
  configReady : Bool := false
  recover : List Nat := []
  intOsc : Bool := false
  shares : SMap Share := []
  short : List (Nat × Nat) := []
  brakeVin : Bool := false
  thermtripN : Bool := false
  bringUp : BringUpIn := {}
  mpDead : Bool := false
  hstDead : Bool := false
  deriving DecidableEq, Repr

/-- The Tailstock's thermal model (10 R268, R269), temperatures in thousandths of a degree Celsius. -/
structure Thermal where
  temps : SMap Int := []
  sensors : SMap Int := []
  masked : List Nat := []
  proj : SMap Int := []
  tcp : Int := 0
  thetas : List Nat := []
  deriving DecidableEq, Repr

/-- Least-squares sums of one trend (17 R467), with 16 fraction bits. -/
structure Fit where
  n : Nat := 0
  sx : Int := 0
  sy : Int := 0
  sxx : Int := 0
  sxy : Int := 0
  deriving DecidableEq, Repr

/-- The maintenance window (17 R462, R463): first turn, cores tested, cores to test again, step 1 over. -/
structure Window where
  first : Nat
  tested : List Nat
  measured : Bool
  again : List Nat := []
  deriving DecidableEq, Repr

structure Witness where
  window : Option Window := none
  request : Bool := false
  due : Bool := false
  fits : SMap Fit := []
  retiring : List Nat := []
  retireFrom : Nat := 0
  pendingOffs : Option (List Nat × List Nat) := none
  hours : Nat := 0
  waitSid : Option Nat := none
  marginPhases : List (Nat × Nat) := []
  swapPhases : List (Nat × Nat × Nat) := []
  weakLanes : List Nat := []
  coreState : SMap Nat := []
  margins : SMap (List Int) := []
  pendingTheta : Option Nat := none
  rowErrs : List (Nat × Nat × Nat × Nat) := []
  deriving DecidableEq, Repr

/-! ### Register access (18) and replies -/

/-- A pending guarded value (18 R478, R479): requester and function, offset, value, writes left. -/
structure Guard where
  rid : Nat
  fn : Nat
  off : Nat
  value : BitVec 32
  left : Nat
  deriving DecidableEq, Repr

/-- An entry of an MSI-X table (11 R292): its message. -/
structure MsixEntry where
  addr : BitVec 64 := 0
  data : BitVec 32 := 0
  deriving DecidableEq, Repr

/-- What AER of a function holds (11 R289): the uncorrectable error status, and the header log of the first error. -/
structure Aer where
  status : BitVec 32 := 0
  header : List Byte := []
  deriving DecidableEq, Repr

/-- Register access and host-interface state: pending guarded values, LO latches, frozen counter sets, functions in D3hot, functions that
the ring engine has enabled since the interface was reset, those whose ENABLE was set since the last head, those whose ENABLE was set with DISCARD 1, those in doorbell fallback, MSI-X vectors that host software has unmasked, pending bits, the messages of
the last tail, the MSI-X tables by 2,048 × function + vector, VFs whose FLR the next head finishes, and the configuration state: VF Enable,
functions with AtomicOp Requester Enable, AER. -/
structure Access where
  guards : List Guard := []
  latches : SMap (Option (BitVec 32)) := []
  frozen : SMap (List (BitVec 32)) := []
  d3hot : List Nat := []
  up : List Nat := []
  starting : List Nat := []
  discardAt : List Nat := []
  fallback : List Nat := []
  vecOpen : List (Nat × Nat) := []
  vecPending : List (Nat × Nat) := []
  sent : List (Nat × Nat) := []
  msix : SMap MsixEntry := []
  flr : List Nat := []
  vfEnable : Bool := false
  atomicEn : List Nat := []
  aer : SMap Aer := []
  deriving DecidableEq, Repr

/-- The answer the part gives to the last request (register reads, configuration requests, sideband, SPDM). -/
inductive Reply where
  | none
  | value (v : Nat) (bytes : Nat)
  | unsupported
  | crs
  | configOk
  | sideband (status : Nat) (body : List Byte)
  | silent
  | spdm (code : Nat) (body : List Byte)
  | mctp (body : List Byte)
  | alert (address : Nat)
  deriving DecidableEq, Repr

end Sys2Proof.Machine
end

