-- ==== Sys2Proof/Machine/RegMap.lean ====
section
/-! DEFINITION. The register map of BAR0 (18 R472, and the register tables of 10 R287, 11 R318, 12 R341, 13 R374, 14 R406,
15 R432, 16 R457, 17 R470, 18 R484 to R489): offset, bits, access code, default, range and key ID (15 R520) of every field. -/

namespace Sys2Proof.Machine

/-- Access codes (18 R476). -/
inductive RegAcc where
  | rw | ro | wo | w1c | rwg
  deriving DecidableEq, Repr

/-- A register field. `lo` and `hi` bound what a write may store; `key` is its key ID; `late` marks a key that takes effect at
bring-up. -/
structure RegField where
  off : Nat
  lsb : Nat
  width : Nat
  acc : RegAcc := .ro
  dflt : Nat := 0
  lo : Nat := 0
  hi : Nat := 0xFFFFFFFF
  key : Option Nat := none
  late : Bool := false
  deriving DecidableEq, Repr

/-- A 32-bit read-only counter or status word. -/
def roWord (off : Nat) : RegField := { off := off, lsb := 0, width := 32 }

/-- A read-only status field. -/
def roField (off lsb width dflt : Nat) : RegField := { off := off, lsb := lsb, width := width, dflt := dflt }

/-- A keyed field. -/
def keyField (off lsb width : Nat) (acc : RegAcc) (dflt lo hi key : Nat) (late : Bool) : RegField :=
  { off := off, lsb := lsb, width := width, acc := acc, dflt := dflt, lo := lo, hi := hi, key := some key, late := late }

/-! ### DEV (R485) -/

def devScratch : RegField := { off := 0x0008, lsb := 0, width := 32, acc := .rw }
def devDomainOff : RegField := { off := 0x0100, lsb := 0, width := 1, acc := .w1c }
def devGuardFail : RegField := { off := 0x0100, lsb := 1, width := 1, acc := .w1c }
def devBadWrite : RegField := { off := 0x0100, lsb := 2, width := 1, acc := .w1c }
def devDomains : RegField := roField 0x0104 0 14 0
def devGuardFails : RegField := roWord 0x0108
def devGuardOff : RegField := roField 0x010C 0 25 0
def devGuardRid : RegField := roField 0x0110 0 16 0
def devGuardWhy : RegField := roField 0x0110 16 4 0
def devGuardFn : RegField := roField 0x0110 20 6 0
def devBadWrites : RegField := roWord 0x0114
def devDomainDrops : RegField := roWord 0x0118

def devFields : List RegField :=
  [roField 0x0000 0 16 0x0B07, roField 0x0000 16 8 0x01, devScratch, devDomainOff, devGuardFail, devBadWrite, devDomains,
   devGuardFails, devGuardOff, devGuardRid, devGuardWhy, devGuardFn, devBadWrites, devDomainDrops]

/-! ### HIF (R318, R484) -/

def hifBase : Nat := 0x10000
def hifEnable : RegField := { off := 0x10000, lsb := 0, width := 1, acc := .rw }
def hifDbmode : RegField := keyField 0x10004 0 1 .rwg 1 0 1 0 false
def hifDevFetch : RegField := keyField 0x10004 1 12 .rwg 2048 1 2048 1 false
def hifHeadStage : RegField := keyField 0x10008 0 10 .rwg 256 0 512 2 false
def hifTailWb : RegField := keyField 0x10008 16 10 .rwg 256 0 512 3 false
def hifRingArea : RegField := keyField 0x1000C 0 6 .rwg 16 4 48 4 true
def hifMirrorStage : RegField := keyField 0x1000C 8 4 .rwg 2 1 8 5 true
def hifRctLo : RegField := { off := 0x10010, lsb := 12, width := 20, acc := .rwg }
def hifRctHi : RegField := { off := 0x10014, lsb := 0, width := 32, acc := .rwg }
def hifPitLo : RegField := { off := 0x10018, lsb := 6, width := 26, acc := .rwg }
def hifPitHi : RegField := { off := 0x1001C, lsb := 0, width := 32, acc := .rwg }
def hifDbbLo : RegField := { off := 0x10020, lsb := 6, width := 26, acc := .rwg }
def hifDbbHi : RegField := { off := 0x10024, lsb := 0, width := 32, acc := .rwg }
def hifRstLo : RegField := { off := 0x10028, lsb := 6, width := 26, acc := .rwg }
def hifRstHi : RegField := { off := 0x1002C, lsb := 0, width := 32, acc := .rwg }
def hifRunning : RegField := roField 0x10100 0 1 0
def hifFallback : RegField := roField 0x10100 1 1 0
def hifD3hot : RegField := roField 0x10100 2 1 0
def hifLinkWidth : RegField := roField 0x10100 3 5 0
def hifLinkGen : RegField := roField 0x10100 8 4 0
def hifSeqErr : RegField := roWord 0x10104
def hifOverrun : RegField := roWord 0x10108
def hifLateRead : RegField := roWord 0x1010C
def hifCasRetry : RegField := roWord 0x10110
def hifSpuriousDb : RegField := roWord 0x10114
def hifFetchDefer : RegField := roWord 0x10118
def hifStageFull : RegField := roWord 0x1011C
def hifVfFirst (v : Nat) : RegField := keyField (0x10200 + 4 * v) 0 10 .rwg 0 1 1023 (6 + 2 * (v - 1)) false
def hifVfCount (v : Nat) : RegField := keyField (0x10200 + 4 * v) 16 10 .rwg 0 0 1023 (7 + 2 * (v - 1)) false

/-- The fields that a VF's HIF block has too (R319): control, table bases, status and counters. -/
def hifCommon : List RegField :=
  [hifEnable, hifRctLo, hifRctHi, hifPitLo, hifPitHi, hifDbbLo, hifDbbHi, hifRstLo, hifRstHi, hifRunning, hifFallback,
   hifD3hot, hifLinkWidth, hifLinkGen, hifSeqErr, hifOverrun, hifLateRead, hifCasRetry, hifSpuriousDb, hifFetchDefer,
   hifStageFull]

def hifFields : List RegField :=
  hifCommon ++ [hifDbmode, hifDevFetch, hifHeadStage, hifTailWb, hifRingArea, hifMirrorStage]

/-! ### HST (R287, R484) -/

def hstTurnTicks : RegField := keyField 0x20000 0 20 .rwg 10000 5000 1000000 132 false
def hstOpMax : RegField := keyField 0x20004 0 3 .rwg 0 0 5 133 false
def hstOpMin : RegField := keyField 0x20004 3 3 .rwg 5 0 5 134 false
def hstFixed : RegField := keyField 0x20004 6 1 .rwg 0 0 1 135 false
def hstLatShare : RegField := keyField 0x20008 0 6 .rwg 20 0 50 136 false
def hstPassLimit : RegField := keyField 0x20008 8 8 .rw 64 1 255 137 false
def hstWeight (c : Nat) : RegField :=
  match c with
  | 1 => keyField 0x2000C 0 8 .rw 32 1 255 138 false
  | 2 => keyField 0x2000C 8 8 .rw 16 1 255 139 false
  | 3 => keyField 0x2000C 16 8 .rw 16 1 255 140 false
  | 4 => keyField 0x2000C 24 8 .rw 8 1 255 141 false
  | 5 => keyField 0x20010 0 8 .rw 4 1 255 142 false
  | 6 => keyField 0x20010 8 8 .rw 2 1 255 143 false
  | _ => keyField 0x20010 16 8 .rw 1 1 255 144 false
def hstStashPool : RegField := keyField 0x20014 0 9 .rwg 64 0 256 145 true
def hstEngine : RegField := roField 0x20100 6 1 0
def hstTurnOverrun : RegField := roWord 0x20110
def hstLatDefer : RegField := roWord 0x20114
def hstBlocker : RegField := roWord 0x20118
def hstFailovers : RegField := roWord 0x2011C
def hstPlanReject : RegField := roWord 0x20120
def hstElasticOverrun : RegField := roWord 0x20124

def hstFields : List RegField :=
  [hstTurnTicks, hstOpMax, hstOpMin, hstFixed, hstLatShare, hstPassLimit, hstWeight 1, hstWeight 2, hstWeight 3, hstWeight 4,
   hstWeight 5, hstWeight 6, hstWeight 7, hstStashPool, hstEngine, hstTurnOverrun, hstLatDefer, hstBlocker, hstFailovers,
   hstPlanReject, hstElasticOverrun]

/-! ### TLS (R287) -/

def tlsCeilW : RegField := keyField 0x30000 0 11 .rwg 1400 600 1600 146 false
def tlsIncapW : RegField := keyField 0x30004 0 11 .rwg 0 0 2000 147 false
def tlsTrip : RegField := keyField 0x30008 0 7 .rwg 76 40 80 148 false
def tlsTjBudget : RegField := keyField 0x3000C 0 7 .rwg 98 70 99 149 false
def tlsTjSoft : RegField := keyField 0x3000C 8 7 .rwg 92 60 99 150 false
def tlsENext : RegField := roWord 0x30100
def tlsECeil : RegField := roWord 0x30104
def tlsETh : RegField := roWord 0x30108
def tlsEIn : RegField := roWord 0x3010C
def tlsEFix : RegField := roWord 0x30110
def tlsKappa : RegField := roField 0x30114 0 9 256
def tlsBrake : RegField := roField 0x30118 0 1 0
def tlsCur : RegField := roField 0x30118 1 1 0
def tlsPin : RegField := roField 0x30118 2 1 0
def tlsHot : RegField := roField 0x30118 3 1 0
def tlsBrakeCount : RegField := roWord 0x3011C

def tlsFields : List RegField :=
  [tlsCeilW, tlsIncapW, tlsTrip, tlsTjBudget, tlsTjSoft, tlsENext, tlsECeil, tlsETh, tlsEIn, tlsEFix, tlsKappa, tlsBrake,
   tlsCur, tlsPin, tlsHot, tlsBrakeCount]

/-! ### NVI (15 R432) -/

def nviKeySel : RegField := { off := 0x40000, lsb := 0, width := 16, acc := .rw }
def nviMeasure : RegField := { off := 0x40020, lsb := 0, width := 1, acc := .wo }
def nviFlash0Ok : RegField := roField 0x40100 0 1 0
def nviFlash1Ok : RegField := roField 0x40100 1 1 0
def nviSlotAValid : RegField := roField 0x40100 2 1 0
def nviSlotBValid : RegField := roField 0x40100 3 1 0
def nviActiveSlot : RegField := roField 0x40100 4 1 0
def nviNoUser : RegField := roField 0x40100 5 1 0
def nviPending : RegField := roField 0x40100 6 1 0
def nviHoldupOk : RegField := roField 0x40100 7 1 0
def nviBootStage : RegField := roField 0x40100 8 4 0
def nviNrCode : RegField := roField 0x40100 12 4 0
def nviReady : RegField := roField 0x40100 16 1 0
def nviGenLo : RegField := roWord 0x40104
def nviGenHi : RegField := roWord 0x40108
def nviHuCap : RegField := roField 0x4010C 0 16 0
def nviHuEsr : RegField := roField 0x4010C 16 16 0
def nviHuVolt : RegField := roField 0x40110 0 16 0
def nviHuEmj : RegField := roWord 0x40114
def nviChunkPages : RegField := roField 0x40118 0 16 0
def nviStores : RegField := roWord 0x4011C
def nviDefers : RegField := roWord 0x40120
def nviKeyDrop : RegField := roWord 0x40124
def nviCompacts : RegField := roWord 0x40128
def nviMinSvn : RegField := roWord 0x40130

def nviFields : List RegField :=
  [nviKeySel, nviMeasure, nviFlash0Ok, nviFlash1Ok, nviSlotAValid, nviSlotBValid, nviActiveSlot, nviNoUser, nviPending,
   nviHoldupOk, nviBootStage, nviNrCode, nviReady, nviGenLo, nviGenHi, nviHuCap, nviHuEsr, nviHuVolt, nviHuEmj, nviChunkPages,
   nviStores, nviDefers, nviKeyDrop, nviCompacts, nviMinSvn]

/-! ### SEC (16 R457) -/

def secAuthTries : RegField := keyField 0x50000 0 4 .rwg 5 3 15 151 false
def secSpdmMctp : RegField := keyField 0x50000 4 1 .rwg 1 0 1 152 false
def secSbIdle : RegField := keyField 0x50004 0 16 .rwg 600 60 3600 153 false
def secOwned : RegField := roField 0x50100 0 1 0
def secOsig : RegField := roField 0x50100 1 1 0
def secAuthFails : RegField := roWord 0x50110
def secLockouts : RegField := roWord 0x50114
def secSpdmNotReady : RegField := roWord 0x50118

def secFields : List RegField :=
  [secAuthTries, secSpdmMctp, secSbIdle, secOwned, secOsig, secAuthFails, secLockouts, secSpdmNotReady]

/-! ### ERR (13 R374) -/

def errDiscard : RegField := { off := 0x60000, lsb := 0, width := 1, acc := .rwg, hi := 1 }
def errReq : RegField := { off := 0x60004, lsb := 0, width := 2, acc := .wo }
def errNcHold : RegField := keyField 0x60008 0 8 .rwg 192 16 255 154 false
def errRecovering : RegField := roField 0x60100 9 1 0
def errNvOne : RegField := roField 0x60100 10 1 0
def errEpoch : RegField := roWord 0x60104
def errCeDrop : RegField := roWord 0x60108
def errNvOverflow : RegField := roWord 0x6010C
def errReexec : RegField := roWord 0x60110
def errPartResets : RegField := roWord 0x60114
def errTargetResets : RegField := roWord 0x60118
def errStateLost : RegField := roWord 0x6011C
def errEpochWait : RegField := roWord 0x60120
def errMpTakeovers : RegField := roWord 0x60124

def errFields : List RegField :=
  [errDiscard, errReq, errNcHold, errRecovering, errNvOne, errEpoch, errCeDrop, errNvOverflow, errReexec, errPartResets,
   errTargetResets, errStateLost, errEpochWait, errMpTakeovers]

/-! ### AUD (12 R341) -/

def audTraceEn : RegField := keyField 0x70000 0 1 .rwg 1 0 1 155 false
def audTraceLevel : RegField := keyField 0x70000 1 1 .rwg 0 0 1 156 false
def audTraceHold : RegField := keyField 0x70000 2 1 .rwg 1 0 1 157 false
def audReplay : RegField := keyField 0x70000 3 1 .rwg 0 0 1 158 true
def audSealN : RegField := keyField 0x70004 0 24 .rwg 10000 1000 16777215 159 false
def audSealNow : RegField := { off := 0x70008, lsb := 0, width := 1, acc := .wo }
def audReplayActive : RegField := roField 0x70100 0 1 0
def audDiverged : RegField := roField 0x70100 1 1 0
def audSigning : RegField := roField 0x70100 2 1 0
def audBootLo : RegField := roWord 0x70104
def audBootHi : RegField := roWord 0x70108
def audSealtLo : RegField := roWord 0x7010C
def audSealtHi : RegField := roWord 0x70110
def audSealSkip : RegField := roWord 0x70114
def audTraceHolds : RegField := roWord 0x70118
def audTraceGaps : RegField := roWord 0x7011C
def audMarkDrop : RegField := roWord 0x70120
def audReplayWait : RegField := roWord 0x70124
def audNd (i : Nat) : RegField := roWord (0x70140 + 4 * i)
def audDivTurnLo : RegField := roWord 0x70180
def audDivTurnHi : RegField := roWord 0x70184
def audDivRing : RegField := roField 0x70188 0 16 0
def audDivSlice : RegField := roField 0x70188 16 16 0
def audDivSeqLo : RegField := roWord 0x7018C
def audDivSeqHi : RegField := roWord 0x70190
def audDivKind : RegField := roField 0x70194 0 4 0

def audFields : List RegField :=
  [audTraceEn, audTraceLevel, audTraceHold, audReplay, audSealN, audSealNow, audReplayActive, audDiverged, audSigning,
   audBootLo, audBootHi, audSealtLo, audSealtHi, audSealSkip, audTraceHolds, audTraceGaps, audMarkDrop, audReplayWait,
   audNd 0, audNd 1, audNd 2, audNd 3, audNd 4, audNd 5, audDivTurnLo, audDivTurnHi, audDivRing, audDivSlice, audDivSeqLo,
   audDivSeqHi, audDivKind]

/-! ### WIT (17 R470) -/

def witReplanH : RegField := keyField 0x80000 0 8 .rwg 24 1 168 160 false
def witRaiseMv : RegField := keyField 0x80000 8 6 .rwg 30 25 60 161 false
def witOffMax : RegField := keyField 0x80000 14 4 .rwg 12 4 12 162 false
def witRetireWait : RegField := keyField 0x80004 0 20 .rwg 100000 1000 1000000 163 false
def witWindowNow : RegField := { off := 0x80008, lsb := 0, width := 1, acc := .wo }
def witOff (p : Nat) : RegField := roField 0x80100 (4 * p) 4 0
def witDieOff (d : Nat) : RegField := roField 0x80104 (4 * d) 4 0
def witTheta : RegField := roField 0x80104 16 16 256
def witReplanning : RegField := roField 0x80108 0 1 0
def witAtRisk : RegField := roField 0x80108 1 1 0
def witRlDays : RegField := roField 0x80108 16 16 0
def witRl (i : Nat) : RegField := roField (0x8010C + 4 * (i / 2)) (16 * (i % 2)) 16 0
def witReplans : RegField := roWord 0x80118
def witCoresRetired : RegField := roWord 0x8011C
def witOffsetRaises : RegField := roWord 0x80120
def witMargin (c : Nat) : RegField := roField (0x80200 + 4 * c) 0 8 0

def witFields : List RegField :=
  [witReplanH, witRaiseMv, witOffMax, witRetireWait, witWindowNow, witOff 0, witOff 1, witOff 2, witOff 3, witOff 4, witOff 5,
   witDieOff 0, witDieOff 1, witDieOff 2, witDieOff 3, witTheta, witReplanning, witAtRisk, witRlDays, witRl 0, witRl 1,
   witRl 2, witRl 3, witRl 4, witRl 5, witReplans, witCoresRetired, witOffsetRaises]

/-! ### HBM (18 R486) -/

def hbmLocalGib : RegField := keyField 0x90000 0 5 .rwg 2 0 16 164 true
def hbmMirrorGib : RegField := keyField 0x90000 8 5 .rwg 6 2 16 165 true
def hbmCeCount (k p : Nat) : RegField := roWord (0x90400 + 4 * (32 * k + p))

def hbmFields : List RegField := [hbmLocalGib, hbmMirrorGib]

/-! ### LNK (14 R406) -/

def lnkSyncMode : RegField := keyField 0xA0000 0 2 .rwg 0 0 2 166 true
def lnkTrainMode : RegField := keyField 0xA0000 2 1 .rwg 0 0 1 167 false
def lnkBufferMib : RegField := keyField 0xA0004 0 14 .rwg 1024 256 8192 168 true
def lnkLinkHold : RegField := keyField 0xA0008 0 20 .rwg 100000 1000 1000000 169 false
def lnkFbase (f : Nat) : RegField := keyField (0xA0100 + 4 * f) 0 12 .rwg 0 0 4095 (170 + f) false
def lnkSelf : RegField := roField 0xA0200 0 12 0
def lnkMaster : RegField := roField 0xA0200 12 1 0
def lnkReady : RegField := roField 0xA0200 13 1 0
def lnkSyncLost : RegField := roField 0xA0200 14 1 0
def lnkLag : RegField := roField 0xA0200 15 2 0
def lnkTopoCode : RegField := roField 0xA0200 17 4 0
def lnkSturnLo : RegField := roWord 0xA0204
def lnkSturnHi : RegField := roWord 0xA0208
def lnkSyncErr : RegField := roField 0xA020C 0 16 0
def lnkReplay : RegField := roWord 0xA0500
def lnkE2eRetx : RegField := roWord 0xA0504
def lnkLate : RegField := roWord 0xA0508
def lnkOrphan : RegField := roWord 0xA050C
def lnkFlitBad : RegField := roWord 0xA0510
def lnkResync : RegField := roWord 0xA0514
def lnkLanesSpared : RegField := roWord 0xA0518
def lnkRouteLoss : RegField := roWord 0xA051C

def lnkFields : List RegField :=
  [lnkSyncMode, lnkTrainMode, lnkBufferMib, lnkLinkHold, lnkSelf, lnkMaster, lnkReady, lnkSyncLost, lnkLag, lnkTopoCode,
   lnkSturnLo, lnkSturnHi, lnkSyncErr, lnkReplay, lnkE2eRetx, lnkLate, lnkOrphan, lnkFlitBad, lnkResync, lnkLanesSpared,
   lnkRouteLoss]

/-! ### PIN (18 R487): input n is pin code n, 1 to 4 -/

def pinFilter (n : Nat) : RegField :=
  keyField (0xB0000 + 4 * n) 0 8 .rwg (if n = 1 then 20 else if n = 4 then 200 else 0) (if n = 2 || n = 3 then 0 else 1) 200
    (234 + 3 * (n - 1)) false
def pinStuckS (n : Nat) : RegField :=
  keyField (0xB0000 + 4 * n) 8 8 .rwg (if n = 1 || n = 4 then 10 else 0) 0 255 (235 + 3 * (n - 1)) false
def pinRateEn (n : Nat) : RegField := keyField (0xB0000 + 4 * n) 16 1 .rwg 1 0 1 (236 + 3 * (n - 1)) false
def pinEdgeSync : RegField := keyField 0xB0040 0 2 .rwg 0 0 2 246 false
def pinEdgeTrip : RegField := keyField 0xB0040 2 2 .rwg 1 0 2 247 false
def pinLevel (n : Nat) : RegField := roField (0xB0100 + 4 * n) 0 1 0
def pinUnstableF (n : Nat) : RegField := roField (0xB0100 + 4 * n) 1 1 0
def pinStuckF (n : Nat) : RegField := roField (0xB0100 + 4 * n) 2 1 0
def pinRaw (n : Nat) : RegField := roField (0xB0100 + 4 * n) 3 1 0
def pinEvents (n : Nat) : RegField := roWord (0xB0140 + 4 * n)

def pinFieldsOf (n : Nat) : List RegField :=
  [pinFilter n, pinStuckS n, pinRateEn n, pinLevel n, pinUnstableF n, pinStuckF n, pinRaw n, pinEvents n]

def pinFields : List RegField :=
  pinFieldsOf 1 ++ pinFieldsOf 2 ++ pinFieldsOf 3 ++ pinFieldsOf 4 ++ [pinEdgeSync, pinEdgeTrip]

/-! ### CLK (18 R488) -/

def clkSpread : RegField := keyField 0xC0000 0 2 .rwg 2 0 2 248 true
def clkSscKhz : RegField := keyField 0xC0000 2 6 .rwg 32 30 33 249 true
def clkSysLock : RegField := roField 0xC0100 0 1 0
def clkCoreLock (i : Nat) : RegField := roField 0xC0100 (1 + i) 1 0
def clkPcieLock : RegField := roField 0xC0100 3 1 0
def clkLnkLock (i : Nat) : RegField := roField 0xC0100 (4 + i) 1 0
def clkPpsValid : RegField := roField 0xC0100 6 1 0
def clkPtmValid : RegField := roField 0xC0100 7 1 0
def clkCoreMhz : RegField := roField 0xC0104 0 12 0
def clkLoss : RegField := roWord 0xC0108

def clkFields : List RegField :=
  [clkSpread, clkSscKhz, clkSysLock, clkCoreLock 0, clkCoreLock 1, clkPcieLock, clkLnkLock 0, clkLnkLock 1, clkPpsValid,
   clkPtmValid, clkCoreMhz, clkLoss]

/-! ### CORE windows (18 R489) -/

def coreWindow (c : Nat) : Nat := 0x100000 + 0x1000 * c
def coreCntFreeze (c : Nat) : RegField := { off := coreWindow c + 4, lsb := 0, width := 1, acc := .rw }

/-! ### Look-up -/

/-- The key of VF `f`'s registers: its BAR0 stands at f × 2^26 (f = 0 is the PF). -/
def barOf (f : Nat) : Nat := f * 0x4000000

/-- The fields of the register at `off` of the PF's BAR0 that hold state. -/
def regFields (off : Nat) : List RegField :=
  let pick (l : List RegField) : List RegField := l.filter (fun f => decide (f.off = off))
  match off / 0x10000 with
  | 0x0 => pick devFields
  | 0x1 =>
    if 0x10204 ≤ off ∧ off ≤ 0x102FC then [hifVfFirst ((off - 0x10200) / 4), hifVfCount ((off - 0x10200) / 4)]
    else pick hifFields
  | 0x2 => pick hstFields
  | 0x3 => pick tlsFields
  | 0x4 => pick nviFields
  | 0x5 => pick secFields
  | 0x6 => pick errFields
  | 0x7 => pick audFields
  | 0x8 =>
    if 0x80200 ≤ off ∧ off < 0x80200 + 4 * 144 then [witMargin ((off - 0x80200) / 4)] else pick witFields
  | 0x9 =>
    if 0x90400 ≤ off ∧ off < 0x90800 then [roWord off] else pick hbmFields
  | 0xA =>
    if 0xA0100 ≤ off ∧ off < 0xA0200 then [lnkFbase ((off - 0xA0100) / 4)] else pick lnkFields
  | 0xB => pick pinFields
  | 0xC => pick clkFields
  | _ => if 0x100000 ≤ off ∧ off % 0x1000 = 4 then [coreCntFreeze ((off - 0x100000) / 0x1000)] else []

/-- The fields of the register at `off` of function `f`'s BAR0, by PF offset: a VF has one HIF block (R319). -/
def fnBarFields (f off : Nat) : List RegField :=
  if f = 0 then regFields off else hifCommon.filter (fun g => decide (g.off = 0x10000 + off))

/-- The register key under which function `f` holds PF-form offset `off`. -/
def fnReg (f off : Nat) : Nat := barOf f + off

/-- The keyed register fields, in key order (15 R520). -/
def keyedFields : List RegField :=
  [hifDbmode, hifDevFetch, hifHeadStage, hifTailWb, hifRingArea, hifMirrorStage]
    ++ (List.range 63).flatMap (fun i => [hifVfFirst (i + 1), hifVfCount (i + 1)])
    ++ [hstTurnTicks, hstOpMax, hstOpMin, hstFixed, hstLatShare, hstPassLimit, hstWeight 1, hstWeight 2, hstWeight 3,
        hstWeight 4, hstWeight 5, hstWeight 6, hstWeight 7, hstStashPool]
    ++ [tlsCeilW, tlsIncapW, tlsTrip, tlsTjBudget, tlsTjSoft, secAuthTries, secSpdmMctp, secSbIdle, errNcHold]
    ++ [audTraceEn, audTraceLevel, audTraceHold, audReplay, audSealN, witReplanH, witRaiseMv, witOffMax, witRetireWait]
    ++ [hbmLocalGib, hbmMirrorGib, lnkSyncMode, lnkTrainMode, lnkBufferMib, lnkLinkHold]
    ++ (List.range 64).map lnkFbase
    ++ [pinFilter 1, pinStuckS 1, pinRateEn 1, pinFilter 2, pinStuckS 2, pinRateEn 2, pinFilter 3, pinStuckS 3, pinRateEn 3,
        pinFilter 4, pinStuckS 4, pinRateEn 4, pinEdgeSync, pinEdgeTrip, clkSpread, clkSscKhz]

/-- NKEYS: the register keys and the one record-valued key (R520). -/
def nKeys : Nat := 251

/-- The field of key `k`. -/
def keyFieldOf (k : Nat) : Option RegField := keyedFields[k]?

/-- The register word that holds the fields' defaults. -/
def defaultWord (fs : List RegField) : BitVec 32 :=
  BitVec.ofNat 32 (fs.foldl (fun a f => a + f.dflt * 2 ^ f.lsb) 0)

/-- The offsets of the registers that have a default other than zero in some field. -/
def defaultOffsets : List Nat :=
  [0x0000, 0x10004, 0x10008, 0x1000C, 0x20000, 0x20004, 0x20008, 0x2000C, 0x20010, 0x20014, 0x30000, 0x30008, 0x3000C, 0x30114,
   0x50000, 0x50004, 0x60008, 0x70000, 0x70004, 0x80000, 0x80004, 0x80104, 0x90000, 0xA0004, 0xA0008, 0xB0004, 0xB0008,
   0xB000C, 0xB0010, 0xB0040, 0xC0000]

/-- Every register at its Default column. -/
def defaultRegs : SMap (BitVec 32) := defaultOffsets.map (fun o => (o, defaultWord (regFields o)))

end Sys2Proof.Machine
end

