-- ==== Sys2Proof/Machine/State.lean ====
section
/-! DEFINITION. The state of the part, the reasons a step can stop, and the state after reset: before VIN has risen, registers
at their Default column, nothing loaded, part of grade IKB-7A-128 as the factory leaves it. -/

namespace Sys2Proof.Machine

/-- Why the machine stops with a fault. -/
inductive Fault where
  /-- Raised by no command: the spec gives every access and every word of this part an outcome (safe). -/
  | unreachable
  deriving DecidableEq, Repr

/-- Why a command has no meaning. -/
inductive Refusal where
  /-- The arm of the dispatcher stands for a command that has no meaning yet (safe). -/
  | notModelled (mnemonic : String)
  /-- An operation word that load validation rejects (02 R50, R63) cannot reach a core: a reserved encoding, a field outside
  its range, or an address that the word fixes past the end of its memory. Raised by the word commands (safe). -/
  | illFormed (mnemonic : String)
  deriving DecidableEq, Repr

/-- The state of the block. -/
structure State where
  /-- register fields by BAR0 offset; VF f's stand at f times 2^26 -/
  regs : SMap (BitVec 32)
  /-- guarded writes, read latches, MSI-X masks, functions in D3hot -/
  access : Access
  /-- the answer to the last request -/
  reply : Reply
  /-- physical cores -/
  cores : SMap Core
  /-- remote effects on their way over the mesh, oldest first -/
  mesh : List Landing
  hbm : Hbm
  /-- host memory -/
  host : Mem
  plans : List Plan
  rings : SMap (Option Ring)
  /-- the journal, in order of acceptance -/
  works : List Work
  /-- weight sets present: number, class key, bytes -/
  wsets : List (Nat × Nat × Nat)
  turn : Turn
  /-- configuration epoch steps that wait to apply, oldest first -/
  epochs : List EpochItem
  errs : Errs
  audit : Audit
  nv : Nv
  sec : Security
  links : Links
  power : Power
  thermal : Thermal
  witness : Witness
  /-- commands that wait, first in first out -/
  pending : List Instr
  /-- the model's own: free values are constants of it, and every use advances it -/
  freeCtr : Nat
  deriving DecidableEq, Repr

/-- The state right after reset. -/
def State.reset : State :=
  { regs := defaultRegs
    access := {}
    reply := .none
    cores := []
    mesh := []
    hbm := {}
    host := []
    plans := []
    rings := []
    works := []
    wsets := []
    turn := {}
    epochs := []
    errs := {}
    audit := {}
    nv := {}
    sec := {}
    links := {}
    power := {}
    thermal := {}
    witness := {}
    pending := []
    freeCtr := 0 }

end Sys2Proof.Machine
end

