-- ==== Sys2Proof/Machine/Ops.lean ====
section
/-! DEFINITION. The named operations over the device state: register fields, cores, error records (13 R363 to R365), the HBM
map (09 R244, R258), the memory that a placed slice sees outside core memory (08 R229, R230; 13 R347), aborts (10 R285), and
trace events (12 R335). -/

namespace Sys2Proof.Machine

/-! ### Registers -/

/-- The register at key `k`. -/
def State.reg (s : State) (k : Nat) : BitVec 32 := SMap.get 0 s.regs k

def State.setReg (s : State) (k : Nat) (v : BitVec 32) : State := { s with regs := SMap.set 0 s.regs k v }

/-- A register word with `width` bits from `lsb` replaced. -/
def putField (v : BitVec 32) (lsb width x : Nat) : BitVec 32 :=
  BitVec.ofNat 32 (v.toNat - bitField v.toNat lsb width * 2 ^ lsb + (x % 2 ^ width) * 2 ^ lsb)

/-- The value of a field of the PF's BAR0. -/
def State.fld (s : State) (f : RegField) : Nat := bitField (s.reg f.off).toNat f.lsb f.width

/-- Sets a field of the PF's BAR0. -/
def State.setFld (s : State) (f : RegField) (x : Nat) : State := s.setReg f.off (putField (s.reg f.off) f.lsb f.width x)

def State.flag (s : State) (f : RegField) : Bool := decide (s.fld f ≠ 0)

def State.setFlag (s : State) (f : RegField) (b : Bool) : State := s.setFld f (if b then 1 else 0)

/-- Adds `n` to a counter; counters wrap. -/
def State.bump (s : State) (f : RegField) (n : Nat) : State := s.setFld f (s.fld f + n)

/-- The key of a HIF field in function `f`'s BAR0 (R319): a VF's block starts at 0. -/
def hifKey (f : Nat) (g : RegField) : Nat := if f = 0 then g.off else barOf f + (g.off - hifBase)

def State.hif (s : State) (f : Nat) (g : RegField) : Nat := bitField (s.reg (hifKey f g)).toNat g.lsb g.width

def State.setHif (s : State) (f : Nat) (g : RegField) (x : Nat) : State :=
  s.setReg (hifKey f g) (putField (s.reg (hifKey f g)) g.lsb g.width x)

/-- Adds one to a HIF counter of function `f`. -/
def State.bumpHif (s : State) (f : Nat) (g : RegField) : State := s.setHif f g (s.hif f g + 1)

/-- A 64-bit value in two registers. -/
def State.setPair (s : State) (lo hi : RegField) (x : Nat) : State := (s.setFld lo x).setFld hi (x / 2 ^ 32)

def State.pair (s : State) (lo hi : RegField) : Nat := s.fld lo + 2 ^ 32 * s.fld hi

/-- Advances the free-value counter. -/
def State.tickFree (s : State) : State := { s with freeCtr := s.freeCtr + 1 }

/-- A free reference tick within the turn: no command carries the tick at which it happens. -/
def State.freeTick (s : State) : Nat := Config.freeNat 40 s.freeCtr 0 % (max 1 s.turn.ticks)

/-! ### Cores -/

def State.core (s : State) (c : Nat) : Core := SMap.get {} s.cores c

def State.setCore (s : State) (c : Nat) (x : Core) : State := { s with cores := SMap.set {} s.cores c x }

def State.updCore (s : State) (c : Nat) (f : Core → Core) : State := s.setCore c (f (s.core c))

/-- What the model records of a core's service (10 R65, R285; 17 R465): 0 in service, 1 failed, 2 retired. -/
def State.coreOut (s : State) (c : Nat) : Nat := SMap.get 0 s.witness.coreState c

/-- Physical cores neither retired nor failed. -/
def State.inService (s : State) : List Nat := (List.range 144).filter (fun c => decide (s.coreOut c = 0))

/-- NCORE (15 R421): logical cores of the grade that the factory repair map names. -/
def State.gradeCores (s : State) : Nat := if s.nv.gradeB then 112 else 128

/-- Cores withheld for the maintenance window in the turn in force (17 R462). -/
def State.withheldNow (s : State) : List Nat := s.turn.withheld

/-- The service set (02 R65): its cores in service that are not withheld, and the spares that stand in; before bring-up has made it, the
lowest-numbered cores. -/
def State.serviceSet (s : State) : List Nat :=
  let open_ := s.inService.filter (fun c => !s.withheldNow.contains c)
  if s.turn.members.isEmpty then open_.take s.gradeCores
  else open_.filter (fun c => s.turn.members.contains c || s.turn.stand.contains c)

/-- Whether a chain is pinned to a core. -/
def State.anyPinned (s : State) (c : Nat) : Bool := s.works.any (fun w => w.chain.pins.contains c)

/-- The spares of a turn that begins, ascending: cores in service, neither withheld nor in the set or standing in. -/
def State.spareCores (s : State) (taken : List Nat) : List Nat :=
  s.inService.filter (fun c => !s.withheldNow.contains c && !taken.contains c)

/-- The service set at a head (02 R65): the lowest-numbered spares take the places of cores that failed or retired and stand in for one
that is withheld; a stand-in goes back to the spares once no chain is pinned to it. -/
def State.updateService (s : State) : State :=
  let kept := s.turn.members.filter (fun c => decide (s.coreOut c = 0))
  let held := s.turn.stand.filter (fun c => decide (s.coreOut c = 0) && s.anyPinned c)
  let members := kept ++ (s.spareCores (kept ++ held)).take (s.gradeCores - kept.length)
  let away := (members.filter s.withheldNow.contains).length
  { s with turn := { s.turn with members := members, stand := held ++ (s.spareCores (members ++ held)).take away } }

/-! ### Error records -/

/-- Records waiting in the queue that are not corrected. -/
def Errs.nonCorrected (e : Errs) : Nat :=
  (e.queue.filter (fun r => decide (r.sev ≠ 0))).length + e.overflow.length

/-- Puts a record into the error queue (13 R365): merging, displacement of corrected records, overflow. -/
def State.enqueue (s : State) (r : ErrRec) : State :=
  let same (q : ErrRec) : Bool :=
    decide (r.sev = 0) && decide (q.sev = 0) && decide (q.cause = r.cause) && decide (q.unit = r.unit)
      && decide (q.inst = r.inst) && decide (q.turn = r.turn)
  if s.errs.queue.any same then
    { s with errs := { s.errs with
        queue := s.errs.queue.map (fun q => if same q then { q with count := q.count + 1 } else q) } }
  else if s.errs.queue.length < 256 then { s with errs := { s.errs with queue := s.errs.queue ++ [r] } }
  else
    match s.errs.queue.findIdx? (fun q => decide (q.sev = 0)) with
    | some i =>
      let e := { s.errs with queue := s.errs.queue.eraseIdx i ++ [r], dropped := s.errs.dropped + 1 }
      ({ s with errs := e }).bump errCeDrop 1
    | none =>
      if r.sev = 0 then ({ s with errs := { s.errs with dropped := s.errs.dropped + 1 } }).bump errCeDrop 1
      else ({ s with errs := { s.errs with overflow := s.errs.overflow ++ [r] } }).bump errNvOverflow 1

/-- Logs an error record of a cause; the caller's record gives instance and location. -/
def State.log (s : State) (cause : Cause) (r : ErrRec) : State :=
  let rec0 := { r with turn := s.turn.number, sev := cause.sev, cause := cause.code, tick := s.freeTick }
  s.tickFree.enqueue { rec0 with unit := if r.unit = 0 then cause.unit else r.unit }

/-! ### Trace (12 R335) -/

def le16 (x : Nat) : List Byte := natToBytes 2 x
def le32 (x : Nat) : List Byte := natToBytes 4 x
def le64 (x : Nat) : List Byte := natToBytes 8 x
def zeros (n : Nat) : List Byte := List.replicate n 0

/-- Pads or cuts a byte string to `n` bytes. -/
def fitBytes (n : Nat) (bs : List Byte) : List Byte := bs.take n ++ zeros (n - bs.length)

/-- Adds a one-part record to the turn's trace, when the trace is on. In replay the records serve the comparison (R340). -/
def State.trace1 (s : State) (rtype : Nat) (payload : List Byte) : State :=
  if s.flag audTraceEn || s.flag audReplayActive then
    { s with audit := { s.audit with
        turnTrace := s.audit.turnTrace ++ [{ turn := s.turn.number, rtype := rtype, part := 0, npart := 1, payload := fitBytes 48 payload }] } }
  else s

/-- The payload parts of a multi-record item: 48 bytes each, the last zero-padded (12 R334). -/
def recParts (turn rtype : Nat) (bytes : List Byte) : List RingRec :=
  let n := ceilDiv bytes.length 48
  (List.range n).map (fun i =>
    { turn := turn, rtype := rtype, part := i, npart := n, payload := fitBytes 48 (sliceBytes bytes (48 * i) 48) })

/-- Adds a multi-record item to the turn's trace, when the trace is on. -/
def State.traceItem (s : State) (rtype : Nat) (bytes : List Byte) : State :=
  if s.flag audTraceEn || s.flag audReplayActive then
    { s with audit := { s.audit with turnTrace := s.audit.turnTrace ++ recParts s.turn.number rtype bytes } }
  else s

/-- Writes an EVENT record. -/
def State.event (s : State) (code cause ring seq slice : Nat) : State :=
  (s.trace1 0x09 ([BitVec.ofNat 8 code, BitVec.ofNat 8 cause] ++ le16 ring ++ le32 seq ++ le16 slice ++ le16 0
    ++ le32 s.freeTick)).tickFree

/-- Writes a PIN record. -/
def State.pinEvent (s : State) (pin event tick : Nat) : State :=
  s.trace1 0x08 ([BitVec.ofNat 8 pin, BitVec.ofNat 8 event] ++ le32 tick ++ le16 0)

/-! ### The HBM map (09 R243 to R246, R258) -/

def gib : Nat := 2 ^ 30
def stackBytes : Nat := 62 * gib

/-- The key under which a byte of stack `k` is held. -/
def stackKey (k soff : Nat) : Nat := k * 2 ^ 36 + soff

/-- The class key of a global address: target and offset. -/
def classKey (target off : Nat) : Nat := target * 2 ^ 44 + off % 2 ^ 44

def Hbm.liveStacks (h : Hbm) : List Nat := (List.range 8).filter (fun k => decide (h.degraded ≠ some k))

def Layout.row (l : Layout) : Nat := stackBytes - l.localBytes - l.mirrorBytes

/-- Bytes of the striped class under the map in force, and those that slices may address (R258). -/
def Hbm.stripedBytes (h : Hbm) : Nat := h.liveStacks.length * h.layout.row
def Hbm.stripedOffered (h : Hbm) : Nat :=
  if h.degraded.isSome then h.stripedBytes - h.layout.localBytes else h.stripedBytes

/-- Bytes of the mirrored class. -/
def Layout.mirroredBytes (l : Layout) : Nat := 4 * (l.mirrorBytes - gib / 2)

def mirrorBit : Nat := 0x080000000000

/-- The place of a striped offset. -/
def Hbm.stripe (h : Hbm) (o : Nat) : Nat × Nat :=
  let s := o / 4096
  let live := h.liveStacks
  (live.getD (s % max 1 live.length) 0,
   h.layout.localBytes + h.layout.mirrorBytes + s / max 1 live.length * 4096 + o % 4096)

/-- The places of a class key: the stack keys that a write reaches, the first of which serves reads. -/
def Hbm.places (h : Hbm) (key : Nat) : List Nat :=
  let t := key / 2 ^ 44
  let o := key % 2 ^ 44
  if 0xF0 ≤ t ∧ t ≤ 0xF7 then
    if h.degraded = some (t - 0xF0) then
      let p := h.stripe (h.stripedOffered + o)
      [stackKey p.1 p.2]
    else [stackKey (t - 0xF0) o]
  else if o / mirrorBit % 2 = 1 then
    let s := o % mirrorBit / 4096
    let p := s % 4
    let r := s / 4
    let soff := h.layout.localBytes + r * 4096 + o % 4096
    let first := if r % 2 = 1 then p + 4 else p
    let other := if r % 2 = 1 then p else p + 4
    ([first, other].filter (fun k => decide (h.degraded ≠ some k))).map (fun k => stackKey k soff)
  else
    let p := h.stripe o
    [stackKey p.1 p.2]

/-- Whether a class key is a valid HBM offset under the map in force; `slice` bars the journal (R245). -/
def Hbm.validKey (h : Hbm) (slice : Bool) (key : Nat) : Bool :=
  let t := key / 2 ^ 44
  let o := key % 2 ^ 44
  if 0xF0 ≤ t ∧ t ≤ 0xF7 then decide (o < h.layout.localBytes)
  else if t = 0xFF then
    if o / mirrorBit % 2 = 1 then
      decide (o % mirrorBit < h.layout.mirroredBytes) && (!slice || decide (gib ≤ o % mirrorBit))
    else decide (o < h.stripedOffered)
  else false

def Hbm.readKey (h : Hbm) (key : Nat) : Byte :=
  match h.places key with
  | k :: _ => Mem.readByte h.bytes k
  | [] => 0

def Hbm.writeKey (h : Hbm) (key : Nat) (b : Byte) : Hbm :=
  { h with bytes := (h.places key).foldl (fun m k => Mem.writeByte m k b) h.bytes }

def Hbm.writeKeys (h : Hbm) (key : Nat) : List Byte → Hbm
  | [] => h
  | b :: bs => (h.writeKey key b).writeKeys (key + 1) bs

/-- The stack that serves reads of a class key. -/
def Hbm.stackOf (h : Hbm) (key : Nat) : Nat :=
  match h.places key with
  | k :: _ => k / 2 ^ 36
  | [] => 0

/-- Whether a class range has a byte in logical channel `lch` of stack `k`, outside the mirrored class. A run of 2 MiB reaches
every channel of its stacks. -/
def Hbm.touchesChannel (h : Hbm) (k lch key n : Nat) : Bool :=
  let t := key / 2 ^ 44
  let o := key % 2 ^ 44
  if t ≠ 0xFF ∧ t ≠ 0xF0 + k then false
  else if t = 0xFF ∧ o / mirrorBit % 2 = 1 then false
  else if 2 ^ 21 ≤ n then true
  else (List.range (n / 256 + 2)).any (fun i =>
    let x := if i = 0 then key else key / 256 * 256 + 256 * i
    decide (x < key + n) && (match h.places x with
      | p :: _ => decide (p / 2 ^ 36 = k) && decide (p % 2 ^ 36 / 256 % 31 = lch)
      | [] => false))

/-- Whether any byte of a class range is lost (13 R358). -/
def Hbm.rangeLost (h : Hbm) (key n : Nat) : Bool :=
  h.lost.any (fun r => decide (key < r.base + r.bytes) && decide (r.base < key + n))
    || h.lostCh.any (fun c => h.touchesChannel c.stack c.lch key n
        && !(c.healed.any (fun q => decide (q.1 ≤ key) && decide (key + n ≤ q.1 + q.2))))

/-- Marks a class range lost. Ranges are held by class key. -/
def Hbm.lose (h : Hbm) (key n : Nat) : Hbm := { h with lost := h.lost ++ [⟨key / 2 ^ 44, key, n⟩] }

/-- Removes a class range from the lost ranges: what is left of each range before and after it stays lost. -/
def Hbm.unlose (h : Hbm) (key n : Nat) : Hbm :=
  { h with
    lost := h.lost.flatMap (fun r =>
      if r.base + r.bytes ≤ key ∨ key + n ≤ r.base then [r]
      else
        (if r.base < key then [⟨r.target, r.base, key - r.base⟩] else [])
          ++ (if key + n < r.base + r.bytes then [⟨r.target, key + n, r.base + r.bytes - (key + n)⟩] else []))
    lostCh := h.lostCh.map (fun c => { c with healed := c.healed ++ [(key, n)] }) }

/-! ### Works, plans and placements -/

def State.findWork (s : State) (ring seq : Nat) : Option Work :=
  s.works.find? (fun w => decide (w.ring = ring) && decide (w.seq = seq))

def State.updWork (s : State) (ring seq : Nat) (f : Work → Work) : State :=
  { s with works := s.works.map (fun w => if w.ring = ring ∧ w.seq = seq then f w else w) }

/-- PLAN_ID of a work descriptor (11 R297). -/
def Work.planId (w : Work) : Nat := fieldAt w.desc 8 4

/-- OP of a descriptor (11 R297, R315). -/
def Work.op (w : Work) : Nat := fieldAt w.desc 12 1

def Work.isRun (w : Work) : Bool := decide (w.op = 1)

def State.findPlan (s : State) (fn id : Nat) : Option Plan :=
  s.plans.find? (fun p => decide (p.fn = fn) && decide (p.id = id))

def State.planOf (s : State) (w : Work) : Option Plan := s.findPlan w.fn w.planId

def State.imageOf (s : State) (w : Work) (i : Nat) : Option Image :=
  match s.planOf w with
  | some p => p.images[i]?
  | none => none

def State.placedAt (s : State) (i : Nat) : Option Placed := s.turn.placed[i]?

def State.updPlaced (s : State) (i : Nat) (f : Placed → Placed) : State :=
  { s with turn := { s.turn with placed := s.turn.placed.modify i f } }

/-- Cores pinned to or reserved for chains other than the work's own. -/
def State.pinnedToOthers (s : State) (w : Work) : List Nat :=
  s.works.flatMap (fun x => if x.ring = w.ring ∧ x.seq = w.seq then [] else x.chain.pins)

/-- The persistent streams of a chain are disarmed on some of its cores (08 R226). -/
def State.disarm (s : State) (w : Work) (cores : List Nat) : State :=
  (cores.filter (fun c => !(s.pinnedToOthers w).contains c)).foldl (fun t c => t.updCore c (fun k => { k with engines := [] })) s

/-- The image of a placed slice. -/
def State.placedImage (s : State) (p : Placed) : Option Image :=
  match s.findWork p.ring p.seq with
  | some w => s.imageOf w p.slice
  | none => none

/-- Whether a placed slice can still abort: it has not aborted, and the tail has not committed it. -/
def Placed.active (p : Placed) : Bool :=
  match p.st with
  | .aborted _ => false
  | _ => true

def Placed.isRunning (p : Placed) : Bool := decide (p.st = .running)

/-- Number of argument bytes and host address of argument `a` of a work (11 R297): two arguments inline, the others from its
table. -/
def Work.narg (w : Work) : Nat := fieldAt w.desc 14 1
def Work.argAddr (w : Work) (a : Nat) : Nat :=
  if a < 2 then fieldAt w.desc (16 + 16 * a) 8 else fieldAt w.argTable (16 * (a - 2)) 8
def Work.argBytes (w : Work) (a : Nat) : Nat :=
  if a < 2 then fieldAt w.desc (24 + 16 * a) 4 else fieldAt w.argTable (16 * (a - 2) + 8) 4

/-! ### The memory outside core memory that a slice sees -/

def Region.target (r : Region) : Nat := r.base / 2 ^ 44 % 256
def Region.key (r : Region) : Nat := r.base % 2 ^ 52
def Region.chip (r : Region) : Nat := r.base / 2 ^ 52

/-- A number of what the bits of a work's slices may depend on (12 R321): its plan and its inputs. -/
def State.seedOf (s : State) (w : Work) : Nat :=
  bytesToNat ((match s.planOf w with
    | some plan => plan.odig
    | none => []) ++ w.idig.getD [])

/-- The staging copy of a work that holds a class key. -/
def Work.copyOf (w : Work) (key : Nat) : Option StageCopy :=
  w.copies.find? (fun c => decide (c.base ≤ key) && decide (key < c.base + c.bytes))

/-- What placed slice `p` of work `w` reads at a class key: its own overlay, then the work's staging copies (08 R230; 13
R347), then HBM. An output byte that nothing has written reads as a free value. -/
def State.sliceRead (s : State) (w : Work) (p : Placed) (key : Nat) : Byte :=
  match SMap.get none p.overlay key with
  | some b => b
  | none =>
    if key / 2 ^ 44 = 0xFE then
      match SMap.get none w.hostOut (key % 2 ^ 44) with
      | some b => b
      | none =>
        if (match s.imageOf w p.slice with
            | some im => im.regions.any (fun r => decide (r.target = 0xFE) && decide (r.kind = 1)
                && decide (r.key ≤ key) && decide (key < r.key + r.bytes))
            | none => false) then Mem.readByte w.hostIn (key % 2 ^ 44)
        else Config.freeByte 200 (s.seedOf w) key
    else
      match w.copyOf key with
      | some c => Mem.readByte c.data key
      | none => s.hbm.readKey key

/-- Whether regions, of which `fuel` may serve, cover `n` bytes from a class key on. -/
def coveredBy (rs : List Region) : Nat → Nat → Nat → Bool
  | 0, _, n => decide (n = 0)
  | fuel + 1, key, n =>
    if n = 0 then true
    else
      let ends := (rs.filter (fun r => decide (r.key ≤ key) && decide (key < r.key + r.bytes))).map (fun r => r.key + r.bytes - key)
      let m := ends.foldl max 0
      if m = 0 then false else coveredBy rs fuel (key + m) (n - m)

/-- Whether a range at a class key is open to a slice on logical chip `chip` (08 R229, R230, R220, R236): within its class, or in the
chip's declared host regions, none of them of KIND 1 where it writes. -/
def State.sliceRangeOk (s : State) (im : Image) (chip key n : Nat) (writes : Bool) : Bool :=
  if key / 2 ^ 44 = 0xFE then
    let rs := im.regions.filter (fun r => decide (r.target = 0xFE) && decide (r.chip = chip))
    coveredBy rs rs.length key n
      && !(writes && rs.any (fun r => decide (r.kind = 1) && decide (r.key < key + n) && decide (key < r.key + r.bytes)))
  else s.hbm.validKey true key && s.hbm.validKey true (key + n - 1)
    && decide ((key % 2 ^ 44) / mirrorBit = ((key + n - 1) % 2 ^ 44) / mirrorBit)

def insertOnce (x : Nat) (l : List Nat) : List Nat := if l.contains x then l else l ++ [x]

/-- The stacks that an access of `n` bytes at a class key reaches: a read the one that serves it, a write both copies of the mirrored
class. -/
def Hbm.stacksOf (h : Hbm) (key n : Nat) (writes : Bool) : List Nat :=
  if key / 2 ^ 44 = 0xFE then []
  else
    let starts := key :: ((List.range (n / 4096 + 1)).map (fun i => (key / 4096 + 1 + i) * 4096)).filter (fun k => decide (k < key + n))
    (starts.flatMap (fun k => ((if writes then h.places k else (h.places k).take 1)).map (fun x => x / 2 ^ 36))).eraseDups

/-- Notes that placed slice `i` has accessed the stacks of a class range (09 R257). -/
def State.sliceTouch (s : State) (i key n : Nat) (writes : Bool) : State :=
  s.updPlaced i (fun p => { p with touched := (s.hbm.stacksOf key n writes).foldl (fun l k => insertOnce k l) p.touched })

/-- Writes bytes of a placed slice outside core memory: into its overlay, until it commits (10 R264). -/
def State.sliceWrite (s : State) (i key : Nat) (bs : List Byte) : State :=
  (s.sliceTouch i key bs.length true).updPlaced i (fun p => { p with overlay := SMap.setList none p.overlay key (bs.map some) })

/-- Reads `n` bytes of a placed slice outside core memory. -/
def State.sliceReads (s : State) (w : Work) (p : Placed) (key n : Nat) : List Byte :=
  (List.range n).map (fun j => s.sliceRead w p (key + j))

/-! ### Aborts (10 R285; 08 R232) -/

/-- A core whose slice has ended or aborted: it holds no slice, and its units are idle. Core memory keeps its bytes
(08 R213); an abort restores the barrier counters, and the persistent streams that were armed as the slice started. -/
def Core.stop (core : Core) (aborted : Bool) : Core :=
  { core with
    ctx := { core.ctx with work := none }
    seq := { marks := if aborted then [] else core.seq.marks }
    units := []
    flights := []
    engines := (if aborted then core.startEngines else core.engines).map (fun e => (e.1, { e.2 with pass := none }))
    counters := if aborted then core.startCounters else core.counters
    counters2 := if aborted then core.startCounters2 else core.counters2 }

/-- Charges a non-determinism event (12 R325) to a placed slice; `i` is 0 ND_BRAKE to 5 ND_SPARE. -/
def State.nondet (s : State) (i : Nat) (p : Placed) : State :=
  (s.bump (audNd i) 1).event (0x10 + i) 0 p.ring p.seq p.slice

/-- Charges a non-determinism event to placed slice `i`: its run counts it when it commits (12 R325). -/
def State.ndPlaced (s : State) (i k : Nat) : State :=
  match s.placedAt i with
  | some p => (s.nondet k p).updPlaced i (fun q => { q with nd := q.nd ++ [k] })
  | none => s

/-- Charges an event to the work of placed slice `i` itself: the run that commits counts it (12 R325). -/
def State.ndCarried (s : State) (i k : Nat) : State :=
  match s.placedAt i with
  | some p => (s.nondet k p).updWork p.ring p.seq (fun w => { w with sums := { w.sums with carried := w.sums.carried + 1 } })
  | none => s

/-- Aborts placed slice `i` (10 R285): staged outputs and cross-chip words are discarded, barrier counters restored, and the
work re-runs, or ends with `status` where the rule says that it is not re-executed. `cause` is the cause of R335. -/
def State.abortSlice (s : State) (i cause : Nat) (status : Option Nat) : State :=
  match s.placedAt i with
  | none => s
  | some p =>
    if p.active then
      let s1 := p.cores.foldl (fun t c => t.updCore c (fun k => if k.ctx.work = some i then k.stop true else k)) s
      let s2 := s1.updPlaced i (fun q => { q with st := .aborted cause, status := status, overlay := [], out := [] })
      let s3 := { s2 with mesh := s2.mesh.filter (fun l => !p.cores.contains l.src) }
      let s4 := s3.updWork p.ring p.seq (fun w => { w with
        rank := { w.rank with rerun := true }
        result := if status.isSome then status else w.result })
      s4.event 0x20 cause p.ring p.seq p.slice
    else s

/-- The record of an error met by the slice that core `c` runs. -/
def State.sliceRec (s : State) (c : Nat) : ErrRec :=
  match (s.core c).ctx.work with
  | none => { inst := c }
  | some i =>
    match s.placedAt i with
    | none => { inst := c }
    | some p => { inst := c, ring := p.ring, seq := p.seq, slice := p.slice, lcore := (s.core c).ctx.logical }

/-- A slice-fatal error that core `c` meets: its record, and the abort of the slice that the core runs. -/
def State.coreFatal (s : State) (c : Nat) (cause : Cause) (r : ErrRec) (status : Option Nat) : State :=
  let s1 := s.log cause r
  match (s.core c).ctx.work with
  | none => s1
  | some i => s1.abortSlice i 1 status

/-- The cause of a word's own check. -/
def WordFault.cause : WordFault → Cause
  | .codebookNar => .codebookNar
  | .convDesc => .convDesc
  | .redDesc => .redDesc
  | .profDesc => .profDesc
  | .tblFormat => .tblFormat
  | .seamNonmono => .seamNonmono
  | .smaxOrder => .smaxOrder
  | .smaxState => .smaxState
  | .reqTable => .reqTable
  | .calHist => .calHist
  | .quantDesc => .quantDesc
  | .gradDesc => .gradDesc
  | .streamDesc => .streamDesc
  | .remoteAddr => .remoteAddr
  | .ctrOvf => .ctrOvf

/-- A word's own check ends the slice and its work, without re-execution. -/
def State.wordFault (s : State) (c : Nat) (f : WordFault) : State :=
  s.coreFatal c f.cause (s.sliceRec c) (some (wordStatus f.cause))

end Sys2Proof.Machine
end

