-- ==== Sys2Proof/Machine/LinkOps.lean ====
section
/-! DEFINITION. Laros Links (14): flits, routes, the sending side of a port and of a pair of chips, and the hand-over of a
cross-chip word. -/

namespace Sys2Proof.Machine

/-! ### Flits (R379) -/

/-- The first 252 bytes of a flit. -/
def flitHead (f : Flit) : List Byte :=
  [f.ftype, f.fflags] ++ le16 f.lseq.toNat ++ le16 f.src.toNat ++ le16 f.dst.toNat ++ le32 f.eseq.toNat ++ fitBytes 240 f.payload

/-- The flit with its CRC. -/
def flitSeal (f : Flit) : Flit :=
  let g := { f with payload := fitBytes 240 f.payload }
  { g with crc := BitVec.ofNat 32 (crc32 (flitHead g)) }

def flitCrcOk (f : Flit) : Bool := decide (f.payload.length = 240) && decide (f.crc.toNat = crc32 (flitHead f))

def ftData : Nat := 0x01
def ftRelease : Nat := 0x02
def ftE2eAck : Nat := 0x03
def ftLinkAck : Nat := 0x08
def ftSync : Nat := 0x09
def ftPeer : Nat := 0x0A
def ftNotice : Nat := 0x0B

def mkFlit (ftype fflags src dst eseq : Nat) (payload : List Byte) : Flit :=
  flitSeal ⟨BitVec.ofNat 8 ftype, BitVec.ofNat 8 fflags, 0, BitVec.ofNat 16 src, BitVec.ofNat 16 dst, BitVec.ofNat 32 eseq,
    payload, 0⟩

/-! ### Ports and routes (R380, R391, R392) -/

def State.port (s : State) (p : Nat) : Port := SMap.get {} s.links.ports p

def State.setPort (s : State) (p : Nat) (x : Port) : State :=
  { s with links := { s.links with ports := SMap.set {} s.links.ports p x } }

/-- Whether a port carries flits: state ACTIVE with a working lane. -/
def Port.up (x : Port) : Bool := decide (x.state = 6) && !x.lanes.isEmpty && !x.down

def State.upOf (s : State) (ps : List Nat) : List Nat := ps.filter (fun p => (s.port p).up)

/-- The ports of a full mesh's bundle from chip `a` to peer `b`. -/
def meshBundle (size a b : Nat) : List Nat :=
  let q := 24 / max 1 (size - 1)
  let j := if b < a then b else b - 1
  (List.range q).map (fun i => j * q + i)

/-- A coordinate of a torus chip. -/
def torusCoord (ext : List Nat) (d chip : Nat) : Nat :=
  match d with
  | 0 => chip % max 1 (ext.getD 0 1)
  | 1 => chip / max 1 (ext.getD 0 1) % max 1 (ext.getD 1 1)
  | _ => chip / max 1 (ext.getD 0 1) / max 1 (ext.getD 1 1) % max 1 (ext.getD 2 1)

/-- The direction in which a torus route leaves chip `a` toward `b`: 2d for +, 2d + 1 for −. -/
def torusDir (t : Topology) (a b : Nat) : Option Nat :=
  ((List.range t.dims).filter (fun d => decide (torusCoord t.ext d a ≠ torusCoord t.ext d b))).head?.map (fun d =>
    let e := max 1 (t.ext.getD d 1)
    let up := (torusCoord t.ext d b + e - torusCoord t.ext d a) % e
    if 2 * up ≤ e then 2 * d else 2 * d + 1)

def torusPorts (t : Topology) (dir : Nat) : List Nat :=
  let n := 24 / max 1 (2 * t.dims)
  (List.range n).map (fun i => dir * n + i)

/-- The port on which the pair (src, dst) leaves this chip, if its direction has a port up. -/
def State.routePort (s : State) (src dst : Nat) : Option Nat :=
  let t := s.links.topo
  let pick (ps : List Nat) : Option Nat := ps[(src + dst) % max 1 ps.length]?
  if dst = t.self then none
  else if t.kind = 1 then
    match s.upOf (meshBundle t.size t.self dst) with
    | [] =>
      (((List.range t.size).filter (fun c => decide (c ≠ t.self) && decide (c ≠ dst)
          && !(s.upOf (meshBundle t.size t.self c)).isEmpty)).head?).bind
        (fun c => pick (s.upOf (meshBundle t.size t.self c)))
    | ps => pick ps
  else if t.kind = 2 then
    match torusDir t t.self dst with
    | some d => pick (s.upOf (torusPorts t d))
    | none => none
  else none

/-- Puts a flit on a port: the next LSEQ, and a copy in the retry buffer of 1,024 flits. -/
def State.sendOn (s : State) (p : Nat) (f : Flit) : State :=
  let x := s.port p
  let g := flitSeal { f with lseq := BitVec.ofNat 16 x.txSeq }
  let r := x.retry ++ [g]
  s.setPort p { x with txSeq := (x.txSeq + 1) % 4096, retry := r.drop (r.length - 1024) }

/-- Sends a flit along its route; it waits in the link die where no port of the direction is up (R393). -/
def State.sendRoute (s : State) (f : Flit) : State :=
  match s.routePort f.src.toNat f.dst.toNat with
  | some p => s.sendOn p f
  | none => { s with links := { s.links with waiting := s.links.waiting ++ [f] } }

/-- Sends on what waited for a route. -/
def State.sendWaiting (s : State) : State :=
  s.links.waiting.foldl State.sendRoute { s with links := { s.links with waiting := [] } }

/-! ### Pairs (R385) -/

def State.pairOut (s : State) (d : Nat) : PairOut := SMap.get {} s.links.outs d
def State.pairIn (s : State) (d : Nat) : PairIn := SMap.get {} s.links.ins d

def State.setPairOut (s : State) (d : Nat) (x : PairOut) : State :=
  { s with links := { s.links with outs := SMap.set {} s.links.outs d x } }

def State.setPairIn (s : State) (d : Nat) (x : PairIn) : State :=
  { s with links := { s.links with ins := SMap.set {} s.links.ins d x } }

/-- Gives a routed flit of the pair (this chip, `dst`) the next ESEQ, keeps a copy, and sends it. -/
def State.sendPair (s : State) (dst ftype fflags : Nat) (payload : List Byte) : State :=
  let x := s.pairOut dst
  let f := mkFlit ftype fflags s.links.topo.self dst x.next payload
  (s.setPairOut dst { x with next := (x.next + 1) % 2 ^ 32, held := x.held ++ [f] }).sendRoute f

/-- Whether flits of a work's words are among flits held in order; `cur` says whose the flits before the first word header are. -/
def heldFor (fn ring seq : Nat) : Bool → List Flit → Bool
  | _, [] => false
  | cur, f :: rest =>
    if f.ftype.toNat ≠ ftData then heldFor fn ring seq cur rest
    else
      let mine := if f.fflags.getLsbD 0 then decide (fieldAt f.payload 1 1 = fn) && decide (fieldAt f.payload 2 2 = ring)
        && decide (fieldAt f.payload 4 8 = seq) else cur
      mine || heldFor fn ring seq mine rest

/-- Whether every word that a work released has its end-to-end acknowledgement (R390). -/
def State.workAcked (s : State) (w : Work) : Bool := !(s.links.outs.any (fun e => heldFor w.fn w.ring w.seq true e.2.held))

/-- Bytes of outbound words that the link buffer holds until their end-to-end acknowledgement (R386). -/
def State.outboundBytes (s : State) : Nat :=
  s.links.outs.foldl (fun a e => a + 256 * (e.2.held.filter (fun f => decide (f.ftype.toNat = ftData))).length) 0

/-- The system turn number. -/
def State.sturn (s : State) : Nat := s.pair lnkSturnLo lnkSturnHi

/-! ### SYNC (R394) -/

/-- Whether the chip follows a master's grid. -/
def State.follows (s : State) : Bool := decide (s.hbm.layout.syncMode ≠ 0) && decide (s.links.sync.master ≠ s.links.topo.self)

/-- The chip before `b` on the route from chip `a` of a torus: the last hop corrects the highest dimension in which they differ. -/
def torusPrev (t : Topology) (a b : Nat) : Nat :=
  match ((List.range t.dims).filter (fun d => decide (torusCoord t.ext d a ≠ torusCoord t.ext d b))).getLast? with
  | none => b
  | some d =>
    let e := max 1 (t.ext.getD d 1)
    let x := torusCoord t.ext d b
    let up := (x + e - torusCoord t.ext d a) % e
    let y := if 2 * up ≤ e then (x + e - 1) % e else (x + 1) % e
    let step := if d = 0 then 1 else if d = 1 then max 1 (t.ext.getD 0 1) else max 1 (t.ext.getD 0 1) * max 1 (t.ext.getD 1 1)
    b + y * step - x * step

/-- The neighbours to which this chip passes a SYNC of `master`: those one hop further along the routes from the master. -/
def Topology.syncNext (t : Topology) (master : Nat) : List Nat :=
  let peers := ((t.ports.filter (fun e => decide (e.2.2 ≠ 0))).map (fun e => e.1)).eraseDups
  if t.kind = 1 then (if master = t.self then peers else [])
  else peers.filter (fun n => decide (n ≠ master) && decide (torusPrev t master n = t.self))

/-- Sends SYNC flits for a master's turn. -/
def State.sendSync (s : State) (master turn ticks : Nat) : State :=
  (s.links.topo.syncNext master).foldl (fun t n =>
    match t.routePort master n with
    | some p => t.sendOn p (mkFlit ftSync 0 t.links.topo.self n 0 (le64 turn ++ le32 ticks ++ le16 master))
    | none => t) s

/-! ### Hand-over of a cross-chip word (R382, R386) -/

/-- The 48-byte word header. -/
def wordHeader (s : State) (w : Work) (p : Placed) (o : OutWord) : List Byte :=
  [BitVec.ofNat 8 (if o.isSignal then 2 else 1), BitVec.ofNat 8 w.fn] ++ le16 w.ring ++ le64 w.seq ++ le16 p.slice
    ++ [BitVec.ofNat 8 o.score, BitVec.ofNat 8 o.target] ++ le32 o.offset ++ le32 o.len ++ le32 o.issue
    ++ le32 (if o.isSignal then 0 else o.offset / 2 ^ 32) ++ le64 s.sturn ++ zeros 8

/-- The pieces of a word: header with up to 192 bytes, then 240 bytes a flit. -/
def wordPieces : Nat → List Byte → List (List Byte)
  | 0, _ => []
  | n + 1, bs => if bs.length ≤ 240 then [bs] else bs.take 240 :: wordPieces n (bs.drop 240)

def sendPieces (dst : Nat) : Bool → List (List Byte) → State → State
  | _, [], s => s
  | first, [x], s => s.sendPair dst ftData ((if first then 1 else 0) + 2) x
  | first, x :: y :: rest, s => sendPieces dst false (y :: rest) (s.sendPair dst ftData (if first then 1 else 0) x)

/-- The system chip of logical chip `c` of a work (R383). -/
def State.systemChip (s : State) (w : Work) (c : Nat) : Nat := ((s.links.topo.self : Int) - w.sbase + c).toNat

/-- Hands a cross-chip word of placed slice `i` to the link die: its DATA flits enter the pair's sequence. A word past the
outbound share marks the slice, which aborts at the tail with LINK_FULL. -/
def State.handOver (s : State) (i : Nat) (o : OutWord) : State :=
  match s.placedAt i with
  | none => s
  | some p =>
    match s.findWork p.ring p.seq with
    | none => s
    | some w =>
      let dst := s.systemChip w o.chip
      let bytes := wordHeader s w p o ++ o.data
      let pieces := wordPieces (bytes.length / 240 + 1) bytes
      let s1 := sendPieces dst true pieces s
      let full := decide (Config.outboundShare (s.hbm.layout.linkBuffer) < s1.outboundBytes)
      let s2 := s1.updPlaced i (fun q => { q with out := q.out ++ [o], linkFull := q.linkFull || full })
      { s2 with links := { s2.links with turnOut := s2.links.turnOut ++ [(i, dst)] } }

end Sys2Proof.Machine
end

