-- ==== Sys2Proof/Machine/Flags.lean ====
section
/-! DEFINITION. The tile status word (04 R111) and the slice's flag summary (04 R112). -/

namespace Sys2Proof.Machine

/-- The flags a word gathers over the elements it writes. -/
structure TileStatus where
  fl : Flags := {}
  qovf : Bool := false
  qufl : Bool := false
  qnar : Bool := false
  rescale : Bool := false
  underuse : Bool := false
  invScale : Bool := false
  negVar : Bool := false
  satCount : Nat := 0
  deriving DecidableEq, Repr

def bitVal (b : Bool) (i : Nat) : Nat := if b then 2 ^ i else 0

/-- Adds the flags of one element. -/
def TileStatus.elem (t : TileStatus) (f : Flags) : TileStatus :=
  { t with fl := t.fl.or f, satCount := if f.sat then t.satCount + 1 else t.satCount }

/-- Bits [14:0] of the tile status word; the IEEE flags are gathered in strict mode only. -/
def TileStatus.low (t : TileStatus) : Nat :=
  bitVal t.fl.sat 0 + bitVal t.fl.ufl 1 + bitVal t.fl.nanCode 2 + bitVal t.qovf 3 + bitVal t.qufl 4 + bitVal t.qnar 5
    + bitVal t.fl.nv 6 + bitVal t.fl.dz 7 + bitVal t.fl.of 8 + bitVal t.fl.uf 9 + bitVal t.fl.nx 10
    + bitVal t.rescale 11 + bitVal t.underuse 12 + bitVal t.invScale 13 + bitVal t.negVar 14

/-- The 8-byte word: flags, and SATCOUNT in [47:32] held at 65,535. -/
def TileStatus.word (t : TileStatus) : Nat := t.low + min t.satCount 65535 * 2 ^ 32

/-- ORs a status into the slice's flag summary (04 R112). -/
def Core.orSummary (core : Core) (t : TileStatus) : Core :=
  { core with summary := core.summary ||| BitVec.ofNat 15 t.low }

/-- Writes the tile status word and ORs it into the summary. -/
def Written.status (c : Nat) (who : UnitId) (w : Written) (a : Nat) (t : TileStatus) : Written :=
  let w' := Written.nat c who w a 8 t.word
  { w' with core := w'.core.orSummary t }

end Sys2Proof.Machine
end

