-- ==== Sys2Proof/Machine/ArrayOps.lean ====
section
/-! DEFINITION. What an array operation computes (03): operand feeds with smoothing and rotation (06 R183, R184), block scales
(06 R157 to R161), group sums, the local accumulator and spills (03 R70, 04 R104), and the address generation of CONV (03 R95).
The products are formed exactly and enter the Chuck by 04 R103. -/

namespace Sys2Proof.Machine

/-! ### Group sums and spills -/

/-- A group sum as it enters the local accumulator (04 R104). -/
inductive GroupTerm where
  | fin (v : Int)
  | satP
  | satN
  | nar
  deriving DecidableEq, Repr

/-- Sums the (scaled) products of a group exactly, aligns the sum to the quire's LSB toward zero, and says whether non-zero
bits were dropped. `none` stands for a product with a NaN, NaR or infinite operand, or a NaR scale (01 R34, 06 R161). -/
def groupTerm (w : QW) (products : List (Option Q)) : GroupTerm × Bool :=
  if products.any (·.isNone) then (.nar, false)
  else
    let sum := products.foldl (fun acc p => match p with
      | some q => Q.add acc q
      | none => acc) Q.zero
    let (u, dropped) := quireUnits w sum
    if (w.qmax : Int) < u then (.satP, dropped)
    else if u < -(w.qmax : Int) then (.satN, dropped)
    else (.fin u, dropped)

/-- The local accumulator of one output element between spills: the addend so far, opposite saturations met, bits dropped. -/
structure LocalAcc where
  term : GroupTerm := .fin 0
  ovf : Bool := false
  ufl : Bool := false
  deriving DecidableEq, Repr

/-- 04 R104: adds a group sum into the local accumulator. -/
def LocalAcc.add (a : LocalAcc) (t : GroupTerm × Bool) : LocalAcc :=
  let ufl := a.ufl || t.2
  match a.term, t.1 with
  | .nar, _ => { a with ufl := ufl }
  | _, .nar => { a with term := .nar, ufl := ufl }
  | .satP, .satN => { a with term := .nar, ovf := true, ufl := ufl }
  | .satN, .satP => { a with term := .nar, ovf := true, ufl := ufl }
  | .satP, _ => { a with ufl := ufl }
  | .satN, _ => { a with ufl := ufl }
  | .fin _, .satP => { a with term := .satP, ufl := ufl }
  | .fin _, .satN => { a with term := .satN, ufl := ufl }
  | .fin x, .fin y => { a with term := .fin (x + y), ufl := ufl }

def GroupTerm.addend : GroupTerm → Addend
  | .fin v => .fin v
  | .satP => .satP
  | .satN => .satN
  | .nar => .nar

/-- One spill: the first spill of an operation with ACC 0 overwrites the entry, every other adds (03 R70). -/
def spill (w : QW) (overwrite : Bool) (a : LocalAcc) (e : QEntry) : QEntry :=
  let e' := if overwrite then quireOverwrite w a.term.addend else quireAdd w e a.term.addend
  { e' with ovf := e'.ovf || a.ovf, ufl := e'.ufl || a.ufl }

/-- Runs the group sums of one output element: a spill every `s` groups and after the last group (03 R70). -/
def spillGroups (w : QW) (s : Nat) : List (GroupTerm × Bool) → Nat → LocalAcc → Bool → QEntry → QEntry
  | [], n, a, ow, e => if n = 0 && !ow then e else spill w ow a e
  | t :: ts, n, a, ow, e =>
    let a' := a.add t
    if n + 1 = s then
      (if ts.isEmpty then spill w ow a' e else spillGroups w s ts 0 {} false (spill w ow a' e))
    else spillGroups w s ts (n + 1) a' ow e

/-- The group sums of one output element over reduction length `k`. -/
def groupTerms (w : QW) (g k : Nat) (product : Nat → Option Q) : List (GroupTerm × Bool) :=
  (List.range (ceilDiv k g)).map (fun i =>
    groupTerm w ((List.range (min g (k - i * g))).map (fun j => product (i * g + j))))

/-- One side of an array operation: a `rows × cols` block of entries from unit `q`, each the exact sum over `k` products. -/
def Core.runSide (c : Nat) (who : UnitId) (core : Core) (w : QW) (acc : Bool) (g s rows cols k q : Nat)
    (product : Nat → Nat → Nat → Option Q) : Core :=
  (List.range rows).foldl (fun core r =>
    (List.range cols).foldl (fun core n =>
      let u := q + (r * cols + n) * w.units
      if acc then core.writeEntry w u (spillGroups w s (groupTerms w g k (product r n)) 0 {} false (core.readEntry c who w u true))
      else core.overwriteWith c who w u (spillGroups w s (groupTerms w g k (product r n)) 0 {} true QEntry.zero)) core) core

/-! ### Operand A through smoothing and rotation (06 R184) -/

/-- The sign of entry `(i, j)` of the Sylvester Walsh–Hadamard matrix. -/
def hadamardNeg : Nat → Nat → Nat → Bool
  | 0, _, _ => false
  | fuel + 1, i, j => xor (i % 2 = 1 && j % 2 = 1) (hadamardNeg fuel (i / 2) (j / 2))

/-- The rotation block n (06 R183). -/
def rotBlock (b : BitVec 3) : Nat := 16 * 2 ^ b.toNat

/-- The exact value of element k after smoothing and rotation; `none` presents a NaN operand. `src` gives the source values of
one operand row and `sigma` the smoothing factors. -/
def transformed (cfg : ArrCfg) (src : Nat → Val) (sigma : Nat → Val) (k : Nat) : Option Q :=
  let smoothed (j : Nat) : Option Q :=
    match (src j).real with
    | none => none
    | some x => if cfg.smoothOn then
        (match (sigma j).real with
          | none => none
          | some f => some (Q.mul x f))
      else some x
  if cfg.rotOn then
    let n := rotBlock cfg.rotBlk
    let h := Nat.log2 n / 2
    let base := k / n * n
    let terms := (List.range n).map (fun j => (smoothed (base + j)).map (fun x => if hadamardNeg 8 (k % n) j then Q.neg x else x))
    if terms.any (·.isNone) then none
    else some (Q.shift (terms.foldl (fun acc t => match t with
      | some q => Q.add acc q
      | none => acc) Q.zero) (-(h : Int)))
  else smoothed k

/-- One presented value of operand A and whether its rounding to FMT_A saturated. INT8 and A8Z divide by the operand's block
scale; a block scale of zero gives a free code, since x / 0 has no stated value and the scaled addend is zero whatever the
code is. -/
def presentA (c : Nat) (core : Core) (cfg : ArrCfg) (strict : Bool) (scaleA : Option Q) (src sigma : Nat → Val) (r k : Nat) :
    Val × Bool :=
  let fmt := Fmt.ofCode cfg.fmtA
  let cc : CodeCtx := { z := cfg.za.toNat }
  if !(cfg.smoothOn || cfg.rotOn) then (src k, false)
  else
    match transformed cfg src sigma k with
    | none => (.nar, false)
    | some q =>
      match fmt with
      | .int8 | .a8z =>
        match scaleA with
        | none => (.nar, false)
        | some s =>
          if s.num = 0 then
            (decodeFmt cc fmt (Config.freeNat (2000 + core.site c) q.num.natAbs (r * 32768 + k) % 256),
             Config.freeBool (2000 + core.site c) q.num.natAbs (r * 32768 + k))
          else
            let (p, fl) := quantiseCode fmt cfg.za.toNat s (Val.ofQ q)
            (decodeFmt cc fmt p, fl.sat)
      | _ =>
        let (p, fl) := encodeFmt { strict := strict } cc false fmt (Val.ofQ q)
        (decodeFmt cc fmt p, fl.sat)

/-! ### Matrix product words -/

/-- The operand panels of a matrix product word: how a value of A and of B is read (03 R82, R85, R90). -/
structure MatrixOperands where
  m : Nat
  n : Nat
  k : Nat
  aBase : Nat
  bBase : Nat
  aTrans : Bool
  bTrans : Bool
  deriving DecidableEq, Repr

def MatrixOperands.aBytes (o : MatrixOperands) (fmt : Fmt) : Nat :=
  if o.aTrans then panelBytes fmt o.k (ceilDiv o.m 16) else panelBytes fmt o.m (ceilDiv o.k 16)

def MatrixOperands.bBytes (o : MatrixOperands) (fmt : Fmt) : Nat :=
  if o.bTrans then panelBytes fmt o.n (ceilDiv o.k 16) else panelBytes fmt o.k (ceilDiv o.n 16)

/-- The first 64-byte boundary at or after the end of a panel (03 R87). -/
def align64 (a : Nat) : Nat := ceilDiv a 64 * 64

/-- The format in which the feeder reads operand A (06 R184). -/
def sourceFmtA (cfg : ArrCfg) : Fmt :=
  if cfg.smoothOn then Fmt.ofCode cfg.smoothFmt
  else if cfg.rotOn then Fmt.ofCode cfg.rotFmt
  else Fmt.ofCode cfg.fmtA

/-- The source values of operand A row `r`. -/
def Core.sourceA (c : Nat) (who : UnitId) (core : Core) (cfg : ArrCfg) (o : MatrixOperands) (r k : Nat) : Val :=
  let fmt := sourceFmtA cfg
  let p := if o.aTrans then core.rdPanel c who fmt o.aBase (ceilDiv o.m 16) k r
    else core.rdPanel c who fmt o.aBase (ceilDiv o.k 16) r k
  decodeFmt { z := cfg.za.toNat } fmt p

/-- The smoothing factor of index k: one P16 per K index (06 R183). -/
def Core.smoothFactor (c : Nat) (who : UnitId) (core : Core) (cfg : ArrCfg) (k : Nat) : Val :=
  decodePosit 16 (core.rdRun c who .p16 (addr64 cfg.smoothBase) k)

/-- The block scale of operand A for row r and group g, its scale panel at the first 64-byte boundary at or after byte
`dataEnd`; one where BSM leaves A unscaled (06 R159, R161). -/
def Core.scaleAfter (c : Nat) (who : UnitId) (core : Core) (cfg : ArrCfg) (o : MatrixOperands) (dataEnd r k : Nat) :
    Option Q :=
  if cfg.bsm.toNat % 2 = 1 then
    let e8 := cfg.scfA == 1
    let base := align64 dataEnd
    let g := k / scaleGroup cfg.sgrp
    scaleVal e8 (core.rdNat c who (base + (g * o.m + r) * scaleBytes e8) (scaleBytes e8))
  else some Q.one

/-- The block scale of a panel operand A (06 R159). -/
def Core.scaleOfA (c : Nat) (who : UnitId) (core : Core) (cfg : ArrCfg) (o : MatrixOperands) (r k : Nat) : Option Q :=
  core.scaleAfter c who cfg o (o.aBase + o.aBytes (sourceFmtA cfg)) r k

/-- The block scale of operand B for column n; with UNIT 2, N counts the columns of both arrays (06 R159). -/
def Core.scaleOfB (c : Nat) (who : UnitId) (core : Core) (cfg : ArrCfg) (o : MatrixOperands) (n k : Nat) : Option Q :=
  if cfg.bsm.toNat / 2 = 1 then
    let e8 := cfg.scfB == 1
    let base := align64 (o.bBase + o.bBytes (Fmt.ofCode cfg.fmtB))
    let g := k / scaleGroup cfg.sgrp
    scaleVal e8 (core.rdNat c who (base + (g * o.n + n) * scaleBytes e8) (scaleBytes e8))
  else some Q.one

/-- A value of operand B, C4 codes through the codebook of the array that computes the column (03 R81, R91). -/
def Core.valueB (c : Nat) (who : UnitId) (core : Core) (cfg : ArrCfg) (o : MatrixOperands) (k n : Nat) : Val :=
  let fmt := Fmt.ofCode cfg.fmtB
  let p := if o.bTrans then core.rdPanel c who fmt o.bBase (ceilDiv o.k 16) n k
    else core.rdPanel c who fmt o.bBase (ceilDiv o.n 16) k n
  decodeFmt { z := cfg.zb.toNat, cb := cfg.codebook } fmt p

/-- The scaled product of a pair of values: NaR where a value is special or a scale is NaR, whatever the scale (01 R34,
06 R161). -/
def scaledProduct (a b : Val) (sa sb : Option Q) : Option Q :=
  match Val.mulReal a b, sa, sb with
  | some p, some x, some y => some (Q.mul p (Q.mul x y))
  | _, _, _ => none

/-- FEED_SAT and the SAT summary of one operation: how many presented values of operand A saturated (06 R184). -/
def Core.feedSaturations (c : Nat) (who : UnitId) (core : Core) (cfg : ArrCfg) (strict : Bool) (o : MatrixOperands) : Nat :=
  if !(cfg.smoothOn || cfg.rotOn) then 0
  else (List.range o.m).foldl (fun acc r => (List.range o.k).foldl (fun acc k =>
    if (presentA c core cfg strict (core.scaleOfA c who cfg o r k) (core.sourceA c who cfg o r) (core.smoothFactor c who cfg) r k).2
    then acc + 1 else acc) acc) 0

/-- The product of output `(r, n)` at reduction index `k`, with `n` counted over both arrays. `snap` is the core as the word
began: operands are read as they stood then. -/
def Core.matrixProduct (c : Nat) (who : UnitId) (snap : Core) (cfg : ArrCfg) (strict : Bool) (o : MatrixOperands)
    (r n k : Nat) : Option Q :=
  let sa := snap.scaleOfA c who cfg o r k
  let a := (presentA c snap cfg strict sa (snap.sourceA c who cfg o r) (snap.smoothFactor c who cfg) r k).1
  scaledProduct a (snap.valueB c who cfg o k n) sa (snap.scaleOfB c who cfg o n k)

/-- The configuration of array 0 (A) or 1 (B). -/
def Core.arr (core : Core) (i : Nat) : ArrCfg := if i = 0 then core.arrA else core.arrB

/-- The class and quire of an array word under a configuration (01 R33); BSM selects the block-scaled quire. -/
def ArrCfg.cls (cfg : ArrCfg) : Option (RateClass × QW) :=
  operandClass (Fmt.ofCode cfg.fmtA) (Fmt.ofCode cfg.fmtB) (cfg.bsm ≠ 0)

/-- Whether an operation under this configuration uses the C4 codebook and finds it invalid (01 R28). -/
def ArrCfg.codebookFault (cfg : ArrCfg) : Bool :=
  decide (Fmt.ofCode cfg.fmtB = .c4) && codebookInvalid cfg.codebook

/-- The growth of F that smoothing and rotation cost (06 R186). -/
def ArrCfg.feedGrowth (cfg : ArrCfg) (cls : RateClass) : Nat :=
  (if cfg.smoothOn then 2 else 0) + (if cfg.rotOn then ceilDiv (rotBlock cfg.rotBlk) cls.step + 4 else 0)

/-- Notes saturations of the feeder: FEED_SAT counts them, and SAT enters the flag summary. -/
def Core.noteFeedSat (core : Core) (n : Nat) : Core :=
  if n = 0 then core
  else { core with
    counts := { core.counts with feedSat := core.counts.feedSat + BitVec.ofNat 32 n }
    summary := core.summary ||| 1 }

/-- The columns of one array in a word over `n` columns: all with one array; columns 0–31 to Array A and the rest to Array B
with UNIT 2 (03 R83). First column, count, and offset of the entries. -/
def sideColumns (unit n i : Nat) : Nat × Nat × Nat :=
  if unit = 2 then (if i = 0 then (0, min n 32, 0) else (32, n - 32, 49152)) else (0, n, 0)

/-- The arrays a UNIT value names. -/
def unitArrays (unit : Nat) : List Nat :=
  match unit with
  | 0 => [0]
  | 1 => [1]
  | _ => [0, 1]

/-- Toggles the accumulator set of an array (03 R75). -/
def Core.toggleSet (core : Core) (i : Nat) : Core :=
  if i = 0 then { core with accSetA := !core.accSetA } else { core with accSetB := !core.accSetB }

/-- Records the entries an array operation will deliver (03 R74). -/
def Core.flyEntries (core : Core) (i lo len : Nat) (acc : Bool) : Core :=
  let op := (SMap.get {} core.units i).nextOp
  { core with flights := core.flights ++ [⟨i, op, true, lo, len, acc⟩] }

/-- MMA, MMA_T and CONV over one operand description: each named array runs its columns. `product` is over both arrays'
columns. -/
def Core.runMatrix (c : Nat) (core : Core) (unit m n k q : Nat) (acc : Bool)
    (product : (i : Nat) → Nat → Nat → Nat → Option Q) : Core :=
  (unitArrays unit).foldl (fun core i =>
    let cfg := core.arr i
    match cfg.cls with
    | none => core
    | some (_, w) =>
      let (c0, cols, off) := sideColumns unit n i
      let q0 := q + off
      let core := core.runSide c i w acc (groupSize cfg.gsize) (cfg.spill.toNat + 1) m cols k q0
        (fun r col kk => product i r (c0 + col) kk)
      (core.toggleSet i).flyEntries i q0 (m * cols * w.units) acc) core

/-- The fault of a word whose arrays use a codebook with a NaR (01 R28). -/
def Core.bookFault (core : Core) (unit : Nat) : Option WordFault :=
  if (unitArrays unit).any (fun i => (core.arr i).codebookFault) then some .codebookNar else none

/-- The matrix product words (03 R82, R83): the exact tile. -/
def Core.mma (c : Nat) (core : Core) (w : MmaWord) (trans : Bool) : Core :=
  let unit := w.unit.toNat
  let o : MatrixOperands :=
    { m := w.mm1.toNat + 1, n := w.nm1.toNat + 1, k := w.k.toNat, aBase := addr64 w.aBase, bBase := addr64 w.bBase
      aTrans := trans && w.tside == 0, bTrans := trans && w.tside == 1 }
  let who := (unitArrays unit).headD 0
  let cfg0 := core.arr who
  let core1 := core.noteFeedSat (core.feedSaturations c who cfg0 core.ctx.strict o)
  core1.runMatrix c unit o.m o.n o.k w.qBase.toNat (w.acc == 1)
    (fun i => core.matrixProduct c i (core.arr i) core.ctx.strict o)

/-- Feed cycles of a matrix word with reduction length `k` on the arrays of `unit`, growth included (03 R77, R88). -/
def Core.matrixFeed (core : Core) (unit k : Nat) : Nat :=
  let cfg := core.arr ((unitArrays unit).headD 0)
  match cfg.cls with
  | none => 1
  | some (cls, _) => feedCycles cls (groupSize cfg.gsize) k + cfg.feedGrowth cls

/-! ### Convolution (03 R93 to R97) -/

/-- The convolution descriptor (03 R94). -/
structure ConvDesc where
  xBase : Nat
  wBase : Nat
  cin : Nat
  cstride : Nat
  cout : Nat
  npos : Nat
  outStart : Nat
  inSize : List Nat
  ker : List Nat
  stride : List Nat
  dil : List Nat
  padLo : List Nat
  padHi : List Nat
  deriving DecidableEq, Repr

def nth (l : List Nat) (i : Nat) : Nat := l.getD i 0

def convDescOf (b : List Byte) : ConvDesc :=
  { xBase := fieldAt b 0 4, wBase := fieldAt b 4 4, cin := fieldAt b 8 2, cstride := fieldAt b 10 2, cout := fieldAt b 12 2
    npos := fieldAt b 14 1, outStart := fieldAt b 16 4
    inSize := [fieldAt b 0x14 2, fieldAt b 0x16 2, fieldAt b 0x18 2]
    ker := [fieldAt b 0x1A 1, fieldAt b 0x1B 1, fieldAt b 0x1C 1]
    stride := [fieldAt b 0x1D 1, fieldAt b 0x1E 1, fieldAt b 0x1F 1]
    dil := [fieldAt b 0x20 1, fieldAt b 0x21 1, fieldAt b 0x22 1]
    padLo := [fieldAt b 0x23 1, fieldAt b 0x24 1, fieldAt b 0x25 1]
    padHi := [fieldAt b 0x26 1, fieldAt b 0x27 1, fieldAt b 0x28 1] }

/-- OUT[d] (03 R95), zero where the extent is below 1. -/
def ConvDesc.out (d : ConvDesc) (i : Nat) : Nat :=
  let span := nth d.dil i * (nth d.ker i - 1) + 1
  let total := nth d.inSize i + nth d.padLo i + nth d.padHi i
  if total < span then 0 else (total - span) / nth d.stride i + 1

def ConvDesc.k (d : ConvDesc) : Nat := d.cin * nth d.ker 0 * nth d.ker 1 * nth d.ker 2

/-- The element index of the input that row r presents at reduction index k; `none` is a padding position (03 R95). -/
def ConvDesc.element (d : ConvDesc) (r k : Nat) : Option Nat :=
  let p := d.outStart + r
  let o2 := p % d.out 2
  let o1 := p / d.out 2 % d.out 1
  let o0 := p / d.out 2 / d.out 1 % d.out 0
  let ch := k % d.cin
  let t := k / d.cin
  let k2 := t % nth d.ker 2
  let k1 := t / nth d.ker 2 % nth d.ker 1
  let k0 := t / nth d.ker 2 / nth d.ker 1 % nth d.ker 0
  let pos (i o ko : Nat) : Option Nat :=
    let x := o * nth d.stride i + ko * nth d.dil i
    if x < nth d.padLo i then none
    else if x - nth d.padLo i < nth d.inSize i then some (x - nth d.padLo i) else none
  match pos 0 o0 k0, pos 1 o1 k1, pos 2 o2 k2 with
  | some x0, some x1, some x2 => some (((x0 * nth d.inSize 1 + x1) * nth d.inSize 2 + x2) * d.cstride + ch)
  | _, _, _ => none

/-- The elements from the first channel of the first input position to the last channel of the last (03 R94, R96). -/
def ConvDesc.span (d : ConvDesc) : Nat := (nth d.inSize 0 * nth d.inSize 1 * nth d.inSize 2 - 1) * d.cstride + d.cin

def inRange (lo hi x : Nat) : Bool := decide (lo ≤ x) && decide (x ≤ hi)

/-- Units of the Chuck half of array `i` (03 R76): the first one past it. -/
def halfEnd (i : Nat) : Nat := if i = 0 then 49152 else chuckUnits

/-- Whether the entries of an `m`-row word over `n` columns from unit `q` lie in the halves of their arrays (03 R76, R83, R84). -/
def entriesOk (unit m n q units : Nat) : Bool :=
  (unitArrays unit).all (fun i =>
    let side := sideColumns unit n i
    (decide (unit = 2) || decide (i = 0) || decide (49152 ≤ q)) && decide (q + side.2.2 + m * side.2.1 * units ≤ halfEnd i))

/-- 03 R97: whether the feeder finds the descriptor invalid. DESIGN CHOICE (log entry 30): the counts of output positions and channels
stand in the descriptor, so that entries which leave the array's half of the Chuck (R84) show only here. -/
def ConvDesc.invalid (d : ConvDesc) (b : List Byte) (unit q units : Nat) (fmtA fmtB : Fmt) : Bool :=
  let all3 (l : List Nat) (lo hi : Nat) : Bool := (List.range 3).all (fun i => inRange lo hi (nth l i))
  let reserved := decide (131072 ≤ d.xBase) || decide (131072 ≤ d.wBase) || decide (fieldAt b 15 1 ≠ 0) ||
    decide (fieldAt b 0x29 23 ≠ 0)
  let ranges := inRange 1 4096 d.cin && decide (d.cstride % 16 = 0) && decide (d.cin ≤ d.cstride) &&
    (if unit = 2 then inRange 33 64 d.cout else inRange 1 32 d.cout) && inRange 1 64 d.npos &&
    all3 d.inSize 1 65535 && all3 d.ker 1 15 && all3 d.stride 1 15 && all3 d.dil 1 15
  let positions := d.out 0 * d.out 1 * d.out 2
  reserved || !ranges || decide (positions = 0) || decide (positions < d.outStart + d.npos) || decide (32767 < d.k) ||
    decide (coreMemBytes < d.xBase * 64 + fmtA.bytesOf d.span) ||
    decide (coreMemBytes < d.wBase * 64 + panelBytes fmtB d.k (ceilDiv d.cout 16)) || !(entriesOk unit d.npos d.cout q units)

/-- The fault of a CONV: a NaR in a codebook in use (01 R28), or an invalid descriptor (03 R97). DESIGN CHOICE (log entry 9): the spec sets no
order between the two; the codebook is told. -/
def Core.convFault (c : Nat) (core : Core) (w : ConvWord) : Option WordFault :=
  let unit := w.unit.toNat
  let cfg := core.arr ((unitArrays unit).headD 0)
  let b := core.rdBytes c ((unitArrays unit).headD 0) (addr64 w.cdBase) 64
  match core.bookFault unit with
  | some f => some f
  | none =>
    if (convDescOf b).invalid b unit w.qBase.toNat ((cfg.cls.map (fun x => x.2.units)).getD 1) (Fmt.ofCode cfg.fmtA) (Fmt.ofCode cfg.fmtB)
    then some .convDesc else none

/-- CONV (03 R93): a matrix product whose operand A rows are output positions. -/
def Core.conv (c : Nat) (core : Core) (w : ConvWord) : Core :=
  let unit := w.unit.toNat
  let who := (unitArrays unit).headD 0
  let cfg := core.arr who
  let d := convDescOf (core.rdBytes c who (addr64 w.cdBase) 64)
  let o : MatrixOperands :=
    { m := d.npos, n := d.cout, k := d.k, aBase := d.xBase * 64, bBase := d.wBase * 64, aTrans := false, bTrans := false }
  let fmtA := Fmt.ofCode cfg.fmtA
  let aVal (r k : Nat) : Val :=
    match d.element r k with
    | none => .zero false
    | some e => decodeFmt { z := cfg.za.toNat } fmtA (core.rdRun c who fmtA o.aBase e)
  core.runMatrix c unit o.m o.n o.k w.qBase.toNat (w.acc == 1)
    (fun i r n k => scaledProduct (aVal r k) (core.valueB c i (core.arr i) o k n)
      (core.scaleAfter c i (core.arr i) o (o.aBase + fmtA.bytesOf d.span) r k)
      (core.scaleOfB c i (core.arr i) o n k))

/-- The reduction length of a CONV's descriptor, for its feed cycles. -/
def Core.convK (c : Nat) (core : Core) (w : ConvWord) : Nat :=
  (convDescOf (core.rdBytes c ((unitArrays w.unit.toNat).headD 0) (addr64 w.cdBase) 64)).k

/-! ### The paired gradient word (07 R189 to R196) -/

/-- The gradient descriptor (07 R191). -/
structure GradDesc where
  gBase : Nat
  wBase : Nat
  xBase : Nat
  wsAddr : Nat
  xsAddr : Nat
  mt : Nat
  no : Nat
  kc : Nat
  scf : Nat
  gpc : Nat
  wpc : Nat
  xpc : Nat
  zx : Nat
  deriving DecidableEq, Repr

def gradDescOf (b : List Byte) : GradDesc :=
  { gBase := fieldAt b 0 4, wBase := fieldAt b 4 4, xBase := fieldAt b 8 4, wsAddr := fieldAt b 12 4, xsAddr := fieldAt b 16 4
    mt := fieldAt b 0x14 1, no := fieldAt b 0x15 1, kc := fieldAt b 0x16 1, scf := fieldAt b 0x17 1
    gpc := fieldAt b 0x18 2, wpc := fieldAt b 0x1A 2, xpc := fieldAt b 0x1C 2, zx := fieldAt b 0x1E 1 }

/-- The class of one side; a C4 weight counts as P16 (07 R192). -/
def gradClass (g other : Fmt) : RateClass × QW :=
  (operandClass g (if other = .c4 then .p16 else other) false).getD (.c16, .q256)

/-- 07 R196: whether the feeder finds the descriptor invalid. -/
def GradDesc.invalid (d : GradDesc) (b : List Byte) (w : GradWord) : Bool :=
  let gf := Fmt.ofCode w.gfmt
  let wf := Fmt.ofCode w.wfmt
  let xf := Fmt.ofCode w.xfmt
  let ua := (gradClass gf wf).2.units
  let ub := (gradClass gf xf).2.units
  let dx := w.dxen == 1
  let dw := w.dwen == 1
  decide (131072 ≤ d.gBase) || decide (131072 ≤ d.wBase) || decide (131072 ≤ d.xBase) || decide (8388608 ≤ d.wsAddr) ||
    decide (8388608 ≤ d.xsAddr) || decide (3 < d.scf) || decide (fieldAt b 0x1F 33 ≠ 0) ||
    !(inRange 1 64 d.mt) || !(inRange 1 64 d.no) || !(inRange 1 32 d.kc) ||
    decide (d.gpc < ceilDiv d.no 16) || decide (d.wpc < ceilDiv d.kc 16) || decide (d.xpc < ceilDiv d.kc 16) ||
    (decide (d.zx ≠ 0) && decide (xf ≠ .a8z)) ||
    decide (coreMemBytes < d.gBase * 64 + panelBytes gf d.mt d.gpc) ||
    decide (coreMemBytes < d.wBase * 64 + panelBytes wf d.no d.wpc) ||
    decide (coreMemBytes < d.xBase * 64 + panelBytes xf d.mt d.xpc) ||
    (w.wsc == 1 && decide (coreMemBytes < d.wsAddr + d.no * scaleBytes (bitAt d.scf 0))) ||
    (w.xsc == 1 && decide (coreMemBytes < d.xsAddr + d.mt * scaleBytes (bitAt d.scf 1))) ||
    (dx && decide (49152 < w.qxBase.toNat + d.mt * d.kc * ua)) ||
    (dw && decide (chuckUnits < w.qwBase.toNat + d.no * d.kc * ub))

/-- The fault of a GRAD_PAIR: a NaR in the codebook of C4 weights (01 R28), or an invalid descriptor (07 R196). -/
def Core.gradFault (c : Nat) (core : Core) (w : GradWord) : Option WordFault :=
  let b := core.rdBytes c 0 (addr64 w.gdBase) 64
  if decide (Fmt.ofCode w.wfmt = .c4) && codebookInvalid core.arrA.codebook then some .codebookNar
  else if (gradDescOf b).invalid b w then some .gradDesc
  else none

/-- GRAD_PAIR (07 R189): DX = G · W on Array A and DW = Gᵀ · X on Array B, each enabled side one array operation. -/
def Core.gradPair (c : Nat) (core : Core) (w : GradWord) : Core :=
  let d := gradDescOf (core.rdBytes c 0 (addr64 w.gdBase) 64)
  let gf := Fmt.ofCode w.gfmt
  let wf := Fmt.ofCode w.wfmt
  let xf := Fmt.ofCode w.xfmt
  let gVal (r n : Nat) : Val := decodeFmt {} gf (core.rdPanel c 0 gf (d.gBase * 64) d.gpc r n)
  let wVal (n k : Nat) : Val :=
    decodeFmt { cb := core.arrA.codebook } wf (core.rdPanel c 0 wf (d.wBase * 64) d.wpc n k)
  let xVal (m k : Nat) : Val := decodeFmt { z := d.zx } xf (core.rdPanel c 1 xf (d.xBase * 64) d.xpc m k)
  let ws (n : Nat) : Option Q :=
    if w.wsc == 1 then
      scaleVal (bitAt d.scf 0) (core.rdNat c 0 (d.wsAddr + n * scaleBytes (bitAt d.scf 0)) (scaleBytes (bitAt d.scf 0)))
    else some Q.one
  let xs (m : Nat) : Option Q :=
    if w.xsc == 1 then
      scaleVal (bitAt d.scf 1) (core.rdNat c 1 (d.xsAddr + m * scaleBytes (bitAt d.scf 1)) (scaleBytes (bitAt d.scf 1)))
    else some Q.one
  let qa := (gradClass gf wf).2
  let qb := (gradClass gf xf).2
  let core1 :=
    if w.dxen == 1 then
      ((core.runSide c 0 qa (w.accx == 1) (groupSize core.arrA.gsize) (core.arrA.spill.toNat + 1) d.mt d.kc d.no w.qxBase.toNat
        (fun r k n => scaledProduct (gVal r n) (wVal n k) (ws n) (some Q.one))).toggleSet 0).flyEntries 0 w.qxBase.toNat
        (d.mt * d.kc * qa.units) (w.accx == 1)
    else core
  if w.dwen == 1 then
      ((core1.runSide c 1 qb (w.accw == 1) (groupSize core.arrB.gsize) (core.arrB.spill.toNat + 1) d.no d.kc d.mt w.qwBase.toNat
        (fun n k m => scaledProduct (gVal m n) (xVal m k) (ws n) (xs m))).toggleSet 1).flyEntries 1 w.qwBase.toNat
        (d.no * d.kc * qb.units) (w.accw == 1)
    else core1

/-- F of a GRAD_PAIR: the longer enabled side (07 R192). -/
def Core.gradFeed (c : Nat) (core : Core) (w : GradWord) : Nat :=
  let d := gradDescOf (core.rdBytes c 0 (addr64 w.gdBase) 64)
  let gf := Fmt.ofCode w.gfmt
  let fa := if w.dxen == 1 then feedCycles (gradClass gf (Fmt.ofCode w.wfmt)).1 (groupSize core.arrA.gsize) d.no else 1
  let fb := if w.dwen == 1 then feedCycles (gradClass gf (Fmt.ofCode w.xfmt)).1 (groupSize core.arrB.gsize) d.mt else 1
  max fa fb

/-! ### Configuration words -/

/-- ARR_CFG (03 R79): SMOOTH, HADAMARD and the codebook stay. -/
def ArrCfg.withFormats (cfg : ArrCfg) (w : ArrCfgWord) : ArrCfg :=
  { cfg with fmtA := w.fmtA, fmtB := w.fmtB, gsize := w.gsize, spill := w.spill, bsm := w.bsm, scfA := w.scfA, scfB := w.scfB,
             sgrp := w.sgrp, za := w.za, zb := w.zb }

/-- Updates the configuration of the arrays a UNIT names. -/
def Core.updArrays (core : Core) (unit : Nat) (f : ArrCfg → ArrCfg) : Core :=
  (unitArrays unit).foldl (fun core i =>
    if i = 0 then { core with arrA := f core.arrA } else { core with arrB := f core.arrB }) core

/-- The codebook that LUT_CFG loads: entry c at byte 2c (03 R92). -/
def Core.codebookAt (c : Nat) (who : UnitId) (core : Core) (a : Nat) : Codebook :=
  (List.range 16).map (fun i => BitVec.ofNat 16 (core.rdNat c who (a + 2 * i) 2))

end Sys2Proof.Machine
end

