-- ==== Sys2Proof/Machine/ChuckOps.lean ====
section
/-! DEFINITION. The words of the Chuck's queue and of the Caliper (04, 06): QZERO, QSTORE, images, reductions by comparison,
REQ_LOAD, QUANT, CAL_TAP and SCALE_ADAPT. -/

namespace Sys2Proof.Machine

/-! ### The Caliper's view of the store path (06 R166, R167) -/

/-- The FP32 pattern of an absolute value, rounded once; a value beyond the FP32 range records +∞ (06 R166). -/
def absFp32 (v : Val) : Nat :=
  match v with
  | .inf _ => 0x7F800000
  | .fin q => (encodeFmt {} {} false .fp32 (Val.ofQ q.abs)).1
  | _ => 0

/-- Non-negative FP32 patterns order as their values. -/
def maxFp32 (a b : Nat) : Nat := if a < b then b else a

/-- What the Caliper gathers while one watched word runs: the word's own maximum. -/
structure Watch where
  cal : Caliper
  tileMax : Nat
  deriving DecidableEq, Repr

/-- Shows one value to the Caliper; NaN and NaR are skipped. -/
def Watch.see (w : Watch) (channel : Nat) (v : Val) : Watch :=
  if !w.cal.watching || v.isNaNish then w
  else
    let a := absFp32 v
    ⟨{ w.cal with tensor := maxFp32 w.cal.tensor a
                  channels := SMap.set 0 w.cal.channels channel (maxFp32 (SMap.get 0 w.cal.channels channel) a) },
     maxFp32 w.tileMax a⟩

/-- Ends a watched word: with TMW the tile maximum goes to TM_BASE × 64 + 4n. -/
def Watch.finish (c : Nat) (w : Watch) (out : Written) : Written :=
  if w.cal.watching then
    let out := if w.cal.tmw then Written.nat c unitCaliper out (w.cal.tmBase + 4 * w.cal.tile) 4 w.tileMax else out
    { out with core := { out.core with cal := { w.cal with tile := w.cal.tile + 1 } } }
  else out

/-! ### Requant (06 R162, 04 R108) -/

/-- A number of some values, for the free value that stands for what the spec does not state of them. -/
def valsCode (vs : List Val) : Nat :=
  vs.foldl (fun a v => match v with
    | .fin q => a * 2 ^ 64 + q.num.natAbs % 2 ^ 64
    | _ => a * 2 ^ 64) 1

/-- v × MULT × 2^SHIFT + BIAS, exactly; a channel never loaded is undefined and reads as a free value (06 R162). -/
def Core.requantVal (c : Nat) (core : Core) (ch : Nat) (q : Q) : Val :=
  match SMap.get none core.requant ch with
  | some e =>
    match (decodePosit 32 e.mult.toNat).real, (decodePosit 32 e.bias.toNat).real with
    | some m, some b => Val.ofQ (Q.add (Q.shift (Q.mul q m) e.shift.toInt) b)
    | _, _ => .nar
  | none => Val.ofQ ⟨(Config.freeNat (3000 + core.site c) ch 0 : Nat) - (Config.freeNat (3000 + core.site c) ch 1 : Int), 1⟩

/-- What the store path makes of an entry before its one rounding, and the entry's own flags (04 R108). -/
def Core.storeValue (c : Nat) (core : Core) (w : QW) (req : Bool) (ch : Nat) (e : QEntry) (t : TileStatus) : Val × TileStatus :=
  let t := { t with qovf := t.qovf || e.ovf || e.isSat w, qufl := t.qufl || e.ufl, qnar := t.qnar || e.isNar }
  match quireVal w e.val with
  | .fin q => (if req then core.requantVal c ch q else .fin q, t)
  | .zero s => (if req then core.requantVal c ch Q.zero else .zero s, t)
  | v => (v, t)

/-! ### QZERO, QSTORE and images -/

/-- QZERO (04 R113). -/
def Core.qzero (c : Nat) (core : Core) (w : QzeroWord) : Core :=
  (List.range w.count.toNat).foldl (fun core i => core.zeroUnit c unitChuck (w.qBase.toNat + i)) core

/-- QSTORE (04 R107, R108): one rounding per element, then the tile status word. -/
def Core.qstore (c : Nat) (core : Core) (w : QstoreWord) : Core :=
  let qw := QW.ofCode w.qw
  let fmt := Fmt.ofCode w.dfmt
  let m := w.mm1.toNat + 1
  let n := w.nm1.toNat + 1
  let rc : RoundCtx := { strict := core.ctx.strict, satfp := w.satfp == 1 }
  let step (st : Written × TileStatus × Watch) (r k : Nat) : Written × TileStatus × Watch :=
    let (out, t, wt) := st
    let e := core.readEntry c unitChuck qw (w.qBase.toNat + (r * n + k) * qw.units)
    let (v, t) := core.storeValue c qw (w.req == 1) (w.ch0.toNat + k) e t
    let (p, fl) := encodeFmt rc {} true fmt v
    (Written.elem c unitChuck out fmt (panelAddr fmt (addr64 w.dBase) w.dpc.toNat r k) k p, t.elem fl,
      wt.see (w.ch0.toNat + k) v)
  let (out, t, wt) := (List.range m).foldl (fun st r => (List.range n).foldl (fun st k => step st r k) st)
    (⟨core, []⟩, {}, ⟨core.cal, 0⟩)
  ((wt.finish c (Written.status c unitChuck out (addr64 w.tsBase) t))).deliverLater unitChuck

/-- QIMG_ST (04 R113): images at stride 16U, and the QOVF, QUFL and QNAR bits. -/
def Core.qimgSt (c : Nat) (core : Core) (w : QimgStWord) : Core :=
  let qw := QW.ofCode w.qw
  let (out, t) := (List.range (w.cntm1.toNat + 1)).foldl (fun (st : Written × TileStatus) i =>
    let e := core.readEntry c unitChuck qw (w.qBase.toNat + i * qw.units)
    (Written.nat c unitChuck st.1 (addr64 w.dBase + i * 16 * qw.units) (16 * qw.units) (quireImage qw e.val),
     { st.2 with qovf := st.2.qovf || e.ovf || e.isSat qw, qufl := st.2.qufl || e.ufl, qnar := st.2.qnar || e.isNar }))
    ((⟨core, []⟩ : Written), ({} : TileStatus))
  (Written.status c unitChuck out (addr64 w.tsBase) t).deliverLater unitChuck

/-- Applies consecutive images to entries, as overwrites or adds (04 R113). -/
def Core.applyImages (c : Nat) (who : UnitId) (core : Core) (w : QW) (q : Nat) (overwrite : Bool) (images : List Nat) : Core :=
  (images.foldl (fun (st : Core × Nat) im =>
    ((if overwrite then st.1.overwriteEntry c who w st.2 (addendOfImage w im)
      else st.1.addEntry c who w st.2 (addendOfImage w im)), st.2 + w.units)) (core, q)).1

/-- QIMG_LD (04 R113). -/
def Core.qimgLd (c : Nat) (core : Core) (w : QimgLdWord) : Core :=
  let qw := QW.ofCode w.qw
  let images := (List.range (w.cntm1.toNat + 1)).map (fun i =>
    core.rdNat c unitChuck (addr64 w.sBase + i * 16 * qw.units) (16 * qw.units))
  core.applyImages c unitChuck qw w.qBase.toNat (w.acc == 0) images

/-! ### Reductions by comparison (04 R115 to R119) -/

/-- A candidate of a ranking: its stored bits, index and format code. -/
structure Candidate where
  bits : Nat
  index : Nat
  fmt : BitVec 4
  deriving DecidableEq, Repr

def Candidate.val (x : Candidate) : Val := decodeFmt {} (Fmt.ofCode x.fmt) x.bits

/-- Whether real value `a` ranks strictly before real value `b`. Infinities are the extreme values; −0 equals +0. -/
def realBefore (lowest : Bool) (a b : Val) : Bool :=
  let lt (x y : Val) : Bool :=
    match x, y with
    | .inf nx, .inf ny => nx && !ny
    | .inf nx, _ => nx
    | _, .inf ny => !ny
    | x, y => match x.real, y.real with
      | some p, some q => Q.lt p q
      | _, _ => false
  if lowest then lt a b else lt b a

/-- 04 R117: whether `a` ranks before `b`. -/
def ranksBefore (lowest : Bool) (a b : Candidate) : Bool :=
  let na := a.val.isNaNish
  let nb := b.val.isNaNish
  if na && nb then decide (a.index < b.index)
  else if na then true
  else if nb then false
  else if realBefore lowest a.val b.val then true
  else if realBefore lowest b.val a.val then false
  else decide (a.index < b.index)

/-- Inserts a candidate into a ranked list that keeps at most `k`. -/
def rankInsert (lowest : Bool) (k : Nat) (x : Candidate) : List Candidate → List Candidate
  | [] => [x].take k
  | y :: ys => if ranksBefore lowest x y then (x :: y :: ys).take k
    else (match k with
      | 0 => []
      | k' + 1 => y :: rankInsert lowest k' x ys)

/-- The best `k` candidates in rank order. -/
def rankAll (lowest : Bool) (k : Nat) (xs : List Candidate) : List Candidate :=
  xs.foldl (fun best x => rankInsert lowest k x best) []

/-- A stored record (04 R116), if it is VALID. -/
def Core.rdRecord (c : Nat) (who : UnitId) (core : Core) (a : Nat) : Option Candidate :=
  let stat := core.rdNat c who (a + 13) 1
  if bitAt stat 0 then
    some ⟨core.rdNat c who a 8, core.rdNat c who (a + 8) 4, BitVec.ofNat 4 (core.rdNat c who (a + 12) 1)⟩
  else none

/-- Writes a record; `none` is the record with VALID 0 and every other field 0. -/
def Written.record (c : Nat) (who : UnitId) (w : Written) (a : Nat) : Option Candidate → Written
  | none => Written.nat c who w a 16 0
  | some x => Written.nat c who w a 16
      (x.bits % 2 ^ 64 + x.index % 2 ^ 32 * 2 ^ 64 + x.fmt.toNat * 2 ^ 96 + (1 + bitVal x.val.isNaNish 1) * 2 ^ 104)

/-- Writes the ranked records of one row, filling the rest with VALID 0. -/
def Written.records (c : Nat) (who : UnitId) (w : Written) (a k : Nat) (xs : List Candidate) : Written :=
  (List.range k).foldl (fun w j => Written.record c who w (a + 16 * j) (xs[j]?)) w

/-- The reduction descriptor (04 R115). -/
structure RedDesc where
  sBase : Nat
  rBase : Nat
  idx0 : Nat
  cols : Nat
  pc : Nat
  rows : Nat
  fmt : Nat
  k : Nat
  deriving DecidableEq, Repr

def redDescOf (b : List Byte) : RedDesc :=
  { sBase := fieldAt b 0 4, rBase := fieldAt b 4 4, idx0 := fieldAt b 8 4, cols := fieldAt b 12 2, pc := fieldAt b 14 2
    rows := fieldAt b 16 1, fmt := fieldAt b 17 1, k := fieldAt b 18 1 }

/-- 04 R119. -/
def RedDesc.invalid (d : RedDesc) (b : List Byte) (topk : Bool) : Bool :=
  let fmt := Fmt.ofCode (BitVec.ofNat 4 d.fmt)
  decide (131072 ≤ d.sBase) || decide (131072 ≤ d.rBase) || !(inRange 1 65535 d.cols) || decide (d.pc < d.cols) ||
    !(inRange 1 64 d.rows) || decide (15 < d.fmt) || decide (fieldAt b 19 13 ≠ 0) ||
    decide (fmt = .c4) || decide (fmt = .fp64) || fmt.isQuire ||
    (if topk then !(inRange 1 64 d.k) else decide (d.k ≠ 0)) ||
    decide (coreMemBytes < d.sBase * 64 + panelBytes fmt d.rows (ceilDiv d.pc 16)) ||
    decide (coreMemBytes < d.rBase * 64 + d.rows * (if topk then d.k else 1) * 16)

/-- The fault of a RED word: an invalid descriptor (04 R116). -/
def Core.reduceFault (c : Nat) (core : Core) (w : RedWord) (topk : Bool) : Option WordFault :=
  let b := core.rdBytes c unitChuck (addr64 w.rdBase) 32
  if (redDescOf b).invalid b topk then some .redDesc else none

/-- RED_MAX, RED_MIN and RED_TOPK (04 R115 to R117). DESIGN CHOICE (log entry 9): where IDX0 plus the column passes 2^32, ties rank by
the sum and the record holds it mod 2^32. -/
def Core.reduce (c : Nat) (core : Core) (w : RedWord) (topk lowest : Bool) : Core :=
  let d := redDescOf (core.rdBytes c unitChuck (addr64 w.rdBase) 32)
  let fmt := Fmt.ofCode (BitVec.ofNat 4 d.fmt)
  let k := if topk then d.k else 1
  let out := (List.range d.rows).foldl (fun (out : Written) r =>
    let old := if w.acc == 1 then
        (List.range k).filterMap (fun j => core.rdRecord c unitChuck (d.rBase * 64 + (r * k + j) * 16))
      else []
    let new := (List.range d.cols).map (fun j =>
      (⟨core.rdPanel c unitChuck fmt (d.sBase * 64) (ceilDiv d.pc 16) r j, d.idx0 + j, BitVec.ofNat 4 d.fmt⟩ : Candidate))
    Written.records c unitChuck out (d.rBase * 64 + r * k * 16) k (rankAll lowest k (old ++ new))) ⟨core, []⟩
  out.deliverLater unitChuck

/-- The occupancy of a RED word (04 R118). -/
def Core.reduceOccupancy (c : Nat) (core : Core) (w : RedWord) (topk : Bool) : Nat :=
  let d := redDescOf (core.rdBytes c unitChuck (addr64 w.rdBase) 32)
  let e := if w.acc == 0 then 0 else if topk then d.k else 1
  2 + ceilDiv (d.rows * (d.cols + e)) (if topk then 32 else 64) + (if topk then 8 + d.k else 8)

/-! ### REQ_LOAD (06 R163, R164) -/

/-- Entry `i` of the table that a REQ_LOAD names. -/
def Core.reqEntryAt (c : Nat) (core : Core) (w : ReqLoadWord) (i : Nat) : ReqEntry :=
  let a := addr64 w.rtBase + 16 * i
  ⟨BitVec.ofNat 32 (core.rdNat c unitChuck a 4), BitVec.ofNat 32 (core.rdNat c unitChuck (a + 4) 4),
    BitVec.ofNat 8 (core.rdNat c unitChuck (a + 8) 1)⟩

/-- The fault of a REQ_LOAD: an entry with a NaR or reserved bits (06 R163). -/
def Core.reqFault (c : Nat) (core : Core) (w : ReqLoadWord) : Option WordFault :=
  if (List.range w.count.toNat).any (fun i =>
      let e := core.reqEntryAt c w i
      e.mult == 0x80000000 || e.bias == 0x80000000 || core.rdNat c unitChuck (addr64 w.rtBase + 16 * i + 9) 7 != 0)
  then some .reqTable else none

/-- REQ_LOAD. -/
def Core.reqLoad (c : Nat) (core : Core) (w : ReqLoadWord) : Core :=
  { core with requant := (List.range w.count.toNat).foldl (fun m i =>
      SMap.set none m (w.first.toNat + i) (some (core.reqEntryAt c w i))) core.requant }

/-! ### QUANT (06 R175 to R182) -/

/-- The quantisation descriptor (06 R176). -/
structure QuantDesc where
  qb : List Nat
  qn : List Nat
  srcBase : Nat
  spc : Nat
  sfmt : Nat
  dBase : Nat
  dpc : Nat
  ch0 : Nat
  isAddr : Nat
  osAddr : Nat
  cbAddr : Nat
  z : Nat
  underK : Nat
  tsBase : Nat
  deriving DecidableEq, Repr

def quantDescOf (b : List Byte) : QuantDesc :=
  { qb := [fieldAt b 0 4, fieldAt b 4 4, fieldAt b 8 4, fieldAt b 12 4]
    qn := [fieldAt b 16 1, fieldAt b 17 1, fieldAt b 18 1, fieldAt b 19 1]
    srcBase := fieldAt b 0x14 4, spc := fieldAt b 0x18 2, sfmt := fieldAt b 0x1A 1, dBase := fieldAt b 0x1C 4
    dpc := fieldAt b 0x20 2, ch0 := fieldAt b 0x22 2, isAddr := fieldAt b 0x24 4, osAddr := fieldAt b 0x28 4
    cbAddr := fieldAt b 0x2C 4, z := fieldAt b 0x30 1, underK := fieldAt b 0x31 1, tsBase := fieldAt b 0x34 4 }

def QuantDesc.n (d : QuantDesc) : Nat := d.qn.foldl (· + ·) 0

/-- The block and the column within it of output column k. -/
def blockOf (qn : List Nat) (b k : Nat) : Nat × Nat :=
  match qn with
  | [] => (b, k)
  | n :: rest => if k < n then (b, k) else blockOf rest (b + 1) (k - n)

/-- 06 R182, the run-time checks. SFMT stands in the descriptor, so that a source format which R182 rejects shows only here. -/
def QuantDesc.invalid (d : QuantDesc) (b : List Byte) (w : QuantWord) : Bool :=
  let m := w.mm1.toNat + 1
  let n := d.n
  let dfmt := Fmt.ofCode w.dfmt
  let sfmt := Fmt.ofCode (BitVec.ofNat 4 d.sfmt)
  let qw := QW.ofCode w.qw
  let sb := scaleBytes (w.scf == 1)
  let scales := if w.scope == 1 then m else 1
  let used := d.qn.map (fun x => decide (x ≠ 0))
  let gap := (List.range 3).any (fun i => !(used.getD i false) && used.getD (i + 1) false)
  d.qb.any (fun x => decide (131072 ≤ x)) || d.qn.any (fun x => decide (32 < x)) || !(inRange 1 128 n) || gap ||
    decide (131072 ≤ d.srcBase) || decide (15 < d.sfmt) || decide (fieldAt b 0x1B 1 ≠ 0) || decide (131072 ≤ d.dBase) ||
    decide (4095 < d.ch0) || decide (8388608 ≤ d.isAddr) || decide (8388608 ≤ d.osAddr) || decide (8388608 ≤ d.cbAddr) ||
    decide (15 < d.underK) || decide (fieldAt b 0x32 2 ≠ 0) || decide (131072 ≤ d.tsBase) || decide (fieldAt b 0x38 8 ≠ 0) ||
    (w.src == 1 && (sfmt.isQuire || decide (sfmt = .c4) || decide (sfmt = .fp64))) ||
    (if w.src == 1 then decide (coreMemBytes < d.srcBase * 64 + blockBytes sfmt m n d.spc)
     else (List.range 4).any (fun i =>
      decide (nth d.qn i ≠ 0) && decide (chuckUnits < nth d.qb i + m * nth d.qn i * qw.units))) ||
    decide (coreMemBytes < d.dBase * 64 + blockBytes dfmt m n d.dpc) ||
    (w.meas == 0 && decide (coreMemBytes < d.isAddr + scales * sb)) || decide (coreMemBytes < d.osAddr + scales * sb) ||
    (dfmt == .c4 && w.cb == 1 && decide (coreMemBytes < d.cbAddr + 32)) || decide (coreMemBytes < d.tsBase * 64 + 8)

/-- MAXC (06 R171). With CB 1 it is the largest magnitude of the codebook's entries (06 R187), whatever they are. -/
def maxCode (fmt : Fmt) (cb : Codebook) (custom : Bool) (z : Nat) : Q :=
  match fmt with
  | .int8 => Q.ofInt 127
  | .c4 => if custom then
      (cb.foldl (fun acc p => match (decodePosit 16 p.toNat).real with
        | some q => Q.max acc q.abs
        | none => acc) Q.zero)
    else Q.ofInt 7
  | .a8z => Q.ofInt (if 0 < z && z < 255 then min z (255 - z) else 255 : Nat)
  | .e4m3 => Q.ofInt 448
  | .e5m2 => Q.ofInt 57344
  | _ => Q.ofInt 16

/-- 06 R178: the fill ρ of a set of values. -/
def fillOf (fmt : Fmt) (maxc : Q) (z : Nat) (vs : List Val) : Q :=
  vs.foldl (fun acc v =>
    match v with
    | .fin q =>
      if fmt = .a8z then
        (if q.num < 0 then (if z = 0 then acc else Q.max acc (Q.div q.abs (Q.ofInt z)))
         else if z = 255 then acc else Q.max acc (Q.div q (Q.ofInt (255 - z : Int))))
      else if maxc.num = 0 then acc else Q.max acc (Q.div q.abs maxc)
    | _ => acc) Q.zero

/-- 06 R173: a positive scale as stored: P16 rounded by R16, or the power of two at or above it, held within 0x01–0xFE. -/
def storeScale (e8 : Bool) (s : Q) : Nat :=
  if e8 then
    let e := ilog2 s.num.natAbs s.den
    let up := if Q.eqv s (Q.ofScaled 1 e) then e else e + 1
    let code := up + 127
    if code < 1 then 1 else if 254 < code then 254 else code.toNat
  else (encodePositQ 16 s).1

/-- The measured scale of a fill (06 R178). -/
def measuredScale (e8 : Bool) (rho : Q) : Nat := storeScale e8 (if rho.num = 0 then Q.one else rho)

/-- The scale a scope uses, with its RESCALE, UNDERUSE and INV_SCALE flags (06 R179). -/
def chooseScale (e8 meas : Bool) (given : Nat) (rho : Q) (underK : Nat) : Nat × Bool × Bool × Bool :=
  let m := measuredScale e8 rho
  if meas then (m, false, false, false)
  else
    match scaleVal e8 given with
    | none => (m, false, false, true)
    | some s =>
      if s.num ≤ 0 then (m, false, false, true)
      else if Q.lt s rho then (m, true, false, false)
      else if underK ≠ 0 && Q.lt rho (Q.shift s (-(underK : Int))) then (given, false, true, false)
      else (given, false, false, false)

/-- The codebook of a QUANT: its descriptor's with CB 1 and C4, else the default one (06 R187). -/
def Core.quantBook (c : Nat) (core : Core) (w : QuantWord) (d : QuantDesc) : Codebook :=
  if Fmt.ofCode w.dfmt == .c4 && w.cb == 1 then core.codebookAt c unitChuck d.cbAddr else defaultCodebook

/-- The fault of a QUANT: an invalid descriptor (06 R182), or a NaR in its codebook (01 R28). DESIGN CHOICE (log entry 30): its channels stand in
the descriptor, so that one which no REQ_LOAD has loaded (R165) shows only here, as an invalid one. -/
def Core.quantFault (c : Nat) (core : Core) (w : QuantWord) : Option WordFault :=
  let b := core.rdBytes c unitChuck (addr64 w.qdBase) 64
  let d := quantDescOf b
  let loaded := (List.range d.n).all (fun k => (SMap.get none core.requant (d.ch0 + k)).isSome)
  if d.invalid b w || (w.req == 1 && !loaded) then some .quantDesc
  else if codebookInvalid (core.quantBook c w d) then some .codebookNar
  else none

/-- QUANT (06 R175): finds every value and the fill, chooses each scope's scale, quantises each element once. -/
def Core.quant (c : Nat) (core : Core) (w : QuantWord) : Core :=
  let d := quantDescOf (core.rdBytes c unitChuck (addr64 w.qdBase) 64)
  let dfmt := Fmt.ofCode w.dfmt
  let sfmt := Fmt.ofCode (BitVec.ofNat 4 d.sfmt)
  let qw := QW.ofCode w.qw
  let m := w.mm1.toNat + 1
  let n := d.n
  let custom := dfmt == .c4 && w.cb == 1
  let cb := core.quantBook c w d
  let value (r k : Nat) (t : TileStatus) : Val × TileStatus :=
    if w.src == 1 then
      let v := decodeFmt { z := d.z } sfmt (core.rdPanel c unitChuck sfmt (d.srcBase * 64) d.spc r k)
      (match v with
        | .fin q => (if w.req == 1 then core.requantVal c (d.ch0 + k) q else v, t)
        | .zero _ => (if w.req == 1 then core.requantVal c (d.ch0 + k) Q.zero else v, t)
        | _ => (v, t))
    else
      let (blk, kk) := blockOf d.qn 0 k
      core.storeValue c qw (w.req == 1) (d.ch0 + k)
        (core.readEntry c unitChuck qw (nth d.qb blk + (r * nth d.qn blk + kk) * qw.units)) t
  let e8 := w.scf == 1
  let sb := scaleBytes e8
  let maxc := maxCode dfmt cb custom d.z
  let rowVals (r : Nat) : List Val := (List.range n).map (fun k => (value r k {}).1)
  let given (i : Nat) : Nat := core.rdNat c unitChuck (d.isAddr + i * sb) sb
  -- a codebook of zeros has MAXC 0: |v| / MAXC has no stated value
  let fill (vs : List Val) : Q :=
    if custom && decide (maxc.num = 0) then ⟨(Config.freeNat (4000 + core.site c) (valsCode vs) 1 : Nat), 1⟩ else fillOf dfmt maxc d.z vs
  let whole := chooseScale e8 (w.meas == 1) (given 0) (fill ((List.range m).flatMap rowVals)) d.underK
  let pick (r : Nat) : Nat × Bool × Bool × Bool :=
    if w.scope == 1 then chooseScale e8 (w.meas == 1) (given r) (fill (rowVals r)) d.underK else whole
  let rc : RoundCtx := { strict := core.ctx.strict }
  -- only a NaR of the Chuck raises IEEE_NV; a stored NaR does not (01 R38, R42)
  let quire := w.src == 0
  let encode (s : Q) (v : Val) : Nat × Flags :=
    if dfmt.isCode then encodeFmt rc { z := d.z, scale := s, cb := cb, nearest := custom } quire dfmt v
    else
      -- a symmetric float or posit destination rounds v / scale by 01 R38
      match v with
      | .fin q => encodeFmt rc {} quire dfmt (Val.ofQ (Q.div q s))
      | .inf neg =>
        -- 06 R181: an infinite value saturates, with SAT
        let (p, _) := encodeFmt rc {} true dfmt (Val.ofQ (if neg then Q.neg (Q.ofScaled 1 300) else Q.ofScaled 1 300))
        if dfmt = .e5m2 then
          (signPattern (floatSpec .e5m2) neg + maxFinitePattern (floatSpec .e5m2), { sat := true })
        else (p, { sat := true })
      | v => encodeFmt rc {} quire dfmt v
  let step (st : Written × TileStatus × Watch) (r k : Nat) : Written × TileStatus × Watch :=
    let (out, t, wt) := st
    let (v, t) := value r k t
    let (s, re, un, iv) := pick r
    let (p, fl) := encode ((scaleVal e8 s).getD Q.one) v
    let t := { t with rescale := t.rescale || re, underuse := t.underuse || un, invScale := t.invScale || iv }
    (Written.elem c unitChuck out dfmt (panelAddr dfmt (d.dBase * 64) d.dpc r k) k p, t.elem fl, wt.see (d.ch0 + k) v)
  let (out, t, wt) := (List.range m).foldl (fun st r => (List.range n).foldl (fun st k => step st r k) st)
    (⟨core, []⟩, {}, ⟨core.cal, 0⟩)
  let out := (List.range (if w.scope == 1 then m else 1)).foldl
    (fun out i => Written.nat c unitChuck out (d.osAddr + i * sb) sb (pick i).1) out
  (wt.finish c (Written.status c unitChuck out (d.tsBase * 64) t)).deliverLater unitChuck

/-- The columns of a QUANT, for its occupancy (06 R180). -/
def Core.quantColumns (c : Nat) (core : Core) (w : QuantWord) : Nat :=
  (quantDescOf (core.rdBytes c unitChuck (addr64 w.qdBase) 64)).n

/-! ### The Caliper's words (06 R167 to R173) -/

/-- CAL_TAP OPEN: clears every maximum and starts watching. -/
def Core.calOpen (core : Core) (w : TapOpenWord) : Core :=
  { core with cal := { watching := true, tmw := w.tmw == 1, tmBase := addr64 w.tmBase } }

/-- Writes channels 0 to CVNM1 to the channel vector. -/
def Core.writeChannels (c : Nat) (core : Core) (base nm1 : Nat) : Written :=
  (List.range (nm1 + 1)).foldl
    (fun (out : Written) i => Written.nat c unitCaliper out (base + 4 * i) 4 (SMap.get 0 core.cal.channels i)) ⟨core, []⟩

def Written.stopWatching (w : Written) : Written :=
  { w with core := { w.core with cal := { w.core.cal with watching := false } } }

/-- CAL_TAP CLOSE. -/
def Core.calClose (c : Nat) (core : Core) (w : TapCloseWord) : Core :=
  (core.writeChannels c (addr64 w.cvBase) w.cvnm1.toNat).stopWatching.deliverLater unitCaliper

/-- 06 R170: an invalid history block. -/
def historyInvalid (b : List Byte) : Bool :=
  decide (15 < fieldAt b 0 1) || decide (16 < fieldAt b 1 1) || decide (fieldAt b 2 6 ≠ 0) || decide (fieldAt b 0x48 56 ≠ 0)

/-- The fault of a word whose history block is invalid (06 R170). -/
def Core.historyFault (c : Nat) (core : Core) (a : Nat) : Option WordFault :=
  if historyInvalid (core.rdBytes c unitCaliper a 128) then some .calHist else none

/-- CAL_TAP PUSH: writes the channel vector, then pushes the tensor maximum, or a record's VALUE, into the history block
(06 R167, R169). -/
def Core.calPush (c : Nat) (core : Core) (w : TapPushWord) : Core :=
  let hb := addr64 w.hbBase
  let b := core.rdBytes c unitCaliper hb 128
  let v := if w.psrc == 1 then
      let r := addr64 w.recBase
      let fmt := Fmt.ofCode (BitVec.ofNat 4 (core.rdNat c unitCaliper (r + 12) 1))
      absFp32 (decodeFmt {} fmt (core.rdNat c unitCaliper r 8))
    else core.cal.tensor
  let count := fieldAt b 1 1
  let head := if count = 0 then 0 else (fieldAt b 0 1 + 1) % 16
  let out := core.writeChannels c (addr64 w.cvBase) w.cvnm1.toNat
  let out := Written.nat c unitCaliper out (hb + 8 + 4 * head) 4 v
  let out := Written.nat c unitCaliper out hb 1 head
  let out := Written.nat c unitCaliper out (hb + 1) 1 (min (count + 1) 16)
  out.stopWatching.deliverLater unitCaliper

/-- The newest `n` history entries, newest first. -/
def historyNewest (b : List Byte) (n : Nat) : List Nat :=
  (List.range n).map (fun i => fieldAt b (8 + 4 * ((fieldAt b 0 1 + 16 - i) % 16)) 4)

/-- The codebook of a SCALE_ADAPT: its own with CB 1 and C4, else the default one. -/
def Core.adaptBook (c : Nat) (core : Core) (w : AdaptWord) : Codebook :=
  if Fmt.ofCode w.tfmt == .c4 && w.cb == 1 then core.codebookAt c unitCaliper (addr64 w.cbBase) else defaultCodebook

/-- The fault of a SCALE_ADAPT: a NaR in its codebook (01 R28), or an invalid history block (06 R170). -/
def Core.adaptFault (c : Nat) (core : Core) (w : AdaptWord) : Option WordFault :=
  if codebookInvalid (core.adaptBook c w) then some .codebookNar else core.historyFault c (addr64 w.hbBase)

/-- SCALE_ADAPT (06 R172, R173). -/
def Core.scaleAdapt (c : Nat) (core : Core) (w : AdaptWord) : Core :=
  let b := core.rdBytes c unitCaliper (addr64 w.hbBase) 128
  let fmt := Fmt.ofCode w.tfmt
  let custom := decide (fmt = .c4) && w.cb == 1
  let cb := core.adaptBook c w
  let h := (historyNewest b (min (w.depth.toNat + 1) (fieldAt b 1 1))).foldl maxFp32 0
  let e8 := w.scf == 1
  let maxc := maxCode fmt cb custom w.z.toNat
  let p : Nat :=
    match decodeFmt {} .fp32 h with
    | .zero _ => 0
    | .fin q =>
      if maxc.num = 0 then (Config.freeNat (4000 + core.site c) h 0) % (if e8 then 256 else 65536)
      else storeScale e8 (Q.shift (Q.div q maxc) w.margin.toInt)
    | _ => if e8 then 0xFF else 0x8000
  (Written.nat c unitCaliper ⟨core, []⟩ w.sAddr.toNat (scaleBytes e8) p).deliverLater unitCaliper

end Sys2Proof.Machine
end

