-- ==== Sys2Proof/Machine/Elementary.lean ====
section
/-! DEFINITION. Elementary functions of exact inputs (05 R142 to R144): enclosures of exp and log by integer interval arithmetic, the
exact reciprocal and reciprocal square root, and the one rounding of a strict built-in. -/

namespace Sys2Proof.Machine

/-- An enclosure of a positive number, in units of `2^-p`. -/
structure Encl where
  lo : Nat
  hi : Nat
  deriving DecidableEq, Repr

def Encl.mul (p : Nat) (a b : Encl) : Encl := ⟨a.lo * b.lo / 2 ^ p, a.hi * b.hi / 2 ^ p + 1⟩

def Encl.ofRat (p n d : Nat) : Encl := ⟨n * 2 ^ p / d, n * 2 ^ p / d + 1⟩

/-- The Taylor sum of exp(t) for 0 ≤ t < 2^-8: `n` more terms after `term`, whose index is `i`. -/
def expTaylor (p : Nat) (t : Encl) : Nat → Nat → Encl → Encl → Encl
  | 0, _, _, acc => ⟨acc.lo, acc.hi + 2⟩
  | n + 1, i, term, acc =>
    let m := Encl.mul p term t
    let term' : Encl := ⟨m.lo / i, m.hi / i + 1⟩
    expTaylor p t n (i + 1) term' ⟨acc.lo + term'.lo, acc.hi + term'.hi⟩

def squareTimes (p : Nat) : Nat → Encl → Encl
  | 0, a => a
  | n + 1, a => squareTimes p n (Encl.mul p a a)

/-- An enclosure of exp(n / d) for 0 ≤ n / d < 256, in units of `2^-p`. -/
def expEncl (p n d : Nat) : Encl :=
  squareTimes p 16 (expTaylor p (Encl.ofRat p n (d * 65536)) 32 1 ⟨2 ^ p, 2 ^ p⟩ ⟨2 ^ p, 2 ^ p⟩)

/-- Bounds of exp(x) for a non-zero rational x: an overflowing or vanishing value is bounded by powers of two beyond every
destination's range. -/
def expBounds (p : Nat) (x : Q) : Q × Q :=
  let n := x.num.natAbs
  if 200 * x.den ≤ n then
    (if x.num < 0 then (Q.ofScaled 1 (-400), Q.ofScaled 1 (-400)) else (Q.ofScaled 1 400, Q.ofScaled 1 400))
  else
    let e := expEncl p n x.den
    if x.num < 0 then (⟨2 ^ p, e.hi⟩, ⟨2 ^ p, e.lo⟩) else (⟨e.lo, 2 ^ p⟩, ⟨e.hi, 2 ^ p⟩)

/-- The sum z + z³/3 + z⁵/5 + … for 0 ≤ z ≤ 1/3, enclosed. -/
def atanhSeries (p : Nat) (z2 : Encl) : Nat → Nat → Encl → Encl → Encl
  | 0, _, _, acc => ⟨acc.lo, acc.hi + 2⟩
  | n + 1, i, pow, acc =>
    let pow' := Encl.mul p pow z2
    atanhSeries p z2 n (i + 2) pow' ⟨acc.lo + pow'.lo / i, acc.hi + pow'.hi / i + 1⟩

/-- An enclosure of 2 · atanh(n / d) for 0 ≤ n / d ≤ 1/3, in units of `2^-p`. -/
def twoAtanh (p n d : Nat) : Encl :=
  let z := Encl.ofRat p n d
  let s := atanhSeries p (Encl.mul p z z) (p / 3 + 4) 3 z z
  ⟨2 * s.lo, 2 * s.hi⟩

/-- Bounds of log(n / d) for a positive rational other than one. -/
def logBounds (p n d : Nat) : Q × Q :=
  let e0 := ilog2 n d
  -- m = x / 2^e in [0.75, 1.5)
  let m0 := Q.shift ⟨n, d⟩ (-e0)
  let e := if Q.lt m0 ⟨3, 2⟩ then e0 else e0 + 1
  let m := Q.shift ⟨n, d⟩ (-e)
  let ln2 := twoAtanh p 1 3
  let up := decide (m.den ≤ m.num.natAbs)
  let a := if up then m.num.natAbs - m.den else m.den - m.num.natAbs
  let l := twoAtanh p a (m.num.natAbs + m.den)
  let (mlo, mhi) : Int × Int := if up then (l.lo, l.hi) else (-(l.hi : Int), -(l.lo : Int))
  let (elo, ehi) : Int × Int := if 0 ≤ e then (e * ln2.lo, e * ln2.hi) else (e * ln2.hi, e * ln2.lo)
  (⟨elo + mlo, 2 ^ p⟩, ⟨ehi + mhi, 2 ^ p⟩)

/-- Integer square root, digit by digit: the largest s with s² ≤ n, its bits above position `fuel` being `s` already. -/
def isqrtGo (n : Nat) : Nat → Nat → Nat
  | 0, s => s
  | k + 1, s =>
    let s' := s + 2 ^ k
    if s' * s' ≤ n then isqrtGo n k s' else isqrtGo n k s

def isqrt (n : Nat) : Nat := isqrtGo n (Nat.log2 n / 2 + 1) 0

/-- Bounds of 1 / sqrt(n / d), equal where the value is rational with the working precision. -/
def rsqrtBounds (p n d : Nat) : Q × Q :=
  -- 1 / sqrt(n/d) = sqrt(d · n) / n, scaled by an even power of two
  let g := Nat.gcd n d
  let n := n / g
  let d := d / g
  let rn := isqrt n
  let rd := isqrt d
  if rn * rn = n ∧ rd * rd = d then (⟨rd, rn⟩, ⟨rd, rn⟩)
  else
    let s := isqrt (d * n * 2 ^ (2 * p))
    (⟨s, n * 2 ^ p⟩, ⟨s + 1, n * 2 ^ p⟩)

/-- The built-in functions FN names (05 R130). -/
inductive FnCode where
  | exp | log | recip | rsqrt
  deriving DecidableEq, Repr

def FnCode.ofCode : Nat → FnCode
  | 0 => .exp | 1 => .log | 2 => .recip | _ => .rsqrt

def FnCode.num : FnCode → Nat
  | .exp => 0 | .log => 1 | .recip => 2 | .rsqrt => 3

/-- A real number as a value in which zero keeps no sign. -/
def boundsOf (f : FnCode) (p : Nat) (x : Q) : Q × Q :=
  match f with
  | .exp => expBounds p x
  | .log => logBounds p x.num.natAbs x.den
  | .recip => (Q.div Q.one x, Q.div Q.one x)
  | .rsqrt => rsqrtBounds p x.num.natAbs x.den

/-- Rounds a strict built-in once: both ends of the enclosure must round to one pattern; where they do not at the working
precision, the pattern is a free value. -/
def roundStrict (rc : RoundCtx) (fmt : Fmt) (f : FnCode) (x : Q) : Nat × Flags :=
  let (lo, hi) := boundsOf f 512 x
  let (a, fa) := encodeFmt rc {} false fmt (Val.ofQ lo)
  let (b, fb) := encodeFmt rc {} false fmt (Val.ofQ hi)
  if a = b then (a, fa.or fb)
  else (Config.strictFn f.num x.num x.den fmt.bits % 2 ^ fmt.bits, fa.or fb)

end Sys2Proof.Machine
end

