-- ==== Sys2Proof/Machine/ProfileOps.lean ====
section
/-! DEFINITION. The Profile unit (05): profile tables, built-in functions, elementwise arithmetic, select, soft maximum and row
statistics. Each result is computed exactly and rounded once where the chapter says so. -/

namespace Sys2Proof.Machine

/-! ### Arithmetic on values (05 R145: IEEE 754-2019 special values, NaR read as a NaN) -/

/-- A value and whether IEEE_NV is due. -/
abbrev VRes := Val × Bool

/-- A NaN operand as it propagates: quieted, its payload kept (01 R19). -/
def quiet : Val → Val
  | .nan s f w _ => .nan s f w false
  | v => v

def signals : Val → Bool
  | .nan _ _ _ s => s
  | _ => false

/-- Which of two NaN operands propagates: IEEE 754-2019 leaves it open, so the machine's choice is a free value. -/
def pickNaN (a b : Val) : Val :=
  match a, b with
  | .nan .., .nan .. => if Config.freeBool 5000 0 0 then quiet a else quiet b
  | .nan .., _ => quiet a
  | _, .nan .. => quiet b
  | .nar, _ => .nar
  | _, _ => .nar

/-- The NaN an invalid operation generates: the canonical one. -/
def invalidNaN : VRes := (.nar, true)

def vmul (a b : Val) : VRes :=
  if a.isNaNish || b.isNaNish then (pickNaN a b, signals a || signals b)
  else
    let s := xor a.isNeg b.isNeg
    match a, b with
    | .inf _, .zero _ => invalidNaN
    | .zero _, .inf _ => invalidNaN
    | .inf _, _ => (.inf s, false)
    | _, .inf _ => (.inf s, false)
    | .zero _, _ => (.zero s, false)
    | _, .zero _ => (.zero s, false)
    | .fin x, .fin y => (.fin (Q.mul x y), false)
    | _, _ => (.nar, false)

def vneg : Val → Val
  | .inf s => .inf (!s)
  | .zero s => .zero (!s)
  | .fin q => .fin (Q.neg q)
  | v => v

def vadd (a b : Val) : VRes :=
  if a.isNaNish || b.isNaNish then (pickNaN a b, signals a || signals b)
  else
    match a, b with
    | .inf s, .inf t => if s = t then (.inf s, false) else invalidNaN
    | .inf s, _ => (.inf s, false)
    | _, .inf t => (.inf t, false)
    | .zero s, .zero t => (.zero (s && t), false)
    | .zero _, v => (v, false)
    | v, .zero _ => (v, false)
    | .fin x, .fin y => (Val.ofQ (Q.add x y), false)
    | _, _ => (.nar, false)

def vseq (a : VRes) (f : Val → VRes) : VRes :=
  let r := f a.1
  (r.1, a.2 || r.2)

/-! ### Sources and results under the conformance mode (01 R20, 05 R135) -/

/-- Decodes a source element; in fast mode a subnormal FP16, BF16 or FP32 input reads as zero of its sign. -/
def profIn (strict : Bool) (fmt : Fmt) (p : Nat) : Val :=
  decodeFmt {} fmt (if strict then p else flushSubnormal fmt p)

/-- Flushes a subnormal result in fast mode; a non-zero value that becomes zero sets UFL (01 R36). -/
def profFlush (strict : Bool) (fmt : Fmt) (r : Nat × Flags) : Nat × Flags :=
  if strict then r
  else
    let p := flushSubnormal fmt r.1
    (p, { r.2 with ufl := r.2.ufl || decide (p ≠ r.1) })

/-- Rounds a value once to the destination; `nv` adds the invalid flag of the operation that made it. -/
def profOut (strict : Bool) (fmt : Fmt) (v : VRes) : Nat × Flags :=
  let (p, fl) := profFlush strict fmt (encodeFmt { strict := strict } {} false fmt v.1)
  (p, { fl with nv := fl.nv || (strict && v.2 && fmt.raisesIeee) })

/-- The NaN of a destination: canonical, or NaR. -/
def nanOf (fmt : Fmt) : Nat := (encodeFmt {} {} false fmt .nar).1

/-! ### Profile tables (05 R138 to R140) -/

/-- A cubic segment: c0 to c3. -/
structure Cubic where
  c0 : Q
  c1 : Q
  c2 : Q
  c3 : Q
  deriving DecidableEq, Repr

def p32At (b : List Byte) (o : Nat) : Val := decodePosit 32 (fieldAt b o 4)

def realOr0 (v : Val) : Q := v.real.getD Q.zero

def tabNseg (b : List Byte) : Nat := fieldAt b 6 2
def tabE0 (b : List Byte) : Int := toSigned 16 (fieldAt b 0xC 2)
def tabMap (b : List Byte) (i : Nat) : Nat := fieldAt b (0x40 + 2 * i) 2
def tabSeg (b : List Byte) (i : Nat) : Cubic :=
  let o := 0x140 + 16 * i
  ⟨realOr0 (p32At b o), realOr0 (p32At b (o + 4)), realOr0 (p32At b (o + 8)), realOr0 (p32At b (o + 12))⟩

/-- The bytes of a table image. -/
def tabBytes (b : List Byte) : Nat := 0x140 + 16 * tabNseg b

/-- c0 + c1 t + c2 t² + c3 t³, exactly. -/
def Cubic.eval (k : Cubic) (t : Q) : Q :=
  Q.add k.c0 (Q.mul t (Q.add k.c1 (Q.mul t (Q.add k.c2 (Q.mul t k.c3)))))

/-- One operation of the IKB-5's Horner evaluation: round to P32 (05 R153). -/
def p32Round (q : Q) : Q := realOr0 (decodePosit 32 (encodePositQ 32 q).1)

/-- 05 R153: t rounded to P32 and the cubic by Horner's rule in P32, six roundings. -/
def Cubic.horner (k : Cubic) (t0 : Q) : Q :=
  let t := p32Round t0
  let a := p32Round (Q.add (p32Round (Q.mul k.c3 t)) k.c2)
  let b := p32Round (Q.add (p32Round (Q.mul a t)) k.c1)
  p32Round (Q.add (p32Round (Q.mul b t)) k.c0)

/-- The segment and local argument of a finite input (05 R139). -/
def tabPiece (b : List Byte) (x : Q) : Nat × Q :=
  let e0 := tabE0 b
  if x.num = 0 then (fieldAt b 0xE 1, x)
  else
    let e := ilog2 x.num.natAbs x.den
    if e < e0 then (fieldAt b 0xE 1, x)
    else if e0 + 63 < e then (if x.num < 0 then fieldAt b 0x10 1 else fieldAt b 0xF 1, x)
    else
      let me := tabMap b ((if x.num < 0 then 64 else 0) + (e - e0).toNat)
      let u := Q.shift (Q.sub (Q.shift x.abs (-e)) Q.one) (bitField me 8 3)
      let i := u.floor.toNat
      (bitField me 0 8 + i, Q.sub u (Q.ofInt i))

/-- The value of a table at a value, before the one rounding (05 R139), or under LEGACY (05 R153). -/
def tableEval (legacy : Bool) (b : List Byte) (v : Val) : Val :=
  match v with
  | .nan .. => quiet v
  | .nar => .nar
  | .inf neg => p32At b (if neg then 0x18 else 0x14)
  | _ =>
    let (seg, t) := tabPiece b (realOr0 v)
    Val.ofQ (if legacy then (tabSeg b seg).horner t else (tabSeg b seg).eval t)

/-- 05 R140: a malformed image. -/
def tableMalformed (b : List Byte) : Bool :=
  let n := tabNseg b
  let e0 := tabE0 b
  decide (fieldAt b 0 4 ≠ 0x1CE57AB1) || decide (fieldAt b 4 2 ≠ 1) || decide (3 < fieldAt b 8 4) ||
    decide (fieldAt b 0x11 3 ≠ 0) || decide (fieldAt b 0x1C 36 ≠ 0) || !(inRange 1 256 n) ||
    decide (e0 < -160) || decide (127 < e0) || decide (n ≤ fieldAt b 0xE 1) || decide (n ≤ fieldAt b 0xF 1) ||
    decide (n ≤ fieldAt b 0x10 1) ||
    (List.range 128).any (fun i => let me := tabMap b i
      decide (2048 ≤ me) || decide (n ≤ bitField me 0 8 + 2 ^ bitField me 8 3 - 1)) ||
    (List.range (4 * n)).any (fun i => decide (fieldAt b (0x140 + 4 * i) 4 = 0x80000000))

/-- A piece of the table in value order: its cubic and its local argument at the left and the right end (05 R140). -/
structure TabPiece where
  cubic : Cubic
  left : Q
  right : Q
  deriving DecidableEq, Repr

/-- The pieces of one binade; on the negative side the argument falls as x rises. -/
def binadePieces (b : List Byte) (neg : Bool) (bin : Nat) : List TabPiece :=
  let me := tabMap b ((if neg then 64 else 0) + bin)
  let n := 2 ^ bitField me 8 3
  let seg := bitField me 0 8
  if neg then (List.range n).map (fun i => ⟨tabSeg b (seg + (n - 1 - i)), Q.one, Q.zero⟩)
  else (List.range n).map (fun i => ⟨tabSeg b (seg + i), Q.zero, Q.one⟩)

/-- The pieces from −2^128 to +2^128: FAR_N, the negative binades from the highest down, NEAR, the positive binades, FAR_P. -/
def tablePieces (b : List Byte) : List TabPiece :=
  let e0 := tabE0 b
  let bins := (List.range 64).filter (fun (i : Nat) => decide (e0 + (i : Int) < 128))
  let far := decide (e0 + 64 < 128)
  let near := Q.ofScaled 1 e0
  let lim := Q.ofScaled 1 128
  (if far then [⟨tabSeg b (fieldAt b 0x10 1), Q.neg lim, Q.neg (Q.ofScaled 1 (e0 + 64))⟩] else []) ++
    bins.reverse.flatMap (binadePieces b true) ++
    [⟨tabSeg b (fieldAt b 0xE 1), Q.neg near, near⟩] ++
    bins.flatMap (binadePieces b false) ++
    (if far then [⟨tabSeg b (fieldAt b 0xF 1), Q.ofScaled 1 (e0 + 64), lim⟩] else [])

/-- Whether c1 + 2 c2 t + 3 c3 t² is nowhere negative on the closed interval. -/
def slopeNonNeg (k : Cubic) (lo hi : Q) : Bool :=
  let d (t : Q) : Q := Q.add k.c1 (Q.add (Q.mul (Q.ofInt 2) (Q.mul k.c2 t)) (Q.mul (Q.ofInt 3) (Q.mul k.c3 (Q.mul t t))))
  let ok (q : Q) : Bool := decide (0 ≤ q.num)
  let v := Q.div (Q.neg k.c2) (Q.mul (Q.ofInt 3) k.c3)
  ok (d lo) && ok (d hi) && (if 0 < k.c3.num && Q.lt lo v && Q.lt v hi then ok (d v) else true)

def Cubic.neg (k : Cubic) : Cubic := ⟨Q.neg k.c0, Q.neg k.c1, Q.neg k.c2, Q.neg k.c3⟩

/-- A piece rises (or stays) from left to right. -/
def TabPiece.rises (p : TabPiece) : Bool :=
  if Q.le p.left p.right then slopeNonNeg p.cubic p.left p.right else slopeNonNeg p.cubic.neg p.right p.left

def seamsRise : List TabPiece → Bool
  | p :: q :: rest => Q.le (p.cubic.eval p.right) (q.cubic.eval q.left) && seamsRise (q :: rest)
  | _ => true

/-- 05 R140: the MONO check, with DIR 1 by negating the function. -/
def tableMonotone (b : List Byte) : Bool :=
  let down := bitAt (fieldAt b 8 4) 1
  let ps := (tablePieces b).map (fun p => if down then { p with cubic := p.cubic.neg } else p)
  let sgn (q : Q) : Q := if down then Q.neg q else q
  let first := match ps.head?, (p32At b 0x18).real with
    | some p, some v => Q.le (sgn v) (p.cubic.eval p.left)
    | _, _ => true
  let last := match ps.getLast?, (p32At b 0x14).real with
    | some p, some v => Q.le (p.cubic.eval p.right) (sgn v)
    | _, _ => true
  ps.all TabPiece.rises && seamsRise ps && first && last

/-- A table of one segment that is zero everywhere: well-formed, and monotone in both directions. -/
def flatTable : List Byte :=
  natToBytes 4 0x1CE57AB1 ++ natToBytes 2 1 ++ natToBytes 2 1 ++ List.replicate (0x150 - 8) 0

/-- The ROM table `id` (05 R143): the spec does not give its bytes, so that it is a free image among those that are well-formed and
pass the MONO check (05 R144). -/
def romTable (id : Nat) : List Byte :=
  let b := Config.romImage id
  if tableMalformed b || decide (b.length ≠ tabBytes b) || !tableMonotone b then flatTable else b

/-- The table image that a TBL_LOAD names: a ROM table, or the bytes at TBASE. -/
def Core.tableImage (c : Nat) (core : Core) (w : TblWord) : List Byte :=
  let base := addr64 w.tBase
  if w.rom == 1 then romTable w.romid.toNat else core.rdBytes c unitProfile base (tabBytes (core.rdBytes c unitProfile base 0x140))

/-- The fault of a TBL_LOAD from core memory: a malformed image (05 R140), or one that claims MONO and is not monotone (R144). -/
def Core.tblFault (c : Nat) (core : Core) (w : TblWord) : Option WordFault :=
  let base := addr64 w.tBase
  let img := core.tableImage c w
  if w.rom == 1 then none
  else if decide (coreMemBytes < base + 0x140) || decide (coreMemBytes < base + tabBytes (core.rdBytes c unitProfile base 0x140))
      || tableMalformed img then some .tblFormat
  else if bitAt (fieldAt img 8 4) 0 && !tableMonotone img then some .seamNonmono
  else none

/-- TBL_LOAD (05 R137, R140). DESIGN CHOICE (log entry 12): the bytes of a DUMP that would pass the end of core memory are not written. -/
def Core.tblLoad (c : Nat) (core : Core) (w : TblWord) : Core :=
  let img := core.tableImage c w
  let core1 := { core with slots := SMap.set none core.slots w.slot.toNat (some img) }
  if w.dump == 1 then (Written.bytes c unitProfile ⟨core1, []⟩ (addr64 w.dumpBase) img).deliverLater unitProfile else core1

/-- The table a slot holds; an unloaded slot is undefined and reads as a free image. -/
def Core.slotImage (c : Nat) (core : Core) (slot : Nat) : List Byte :=
  match SMap.get none core.slots slot with
  | some b => b
  | none => natToBytes 4416 (Config.freeNat (6000 + core.site c) slot 0)

/-! ### Built-in functions (05 R142 to R144, R153) -/

def log2e : Q := ⟨0xB8AA3B295C17F0BC, 2 ^ 63⟩
def ln2 : Q := ⟨0xB17217F7D1CF79AC, 2 ^ 64⟩

/-- 05 R143: the value before the one rounding, through the ROM tables; a finite positive or negative x by FUNC. -/
def romValue (legacy : Bool) (f : FnCode) (x : Q) : Val :=
  let tab (q : Q) : Q := realOr0 (tableEval legacy (romTable (f.num + if legacy then 8 else 0)) (Val.ofQ q))
  match f with
  | .exp =>
    let y := Q.mul x log2e
    let n := y.floor
    Val.ofQ (Q.shift (tab (Q.sub y (Q.ofInt n))) n)
  | .log =>
    let e0 := ilog2 x.num.natAbs x.den
    let e := if Q.lt (Q.shift x (-e0)) ⟨3, 2⟩ then e0 else e0 + 1
    Val.ofQ (Q.add (Q.mul (Q.ofInt e) ln2) (tab (Q.sub (Q.shift x (-e)) Q.one)))
  | .recip =>
    let e := ilog2 x.num.natAbs x.den
    let v := Q.shift (tab (Q.sub (Q.shift x.abs (-e)) Q.one)) (-e)
    Val.ofQ (if x.num < 0 then Q.neg v else v)
  | .rsqrt =>
    let q := (ilog2 x.num.natAbs x.den) / 2
    Val.ofQ (Q.shift (tab (Q.sub (Q.shift x (-(2 * q))) Q.one)) (-q))

/-- Whether pattern `p` lies within one unit in the last place of a real number between `lo` and `hi` that rounds to pattern `s`. -/
def withinUlp (fmt : Fmt) (lo hi : Q) (s p : Nat) : Bool :=
  decide (p = s) ||
    match (decodeFmt {} fmt p).real, (decodeFmt {} fmt s).real, (decodeFmt {} fmt (s - 1)).real, (decodeFmt {} fmt (s + 1)).real with
    | some v, some x, some a, some b =>
      let ulp := Q.max (Q.sub x a).abs (Q.sub b x).abs
      Q.le (Q.sub v ulp) hi && Q.le lo (Q.add v ulp)
    | _, _, _, _ => false

/-- FN through the ROM table in fast mode (05 R143), within the unit in the last place of R154: where a free table would miss that,
the result is the rounded value. -/
def romRounded (f : FnCode) (fmt : Fmt) (x : Q) : Nat × Flags :=
  let r := profOut false fmt (romValue false f x, false)
  let b := boundsOf f 512 x
  let s := profFlush false fmt (roundStrict {} fmt f x)
  if withinUlp fmt b.1 b.2 s.1 r.1 then r else s

/-- FN at a value, rounded once to the destination, with its flags (05 R142). `flush` is 05 R135's result rule. -/
def fnEval (strict legacy : Bool) (f : FnCode) (fmt : Fmt) (v : Val) : Nat × Flags :=
  let special (r : Val) (nv dz : Bool) : Nat × Flags :=
    let (p, fl) := encodeFmt { strict := strict } {} false fmt r
    (p, { fl with nv := fl.nv || (strict && nv && fmt.raisesIeee), dz := strict && dz && fmt.raisesIeee })
  let invalid := special .nar true false
  match v with
  | .nan .. => special (quiet v) (signals v) false
  | .nar => special .nar false false
  | .inf neg =>
    match f, neg with
    | .exp, false => special (.inf false) false false
    | .exp, true => special (.zero false) false false
    | .log, false => special (.inf false) false false
    | .log, true => invalid
    | .recip, _ => special (.zero neg) false false
    | .rsqrt, false => special (.zero false) false false
    | .rsqrt, true => invalid
  | .zero neg =>
    match f with
    | .exp => special (.fin Q.one) false false
    | .log => special (.inf true) false true
    | .recip => special (.inf neg) false true
    | .rsqrt => special (.inf neg) false true
  | .fin q =>
    if q.num < 0 && (f == .log || f == .rsqrt) then invalid
    else if Q.eqv q Q.one && f != .exp then
      special (if f == .log then .zero false else .fin Q.one) false false
    else if legacy then profOut strict fmt (romValue true f q, false)
    else if strict then roundStrict { strict := true } fmt f q
    else romRounded f fmt q

/-! ### Profile words (05 R130 to R135) -/

/-- The Profile descriptor (05 R131). -/
structure ProfDesc where
  s0 : Nat
  s1 : Nat
  s2 : Nat
  s3 : Nat
  d : Nat
  aux : Nat
  pc : Nat
  col0 : Nat
  k0 : Nat
  k1 : Nat
  n : Nat
  deriving DecidableEq, Repr

def profDescOf (b : List Byte) : ProfDesc :=
  { s0 := fieldAt b 0 4, s1 := fieldAt b 4 4, s2 := fieldAt b 8 4, s3 := fieldAt b 12 4, d := fieldAt b 16 4
    aux := fieldAt b 20 4, pc := fieldAt b 0x18 2, col0 := fieldAt b 0x1C 4, k0 := fieldAt b 0x20 4, k1 := fieldAt b 0x24 4
    n := fieldAt b 0x28 4 }

/-- Bit `i` of a Profile word's own flags, FLAGS[96 + i]. -/
def profFlag (w : ProfWord) (i : Nat) : Bool := bitAt w.flags.toNat i

/-- A region a Profile word uses: first byte and length. -/
abbrev Span := Nat × Nat

/-- 05 R133, the checks common to every word: reserved bits, PC, and every used panel or vector inside core memory. DESIGN CHOICE (log
entry 9): R133 does not list a PC above 4,096 or an N above 16,777,215, which R131's ranges leave out, and such a word runs; an empty
panel extends beyond core memory where its base lies beyond the end. -/
def ProfDesc.invalid (d : ProfDesc) (b : List Byte) (cols : Nat) (used : List Span) : Bool :=
  [d.s0, d.s1, d.s2, d.s3, d.d, d.aux].any (fun x => decide (131072 ≤ x)) || decide (fieldAt b 0x1A 2 ≠ 0) ||
    decide (fieldAt b 0x2C 20 ≠ 0) || decide (d.pc < ceilDiv cols 16) ||
    used.any (fun s => decide (coreMemBytes < s.1 + s.2))

/-- What the elementwise words share: rows, columns, formats, and panel readers of a word as it begins. -/
structure ProfCtx where
  m : Nat
  cols : Nat
  f0 : Fmt
  f1 : Fmt
  f2 : Fmt
  fd : Fmt
  deriving DecidableEq, Repr

def profCtxOf (w : ProfWord) : ProfCtx :=
  ⟨w.mm1.toNat + 1, w.cols.toNat, Fmt.ofCode w.fmtS0, Fmt.ofCode w.fmtS1, Fmt.ofCode w.fmtS2, Fmt.ofCode w.fmtD⟩

/-- The extent of an M × C panel with PC tiles per tile row. -/
def ProfCtx.panel (x : ProfCtx) (fmt : Fmt) (base64 pc : Nat) : Span :=
  (base64 * 64, if x.cols = 0 then 0 else panelBytes fmt x.m pc)

def vecSpan (fmt : Fmt) (base64 n : Nat) : Span := (base64 * 64, fmt.bytesOf n)

/-- Reads panel element `(r, k)` as a Profile source. -/
def Core.profSrc (c : Nat) (core : Core) (fmt : Fmt) (base64 pc r k : Nat) : Val :=
  profIn core.ctx.strict fmt (core.rdPanel c unitProfile fmt (base64 * 64) pc r k)

def Core.profVec (c : Nat) (core : Core) (fmt : Fmt) (base64 i : Nat) : Val :=
  profIn core.ctx.strict fmt (core.rdRun c unitProfile fmt (base64 * 64) i)

/-- Runs an elementwise word: every element of the M × C destination panel is one rounded result; then the tile status
word (05 R134, R135). -/
def Core.profMap (c : Nat) (core : Core) (w : ProfWord) (d : ProfDesc) (f : Nat → Nat → Nat × Flags) : Core :=
  let x := profCtxOf w
  let (out, t) := (List.range x.m).foldl (fun st r => (List.range x.cols).foldl
    (fun (st : Written × TileStatus) k =>
      let (p, fl) := f r k
      (Written.elem c unitProfile st.1 x.fd (panelAddr x.fd (d.d * 64) d.pc r k) k p, st.2.elem fl)) st)
    ((⟨core, []⟩ : Written), ({} : TileStatus))
  (Written.status c unitProfile out (addr64 w.tsBase) t).deliverLater unitProfile

/-- Reads the descriptor and applies the common checks. -/
def Core.profDesc (c : Nat) (core : Core) (w : ProfWord) : ProfDesc × List Byte :=
  let b := core.rdBytes c unitProfile (addr64 w.pdBase) 64
  (profDescOf b, b)

/-- The fault of a Profile word whose descriptor is invalid over its spans, or breaks a condition of its own (05 R133). -/
def Core.profFault (c : Nat) (core : Core) (w : ProfWord) (spans : ProfDesc → List Span) (own : ProfDesc → Bool := fun _ => false) :
    Option WordFault :=
  let (d, b) := core.profDesc c w
  if d.invalid b (profCtxOf w).cols (spans d) || own d then some .profDesc else none

/-- x of FN and SHAPE: K0 × S0 exactly with MULK (05 R141, R142). -/
def mulK (on : Bool) (k0 : Nat) (v : Val) : VRes := if on then vmul (decodePosit 32 k0) v else (v, false)

/-- The spans of FN and SHAPE. -/
def fnSpans (w : ProfWord) (d : ProfDesc) : List Span :=
  let x := profCtxOf w
  [x.panel x.f0 d.s0 d.pc, x.panel x.fd d.d d.pc]

/-- FN (05 R142). -/
def Core.fn (c : Nat) (core : Core) (w : ProfWord) : Core :=
  let d := (core.profDesc c w).1
  let x := profCtxOf w
  core.profMap c w d (fun r k =>
    let v := mulK (profFlag w 2) d.k0 (core.profSrc c x.f0 d.s0 d.pc r k)
    let (p, fl) := fnEval core.ctx.strict (profFlag w 7) (FnCode.ofCode (bitField w.flags.toNat 0 2)) x.fd v.1
    (p, { fl with nv := fl.nv || (core.ctx.strict && v.2 && x.fd.raisesIeee) }))

/-- SHAPE (05 R141). -/
def Core.shape (c : Nat) (core : Core) (w : ProfWord) : Core :=
  let d := (core.profDesc c w).1
  let x := profCtxOf w
  let img := core.slotImage c w.slot.toNat
  core.profMap c w d (fun r k =>
    let v := mulK (profFlag w 2) d.k0 (core.profSrc c x.f0 d.s0 d.pc r k)
    profOut core.ctx.strict x.fd (tableEval (profFlag w 7) img v.1, v.2 || signals v.1))

/-- The spans of GATE and DERIV. -/
def tableSpans (w : ProfWord) (triple : Bool) (d : ProfDesc) : List Span :=
  let x := profCtxOf w
  [x.panel x.f0 d.s0 d.pc, x.panel x.f1 d.s1 d.pc, x.panel x.fd d.d d.pc] ++ (if triple then [x.panel x.f2 d.s2 d.pc] else [])

/-- GATE, and DERIV with TRIPLE 0 (05 R141): the product of the table value and one factor; DERIV with TRIPLE 1 takes two. -/
def Core.tableProduct (c : Nat) (core : Core) (w : ProfWord) (triple : Bool) : Core :=
  let d := (core.profDesc c w).1
  let x := profCtxOf w
  let img := core.slotImage c w.slot.toNat
  core.profMap c w d (fun r k =>
    let g := core.profSrc c x.f0 d.s0 d.pc r k
    let t := tableEval (profFlag w 7) img g
    let y := vseq (t, signals g) (fun t => vmul t (core.profSrc c x.f1 d.s1 d.pc r k))
    let z := if triple then vseq y (fun y => vmul y (core.profSrc c x.f2 d.s2 d.pc r k)) else y
    profOut core.ctx.strict x.fd z)

/-! ### ELEM and SEL (05 R145, R146) -/

/-- Whether `a` is below `b` for two values that are not NaN. -/
def vlt (a b : Val) : Bool := realBefore true a b

/-- Maximum or minimum; a NaN operand gives a NaN, and +0 is above −0. -/
def vminmax (wantMax : Bool) (a b : Val) : VRes :=
  if a.isNaNish || b.isNaNish then (pickNaN a b, signals a || signals b)
  else
    match a, b with
    | .zero s, .zero t => (.zero (if wantMax then s && t else s || t), false)
    | _, _ => (if wantMax then (if vlt a b then b else a) else (if vlt b a then b else a), false)

/-- The exact result of an ELEM operation (05 R145). DESIGN CHOICE (log entry 11): OP 3 raises IEEE_NV for 0 × ∞ also where c is a quiet
NaN, which IEEE 754 leaves to the implementation. -/
def elemOp (op : Nat) (k0 k1 : Nat) (a b cc : Val) : VRes :=
  match op with
  | 0 => vadd a b
  | 1 => vadd a (vneg b)
  | 2 => vmul a b
  | 3 => vseq (vmul a b) (fun p => vadd p cc)
  | 4 => let p := vmul (decodePosit 32 k0) a
         let q := vmul (decodePosit 32 k1) b
         let r := vadd p.1 q.1
         (r.1, p.2 || q.2 || r.2)
  | 5 => vminmax true a b
  | _ => vminmax false a b

/-- The OP of an ELEM. -/
def elemCode (w : ProfWord) : Nat := bitField w.flags.toNat 0 3

/-- The spans of ELEM, whose b is a panel, a vector of rows, or one of columns. -/
def elemSpans (w : ProfWord) (d : ProfDesc) : List Span :=
  let x := profCtxOf w
  let bSpan := if profFlag w 3 then vecSpan x.f1 d.s1 x.m else if profFlag w 4 then vecSpan x.f1 d.s1 x.cols else x.panel x.f1 d.s1 d.pc
  [x.panel x.f0 d.s0 d.pc, bSpan, x.panel x.fd d.d d.pc] ++ (if elemCode w = 3 then [x.panel x.f2 d.s2 d.pc] else [])

/-- OP 4 takes no NaR factor. -/
def elemBad (w : ProfWord) (d : ProfDesc) : Bool :=
  decide (elemCode w = 4) && (decide (d.k0 = 0x80000000) || decide (d.k1 = 0x80000000))

/-- ELEM. -/
def Core.elem (c : Nat) (core : Core) (w : ProfWord) : Core :=
  let d := (core.profDesc c w).1
  let x := profCtxOf w
  let op := elemCode w
  core.profMap c w d (fun r k =>
    let a := core.profSrc c x.f0 d.s0 d.pc r k
    let bv := if profFlag w 3 then core.profVec c x.f1 d.s1 r else if profFlag w 4 then core.profVec c x.f1 d.s1 k
      else core.profSrc c x.f1 d.s1 d.pc r k
    let cv := if op = 3 then core.profSrc c x.f2 d.s2 d.pc r k else .zero false
    profOut core.ctx.strict x.fd (elemOp op d.k0 d.k1 a bv cv))

/-- 01 R40: the order of two values in formats `fa` and `fb`: less, equal, or unordered. -/
def compareVals (fa fb : Fmt) (a b : Val) : Bool × Bool × Bool :=
  if fa = fb && fa.isPosit then
    (match a, b with
      | .nar, .nar => (false, true, false)
      | .nar, _ => (true, false, false)
      | _, .nar => (false, false, false)
      | _, _ => (vlt a b, !vlt a b && !vlt b a, false))
  else if a.isNaNish || b.isNaNish then (false, false, true)
  else (vlt a b, !vlt a b && !vlt b a, false)

/-- The comparison CMP selects (05 R146). -/
def cmpHolds (cmp : Nat) (r : Bool × Bool × Bool) : Bool :=
  let (lt, eq, un) := r
  match cmp with
  | 0 => lt
  | 1 => lt || eq
  | 2 => eq
  | 3 => !eq
  | 4 => !lt && !eq && !un
  | _ => !lt && !un

/-- The spans of SEL. -/
def selSpans (w : ProfWord) (d : ProfDesc) : List Span :=
  let x := profCtxOf w
  [x.panel x.f0 d.s0 d.pc, x.panel x.f1 d.s1 d.pc, x.panel x.f2 d.s2 d.pc, x.panel x.f2 d.s3 d.pc, x.panel x.fd d.d d.pc]

/-- SEL (02 R55, 05 R146). -/
def Core.sel (c : Nat) (core : Core) (w : ProfWord) : Core :=
  let d := (core.profDesc c w).1
  let x := profCtxOf w
  core.profMap c w d (fun r k =>
    let a := core.profSrc c x.f0 d.s0 d.pc r k
    let bv := core.profSrc c x.f1 d.s1 d.pc r k
    let base := if cmpHolds (bitField w.flags.toNat 0 3) (compareVals x.f0 x.f1 a bv) then d.s2 else d.s3
    let v := core.profSrc c x.f2 base d.pc r k
    profOut core.ctx.strict x.fd (v, signals a || signals bv))

/-! ### Soft maximum (05 R147 to R150) -/

/-- A row state as stored (05 R147). -/
structure RowState where
  max : Nat
  l : Nat
  nextCol : Nat
  stat : Nat
  tail : Nat
  deriving DecidableEq, Repr

def Core.rdRowState (c : Nat) (core : Core) (a : Nat) : RowState :=
  ⟨core.rdNat c unitProfile a 4, core.rdNat c unitProfile (a + 4) 4, core.rdNat c unitProfile (a + 8) 4,
   core.rdNat c unitProfile (a + 12) 2, core.rdNat c unitProfile (a + 14) 2⟩

/-- The largest score; `none` where every score is −∞. -/
def maxScore (s : List Val) : Option Q :=
  s.foldl (fun acc v => match acc, v.real with
    | some m, some x => some (Q.max m x)
    | none, some x => some x
    | a, none => a) none

/-- exp of a value as the unit's built-in, rounded once. -/
def smaxExp (strict : Bool) (fmt : Fmt) (v : Val) : Nat × Flags := fnEval strict false .exp fmt v

/-- What one row of SMAX_STEP produces: state, probabilities, partial output, flags of each written value. -/
structure SmaxRow where
  st : RowState
  p : List (Nat × Flags)
  o : List (Nat × Flags)
  lFlags : Flags
  deriving DecidableEq, Repr

/-- MAX as the row state holds it: the score's own pattern, which for INT8 may be −128 (05 R147, R148). -/
def storeMax (fmt : Fmt) (q : Q) : Nat := if fmt = .int8 then ofSigned 8 q.roundEven else (encodeFmt {} {} false fmt (Val.ofQ q)).1

/-- 05 R148 for one row: scores `s`, partial output `o` in `f1`, the tile's first column, FINAL. DESIGN CHOICE (log entry 11): nan_of gives
the canonical NaN, or NaR, in strict mode too; a signalling score raises IEEE_NV (01 R42). -/
def smaxRow (strict : Bool) (x : ProfCtx) (st : RowState) (s : List Val) (o : List Nat) (col0 : Nat) (final : Bool) : SmaxRow :=
  let valid := bitAt st.stat 0
  let nanrow0 := bitAt st.stat 1
  let next := (col0 + s.length) % 2 ^ 32
  let fresh := !valid && !nanrow0
  let o0 : List (Nat × Flags) := o.map (fun p => (if fresh then 0 else p, {}))
  let bad := s.any (fun v => v.isNaNish || (match v with
    | .inf false => true
    | _ => false))
  let plus0 : Nat × Flags := (0, {})
  let base : SmaxRow :=
    if nanrow0 || bad then
      ⟨⟨st.max, 0x7FC00000, next, st.stat ||| 2, st.tail⟩, s.map (fun _ => (nanOf x.fd, {})), o.map (fun _ => (nanOf x.f1, {})),
        { nv := strict && s.any signals }⟩
    else
      match maxScore s with
      | none =>
        if valid then
          let m := decodeFmt {} x.f0 st.max
          let ps := s.map (fun v => smaxExp strict x.fd (vadd v (vneg m)).1)
          ⟨⟨st.max, st.l, next, st.stat, st.tail⟩, ps, o0, {}⟩
        else ⟨⟨st.max, st.l, next, st.stat, st.tail⟩, s.map (fun _ => plus0), o0, {}⟩
      | some mt =>
        let mold := realOr0 (decodeFmt {} x.f0 st.max)
        let mnew := if valid then Q.max mold mt else mt
        let raise := valid && Q.lt mold mnew
        let alpha := if raise then smaxExp strict .fp32 (Val.ofQ (Q.sub mold mnew)) else (0x3F800000, {})
        let av := decodeFmt {} .fp32 alpha.1
        let o1 := if raise then o0.map (fun p =>
            let r := vmul av (profIn strict x.f1 p.1)
            profOut strict x.f1 r)
          else o0
        let ps := s.map (fun v => smaxExp strict x.fd (vadd v (vneg (Val.ofQ mnew))).1)
        let sum := ps.foldl (fun acc p => Q.add acc (realOr0 (decodeFmt {} x.fd p.1))) Q.zero
        let l := Q.add (Q.mul (realOr0 av) (realOr0 (decodeFmt {} .fp32 st.l))) sum
        let (lp, lf) := profOut strict .fp32 (Val.ofQ l, false)
        ⟨⟨storeMax x.f0 mnew, lp, next, st.stat ||| 1, st.tail⟩, ps, o1, lf⟩
  if final then
    let st1 := base.st
    if bitAt st1.stat 1 then { base with st := { st1 with stat := st1.stat ||| 8 } }
    else if (decodeFmt {} .fp32 st1.l).real = some Q.zero then
      { base with st := { st1 with l := 0, stat := st1.stat ||| 12 } }
    else
      let (lp, lf) := fnEval strict false .recip .fp32 (profIn strict .fp32 st1.l)
      { base with st := { st1 with l := lp, stat := st1.stat ||| 8 }, lFlags := base.lFlags.or lf }
  else base

/-- The spans of SMAX_STEP. -/
def smaxSpans (w : ProfWord) (d : ProfDesc) : List Span :=
  let x := profCtxOf w
  let ow := w.ow.toNat
  [x.panel x.f0 d.s0 d.pc, x.panel x.fd d.d d.pc, (d.s1 * 64, if ow = 0 then 0 else panelBytes x.f1 x.m (ceilDiv ow 16)),
    (d.aux * 64, 16 * x.m)]

/-- The fault of one row state: it is final or malformed, or the tile is out of order (05 R147, R149). -/
def Core.rowFault (c : Nat) (core : Core) (d : ProfDesc) (r : Nat) : Option WordFault :=
  let st := core.rdRowState c (d.aux * 64 + 16 * r)
  if bitAt st.stat 3 || decide (16 ≤ st.stat) || decide (st.tail ≠ 0) then some .smaxState
  else if core.ctx.repro && decide (d.col0 ≠ st.nextCol) then some .smaxOrder
  else none

/-- The fault of a SMAX_STEP: an invalid descriptor, or that of its first row with one. -/
def Core.smaxFault (c : Nat) (core : Core) (w : ProfWord) : Option WordFault :=
  match core.profFault c w (smaxSpans w) with
  | some f => some f
  | none => (List.range (profCtxOf w).m).findSome? (core.rowFault c (core.profDesc c w).1)

/-- SMAX_STEP. -/
def Core.smaxStep (c : Nat) (core : Core) (w : ProfWord) : Core :=
  let d := (core.profDesc c w).1
  let x := profCtxOf w
  let ow := w.ow.toNat
  let otpr := ceilDiv ow 16
  let strict := core.ctx.strict
  let row (acc : Written × TileStatus) (r : Nat) : Written × TileStatus :=
    let (out, t) := acc
    let sa := d.aux * 64 + 16 * r
    let st := core.rdRowState c sa
    let s := (List.range x.cols).map (fun k => core.profSrc c x.f0 d.s0 d.pc r k)
    let o := (List.range ow).map (fun k => core.rdPanel c unitProfile x.f1 (d.s1 * 64) otpr r k)
    let res := smaxRow strict x st s o d.col0 (profFlag w 0)
    let out := (List.range x.cols).foldl (fun out k =>
      Written.elem c unitProfile out x.fd (panelAddr x.fd (d.d * 64) d.pc r k) k (res.p.getD k (0, {})).1) out
    let out := (List.range ow).foldl (fun out k =>
      Written.elem c unitProfile out x.f1 (panelAddr x.f1 (d.s1 * 64) otpr r k) k (res.o.getD k (0, {})).1) out
    let out := Written.nat c unitProfile out sa 4 res.st.max
    let out := Written.nat c unitProfile out (sa + 4) 4 res.st.l
    let out := Written.nat c unitProfile out (sa + 8) 4 res.st.nextCol
    let out := Written.nat c unitProfile out (sa + 12) 2 res.st.stat
    let t := (res.p ++ res.o).foldl (fun t p => t.elem p.2) t
    (out, { t with fl := t.fl.or { res.lFlags with sat := false, ufl := false } })
  let (out, t) := (List.range x.m).foldl row (⟨core, []⟩, {})
  (Written.status c unitProfile out (addr64 w.tsBase) t).deliverLater unitProfile

/-! ### Row statistics (05 R151, R152) -/

/-- Adds a value into a Q640 entry: exact, NaR for a special value. -/
def statAdd (e : QEntry) (v : Val) : QEntry :=
  match v.real with
  | some q => quireAdd .q640 e (.fin (quireUnits .q640 q).1)
  | none => quireAdd .q640 e .nar

/-- The spans of NORM_STATS. -/
def statsSpans (w : ProfWord) (d : ProfDesc) : List Span :=
  let x := profCtxOf w
  [x.panel x.f0 d.s0 d.pc, (d.aux * 64, 160 * x.m)] ++ (if profFlag w 1 then [x.panel x.f1 d.s1 d.pc] else [])

/-- NORM_STATS. -/
def Core.normStats (c : Nat) (core : Core) (w : ProfWord) : Core :=
  let d := (core.profDesc c w).1
  let x := profCtxOf w
  let dot := profFlag w 1
  let start (a : Nat) : QEntry :=
    if profFlag w 0 then quireOverwrite .q640 (addendOfImage .q640 (core.rdNat c unitProfile a 80)) else QEntry.zero
  let (out, t) := (List.range x.m).foldl (fun (st : Written × TileStatus) r =>
    let a1 := d.aux * 64 + 80 * r
    let a2 := d.aux * 64 + 80 * (x.m + r)
    let pair := (List.range x.cols).foldl (fun (p : QEntry × QEntry) k =>
      let v := core.profSrc c x.f0 d.s0 d.pc r k
      let y := if dot then core.profSrc c x.f1 d.s1 d.pc r k else v
      match Val.mulReal v y with
      | none => (quireAdd .q640 p.1 .nar, quireAdd .q640 p.2 .nar)
      | some q =>
        if dot then (statAdd p.1 (Val.ofQ q), statAdd p.2 y) else (statAdd p.1 v, statAdd p.2 (Val.ofQ q))) (start a1, start a2)
    let out := Written.nat c unitProfile st.1 a1 80 (quireImage .q640 pair.1.val)
    let out := Written.nat c unitProfile out a2 80 (quireImage .q640 pair.2.val)
    (out, { st.2 with qovf := st.2.qovf || pair.1.isSat .q640 || pair.2.isSat .q640
                      qnar := st.2.qnar || pair.1.isNar || pair.2.isNar })) ((⟨core, []⟩ : Written), ({} : TileStatus))
  (Written.status c unitProfile out (addr64 w.tsBase) t).deliverLater unitProfile

/-- The spans of NORM_APPLY. -/
def applySpans (w : ProfWord) (d : ProfDesc) : List Span :=
  let x := profCtxOf w
  [x.panel x.f0 d.s0 d.pc, vecSpan x.f1 d.s1 x.cols, vecSpan x.f2 d.s2 x.cols, x.panel x.fd d.d d.pc, (d.aux * 64, 160 * x.m)]

/-- NORM_APPLY takes N from the row's columns on, and an ε above zero. -/
def applyBad (w : ProfWord) (d : ProfDesc) : Bool :=
  decide (d.n = 0) || decide (d.n < (profCtxOf w).cols) || !(match decodePosit 32 d.k0 with
    | .fin q => decide (0 < q.num)
    | _ => false)

/-- NORM_APPLY (05 R152). -/
def Core.normApply (c : Nat) (core : Core) (w : ProfWord) : Core :=
  let d := (core.profDesc c w).1
  let x := profCtxOf w
  let strict := core.ctx.strict
  let eps := decodePosit 32 d.k0
  let rms := profFlag w 0
  let nI : Int := d.n
  let row (st : Written × TileStatus) (r : Nat) : Written × TileStatus :=
    let (out, t) := st
    let e1 : QEntry := ⟨quireOfImage .q640 (core.rdNat c unitProfile (d.aux * 64 + 80 * r) 80), false, false⟩
    let e2 : QEntry := ⟨quireOfImage .q640 (core.rdNat c unitProfile (d.aux * 64 + 80 * (x.m + r)) 80), false, false⟩
    match e1.val, e2.val, e1.isSat .q640 || e2.isSat .q640 with
    | .num s1, .num s2, false =>
      -- s1, s2 in units of 2^-298; n·s2 − s1² over n² in units of 2^-596
      let unit : Int := (2 ^ 298 : Nat)
      let num0 : Int := if rms then nI * s2 * unit else nI * s2 * unit - s1 * s1
      let num : Int := if num0 < 0 then 0 else num0
      let var : Q := ⟨num, 2 ^ 596 * (d.n * d.n)⟩
      let v := decodeFmt {} .fp32 (encodeFmt { strict := strict } {} false .fp32 (Val.ofQ (Q.add var (realOr0 eps)))).1
      let rv := decodeFmt {} .fp32 (fnEval strict false .rsqrt .fp32 v).1
      let mean : Q := ⟨s1, 2 ^ 298 * d.n⟩
      (List.range x.cols).foldl (fun (st : Written × TileStatus) k =>
        let xv := core.profSrc c x.f0 d.s0 d.pc r k
        let xc : VRes := if rms then (xv, false) else vadd xv (Val.ofQ (Q.neg mean))
        let y := vseq (vseq (vseq xc (fun a => vmul a rv)) (fun a => vmul a (core.profVec c x.f1 d.s1 k)))
          (fun a => vadd a (core.profVec c x.f2 d.s2 k))
        let (p, fl) := profOut strict x.fd y
        (Written.elem c unitProfile st.1 x.fd (panelAddr x.fd (d.d * 64) d.pc r k) k p, st.2.elem fl))
        (out, { t with negVar := t.negVar || decide (num0 < 0) })
    | _, _, _ =>
      let nar := e1.isNar || e2.isNar
      (List.range x.cols).foldl (fun (st : Written × TileStatus) k =>
        (Written.elem c unitProfile st.1 x.fd (panelAddr x.fd (d.d * 64) d.pc r k) k (nanOf x.fd), st.2))
        (out, { t with qnar := t.qnar || nar, qovf := t.qovf || !nar })
  let (out, t) := (List.range x.m).foldl row (⟨core, []⟩, {})
  (Written.status c unitProfile out (addr64 w.tsBase) t).deliverLater unitProfile

/-- The occupancy of a Profile word (05 R134, R150, R151, R152). -/
def profOccupancy (w : OpWord) (strict : Bool) : Nat :=
  let base (p : ProfWord) (slow : Bool) : Nat :=
    2 + (if slow then 8 else 1) * ceilDiv ((p.mm1.toNat + 1) * p.cols.toNat) 128
  match w with
  | .fn p => base p (strict && !(profFlag p 7))
  | .smaxStep p => base p strict + ceilDiv ((p.mm1.toNat + 1) * p.ow.toNat) 128 + 12 + (if profFlag p 0 then 8 else 0)
  | .normStats p => base p false + 4 * (p.mm1.toNat + 1)
  | .normApply p => base p false + (if strict then 32 else 24) * (p.mm1.toNat + 1)
  | .tblLoad t => 1100 + (if t.dump == 1 then 140 else 0)
  | .shape p => base p false
  | .gate p => base p false
  | .deriv p => base p false
  | .elem p => base p false
  | .sel p => base p false
  | _ => 1

end Sys2Proof.Machine
end

