-- ==== Sys2Proof/Machine/Tree.lean ====
section
/-! DEFINITION. One level of the fixed combination tree (04 R120 to R125): roles, the payload a sender makes, and what a receiver
makes of its landing area. -/

namespace Sys2Proof.Machine

/-- 04 R121, and the flat pattern of R125. -/
inductive TreeRole where
  | sender (dest : Nat)
  | receiver (src : Nat)
  | idle
  deriving DecidableEq, Repr

/-- The role of participant `n` in a tree of width `w`. -/
def treeRole (t : TreeWord) (n w : Nat) : TreeRole :=
  if t.arrival = 1 then (if n = 0 then .receiver 0 else .sender 0)
  else
    let h := 2 ^ t.level.toNat
    if n % (2 * h) = h then (if t.down = 0 then .sender (n - h) else .receiver (n - h))
    else if n % (2 * h) = 0 ∧ n + h < w then (if t.down = 0 then .receiver (n + h) else .sender (n + h))
    else .idle

/-- Whether MODE 0 sends rounded partials: fast mode (04 R122). -/
def treeRounds (core : Core) (t : TreeWord) : Bool := decide (t.mode = 0) && !core.ctx.repro

/-- The largest finite pattern of a partial format, with a sign. -/
def largestFinite (fmt : Fmt) (neg : Bool) : Nat :=
  if fmt.isPosit then (if neg then 2 ^ (fmt.bits - 1) + 1 else 2 ^ (fmt.bits - 1) - 1)
  else signPattern (floatSpec fmt) neg + maxFinitePattern (floatSpec fmt)

/-- An entry rounded once to PFMT, with whether it set SAT. -/
def roundPartial (strict : Bool) (w : QW) (fmt : Fmt) (e : QEntry) : Nat × Bool :=
  match e.satSign w with
  | some neg => (largestFinite fmt neg, true)
  | none =>
    let r := encodeFmt { strict := strict, satfp := true } {} true fmt (quireVal w e.val)
    (r.1, r.2.sat)

/-- A partial as an addend: exact, NaR for a NaN or NaR (04 R122). -/
def partialAddend (w : QW) (fmt : Fmt) (p : Nat) : Addend :=
  match (decodeFmt {} fmt p).real with
  | some q => .fin (quireUnits w q).1
  | none => .nar

/-- Records per row that a level merges. -/
def treeK (t : TreeWord) : Nat := t.km1.toNat + 1

/-- The payload's bytes, B of 04 R124. -/
def treeBytes (core : Core) (t : TreeWord) : Nat :=
  if t.mode = 0 then
    (if treeRounds core t then (Fmt.ofCode t.pfmt).bytesOf t.count.toNat
     else t.count.toNat * 16 * (QW.ofCode t.qw).units)
  else t.count.toNat * treeK t * 16

/-- The payload of a sender, and its core after sending: QOVF_T where a partial set SAT, and at the root of a downward fast
level the rounded values in place of its entries. DESIGN CHOICE (log entry 18): the root's entries keep their side tags. -/
def Core.treeSend (c : Nat) (core : Core) (t : TreeWord) (root : Bool) : List Byte × Core :=
  let w := QW.ofCode t.qw
  let n := t.count.toNat
  if t.mode = 0 then
    if treeRounds core t then
      let fmt := Fmt.ofCode t.pfmt
      let step (st : List Nat × Core) (i : Nat) : List Nat × Core :=
        let u := t.base.toNat + i * w.units
        let e := st.2.readEntry c unitChuck w u
        let (p, sat) := roundPartial core.ctx.strict w fmt e
        let e' := if root && t.down = 1 then { quireOverwrite w (partialAddend w fmt p) with ovf := e.ovf, ufl := e.ufl } else e
        let core' := if sat || (root && t.down = 1) then st.2.writeEntry w u { e' with ovf := e'.ovf || sat } else st.2
        (st.1 ++ [p], core')
      let r := (List.range n).foldl step ([], core)
      (r.1.flatMap (natToBytes (fmt.bits / 8)), r.2)
    else
      ((List.range n).flatMap (fun i =>
        natToBytes (16 * w.units) (quireImage w (core.readEntry c unitChuck w (t.base.toNat + i * w.units)).val)), core)
  else (core.rdBytes c unitChuck (addr64 t.base) (treeBytes core t), core)

/-- The images or partials that stand at a landing address, as addends. -/
def Core.treeLanded (c : Nat) (core : Core) (t : TreeWord) (land : Nat) : List Addend :=
  let w := QW.ofCode t.qw
  (List.range t.count.toNat).map (fun i =>
    if treeRounds core t then
      let fmt := Fmt.ofCode t.pfmt
      partialAddend w fmt (core.rdRun c unitChuck fmt land i)
    else addendOfImage w (core.rdNat c unitChuck (land + i * 16 * w.units) (16 * w.units)))

/-- Adds or overwrites consecutive entries. -/
def Core.treeApply (c : Nat) (core : Core) (t : TreeWord) (overwrite : Bool) (xs : List Addend) : Core :=
  let w := QW.ofCode t.qw
  (xs.foldl (fun (st : Core × Nat) a =>
    ((if overwrite then st.1.overwriteEntry c unitChuck w st.2 a else st.1.addEntry c unitChuck w st.2 a), st.2 + w.units))
    (core, t.base.toNat)).1

/-- Rounds each entry to PFMT in place (04 R125). DESIGN CHOICE (log entry 18): the entry keeps its side tags, and a rounding that
saturates sets QOVF_T as one of R122 does. -/
def Core.treeRoundInPlace (c : Nat) (core : Core) (t : TreeWord) : Core :=
  let w := QW.ofCode t.qw
  let fmt := Fmt.ofCode t.pfmt
  (List.range t.count.toNat).foldl (fun k i =>
    let u := t.base.toNat + i * w.units
    let e := k.readEntry c unitChuck w u
    let r := roundPartial core.ctx.strict w fmt e
    k.writeEntry w u { quireOverwrite w (partialAddend w fmt r.1) with ovf := e.ovf || r.2, ufl := e.ufl }) core

/-- Where the partial of logical chip `k` lands in the flat pattern. -/
def arrivalLand (core : Core) (t : TreeWord) (k : Nat) : Nat := addr64 t.land + (k - 1) * ceilDiv (treeBytes core t) 64 * 64

/-- Inserts a partial's chip and turn behind those that became visible at an earlier head, or at the same head from a lower chip. -/
def arrivalInsert (x : Nat × Nat) : List (Nat × Nat) → List (Nat × Nat)
  | [] => [x]
  | y :: ys => if x.2 < y.2 ∨ (x.2 = y.2 ∧ x.1 < y.1) then x :: y :: ys else y :: arrivalInsert x ys

/-- The logical chips in the order in which their partials became visible (04 R125): by turn head, then chip. The core's list of
cross-chip landings holds address, source chip and the turn at whose head it became visible, oldest first. -/
def arrivalOrder (core : Core) (t : TreeWord) : List Nat :=
  let landed := core.xchip.filter (fun e => decide (e.1 = arrivalLand core t e.2.1) && decide (0 < e.2.1)
    && decide (e.2.1 < core.ctx.chips))
  let once := landed.foldl (fun (acc : List (Nat × Nat)) e =>
    if acc.any (fun a => decide (a.1 = e.2.1)) then acc else acc ++ [e.2]) []
  let first := (once.foldl (fun acc e => arrivalInsert e acc) []).map (fun e => e.1)
  first ++ ((List.range core.ctx.chips).filter (fun k => decide (0 < k) && !first.contains k))

/-- What the receiver does once its counter has reached its increment: the combination, and whether an ARRIVAL word met an
order other than that of logical chip IDs. -/
def Core.treeReceive (c : Nat) (core : Core) (t : TreeWord) : Core × Bool :=
  let land := addr64 t.land
  if t.mode = 0 then
    if t.arrival = 1 then
      let order := arrivalOrder core t
      let used := order.map (arrivalLand core t)
      (order.foldl (fun k chip =>
        Core.treeRoundInPlace c (k.treeApply c t false (core.treeLanded c t (arrivalLand core t chip))) t)
        { core with xchip := core.xchip.filter (fun e => !used.contains e.1) },
       decide (order ≠ (List.range core.ctx.chips).drop 1))
    else (core.treeApply c t (t.down = 1) (core.treeLanded c t land), false)
  else
    let k := treeK t
    let rec' (base r : Nat) : List Candidate :=
      (List.range k).filterMap (fun j => core.rdRecord c unitChuck (base + (r * k + j) * 16))
    let out :=
      if t.down = 1 then Written.bytes c unitChuck ⟨core, []⟩ (addr64 t.base) (core.rdBytes c unitChuck land (treeBytes core t))
      else (List.range t.count.toNat).foldl (fun (out : Written) r =>
        Written.records c unitChuck out (addr64 t.base + r * k * 16) k
          (rankAll (t.lowest = 1) k (rec' (addr64 t.base) r ++ rec' land r))) ⟨core, []⟩
    (out.deliverLater unitChuck, false)

/-- The combination's rate R of 04 R124. -/
def treeRate (t : TreeWord) : Nat :=
  if t.mode = 0 then (QW.ofCode t.qw).rate else 8

end Sys2Proof.Machine
end

