-- ==== Sys2Proof/Machine/Edges.lean ====
section
/-! DEFINITION. Credit edges (08 R221, R222): chunks, the words that read and fill them, and the ranges that a word reads. -/

namespace Sys2Proof.Machine

/-- The stall counters of 08 R238, in the table's order. -/
def stallOpa : Nat := 0
def stallOpb : Nat := 1
def stallScale : Nat := 2
def stallChuck : Nat := 3
def stallBarrier : Nat := 4
def stallRefresh : Nat := 5
def stallBrake : Nat := 6
def stallRemote : Nat := 7

/-- Adds to a stall counter. -/
def Core.addStall (core : Core) (k n : Nat) : Core :=
  { core with counts := { core.counts with stalls := SMap.upd 0 core.counts.stalls k (fun x => x + BitVec.ofNat 32 n) } }

def Core.edgeDef (core : Core) (e : Nat) : Option EdgeDef := core.ctx.edges[e]?

def Core.edge (core : Core) (e : Nat) : EdgeState := SMap.get {} core.edges e

def Core.setEdge (core : Core) (e : Nat) (x : EdgeState) : Core := { core with edges := SMap.set {} core.edges e x }

def EdgeDef.chunk (d : EdgeDef) : Nat := d.bytes / max 1 d.credits

def EdgeState.isFull (x : EdgeState) (k : Nat) : Bool := SMap.get false x.full k

/-- A chunk becomes FULL. -/
def EdgeState.fill (x : EdgeState) (k : Nat) : EdgeState :=
  { x with full := SMap.set false x.full k true, reads := SMap.set 0 x.reads k 0, filled := SMap.set 0 x.filled k 0 }

/-- A chunk becomes EMPTY. -/
def EdgeState.drain (x : EdgeState) (k : Nat) : EdgeState :=
  { x with full := SMap.set false x.full k false, reads := SMap.set 0 x.reads k 0 }

/-- CREDIT_SET (08 R222): chunks 0 to FILLED − 1 FULL, every other EMPTY. -/
def Core.creditSet (core : Core) (e filled : Nat) : Core :=
  match core.edgeDef e with
  | none => core
  | some d =>
    let x := core.edge e
    core.setEdge e { x with
      full := (List.range (min filled d.credits)).map (fun k => (k, true))
      reads := []
      filled := []
      producer := filled % max 1 d.credits
      consumer := 0 }

/-- A unit as a node of the credit graph (02 R62): kind and instance. -/
def unitNode (u : UnitId) : Nat × Nat :=
  match u with
  | 0 => (2, 0)
  | 1 => (2, 1)
  | 2 => (3, 0)
  | 3 => (4, 0)
  | 4 => (5, 0)
  | 5 => (6, 0)
  | n + 6 => (1, n)

def EdgeDef.consumer (d : EdgeDef) : Nat × Nat := (d.consKind, d.consInst)
def EdgeDef.producer (d : EdgeDef) : Nat × Nat := (d.prodKind, d.prodInst)

/-- The chunks of a buffer at `base` that a byte range touches. -/
def EdgeDef.chunksIn (d : EdgeDef) (base lo len : Nat) : List Nat :=
  (List.range d.credits).filter (fun k =>
    decide (lo < base + (k + 1) * d.chunk) && decide (base + k * d.chunk < lo + len))

/-- A range that a word reads, with the stall counter of a wait for it. -/
structure Reads where
  stall : Nat
  lo : Nat
  len : Nat
  deriving DecidableEq, Repr

/-- The chunks of edge `e` that the ranges touch. -/
def Core.touched (core : Core) (e : Nat) (d : EdgeDef) (ranges : List (Nat × Nat)) : List Nat :=
  match (core.edge e).base with
  | none => []
  | some b => (List.range d.credits).filter (fun k => ranges.any (fun r => (d.chunksIn b r.1 r.2).contains k))

def edgeList (core : Core) : List (Nat × EdgeDef) := (List.range core.ctx.edges.length).zip core.ctx.edges

/-- The first stall that keeps unit `u` from reading: a chunk it needs that is not FULL (DEDUCED, log entry 13: a word waits at its beginning
for every chunk that it reads). -/
def Core.readStall (core : Core) (u : UnitId) (rs : List Reads) : Option Nat :=
  (rs.find? (fun r => (edgeList core).any (fun p =>
    decide (p.2.consumer = unitNode u) && (core.touched p.1 p.2 [(r.lo, r.len)]).any (fun k => !(core.edge p.1).isFull k)))).map
    (fun r => r.stall)

/-- Whether unit `u` may write the ranges: every chunk it fills is EMPTY. -/
def Core.writeFree (core : Core) (u : UnitId) (ws : List (Nat × Nat)) : Bool :=
  (edgeList core).all (fun p => decide (p.2.producer ≠ unitNode u) ||
    (core.touched p.1 p.2 ws).all (fun k => !(core.edge p.1).isFull k))

/-- A word of unit `u`, no stream, has issued its reads: a chunk that RUSE words have read returns to EMPTY where its producer
is a stream (08 R221). -/
def Core.consumeBy (core : Core) (u : UnitId) (rs : List Reads) : Core :=
  (edgeList core).foldl (fun k p =>
    if p.2.consumer = unitNode u then
      (core.touched p.1 p.2 (rs.map (fun r => (r.lo, r.len)))).foldl (fun k' ch =>
        let x := k'.edge p.1
        let n := SMap.get 0 x.reads ch + 1
        k'.setEdge p.1 (if x.ruse ≤ n then { x.drain ch with consumer := (ch + 1) % max 1 p.2.credits }
          else { x with reads := SMap.set 0 x.reads ch n })) k
    else k) core

/-- Results of unit `u`, no stream, have been written: a chunk whose last byte they cover becomes FULL. -/
def Core.produceBy (core : Core) (u : UnitId) (ws : List (Nat × Nat)) : Core :=
  (edgeList core).foldl (fun k p =>
    if p.2.producer = unitNode u then
      match (core.edge p.1).base with
      | none => k
      | some b =>
        (List.range p.2.credits).foldl (fun k' ch =>
          let last := b + (ch + 1) * p.2.chunk - 1
          if ws.any (fun r => decide (r.1 ≤ last) && decide (last < r.1 + r.2)) then
            k'.setEdge p.1 { (k'.edge p.1).fill ch with producer := (ch + 1) % max 1 p.2.credits }
          else k') k
    else k) core

/-! ### What a word reads -/

def matrixReads (cfg : ArrCfg) (o : MatrixOperands) : List Reads :=
  let fa := sourceFmtA cfg
  let fb := Fmt.ofCode cfg.fmtB
  let groups := ceilDiv o.k (scaleGroup cfg.sgrp)
  [⟨stallOpa, o.aBase, o.aBytes fa⟩, ⟨stallOpb, o.bBase, o.bBytes fb⟩]
    ++ (if cfg.bsm.toNat % 2 = 1 then
        [⟨stallScale, align64 (o.aBase + o.aBytes fa), groups * o.m * scaleBytes (cfg.scfA == 1)⟩] else [])
    ++ (if cfg.bsm.toNat / 2 = 1 then
        [⟨stallScale, align64 (o.bBase + o.bBytes fb), groups * o.n * scaleBytes (cfg.scfB == 1)⟩] else [])

def mmaOperands (w : MmaWord) (trans : Bool) : MatrixOperands :=
  { m := w.mm1.toNat + 1, n := w.nm1.toNat + 1, k := w.k.toNat, aBase := addr64 w.aBase, bBase := addr64 w.bBase
    aTrans := trans && w.tside == 0, bTrans := trans && w.tside == 1 }

def profReads (c : Nat) (core : Core) (w : ProfWord) : List Reads :=
  let (d, _) := core.profDesc c w
  let x := profCtxOf w
  let on (s : Span) : Reads := ⟨stallChuck, s.1, s.2⟩
  [⟨stallChuck, addr64 w.pdBase, 64⟩, on (x.panel x.f0 d.s0 d.pc)]
    ++ (if d.s1 = 0 then [] else [on (x.panel x.f1 d.s1 d.pc)])
    ++ (if d.s2 = 0 then [] else [on (x.panel x.f2 d.s2 d.pc)])
    ++ (if d.s3 = 0 then [] else [on (x.panel x.f2 d.s3 d.pc)])

/-- The local range of a remote word under its loop counters (08 R231). -/
def remoteRange (b : List Byte) (loops : List Nat) : Nat × Nat :=
  let sel := fieldAt b 24 1
  let step : Int := (if sel = 0 then 0 else loops.getD (sel - 1) 0 : Nat) * toSigned 32 (fieldAt b 20 4)
  (((fieldAt b 8 4 : Nat) + step).toNat, fieldAt b 12 4)

/-- The ranges of core memory that a word reads, under the loop counters it carries. -/
def Core.readsOf (c : Nat) (core : Core) (w : OpWord) (loops : List Nat := core.seq.counters) : List Reads :=
  let arr (u : BitVec 4) : ArrCfg := core.arr ((unitArrays u.toNat).headD 0)
  match w with
  | .mma x => matrixReads (arr x.unit) (mmaOperands x false)
  | .mmaT x => matrixReads (arr x.unit) (mmaOperands x true)
  | .conv x =>
    let d := convDescOf (core.rdBytes c ((unitArrays x.unit.toNat).headD 0) (addr64 x.cdBase) 64)
    let cfg := arr x.unit
    [⟨stallOpa, d.xBase * 64, (Fmt.ofCode cfg.fmtA).bytesOf d.span⟩,
     ⟨stallOpb, d.wBase * 64, panelBytes (Fmt.ofCode cfg.fmtB) d.k (ceilDiv d.cout 16)⟩]
  | .gradPair x =>
    let d := gradDescOf (core.rdBytes c 0 (addr64 x.gdBase) 64)
    [⟨stallOpa, d.gBase * 64, panelBytes (Fmt.ofCode x.gfmt) d.mt d.gpc⟩]
      ++ (if x.dxen = 1 then [⟨stallOpb, d.wBase * 64, panelBytes (Fmt.ofCode x.wfmt) d.no d.wpc⟩] else [])
      ++ (if x.dwen = 1 then [⟨stallOpb, d.xBase * 64, panelBytes (Fmt.ofCode x.xfmt) d.mt d.xpc⟩] else [])
      ++ (if x.wsc = 1 then [⟨stallScale, d.wsAddr, d.no * scaleBytes (bitAt d.scf 0)⟩] else [])
      ++ (if x.xsc = 1 then [⟨stallScale, d.xsAddr, d.mt * scaleBytes (bitAt d.scf 1)⟩] else [])
  | .lutCfg x => [⟨stallOpb, addr64 x.cbBase, 32⟩]
  | .qimgLd x => [⟨stallChuck, addr64 x.sBase, (x.cntm1.toNat + 1) * 16 * (QW.ofCode x.qw).units⟩]
  | .redMax x => redReads x
  | .redMin x => redReads x
  | .redTopk x => redReads x
  | .treeStep x => if x.mode = 0 then [] else [⟨stallChuck, addr64 x.base, treeBytes core x⟩]
  | .fn x => profReads c core x
  | .shape x => profReads c core x
  | .gate x => profReads c core x
  | .smaxStep x => profReads c core x
  | .normStats x => profReads c core x
  | .normApply x => profReads c core x
  | .deriv x => profReads c core x
  | .elem x => profReads c core x
  | .sel x => profReads c core x
  | .tblLoad x => if x.rom = 1 then [] else [⟨stallChuck, addr64 x.tBase, 0x140⟩]
  | .streamDef x => [⟨stallRemote, addr64 x.sdBase, 128⟩]
  | .streamRearm x => [⟨stallRemote, addr64 x.raBase, 16⟩]
  | .put x => remoteReads x
  | .qadd x => remoteReads x
  | .scaleAdapt x => [⟨stallRemote, addr64 x.hbBase, 128⟩]
  | .calTapPush x => [⟨stallRemote, addr64 x.hbBase, 128⟩]
  | .quant x =>
    let d := quantDescOf (core.rdBytes c unitChuck (addr64 x.qdBase) 64)
    if x.src = 1 then
      [⟨stallChuck, d.srcBase * 64, panelBytes (Fmt.ofCode (BitVec.ofNat 4 d.sfmt)) (x.mm1.toNat + 1) d.spc⟩] else []
  | .reqLoad x => [⟨stallChuck, addr64 x.rtBase, 16 * x.count.toNat⟩]
  | _ => []
where
  redReads (x : RedWord) : List Reads :=
    let d := redDescOf (core.rdBytes c unitChuck (addr64 x.rdBase) 32)
    [⟨stallChuck, d.sBase * 64, panelBytes (Fmt.ofCode (BitVec.ofNat 4 d.fmt)) d.rows (ceilDiv d.pc 16)⟩]
  remoteReads (x : RemoteWord) : List Reads :=
    let b := core.rdBytes c unitRemote (addr64 x.rdBase) 32
    [⟨stallRemote, (remoteRange b loops).1, (remoteRange b loops).2⟩]

end Sys2Proof.Machine
end

