-- ==== Sys2Proof/Machine/StreamOps.lean ====
section
/-! DEFINITION. Stream engines (08 R214 to R228): descriptors and their checks, element addresses, global ends, and the retirement
of one request. -/

namespace Sys2Proof.Machine

/-! ### Descriptors (R215, R217, R220) -/

def signedAt (b : List Byte) (o n : Nat) : Int := toSigned (8 * n) (fieldAt b o n)

def streamDescOf (b : List Byte) : StreamDesc :=
  { src := fieldAt b 0 8
    dst := fieldAt b 8 8
    len0 := fieldAt b 0x10 3
    cnt := (List.range 4).map (fun i => fieldAt b (0x14 + 2 * i) 2)
    sstr := (List.range 4).map (fun i => signedAt b (0x1C + 4 * i) 4)
    dstr := (List.range 4).map (fun i => signedAt b (0x2C + 4 * i) 4)
    slstr := signedAt b 0x3C 4
    dlstr := signedAt b 0x40 4
    sfmt := BitVec.ofNat 4 (fieldAt b 0x44 1)
    dfmt := BitVec.ofNat 4 (fieldAt b 0x45 1)
    lsel := fieldAt b 0x46 1
    sparam := fieldAt b 0x47 1
    dparam := fieldAt b 0x48 1
    satfp := bitAt (fieldAt b 0x49 1) 0
    persist := bitAt (fieldAt b 0x49 1) 1
    back := bitAt (fieldAt b 0x49 1) 2
    outEdge := fieldAt b 0x4A 2
    inEdge := fieldAt b 0x4C 2
    ruse := fieldAt b 0x4E 1 }

/-- Whether a format pair is one that a stream may carry (R217). -/
def streamPairOk (sf df : Fmt) : Bool :=
  decide (sf = df) ||
    ((df.isPosit || df.isFloat) && !sf.isQuire && decide (sf ≠ .a8z))

/-- Whether edge `e` exists with engine `i` at the named end. -/
def Core.edgeIs (core : Core) (e i : Nat) (producer : Bool) : Bool :=
  match core.edgeDef e with
  | some d => decide ((if producer then d.producer else d.consumer) = (1, i))
  | none => false

/-- R220: what STREAM_DEF finds invalid in a descriptor of engine `i`. -/
def Core.streamInvalid (core : Core) (i : Nat) (b : List Byte) : Bool :=
  let d := streamDescOf b
  let sf := Fmt.ofCode d.sfmt
  let df := Fmt.ofCode d.dfmt
  let nparams := core.ctx.params.length
  decide (fieldAt b 0x13 1 ≠ 0) || decide (15 < fieldAt b 0x44 1) || decide (15 < fieldAt b 0x45 1)
    || decide (d.len0 = 0) || d.cnt.any (fun n => decide (n = 0))
    || decide (64 ≤ d.lsel) || decide (4 < d.lsel % 8) || decide (4 < d.lsel / 8)
    || decide (16 < d.sparam) || decide (16 < d.dparam) || decide (8 ≤ fieldAt b 0x49 1) || decide (16 ≤ d.ruse)
    || decide (fieldAt b 0x4F 49 ≠ 0)
    || !streamPairOk sf df
    || ((decide (sf = .c4) || decide (df = .c4)) && decide (d.len0 % 2 = 1))
    || (decide (d.outEdge ≠ 0xFFFF) && (!core.edgeIs d.outEdge i true || decide (d.ruse = 0)))
    || (decide (d.inEdge ≠ 0xFFFF) && !core.edgeIs d.inEdge i false)
    || (d.persist && (d.back || decide (d.outEdge = 0xFFFF) || core.ctx.fold2))
    || decide (nparams < d.sparam) || decide (nparams < d.dparam)

def Core.engine (core : Core) (e : Nat) : Engine := SMap.get {} core.engines e

def Core.setEngine (core : Core) (e : Nat) (x : Engine) : Core := { core with engines := SMap.set {} core.engines e x }

/-- Whether a global address lies in this core's memory. -/
def Core.ownAddr (c : Nat) (core : Core) (ga : Nat) : Bool :=
  decide (ga / 2 ^ 52 = core.ctx.chip) &&
    decide (core.ctx.coreOf.getD (ga / 2 ^ 44 % 256) c = c) && decide (ga / 2 ^ 44 % 256 < 0x80)

/-- Binds the buffer of an edge to the address that a stream gives it. -/
def Core.bindEdge (c : Nat) (core : Core) (e ga ruse : Nat) : Core :=
  if e = 0xFFFF then core
  else
    let x := core.edge e
    core.setEdge e { x with
      base := if Core.ownAddr c core ga then some (ga % 2 ^ 44) else none
      ruse := if ruse = 0 then x.ruse else ruse }

/-- Loads a checked descriptor into engine `i` (R214). -/
def Core.loadDesc (c : Nat) (core : Core) (i : Nat) (d : StreamDesc) : Core :=
  let k := core.setEngine i { desc := some d, armed := d.persist }
  Core.bindEdge c (Core.bindEdge c k d.inEdge d.src 0) d.outEdge d.dst d.ruse

/-! ### Addresses (R216) -/

def counterOf (loops : List Nat) (sel : Nat) : Nat := if sel = 0 then 0 else loops.getD (sel - 1) 0

def paramOf (core : Core) (n : Nat) : Nat := if n = 0 then 0 else core.ctx.params.getD (n - 1) 0

def wrap64 (x : Int) : Nat := (x % (2 ^ 64 : Int)).toNat

/-- Bytes that `n` elements of a stream format take. -/
def streamBytes (f : Fmt) (n : Nat) : Nat := n * f.bits / 8

/-- The address of the first element of the run that holds element `k`, by one end's fields. -/
def runBase (core : Core) (p : Pass) (base : Nat) (str : List Int) (lstr : Int) (sel param k : Nat) : Int :=
  let d := p.desc
  let i1 := k / d.len0 % d.cnt.getD 0 1
  let i2 := k / d.len0 / d.cnt.getD 0 1 % d.cnt.getD 1 1
  let i3 := k / d.len0 / d.cnt.getD 0 1 / d.cnt.getD 1 1 % d.cnt.getD 2 1
  let i4 := k / d.len0 / d.cnt.getD 0 1 / d.cnt.getD 1 1 / d.cnt.getD 2 1 % d.cnt.getD 3 1
  base + (counterOf p.loops sel : Int) * lstr + (paramOf core param : Int) + (i1 : Int) * str.getD 0 0 + (i2 : Int) * str.getD 1 0
    + (i3 : Int) * str.getD 2 0 + (i4 : Int) * str.getD 3 0

def edgeBytes (core : Core) (e : Nat) : Nat :=
  match core.edgeDef e with
  | some d => max 1 d.bytes
  | none => 1

/-- The source address of byte `j` of the request that starts at element `k`. -/
def Pass.srcByte (core : Core) (p : Pass) (k j : Nat) : Nat :=
  let d := p.desc
  let f := Fmt.ofCode d.sfmt
  if d.inEdge ≠ 0xFFFF then wrap64 (d.src + ((streamBytes f k + j) % edgeBytes core d.inEdge : Nat))
  else wrap64 (runBase core p d.src d.sstr d.slstr (d.lsel % 8) d.sparam k + (streamBytes f (k % d.len0) + j : Nat))

/-- The destination address of byte `j` of the request that starts at element `k`. -/
def Pass.dstByte (core : Core) (p : Pass) (k j : Nat) : Nat :=
  let d := p.desc
  let f := Fmt.ofCode d.dfmt
  if d.outEdge ≠ 0xFFFF then wrap64 (d.dst + ((streamBytes f k + j) % edgeBytes core d.outEdge : Nat))
  else wrap64 (runBase core p d.dst d.dstr d.dlstr (d.lsel / 8) d.dparam k + (streamBytes f (k % d.len0) + j : Nat))

/-- Elements of a whole pass. -/
def StreamDesc.total (d : StreamDesc) : Nat := d.len0 * d.cnt.foldl (· * ·) 1

/-- Elements of the request that starts at element `k`: up to 128 bytes of the wider format, within one run (R218). -/
def StreamDesc.request (d : StreamDesc) (k : Nat) : Nat :=
  min (d.len0 - k % d.len0) (1024 / max (Fmt.ofCode d.sfmt).bits (Fmt.ofCode d.dfmt).bits)

/-! ### Global ends (R229, R230) -/

/-- Where a global address of a core's slice leads. -/
inductive EndPoint where
  | own (addr : Nat)
  | core (phys addr : Nat)
  | ext (key : Nat)
  | bad
  deriving DecidableEq, Repr

/-- The placed slice that core `c` runs, with its work and image. -/
def State.sliceEnv (s : State) (c : Nat) : Option (Nat × Placed × Work × Image) :=
  match (s.core c).ctx.work with
  | none => none
  | some i =>
    match s.placedAt i with
    | none => none
    | some p =>
      match s.findWork p.ring p.seq with
      | none => none
      | some w =>
        match s.imageOf w p.slice with
        | none => none
        | some im => some (i, p, w, im)

/-- Resolves `n` bytes at a global address on this chip (R229): another chip's address is `bad` here. -/
def State.resolve (s : State) (c ga n : Nat) (writes : Bool) : EndPoint :=
  let ctx := (s.core c).ctx
  let t := ga / 2 ^ 44 % 256
  let off := ga % 2 ^ 44
  if ga / 2 ^ 52 ≠ ctx.chip then .bad
  else if t < 0x80 then
    if ctx.width ≤ t ∨ coreMemBytes < off + n then .bad
    else
      let phys := ctx.coreOf.getD t c
      if phys = c then .own off else .core phys off
  else
    let key := classKey t off
    let ok : Bool :=
      match s.sliceEnv c with
      | some (_, _, _, im) => s.sliceRangeOk im ctx.chip key n writes
      | none => decide (t ≠ 0xFE) && s.hbm.validKey true key && s.hbm.validKey true (key + n - 1)
    if ok then .ext key else .bad

/-- Reads one byte through a class key as the slice of core `c` sees it. -/
def State.readExt (s : State) (c key : Nat) : Byte :=
  match s.sliceEnv c with
  | some (_, p, w, _) => s.sliceRead w p key
  | none => s.hbm.readKey key

def State.readExts (s : State) (c key n : Nat) : List Byte := (List.range n).map (fun j => s.readExt c (key + j))

/-- Writes bytes through a class key: into the overlay of the slice that core `c` runs, or straight to HBM where it runs none. -/
def State.writeExt (s : State) (c key : Nat) (bs : List Byte) : State :=
  match s.sliceEnv c with
  | some (i, _, _, _) => s.sliceWrite i key bs
  | none => { s with hbm := s.hbm.writeKeys key bs }

/-- Notes that the slice of core `c` reads `n` bytes at a class key (09 R257). -/
def State.touchExt (s : State) (c key n : Nat) : State :=
  match (s.core c).ctx.work with
  | some i => s.sliceTouch i key n false
  | none => s

/-- One byte of core memory of core `c` as a pass of engine `e` maps it. -/
def Pass.map (p : Pass) (a : Nat) : Nat := if p.desc.back then swapBack p.swaps a else swapFront p.swaps a

def Core.passRead (c : Nat) (core : Core) (e : Nat) (p : Pass) (a : Nat) : Byte :=
  let m := p.map a
  if core.memHazard (unitStream e) m then Config.freeByte (core.site c) core.freeCtr m else Mem.readByte core.mem m

/-- Reads byte `ga` as engine `e` of core `c` does. -/
def State.streamRead (s : State) (c e : Nat) (p : Pass) (ga : Nat) : Option Byte :=
  match s.resolve c ga 1 false with
  | .own a => some (Core.passRead c (s.core c) e p a)
  | .core phys a => some (Mem.readByte (s.core phys).mem (swapFront (s.core phys).swaps a))
  | .ext key => some (s.readExt c key)
  | .bad => none

def State.streamReads (s : State) (c e : Nat) (p : Pass) : List Nat → Option (List Byte)
  | [] => some []
  | a :: rest =>
    match s.streamRead c e p a, s.streamReads c e p rest with
    | some b, some bs => some (b :: bs)
    | _, _ => none

/-- Writes byte `ga` as engine `e` of core `c` does. -/
def State.streamWrite (s : State) (c e : Nat) (p : Pass) (ga : Nat) (b : Byte) : Option State :=
  match s.resolve c ga 1 true with
  | .own a =>
    let m := p.map a
    some (s.updCore c (fun k =>
      let v := if k.memHazard (unitStream e) m then Config.freeByte (k.site c) k.freeCtr (m + 2 * coreMemBytes) else b
      { k with mem := Mem.writeByte k.mem m v, wrote := addRange k.wrote m 1 }))
  | .core phys a =>
    some (s.updCore phys (fun k =>
      { k with mem := Mem.writeByte k.mem (swapBack k.swaps a) b, wrote := addRange k.wrote (swapBack k.swaps a) 1 }))
  | .ext key => some (s.writeExt c key [b])
  | .bad => none

def State.streamWrites (s : State) (c e : Nat) (p : Pass) : List (Nat × Byte) → Option State
  | [] => some s
  | (a, b) :: rest =>
    match s.streamWrite c e p a b with
    | some s' => s'.streamWrites c e p rest
    | none => none

/-! ### Conversion (R217) -/

/-- The destination bytes of `n` elements, with their flags. -/
def convertBytes (strict : Bool) (d : StreamDesc) (n : Nat) (src : List Byte) : List Byte × TileStatus :=
  let sf := Fmt.ofCode d.sfmt
  let df := Fmt.ofCode d.dfmt
  if sf = df then (src, {})
  else
    let el (i : Nat) : Nat :=
      if sf = .c4 then bitField (src.getD (i / 2) 0).toNat (4 * (i % 2)) 4 else fieldAt src (i * (sf.bits / 8)) (sf.bits / 8)
    (List.range n).foldl (fun (st : List Byte × TileStatus) i =>
      let r := convertFmt { strict := strict, satfp := d.satfp } {} {} sf df (el i)
      (st.1 ++ natToBytes (df.bits / 8) r.1, st.2.elem r.2)) ([], {})

/-! ### Chunks under a stream (R221) -/

/-- The chunks that bytes `n .. n + len - 1` of a pass touch. -/
def EdgeDef.passChunks (d : EdgeDef) (n len : Nat) : List Nat :=
  ((List.range len).map (fun j => (n + j) % max 1 d.bytes / max 1 d.chunk)).eraseDups

/-- The chunks whose last byte lies among bytes `n .. n + len - 1` of a pass. -/
def EdgeDef.passEnds (d : EdgeDef) (n len : Nat) : List Nat :=
  ((List.range len).filter (fun j => decide ((n + j) % max 1 d.bytes % max 1 d.chunk + 1 = d.chunk))).map
    (fun j => (n + j) % max 1 d.bytes / max 1 d.chunk)

/-- The stall counter under which a stream waits for an EMPTY chunk (R238): its edge's consumer. -/
def Core.creditStall (c : Nat) (core : Core) (e : Nat) (d : EdgeDef) : Nat :=
  match d.consKind with
  | 2 =>
    let rs :=
      match (SMap.get {} core.units d.consInst).waiting with
      | w :: _ => core.readsOf c w.word w.loops
      | [] => []
    match rs.find? (fun r => !(core.touched e d [(r.lo, r.len)]).isEmpty) with
    | some r => r.stall
    | none => stallOpa
  | 3 => stallChuck
  | 4 => stallChuck
  | _ => stallRemote

/-- Why the next request of a pass cannot retire: a chunk it reads that is not FULL, or one it writes that is not EMPTY. -/
def Core.passStall (c : Nat) (core : Core) (p : Pass) : Option Nat :=
  let d := p.desc
  let n := d.request p.done
  let inWait :=
    match core.edgeDef d.inEdge with
    | some ed => (ed.passChunks (streamBytes (Fmt.ofCode d.sfmt) p.done) (streamBytes (Fmt.ofCode d.sfmt) n)).any
        (fun k => !(core.edge d.inEdge).isFull k)
    | none => false
  if inWait then some stallRemote
  else
    match core.edgeDef d.outEdge with
    | some ed =>
      if (ed.passChunks (streamBytes (Fmt.ofCode d.dfmt) p.done) (streamBytes (Fmt.ofCode d.dfmt) n)).any
          (fun k => (core.edge d.outEdge).isFull k) then some (core.creditStall c d.outEdge ed) else none
    | none => none

/-- The chunk changes of a retired request of `n` elements; `last` says that the pass ends with it. -/
def Core.passChunkChanges (core : Core) (p : Pass) (n : Nat) (last : Bool) : Core :=
  let d := p.desc
  let change (k : Core) (e : Nat) (f : Fmt) (fills : Bool) : Core :=
    match k.edgeDef e with
    | none => k
    | some ed =>
      let n0 := streamBytes f p.done
      let len := streamBytes f n
      let ends := ed.passEnds n0 len
      let tail := if last then ((ed.passChunks n0 len).getLast?).toList.filter (fun q => !ends.contains q) else []
      (ends ++ tail).foldl (fun k' q =>
        let x := k'.edge e
        let next := (q + 1) % max 1 ed.credits
        k'.setEdge e (if fills then { x.fill q with producer := next } else { x.drain q with consumer := next })) k
  change (change core d.outEdge (Fmt.ofCode d.dfmt) true) d.inEdge (Fmt.ofCode d.sfmt) false

/-- Ends the pass of engine `e`. -/
def Core.endPass (core : Core) (e : Nat) : Core := core.setEngine e { core.engine e with pass := none }

/-- Stops a pass before its end: a producing pass that ends inside a chunk leaves it FULL (R221). -/
def Core.cutPass (core : Core) (e : Nat) (p : Pass) : Core :=
  let d := p.desc
  let k :=
    match core.edgeDef d.outEdge with
    | none => core
    | some ed =>
      let n := streamBytes (Fmt.ofCode d.dfmt) p.done
      if n % max 1 ed.bytes % max 1 ed.chunk = 0 then core
      else
        let q := n % max 1 ed.bytes / max 1 ed.chunk
        core.setEdge d.outEdge { (core.edge d.outEdge).fill q with producer := (q + 1) % max 1 ed.credits }
  k.endPass e

/-- What the retirement of a request comes to. -/
inductive Retire where
  | stalled (counter : Nat)
  | invalid
  | moved (s : State) (passOver : Bool)
  deriving DecidableEq, Repr

/-- Notes the stacks that the first and the last byte of a request's source reach: the bytes between lie with one of them. -/
def State.touchSource (s : State) (c : Nat) (addrs : List Nat) : State :=
  ((addrs.head?).toList ++ (addrs.getLast?).toList).foldl (fun t a => match t.resolve c a 1 false with
    | .ext key => t.touchExt c key 1
    | _ => t) s

/-- Retires the next request of a pass of engine `e` of core `c` (R216 to R218, R221). -/
def State.retireRequest (s : State) (c e : Nat) (p : Pass) : Retire :=
  let core := s.core c
  let d := p.desc
  match Core.passStall c core p with
  | some k => .stalled k
  | none =>
    let n := d.request p.done
    let sb := streamBytes (Fmt.ofCode d.sfmt) n
    let db := streamBytes (Fmt.ofCode d.dfmt) n
    let from_ := (List.range sb).map (fun j => p.srcByte core p.done j)
    match s.streamReads c e p from_ with
    | none => .invalid
    | some bytes =>
      let (out, t) := convertBytes core.ctx.strict d n bytes
      match (s.touchSource c from_).streamWrites c e p (((List.range db).map (fun j => p.dstByte core p.done j)).zip out) with
      | none => .invalid
      | some s1 =>
        let done := p.done + n
        let limit := p.limit.map (fun l => l - 1)
        let fin := decide (d.total ≤ done)
        let s2 := s1.updCore c (fun k =>
          let k1 := (k.orSummary t).passChunkChanges p n fin
          let q := { p with done := done, limit := limit }
          if fin then k1.endPass e
          else if limit = some 0 then k1.cutPass e q
          else k1.setEngine e { k1.engine e with pass := some q })
        .moved s2 (fin || decide (limit = some 0))

/-- Starts a pass of engine `e`: it binds the loop counters and the swap mapping in force (R216, R225). -/
def Core.startPass (core : Core) (e : Nat) (loops : List Nat) : Core :=
  let x := core.engine e
  match x.desc with
  | none => core
  | some d => core.setEngine e { x with pass := some { desc := d, loops := loops, swaps := core.swaps, done := 0 } }

end Sys2Proof.Machine
end

