-- ==== Sys2Proof/Machine/RemoteOps.lean ====
section
/-! DEFINITION. Remote operations (08 R231 to R236; 04 R121): descriptors and their checks, what a remote word sends when it begins,
and what lands. -/

namespace Sys2Proof.Machine

/-- What a word that begins comes to: the state, the first cycle in which its units may begin their next word and the cycle of
its last result, both counted from its own first cycle, what it then waits for, and the unit that it leaves after one cycle. -/
structure Begun where
  s : State
  occ : Nat
  last : Nat
  blocked : Option Blocked := none
  keeps : Bool := false
  short : Option UnitId := none

/-- The three ways in which the attempt to begin a word can end: it waits (for a stall counter's reason, or none), it faults, it
begins. -/
inductive Start where
  | wait (stall : Option Nat)
  | fault (f : WordFault)
  | go (b : Begun)

/-- D_R and D_W of an operating point (09 R251). -/
def hbmReadCycles (p : Nat) : Nat := [1094, 982, 872, 762, 596, 430].getD p 1094
def hbmWriteCycles (p : Nat) : Nat := [974, 870, 768, 666, 512, 358].getD p 974

/-- The remote descriptor (08 R231). -/
structure RemoteDesc where
  gaddr : Nat
  laddr : Nat
  bytes : Nat
  glstr : Int
  llstr : Int
  lsel : Nat
  gparam : Nat
  qw : Nat
  deriving DecidableEq, Repr

def remoteDescOf (b : List Byte) : RemoteDesc :=
  { gaddr := fieldAt b 0 8, laddr := fieldAt b 8 4, bytes := fieldAt b 12 4, glstr := signedAt b 16 4, llstr := signedAt b 20 4
    lsel := fieldAt b 24 1, gparam := fieldAt b 25 1, qw := fieldAt b 26 1 }

/-- R236, the checks of a descriptor's fields. -/
def RemoteDesc.invalid (d : RemoteDesc) (b : List Byte) (qadd : Bool) (nparams : Nat) : Bool :=
  decide (8388608 ≤ d.laddr) || decide (d.laddr % 64 ≠ 0) || decide (d.bytes < 64) || decide (coreMemBytes < d.bytes)
    || decide (4 < d.lsel) || decide (nparams < d.gparam) || decide (16 < d.gparam) || decide (fieldAt b 27 5 ≠ 0)
    || (if qadd then decide (3 < d.qw) || decide (d.bytes % (16 * (QW.ofCode (BitVec.ofNat 2 d.qw)).units) ≠ 0)
        else decide (d.qw ≠ 0) || decide (d.bytes % 64 ≠ 0))

/-- The global and local addresses with which a word begins (R231). -/
def RemoteDesc.ga (core : Core) (loops : List Nat) (d : RemoteDesc) : Nat :=
  wrap64 (d.gaddr + (counterOf loops d.lsel : Int) * d.glstr + (paramOf core d.gparam : Int))

def RemoteDesc.la (loops : List Nat) (d : RemoteDesc) : Nat := wrap64 (d.laddr + (counterOf loops d.lsel : Int) * d.llstr)

/-- A core after a word that acts on the core alone, which came to `k1`: such a word leaves the sequencer, the queues, the engines
and the slice's context alone. -/
def Core.took (k k1 : Core) : Core :=
  { k with
    mem := k1.mem
    chuck := k1.chuck
    slots := k1.slots
    requant := k1.requant
    arrA := k1.arrA
    arrB := k1.arrB
    accSetA := k1.accSetA
    accSetB := k1.accSetB
    cal := k1.cal
    flights := k1.flights
    summary := k1.summary
    counts := k1.counts
    freeCtr := k1.freeCtr
    wrote := k1.wrote }

/-- Adds a landing behind the others. -/
def State.send (s : State) (l : Landing) : State := { s with mesh := s.mesh ++ [l] }

/-- The issue order of the next cross-chip word of core `c`'s logical core. -/
def Placed.issueOf (p : Placed) (logical : Nat) : Nat := (p.out.filter (fun o => decide (o.score = logical))).length

/-- Hands a cross-chip word of core `c` to the link die. -/
def State.crossChip (s : State) (c : Nat) (o : OutWord) : State :=
  match (s.core c).ctx.work with
  | none => s
  | some i =>
    match s.placedAt i with
    | none => s
    | some p => s.handOver i { o with score := (s.core c).ctx.logical, issue := p.issueOf (s.core c).ctx.logical }

/-- Whether a cross-chip target of a PUT is legal (R229, R235): its chip, and a logical core's range. -/
def crossOk (ctx : SliceCtx) (ga n : Nat) : Bool :=
  let t := ga / 2 ^ 44 % 256
  decide (ga / 2 ^ 52 < ctx.chips) &&
    (if t < 0x80 then decide (t < ctx.width) && decide (ga % 2 ^ 44 + n ≤ coreMemBytes)
     else (decide (0xF0 ≤ t) && decide (t ≤ 0xF7)) || decide (t = 0xFF))

/-- PUT as it begins (R231, R233, R235). -/
def State.beginPut (s : State) (c : Nat) (d : Dispatched) (w : RemoteWord) : Start :=
  let core := s.core c
  let b := core.rdBytes c unitRemote (addr64 w.rdBase) 32
  let r := remoteDescOf b
  let ga := r.ga core d.loops
  let la := r.la d.loops
  let occ := ceilDiv r.bytes 128 + 8
  if r.invalid b false core.ctx.params.length || decide (coreMemBytes < la + r.bytes) then .fault .remoteAddr
  else
    let data := core.rdBytes c unitRemote la r.bytes
    if ga / 2 ^ 52 ≠ core.ctx.chip then
      if crossOk core.ctx ga r.bytes then
        .go { s := s.crossChip c ⟨ga / 2 ^ 52, false, 0, ga / 2 ^ 44 % 256, ga % 2 ^ 44, r.bytes, 0, data⟩, occ := occ, last := occ }
      else .fault .remoteAddr
    else
      match s.resolve c ga r.bytes true with
      | .bad => .fault .remoteAddr
      | .own a => .go { s := s.send ⟨c, core.ctx.logical, c, .bytes a data⟩, occ := occ, last := occ + 48 }
      | .core q a => .go { s := s.send ⟨c, core.ctx.logical, q, .bytes a data⟩, occ := occ, last := occ + 48 }
      | .ext key =>
        .go { s := s.send ⟨c, core.ctx.logical, c, .hbm key data⟩, occ := occ, last := occ + hbmWriteCycles s.turn.point }

/-- A unit of core `c` in an elastic slice waits `n` cycles for HBM data, in request `i` of its word (09 R252, R253; 08 R238): how many
of them met a refresh or scrub slot, and how many a slot that the brake withheld, is free. -/
def Core.hbmStall (c : Nat) (core : Core) (i n : Nat) (braked : Bool) : Core :=
  if core.ctx.elastic then
    let r := Config.freeNat (7000 + c) core.freeCtr (3 * i + 1) % (n + 1)
    let b := if braked then Config.freeNat (7000 + c) core.freeCtr (3 * i + 2) % (n - r + 1) else 0
    ((core.addStall stallRefresh r).addStall stallBrake b).addStall stallRemote (n - r - b)
  else core

/-- GET as it begins: the remote bytes are read, and land in local memory (R231, R233). Where a credit edge names the port as its
producer, it waits for EMPTY chunks (R221). -/
def State.beginGet (s : State) (c : Nat) (d : Dispatched) (w : RemoteWord) : Start :=
  let core := s.core c
  let b := core.rdBytes c unitRemote (addr64 w.rdBase) 32
  let r := remoteDescOf b
  let ga := r.ga core d.loops
  let la := r.la d.loops
  if r.invalid b false core.ctx.params.length || decide (coreMemBytes < la + r.bytes) then .fault .remoteAddr
  else if !(core.writeFree unitRemote [(la, r.bytes)]) then .wait (some stallRemote)
  else
    let go (data : List Byte) (occ : Nat) : Start :=
      .go { s := s.send ⟨c, core.ctx.logical, c, .got la data⟩, occ := occ, last := occ, blocked := some .getData }
    let occ := 104 + ceilDiv r.bytes 128
    match s.resolve c ga r.bytes false with
    | .bad => .fault .remoteAddr
    | .own a => go (core.rdBytes c unitRemote a r.bytes) occ
    | .core q a =>
      let k := s.core q
      go ((List.range r.bytes).map (fun j => Mem.readByte k.mem (swapFront k.swaps (a + j)))) occ
    | .ext key =>
      let n := if core.ctx.elastic then Config.freeNat (7000 + c) core.freeCtr 0 else hbmReadCycles s.turn.point
      match go (s.readExts c key r.bytes) (8 + ceilDiv r.bytes 128 + n) with
      | .go b => .go { b with s := (b.s.touchExt c key r.bytes).updCore c (fun k => k.hbmStall c 0 n (s.flag tlsBrake)) }
      | other => other

/-- QADD as it begins (R231, R233). -/
def State.beginQadd (s : State) (c : Nat) (d : Dispatched) (w : RemoteWord) : Start :=
  let core := s.core c
  let b := core.rdBytes c unitRemote (addr64 w.rdBase) 32
  let r := remoteDescOf b
  let ga := r.ga core d.loops
  let la := r.la d.loops
  let qw := QW.ofCode (BitVec.ofNat 2 r.qw)
  let t := ga / 2 ^ 44 % 256
  let off := ga % 2 ^ 44
  let n := r.bytes / (16 * qw.units)
  let occ := max (ceilDiv r.bytes 128) (ceilDiv n qw.rate) + 8
  if r.invalid b true core.ctx.params.length || decide (coreMemBytes < la + r.bytes) || decide (ga / 2 ^ 52 ≠ core.ctx.chip)
      || decide (core.ctx.width ≤ t) || decide (off % 16 ≠ 0) || decide (16 * chuckUnits < off + r.bytes) then .fault .remoteAddr
  else
    let images := (List.range n).map (fun i => core.rdNat c unitRemote (la + i * 16 * qw.units) (16 * qw.units))
    .go { s := s.send ⟨c, core.ctx.logical, core.ctx.coreOf.getD t c, .images qw (off / 16) images⟩, occ := occ, last := occ + 48 }

/-- The counter that counter `k` of logical core `l` is on the core that carries it: in fold 2 each of the two has its own (R232). -/
def ctrOf (ctx : SliceCtx) (l k : Nat) : Nat := if ctx.fold2 then k + 32 * (l % 2) else k

/-- SIGNAL as it begins (R231, R232). -/
def State.beginSignal (s : State) (c : Nat) (w : SignalWord) : Start :=
  let core := s.core c
  let par := paramOf core w.tparam.toNat
  let chip := if w.tparam = 0 then w.chip.toNat else bitField par 52 12
  let tgt := if w.tparam = 0 then w.tgt.toNat else bitField par 44 8
  if core.ctx.params.length < w.tparam.toNat ∨ core.ctx.chips ≤ chip ∨ core.ctx.width ≤ tgt ∨ 0x80 ≤ tgt then .fault .remoteAddr
  else if chip ≠ core.ctx.chip then
    .go { s := s.crossChip c ⟨chip, true, 0, tgt, w.ctr.toNat, w.inc.toNat, 0, []⟩, occ := 1, last := 1 }
  else
    .go { s := s.send ⟨c, core.ctx.logical, core.ctx.coreOf.getD tgt c, .signal (ctrOf core.ctx tgt w.ctr.toNat) w.inc.toNat⟩, occ := 1,
          last := 49 }

/-- Barrier counter `k` of a core; from 32 on, those of the second logical core that it carries. -/
def Core.counter (core : Core) (k : Nat) : Nat :=
  (if k < 32 then SMap.get 0 core.counters k else SMap.get 0 core.counters2 (k - 32)).toNat

def Core.setCounter (core : Core) (k x : Nat) : Core :=
  if k < 32 then { core with counters := SMap.set 0 core.counters k (BitVec.ofNat 32 x) }
  else { core with counters2 := SMap.set 0 core.counters2 (k - 32) (BitVec.ofNat 32 x) }

/-- WAIT as it begins: it completes at once where its counter stands at the threshold (R232). -/
def State.beginWait (s : State) (c : Nat) (w : WaitWord) : Start :=
  let k := s.core c
  if w.count.toNat ≤ k.counter w.ctr.toNat then
    .go { s := s.setCore c (k.setCounter w.ctr.toNat (k.counter w.ctr.toNat - w.count.toNat)), occ := 1, last := 0 }
  else .go { s := s, occ := 0, last := 0, blocked := some (.waitCounter w.ctr.toNat w.count.toNat) }

/-- Whether effects of core `c` are still on their way. -/
def State.inFlight (s : State) (c : Nat) : Bool := s.mesh.any (fun l => decide (l.src = c))

/-- FENCE as it begins (R233). -/
def State.beginFence (s : State) (c : Nat) : Start :=
  if s.inFlight c then .go { s := s, occ := 0, last := 0, blocked := some .fence }
  else .go { s := s, occ := 1, last := 0 }

/-- TREE_STEP as it begins (04 R121, R124). -/
def State.beginTree (s : State) (c : Nat) (w : TreeWord) : Start :=
  let core := s.core c
  let ctx := core.ctx
  let cross := decide (w.chip = 1)
  let n := if cross then ctx.chip else ctx.logical
  let width := if cross then ctx.chips else ctx.width
  match treeRole w n width with
  | .idle => .go { s := s, occ := 1, last := 0 }
  | .receiver _ =>
    let need := if w.arrival = 1 then ctx.chips - 1 else 1
    if need ≤ core.counter w.ctr.toNat then
      let core1 := core.setCounter w.ctr.toNat (core.counter w.ctr.toNat - need)
      let (k, nd) := Core.treeReceive c core1 w
      let s1 := s.setCore c { (core1.took k) with xchip := k.xchip }
      let s2 := if nd then (match ctx.work with
        | some i => s1.ndPlaced i 2
        | none => s1.bump (audNd 2) 1) else s1
      let occ := ceilDiv w.count.toNat (treeRate w) + 8
      .go { s := s2, occ := 1 + occ, last := occ, short := some unitRemote }
    else .go { s := s, occ := 0, last := 0, blocked := some (.treeReceive w.ctr.toNat w) }
  | .sender dest =>
    let land := if w.arrival = 1 then arrivalLand core w n else addr64 w.land
    if coreMemBytes < land + treeBytes core w then .fault .remoteAddr
    else
      let (data, k) := Core.treeSend c core w (decide (n = 0))
      let s1 := s.setCore c (core.took k)
      let occ := max (ceilDiv (treeBytes core w) 128) (ceilDiv w.count.toNat (treeRate w)) + 8
      if cross then
        let s2 := s1.crossChip c ⟨dest, false, 0, ctx.logical, land, data.length, 0, data⟩
        .go { s := s2.crossChip c ⟨dest, true, 0, ctx.logical, w.ctr.toNat, 1, 0, []⟩, occ := occ, last := occ }
      else
        let q := ctx.coreOf.getD dest c
        let s2 := s1.send ⟨c, ctx.logical, q, .bytes land data⟩
        .go { s := s2.send ⟨c, ctx.logical, q, .signal (ctrOf ctx dest w.ctr.toNat) 1⟩, occ := occ, last := occ + 48 }

/-! ### Landings (R225, R232, R234) -/

/-- Bytes that land in a core's memory: window X reaches the back half when they come from another core. -/
def Core.land (core : Core) (back : Bool) (a : Nat) : List Byte → Core
  | [] => core
  | b :: bs =>
    let m := if back then swapBack core.swaps a else swapFront core.swaps a
    ({ core with mem := Mem.writeByte core.mem m b, wrote := addRange core.wrote m 1 }).land back (a + 1) bs

/-- An increment lands in counter `k` of core `c`; past 2^32 − 1 it aborts the slice (R232). -/
def State.addCounter (s : State) (c k inc : Nat) : State :=
  let core := s.core c
  if 2 ^ 32 ≤ core.counter k + inc then s.wordFault c .ctrOvf
  else s.setCore c (core.setCounter k (core.counter k + inc))

/-- Applies one landing. -/
def State.applyLanding (s : State) (l : Landing) : State :=
  match l.kind with
  | .bytes a data => s.updCore l.dst (fun k => k.land (decide (l.src ≠ l.dst)) a data)
  | .images qw unit imgs => s.updCore l.dst (fun k => k.applyImages l.dst unitRemote qw unit false imgs)
  | .signal ctr inc => s.addCounter l.dst ctr inc
  | .got a data => s.updCore l.dst (fun k =>
      let k1 := (k.land false a data).produceBy unitRemote [(a, data.length)]
      let u := SMap.get {} k1.units unitRemote
      { k1 with units := SMap.set {} k1.units unitRemote { u with blocked := none } })
  | .hbm key data => s.writeExt l.src key data

/-- The oldest effect of core `c`, and the others. -/
def popLanding (c : Nat) : List Landing → Option (Landing × List Landing)
  | [] => none
  | l :: rest =>
    if l.src = c then some (l, rest)
    else
      match popLanding c rest with
      | some (x, ys) => some (x, l :: ys)
      | none => none

/-- Lands the oldest effect of core `c`. -/
def State.landOne (s : State) (c : Nat) : State :=
  match popLanding c s.mesh with
  | some (l, rest) => ({ s with mesh := rest }).applyLanding l
  | none => s

/-- Inserts a core by source logical core ID, then by number. -/
def insertBy (key : Nat → Nat) (c : Nat) : List Nat → List Nat
  | [] => [c]
  | x :: xs => if key c < key x ∨ (key c = key x ∧ c < x) then c :: x :: xs else x :: insertBy key c xs

def sortBy (key : Nat → Nat) (l : List Nat) : List Nat := l.foldl (fun acc c => insertBy key c acc) []

end Sys2Proof.Machine
end

