-- ==== Sys2Proof/Machine/OpCodec.lean ====
section
/-! DEFINITION. The encoding of operation words (02 R49 to R51 and the field tables of the owning chapters): packing fields from
bit 0 upward, the word each `OpWord` is stored as, and the decoder that plan load and the sequencer use. -/

namespace Sys2Proof.Machine

/-- Packs fields, the first at bit 0: a list of widths and values. -/
def packFields : List (Nat × Nat) → Nat
  | [] => 0
  | (w, v) :: rest => v + 2 ^ w * packFields rest

/-- Cuts a number into fields of the given widths, the first from bit 0. -/
def cutFields : List Nat → Nat → List Nat
  | [], _ => []
  | w :: ws, n => n % 2 ^ w :: cutFields ws (n / 2 ^ w)

/-- The fields of mma, from bit 0 (opcode 0x0_0). -/
def mmaFields (w : MmaWord) : List (Nat × Nat) :=
  [(17, w.aBase.toNat), (15, w.k.toNat), (17, w.bBase.toNat), (6, w.mm1.toNat), (6, w.nm1.toNat), (3, 0),
   (17, w.qBase.toNat), (15, 0), (1, w.acc.toNat), (7, 0), (2, 0), (4, w.unit.toNat), (10, w.delay.toNat), (4, 0),
   (4, 0)]

/-- The fields of mmaT, from bit 0 (opcode 0x0_1). -/
def mmaTFields (w : MmaWord) : List (Nat × Nat) :=
  [(17, w.aBase.toNat), (15, w.k.toNat), (17, w.bBase.toNat), (6, w.mm1.toNat), (6, w.nm1.toNat), (3, 0),
   (17, w.qBase.toNat), (15, 0), (1, w.acc.toNat), (1, w.tside.toNat), (6, 0), (2, 0), (4, w.unit.toNat),
   (10, w.delay.toNat), (4, 1), (4, 0)]

/-- The fields of conv, from bit 0 (opcode 0x0_2). -/
def convFields (w : ConvWord) : List (Nat × Nat) :=
  [(17, w.cdBase.toNat), (15, 0), (32, 0), (17, w.qBase.toNat), (15, 0), (1, w.acc.toNat), (7, 0), (2, 0),
   (4, w.unit.toNat), (10, w.delay.toNat), (4, 2), (4, 0)]

/-- The fields of gradPair, from bit 0 (opcode 0x0_3). -/
def gradPairFields (w : GradWord) : List (Nat × Nat) :=
  [(17, w.gdBase.toNat), (15, 0), (17, w.qxBase.toNat), (15, 0), (17, w.qwBase.toNat), (4, w.gfmt.toNat),
   (4, w.wfmt.toNat), (4, w.xfmt.toNat), (3, 0), (1, w.accx.toNat), (1, w.accw.toNat), (1, w.dxen.toNat),
   (1, w.dwen.toNat), (1, w.wsc.toNat), (1, w.xsc.toNat), (2, 0), (2, 0), (4, w.unit.toNat), (10, w.delay.toNat),
   (4, 3), (4, 0)]

/-- The fields of lutCfg, from bit 0 (opcode 0x0_4). -/
def lutCfgFields (w : LutWord) : List (Nat × Nat) :=
  [(17, w.cbBase.toNat), (15, 0), (32, 0), (32, 0), (8, 0), (2, 0), (4, w.unit.toNat), (10, w.delay.toNat), (4, 4),
   (4, 0)]

/-- The fields of arrCfg, from bit 0 (opcode 0x0_5). -/
def arrCfgFields (w : ArrCfgWord) : List (Nat × Nat) :=
  [(4, w.fmtA.toNat), (4, w.fmtB.toNat), (2, w.gsize.toNat), (6, w.spill.toNat), (2, w.bsm.toNat), (1, w.scfA.toNat),
   (1, w.scfB.toNat), (2, w.sgrp.toNat), (10, 0), (8, w.za.toNat), (8, w.zb.toNat), (16, 0), (32, 0), (8, 0), (2, 0),
   (4, w.unit.toNat), (10, w.delay.toNat), (4, 5), (4, 0)]

/-- The fields of qzero, from bit 0 (opcode 0x1_0). -/
def qzeroFields (w : QzeroWord) : List (Nat × Nat) :=
  [(17, w.qBase.toNat), (15, 0), (17, w.count.toNat), (15, 0), (32, 0), (8, 0), (2, 0), (4, w.unit.toNat),
   (10, w.delay.toNat), (4, 0), (4, 1)]

/-- The fields of qstore, from bit 0 (opcode 0x1_1). -/
def qstoreFields (w : QstoreWord) : List (Nat × Nat) :=
  [(17, w.qBase.toNat), (2, w.qw.toNat), (4, w.dfmt.toNat), (6, w.mm1.toNat), (3, 0), (17, w.dBase.toNat),
   (5, w.nm1.toNat), (8, w.dpc.toNat), (2, 0), (17, w.tsBase.toNat), (12, w.ch0.toNat), (3, 0), (1, w.req.toNat),
   (1, w.satfp.toNat), (6, 0), (2, 0), (4, w.unit.toNat), (10, w.delay.toNat), (4, 1), (4, 1)]

/-- The fields of qimgSt, from bit 0 (opcode 0x1_2). -/
def qimgStFields (w : QimgStWord) : List (Nat × Nat) :=
  [(17, w.qBase.toNat), (2, w.qw.toNat), (13, w.cntm1.toNat), (17, w.dBase.toNat), (15, 0), (17, w.tsBase.toNat),
   (15, 0), (8, 0), (2, 0), (4, w.unit.toNat), (10, w.delay.toNat), (4, 2), (4, 1)]

/-- The fields of qimgLd, from bit 0 (opcode 0x1_3). -/
def qimgLdFields (w : QimgLdWord) : List (Nat × Nat) :=
  [(17, w.qBase.toNat), (2, w.qw.toNat), (13, w.cntm1.toNat), (17, w.sBase.toNat), (15, 0), (32, 0),
   (1, w.acc.toNat), (7, 0), (2, 0), (4, w.unit.toNat), (10, w.delay.toNat), (4, 3), (4, 1)]

/-- The fields of redMax, from bit 0 (opcode 0x1_4). -/
def redMaxFields (w : RedWord) : List (Nat × Nat) :=
  [(17, w.rdBase.toNat), (15, 0), (32, 0), (32, 0), (1, w.acc.toNat), (7, 0), (2, 0), (4, w.unit.toNat),
   (10, w.delay.toNat), (4, 4), (4, 1)]

/-- The fields of redMin, from bit 0 (opcode 0x1_5). -/
def redMinFields (w : RedWord) : List (Nat × Nat) :=
  [(17, w.rdBase.toNat), (15, 0), (32, 0), (32, 0), (1, w.acc.toNat), (7, 0), (2, 0), (4, w.unit.toNat),
   (10, w.delay.toNat), (4, 5), (4, 1)]

/-- The fields of redTopk, from bit 0 (opcode 0x1_6). -/
def redTopkFields (w : RedWord) : List (Nat × Nat) :=
  [(17, w.rdBase.toNat), (15, 0), (32, 0), (32, 0), (1, w.acc.toNat), (1, w.lowest.toNat), (6, 0), (2, 0),
   (4, w.unit.toNat), (10, w.delay.toNat), (4, 6), (4, 1)]

/-- The fields of treeStep, from bit 0 (opcode 0x1_7). -/
def treeStepFields (w : TreeWord) : List (Nat × Nat) :=
  [(17, w.base.toNat), (2, w.qw.toNat), (4, w.level.toNat), (4, w.pfmt.toNat), (5, 0), (17, w.land.toNat),
   (5, w.ctr.toNat), (10, 0), (17, w.count.toNat), (6, w.km1.toNat), (9, 0), (1, w.chip.toNat), (1, w.down.toNat),
   (1, w.arrival.toNat), (2, w.mode.toNat), (1, w.lowest.toNat), (2, 0), (2, 0), (4, w.unit.toNat),
   (10, w.delay.toNat), (4, 7), (4, 1)]

/-- The fields of fn, from bit 0 (opcode 0x2_0). -/
def fnFields (w : ProfWord) : List (Nat × Nat) :=
  [(17, w.pdBase.toNat), (6, w.mm1.toNat), (4, w.fmtS0.toNat), (4, w.fmtS1.toNat), (1, 0), (16, w.cols.toNat),
   (4, w.fmtD.toNat), (4, w.fmtS2.toNat), (3, w.slot.toNat), (5, 0), (17, w.tsBase.toNat), (15, w.ow.toNat),
   (8, w.flags.toNat), (2, 0), (4, w.unit.toNat), (10, w.delay.toNat), (4, 0), (4, 2)]

/-- The fields of shape, from bit 0 (opcode 0x2_1). -/
def shapeFields (w : ProfWord) : List (Nat × Nat) :=
  [(17, w.pdBase.toNat), (6, w.mm1.toNat), (4, w.fmtS0.toNat), (4, w.fmtS1.toNat), (1, 0), (16, w.cols.toNat),
   (4, w.fmtD.toNat), (4, w.fmtS2.toNat), (3, w.slot.toNat), (5, 0), (17, w.tsBase.toNat), (15, w.ow.toNat),
   (8, w.flags.toNat), (2, 0), (4, w.unit.toNat), (10, w.delay.toNat), (4, 1), (4, 2)]

/-- The fields of gate, from bit 0 (opcode 0x2_2). -/
def gateFields (w : ProfWord) : List (Nat × Nat) :=
  [(17, w.pdBase.toNat), (6, w.mm1.toNat), (4, w.fmtS0.toNat), (4, w.fmtS1.toNat), (1, 0), (16, w.cols.toNat),
   (4, w.fmtD.toNat), (4, w.fmtS2.toNat), (3, w.slot.toNat), (5, 0), (17, w.tsBase.toNat), (15, w.ow.toNat),
   (8, w.flags.toNat), (2, 0), (4, w.unit.toNat), (10, w.delay.toNat), (4, 2), (4, 2)]

/-- The fields of smaxStep, from bit 0 (opcode 0x2_3). -/
def smaxStepFields (w : ProfWord) : List (Nat × Nat) :=
  [(17, w.pdBase.toNat), (6, w.mm1.toNat), (4, w.fmtS0.toNat), (4, w.fmtS1.toNat), (1, 0), (16, w.cols.toNat),
   (4, w.fmtD.toNat), (4, w.fmtS2.toNat), (3, w.slot.toNat), (5, 0), (17, w.tsBase.toNat), (15, w.ow.toNat),
   (8, w.flags.toNat), (2, 0), (4, w.unit.toNat), (10, w.delay.toNat), (4, 3), (4, 2)]

/-- The fields of normStats, from bit 0 (opcode 0x2_4). -/
def normStatsFields (w : ProfWord) : List (Nat × Nat) :=
  [(17, w.pdBase.toNat), (6, w.mm1.toNat), (4, w.fmtS0.toNat), (4, w.fmtS1.toNat), (1, 0), (16, w.cols.toNat),
   (4, w.fmtD.toNat), (4, w.fmtS2.toNat), (3, w.slot.toNat), (5, 0), (17, w.tsBase.toNat), (15, w.ow.toNat),
   (8, w.flags.toNat), (2, 0), (4, w.unit.toNat), (10, w.delay.toNat), (4, 4), (4, 2)]

/-- The fields of normApply, from bit 0 (opcode 0x2_5). -/
def normApplyFields (w : ProfWord) : List (Nat × Nat) :=
  [(17, w.pdBase.toNat), (6, w.mm1.toNat), (4, w.fmtS0.toNat), (4, w.fmtS1.toNat), (1, 0), (16, w.cols.toNat),
   (4, w.fmtD.toNat), (4, w.fmtS2.toNat), (3, w.slot.toNat), (5, 0), (17, w.tsBase.toNat), (15, w.ow.toNat),
   (8, w.flags.toNat), (2, 0), (4, w.unit.toNat), (10, w.delay.toNat), (4, 5), (4, 2)]

/-- The fields of deriv, from bit 0 (opcode 0x2_7). -/
def derivFields (w : ProfWord) : List (Nat × Nat) :=
  [(17, w.pdBase.toNat), (6, w.mm1.toNat), (4, w.fmtS0.toNat), (4, w.fmtS1.toNat), (1, 0), (16, w.cols.toNat),
   (4, w.fmtD.toNat), (4, w.fmtS2.toNat), (3, w.slot.toNat), (5, 0), (17, w.tsBase.toNat), (15, w.ow.toNat),
   (8, w.flags.toNat), (2, 0), (4, w.unit.toNat), (10, w.delay.toNat), (4, 7), (4, 2)]

/-- The fields of elem, from bit 0 (opcode 0x2_8). -/
def elemFields (w : ProfWord) : List (Nat × Nat) :=
  [(17, w.pdBase.toNat), (6, w.mm1.toNat), (4, w.fmtS0.toNat), (4, w.fmtS1.toNat), (1, 0), (16, w.cols.toNat),
   (4, w.fmtD.toNat), (4, w.fmtS2.toNat), (3, w.slot.toNat), (5, 0), (17, w.tsBase.toNat), (15, w.ow.toNat),
   (8, w.flags.toNat), (2, 0), (4, w.unit.toNat), (10, w.delay.toNat), (4, 8), (4, 2)]

/-- The fields of sel, from bit 0 (opcode 0x2_9). -/
def selFields (w : ProfWord) : List (Nat × Nat) :=
  [(17, w.pdBase.toNat), (6, w.mm1.toNat), (4, w.fmtS0.toNat), (4, w.fmtS1.toNat), (1, 0), (16, w.cols.toNat),
   (4, w.fmtD.toNat), (4, w.fmtS2.toNat), (3, w.slot.toNat), (5, 0), (17, w.tsBase.toNat), (15, w.ow.toNat),
   (8, w.flags.toNat), (2, 0), (4, w.unit.toNat), (10, w.delay.toNat), (4, 9), (4, 2)]

/-- The fields of tblLoad, from bit 0 (opcode 0x2_6). -/
def tblLoadFields (w : TblWord) : List (Nat × Nat) :=
  [(17, w.tBase.toNat), (3, w.slot.toNat), (4, w.romid.toNat), (8, 0), (17, w.dumpBase.toNat), (15, 0), (32, 0),
   (1, 0), (1, w.rom.toNat), (1, w.dump.toNat), (5, 0), (2, 0), (4, w.unit.toNat), (10, w.delay.toNat), (4, 6),
   (4, 2)]

/-- The fields of streamDef, from bit 0 (opcode 0x3_0). -/
def streamDefFields (w : StreamDefWord) : List (Nat × Nat) :=
  [(17, w.sdBase.toNat), (15, 0), (32, 0), (32, 0), (8, 0), (2, 0), (4, w.unit.toNat), (10, w.delay.toNat), (4, 0),
   (4, 3)]

/-- The fields of streamStart, from bit 0 (opcode 0x3_1). -/
def streamStartFields (w : StreamWord) : List (Nat × Nat) :=
  [(32, 0), (32, 0), (32, 0), (8, 0), (2, 0), (4, w.unit.toNat), (10, w.delay.toNat), (4, 1), (4, 3)]

/-- The fields of streamRearm, from bit 0 (opcode 0x3_2). -/
def streamRearmFields (w : RearmWord) : List (Nat × Nat) :=
  [(17, w.raBase.toNat), (15, 0), (32, 0), (32, 0), (8, 0), (2, 0), (4, w.unit.toNat), (10, w.delay.toNat), (4, 2),
   (4, 3)]

/-- The fields of streamStop, from bit 0 (opcode 0x3_3). -/
def streamStopFields (w : StreamWord) : List (Nat × Nat) :=
  [(32, 0), (32, 0), (32, 0), (8, 0), (2, 0), (4, w.unit.toNat), (10, w.delay.toNat), (4, 3), (4, 3)]

/-- The fields of put, from bit 0 (opcode 0x4_0). -/
def putFields (w : RemoteWord) : List (Nat × Nat) :=
  [(17, w.rdBase.toNat), (15, 0), (32, 0), (32, 0), (8, 0), (2, 0), (4, w.unit.toNat), (10, w.delay.toNat), (4, 0),
   (4, 4)]

/-- The fields of get, from bit 0 (opcode 0x4_1). -/
def getFields (w : RemoteWord) : List (Nat × Nat) :=
  [(17, w.rdBase.toNat), (15, 0), (32, 0), (32, 0), (8, 0), (2, 0), (4, w.unit.toNat), (10, w.delay.toNat), (4, 1),
   (4, 4)]

/-- The fields of qadd, from bit 0 (opcode 0x4_2). -/
def qaddFields (w : RemoteWord) : List (Nat × Nat) :=
  [(17, w.rdBase.toNat), (15, 0), (32, 0), (32, 0), (8, 0), (2, 0), (4, w.unit.toNat), (10, w.delay.toNat), (4, 2),
   (4, 4)]

/-- The fields of signal, from bit 0 (opcode 0x4_3). -/
def signalFields (w : SignalWord) : List (Nat × Nat) :=
  [(12, w.chip.toNat), (8, w.tgt.toNat), (5, w.ctr.toNat), (7, 0), (16, w.inc.toNat), (5, w.tparam.toNat), (11, 0),
   (32, 0), (8, 0), (2, 0), (4, w.unit.toNat), (10, w.delay.toNat), (4, 3), (4, 4)]

/-- The fields of wait, from bit 0 (opcode 0x4_4). -/
def waitFields (w : WaitWord) : List (Nat × Nat) :=
  [(5, w.ctr.toNat), (27, 0), (32, w.count.toNat), (32, 0), (8, 0), (2, 0), (4, w.unit.toNat), (10, w.delay.toNat),
   (4, 4), (4, 4)]

/-- The fields of fence, from bit 0 (opcode 0x4_5). -/
def fenceFields (w : PlainWord) : List (Nat × Nat) :=
  [(32, 0), (32, 0), (32, 0), (8, 0), (2, 0), (4, w.unit.toNat), (10, w.delay.toNat), (4, 5), (4, 4)]

/-- The fields of swapDef, from bit 0 (opcode 0x5_0). -/
def swapDefFields (w : SwapDefWord) : List (Nat × Nat) :=
  [(3, w.pair.toNat), (29, 0), (17, w.wBase.toNat), (15, 0), (17, w.hsize.toNat), (15, 0), (1, 1), (7, 0), (2, 0),
   (4, w.unit.toNat), (10, w.delay.toNat), (4, 0), (4, 5)]

/-- The fields of swap, from bit 0 (opcode 0x5_0). -/
def swapFields (w : SwapWord) : List (Nat × Nat) :=
  [(3, w.pair.toNat), (29, 0), (32, 0), (32, 0), (1, 0), (7, 0), (2, 0), (4, w.unit.toNat), (10, w.delay.toNat),
   (4, 0), (4, 5)]

/-- The fields of barLocal, from bit 0 (opcode 0x5_1). -/
def barLocalFields (w : BarWord) : List (Nat × Nat) :=
  [(16, w.units.toNat), (6, w.engines.toNat), (10, 0), (32, 0), (32, 0), (8, 0), (2, 0), (4, w.unit.toNat),
   (10, w.delay.toNat), (4, 1), (4, 5)]

/-- The fields of creditSet, from bit 0 (opcode 0x5_2). -/
def creditSetFields (w : CreditWord) : List (Nat × Nat) :=
  [(8, w.edge.toNat), (24, 0), (16, w.filled.toNat), (16, 0), (32, 0), (8, 0), (2, 0), (4, w.unit.toNat),
   (10, w.delay.toNat), (4, 2), (4, 5)]

/-- The fields of calTapOpen, from bit 0 (opcode 0x6_0). -/
def calTapOpenFields (w : TapOpenWord) : List (Nat × Nat) :=
  [(32, 0), (32, 0), (17, w.tmBase.toNat), (15, 0), (2, 0), (1, 0), (1, w.tmw.toNat), (4, 0), (2, 0),
   (4, w.unit.toNat), (10, w.delay.toNat), (4, 0), (4, 6)]

/-- The fields of calTapPush, from bit 0 (opcode 0x6_0). -/
def calTapPushFields (w : TapPushWord) : List (Nat × Nat) :=
  [(17, w.hbBase.toNat), (15, 0), (17, w.cvBase.toNat), (12, w.cvnm1.toNat), (3, 0), (17, w.recBase.toNat), (15, 0),
   (2, 1), (1, w.psrc.toNat), (5, 0), (2, 0), (4, w.unit.toNat), (10, w.delay.toNat), (4, 0), (4, 6)]

/-- The fields of calTapClose, from bit 0 (opcode 0x6_0). -/
def calTapCloseFields (w : TapCloseWord) : List (Nat × Nat) :=
  [(32, 0), (17, w.cvBase.toNat), (12, w.cvnm1.toNat), (3, 0), (32, 0), (2, 2), (6, 0), (2, 0), (4, w.unit.toNat),
   (10, w.delay.toNat), (4, 0), (4, 6)]

/-- The fields of scaleAdapt, from bit 0 (opcode 0x6_1). -/
def scaleAdaptFields (w : AdaptWord) : List (Nat × Nat) :=
  [(17, w.hbBase.toNat), (4, w.tfmt.toNat), (4, w.margin.toNat), (4, w.depth.toNat), (3, 0), (23, w.sAddr.toNat),
   (9, 0), (8, w.z.toNat), (17, w.cbBase.toNat), (7, 0), (1, w.cb.toNat), (1, w.scf.toNat), (6, 0), (2, 0),
   (4, w.unit.toNat), (10, w.delay.toNat), (4, 1), (4, 6)]

/-- The fields of quant, from bit 0 (opcode 0x6_2). -/
def quantFields (w : QuantWord) : List (Nat × Nat) :=
  [(17, w.qdBase.toNat), (2, w.qw.toNat), (4, w.dfmt.toNat), (6, w.mm1.toNat), (3, 0), (32, 0), (32, 0),
   (1, w.src.toNat), (1, w.req.toNat), (1, w.meas.toNat), (1, w.scope.toNat), (1, w.scf.toNat), (1, w.cb.toNat),
   (2, 0), (2, 0), (4, w.unit.toNat), (10, w.delay.toNat), (4, 2), (4, 6)]

/-- The fields of hadamard, from bit 0 (opcode 0x6_3). -/
def hadamardFields (w : HadamardWord) : List (Nat × Nat) :=
  [(3, w.blk.toNat), (4, w.srcfmt.toNat), (25, 0), (32, 0), (32, 0), (1, w.en.toNat), (7, 0), (2, 0),
   (4, w.unit.toNat), (10, w.delay.toNat), (4, 3), (4, 6)]

/-- The fields of smooth, from bit 0 (opcode 0x6_4). -/
def smoothFields (w : SmoothWord) : List (Nat × Nat) :=
  [(17, w.svBase.toNat), (4, w.srcfmt.toNat), (11, 0), (32, 0), (32, 0), (1, w.en.toNat), (7, 0), (2, 0),
   (4, w.unit.toNat), (10, w.delay.toNat), (4, 4), (4, 6)]

/-- The fields of reqLoad, from bit 0 (opcode 0x6_5). -/
def reqLoadFields (w : ReqLoadWord) : List (Nat × Nat) :=
  [(17, w.rtBase.toNat), (15, 0), (12, w.first.toNat), (13, w.count.toNat), (7, 0), (32, 0), (8, 0), (2, 0),
   (4, w.unit.toNat), (10, w.delay.toNat), (4, 5), (4, 6)]

/-- The fields of nop, from bit 0 (opcode 0x7_0). -/
def nopFields (w : PlainWord) : List (Nat × Nat) :=
  [(32, 0), (32, 0), (32, 0), (8, 0), (2, 0), (4, w.unit.toNat), (10, w.delay.toNat), (4, 0), (4, 7)]

/-- The fields of loop, from bit 0 (opcode 0x7_1). -/
def loopFields (w : LoopWord) : List (Nat × Nat) :=
  [(24, w.trip.toNat), (8, 0), (32, 0), (32, 0), (8, 0), (2, 0), (4, w.unit.toNat), (10, w.delay.toNat), (4, 1),
   (4, 7)]

/-- The fields of endLoop, from bit 0 (opcode 0x7_2). -/
def endLoopFields (w : PlainWord) : List (Nat × Nat) :=
  [(32, 0), (32, 0), (32, 0), (8, 0), (2, 0), (4, w.unit.toNat), (10, w.delay.toNat), (4, 2), (4, 7)]

/-- The fields of mark, from bit 0 (opcode 0x7_3). -/
def markFields (w : MarkWord) : List (Nat × Nat) :=
  [(64, w.value.toNat), (32, 0), (8, 0), (2, 0), (4, w.unit.toNat), (10, w.delay.toNat), (4, 3), (4, 7)]

/-- The fields of sliceEnd, from bit 0 (opcode 0x7_4). -/
def sliceEndFields (w : PlainWord) : List (Nat × Nat) :=
  [(32, 0), (32, 0), (32, 0), (8, 0), (2, 0), (4, w.unit.toNat), (10, w.delay.toNat), (4, 4), (4, 7)]

/-- The 128-bit word an operation is stored as. -/
def encodeOpWord : OpWord → Nat
  | .mma w => packFields (mmaFields w)
  | .mmaT w => packFields (mmaTFields w)
  | .conv w => packFields (convFields w)
  | .gradPair w => packFields (gradPairFields w)
  | .lutCfg w => packFields (lutCfgFields w)
  | .arrCfg w => packFields (arrCfgFields w)
  | .qzero w => packFields (qzeroFields w)
  | .qstore w => packFields (qstoreFields w)
  | .qimgSt w => packFields (qimgStFields w)
  | .qimgLd w => packFields (qimgLdFields w)
  | .redMax w => packFields (redMaxFields w)
  | .redMin w => packFields (redMinFields w)
  | .redTopk w => packFields (redTopkFields w)
  | .treeStep w => packFields (treeStepFields w)
  | .fn w => packFields (fnFields w)
  | .shape w => packFields (shapeFields w)
  | .gate w => packFields (gateFields w)
  | .smaxStep w => packFields (smaxStepFields w)
  | .normStats w => packFields (normStatsFields w)
  | .normApply w => packFields (normApplyFields w)
  | .deriv w => packFields (derivFields w)
  | .elem w => packFields (elemFields w)
  | .sel w => packFields (selFields w)
  | .tblLoad w => packFields (tblLoadFields w)
  | .streamDef w => packFields (streamDefFields w)
  | .streamStart w => packFields (streamStartFields w)
  | .streamRearm w => packFields (streamRearmFields w)
  | .streamStop w => packFields (streamStopFields w)
  | .put w => packFields (putFields w)
  | .get w => packFields (getFields w)
  | .qadd w => packFields (qaddFields w)
  | .signal w => packFields (signalFields w)
  | .wait w => packFields (waitFields w)
  | .fence w => packFields (fenceFields w)
  | .swapDef w => packFields (swapDefFields w)
  | .swap w => packFields (swapFields w)
  | .barLocal w => packFields (barLocalFields w)
  | .creditSet w => packFields (creditSetFields w)
  | .calTapOpen w => packFields (calTapOpenFields w)
  | .calTapPush w => packFields (calTapPushFields w)
  | .calTapClose w => packFields (calTapCloseFields w)
  | .scaleAdapt w => packFields (scaleAdaptFields w)
  | .quant w => packFields (quantFields w)
  | .hadamard w => packFields (hadamardFields w)
  | .smooth w => packFields (smoothFields w)
  | .reqLoad w => packFields (reqLoadFields w)
  | .nop w => packFields (nopFields w)
  | .loop w => packFields (loopFields w)
  | .endLoop w => packFields (endLoopFields w)
  | .mark w => packFields (markFields w)
  | .sliceEnd w => packFields (sliceEndFields w)

/-- Reads the fields of mma; reserved bits are checked by `decodeOpWord`. -/
def mmaOf (n : Nat) : Option OpWord :=
  match cutFields [17, 15, 17, 6, 6, 3, 17, 15, 1, 7, 2, 4, 10] n with
  | [x0, x1, x2, x3, x4, _, x5, _, x6, _, _, x7, x8] =>
    some (.mma {
      aBase := BitVec.ofNat 17 x0, k := BitVec.ofNat 15 x1, bBase := BitVec.ofNat 17 x2, mm1 := BitVec.ofNat 6 x3,
      nm1 := BitVec.ofNat 6 x4, qBase := BitVec.ofNat 17 x5, acc := BitVec.ofNat 1 x6, unit := BitVec.ofNat 4 x7,
      delay := BitVec.ofNat 10 x8 })
  | _ => none

/-- Reads the fields of mmaT; reserved bits are checked by `decodeOpWord`. -/
def mmaTOf (n : Nat) : Option OpWord :=
  match cutFields [17, 15, 17, 6, 6, 3, 17, 15, 1, 1, 6, 2, 4, 10] n with
  | [x0, x1, x2, x3, x4, _, x5, _, x6, x7, _, _, x8, x9] =>
    some (.mmaT {
      aBase := BitVec.ofNat 17 x0, k := BitVec.ofNat 15 x1, bBase := BitVec.ofNat 17 x2, mm1 := BitVec.ofNat 6 x3,
      nm1 := BitVec.ofNat 6 x4, qBase := BitVec.ofNat 17 x5, acc := BitVec.ofNat 1 x6, tside := BitVec.ofNat 1 x7,
      unit := BitVec.ofNat 4 x8, delay := BitVec.ofNat 10 x9 })
  | _ => none

/-- Reads the fields of conv; reserved bits are checked by `decodeOpWord`. -/
def convOf (n : Nat) : Option OpWord :=
  match cutFields [17, 15, 32, 17, 15, 1, 7, 2, 4, 10] n with
  | [x0, _, _, x1, _, x2, _, _, x3, x4] =>
    some (.conv {
      cdBase := BitVec.ofNat 17 x0, qBase := BitVec.ofNat 17 x1, acc := BitVec.ofNat 1 x2, unit := BitVec.ofNat 4 x3,
      delay := BitVec.ofNat 10 x4 })
  | _ => none

/-- Reads the fields of gradPair; reserved bits are checked by `decodeOpWord`. -/
def gradPairOf (n : Nat) : Option OpWord :=
  match cutFields [17, 15, 17, 15, 17, 4, 4, 4, 3, 1, 1, 1, 1, 1, 1, 2, 2, 4, 10] n with
  | [x0, _, x1, _, x2, x3, x4, x5, _, x6, x7, x8, x9, x10, x11, _, _, x12, x13] =>
    some (.gradPair {
      gdBase := BitVec.ofNat 17 x0, qxBase := BitVec.ofNat 17 x1, qwBase := BitVec.ofNat 17 x2,
      gfmt := BitVec.ofNat 4 x3, wfmt := BitVec.ofNat 4 x4, xfmt := BitVec.ofNat 4 x5, accx := BitVec.ofNat 1 x6,
      accw := BitVec.ofNat 1 x7, dxen := BitVec.ofNat 1 x8, dwen := BitVec.ofNat 1 x9, wsc := BitVec.ofNat 1 x10,
      xsc := BitVec.ofNat 1 x11, unit := BitVec.ofNat 4 x12, delay := BitVec.ofNat 10 x13 })
  | _ => none

/-- Reads the fields of lutCfg; reserved bits are checked by `decodeOpWord`. -/
def lutCfgOf (n : Nat) : Option OpWord :=
  match cutFields [17, 15, 32, 32, 8, 2, 4, 10] n with
  | [x0, _, _, _, _, _, x1, x2] =>
    some (.lutCfg {
      cbBase := BitVec.ofNat 17 x0, unit := BitVec.ofNat 4 x1, delay := BitVec.ofNat 10 x2 })
  | _ => none

/-- Reads the fields of arrCfg; reserved bits are checked by `decodeOpWord`. -/
def arrCfgOf (n : Nat) : Option OpWord :=
  match cutFields [4, 4, 2, 6, 2, 1, 1, 2, 10, 8, 8, 16, 32, 8, 2, 4, 10] n with
  | [x0, x1, x2, x3, x4, x5, x6, x7, _, x8, x9, _, _, _, _, x10, x11] =>
    some (.arrCfg {
      fmtA := BitVec.ofNat 4 x0, fmtB := BitVec.ofNat 4 x1, gsize := BitVec.ofNat 2 x2, spill := BitVec.ofNat 6 x3,
      bsm := BitVec.ofNat 2 x4, scfA := BitVec.ofNat 1 x5, scfB := BitVec.ofNat 1 x6, sgrp := BitVec.ofNat 2 x7,
      za := BitVec.ofNat 8 x8, zb := BitVec.ofNat 8 x9, unit := BitVec.ofNat 4 x10, delay := BitVec.ofNat 10 x11 })
  | _ => none

/-- Reads the fields of qzero; reserved bits are checked by `decodeOpWord`. -/
def qzeroOf (n : Nat) : Option OpWord :=
  match cutFields [17, 15, 17, 15, 32, 8, 2, 4, 10] n with
  | [x0, _, x1, _, _, _, _, x2, x3] =>
    some (.qzero {
      qBase := BitVec.ofNat 17 x0, count := BitVec.ofNat 17 x1, unit := BitVec.ofNat 4 x2,
      delay := BitVec.ofNat 10 x3 })
  | _ => none

/-- Reads the fields of qstore; reserved bits are checked by `decodeOpWord`. -/
def qstoreOf (n : Nat) : Option OpWord :=
  match cutFields [17, 2, 4, 6, 3, 17, 5, 8, 2, 17, 12, 3, 1, 1, 6, 2, 4, 10] n with
  | [x0, x1, x2, x3, _, x4, x5, x6, _, x7, x8, _, x9, x10, _, _, x11, x12] =>
    some (.qstore {
      qBase := BitVec.ofNat 17 x0, qw := BitVec.ofNat 2 x1, dfmt := BitVec.ofNat 4 x2, mm1 := BitVec.ofNat 6 x3,
      dBase := BitVec.ofNat 17 x4, nm1 := BitVec.ofNat 5 x5, dpc := BitVec.ofNat 8 x6, tsBase := BitVec.ofNat 17 x7,
      ch0 := BitVec.ofNat 12 x8, req := BitVec.ofNat 1 x9, satfp := BitVec.ofNat 1 x10, unit := BitVec.ofNat 4 x11,
      delay := BitVec.ofNat 10 x12 })
  | _ => none

/-- Reads the fields of qimgSt; reserved bits are checked by `decodeOpWord`. -/
def qimgStOf (n : Nat) : Option OpWord :=
  match cutFields [17, 2, 13, 17, 15, 17, 15, 8, 2, 4, 10] n with
  | [x0, x1, x2, x3, _, x4, _, _, _, x5, x6] =>
    some (.qimgSt {
      qBase := BitVec.ofNat 17 x0, qw := BitVec.ofNat 2 x1, cntm1 := BitVec.ofNat 13 x2, dBase := BitVec.ofNat 17 x3,
      tsBase := BitVec.ofNat 17 x4, unit := BitVec.ofNat 4 x5, delay := BitVec.ofNat 10 x6 })
  | _ => none

/-- Reads the fields of qimgLd; reserved bits are checked by `decodeOpWord`. -/
def qimgLdOf (n : Nat) : Option OpWord :=
  match cutFields [17, 2, 13, 17, 15, 32, 1, 7, 2, 4, 10] n with
  | [x0, x1, x2, x3, _, _, x4, _, _, x5, x6] =>
    some (.qimgLd {
      qBase := BitVec.ofNat 17 x0, qw := BitVec.ofNat 2 x1, cntm1 := BitVec.ofNat 13 x2, sBase := BitVec.ofNat 17 x3,
      acc := BitVec.ofNat 1 x4, unit := BitVec.ofNat 4 x5, delay := BitVec.ofNat 10 x6 })
  | _ => none

/-- Reads the fields of redMax; reserved bits are checked by `decodeOpWord`. -/
def redMaxOf (n : Nat) : Option OpWord :=
  match cutFields [17, 15, 32, 32, 1, 7, 2, 4, 10] n with
  | [x0, _, _, _, x1, _, _, x2, x3] =>
    some (.redMax {
      rdBase := BitVec.ofNat 17 x0, acc := BitVec.ofNat 1 x1, unit := BitVec.ofNat 4 x2,
      delay := BitVec.ofNat 10 x3 })
  | _ => none

/-- Reads the fields of redMin; reserved bits are checked by `decodeOpWord`. -/
def redMinOf (n : Nat) : Option OpWord :=
  match cutFields [17, 15, 32, 32, 1, 7, 2, 4, 10] n with
  | [x0, _, _, _, x1, _, _, x2, x3] =>
    some (.redMin {
      rdBase := BitVec.ofNat 17 x0, acc := BitVec.ofNat 1 x1, unit := BitVec.ofNat 4 x2,
      delay := BitVec.ofNat 10 x3 })
  | _ => none

/-- Reads the fields of redTopk; reserved bits are checked by `decodeOpWord`. -/
def redTopkOf (n : Nat) : Option OpWord :=
  match cutFields [17, 15, 32, 32, 1, 1, 6, 2, 4, 10] n with
  | [x0, _, _, _, x1, x2, _, _, x3, x4] =>
    some (.redTopk {
      rdBase := BitVec.ofNat 17 x0, acc := BitVec.ofNat 1 x1, lowest := BitVec.ofNat 1 x2, unit := BitVec.ofNat 4 x3,
      delay := BitVec.ofNat 10 x4 })
  | _ => none

/-- Reads the fields of treeStep; reserved bits are checked by `decodeOpWord`. -/
def treeStepOf (n : Nat) : Option OpWord :=
  match cutFields [17, 2, 4, 4, 5, 17, 5, 10, 17, 6, 9, 1, 1, 1, 2, 1, 2, 2, 4, 10] n with
  | [x0, x1, x2, x3, _, x4, x5, _, x6, x7, _, x8, x9, x10, x11, x12, _, _, x13, x14] =>
    some (.treeStep {
      base := BitVec.ofNat 17 x0, qw := BitVec.ofNat 2 x1, level := BitVec.ofNat 4 x2, pfmt := BitVec.ofNat 4 x3,
      land := BitVec.ofNat 17 x4, ctr := BitVec.ofNat 5 x5, count := BitVec.ofNat 17 x6, km1 := BitVec.ofNat 6 x7,
      chip := BitVec.ofNat 1 x8, down := BitVec.ofNat 1 x9, arrival := BitVec.ofNat 1 x10,
      mode := BitVec.ofNat 2 x11, lowest := BitVec.ofNat 1 x12, unit := BitVec.ofNat 4 x13,
      delay := BitVec.ofNat 10 x14 })
  | _ => none

/-- Reads the fields of fn; reserved bits are checked by `decodeOpWord`. -/
def fnOf (n : Nat) : Option OpWord :=
  match cutFields [17, 6, 4, 4, 1, 16, 4, 4, 3, 5, 17, 15, 8, 2, 4, 10] n with
  | [x0, x1, x2, x3, _, x4, x5, x6, x7, _, x8, x9, x10, _, x11, x12] =>
    some (.fn {
      pdBase := BitVec.ofNat 17 x0, mm1 := BitVec.ofNat 6 x1, fmtS0 := BitVec.ofNat 4 x2, fmtS1 := BitVec.ofNat 4 x3,
      cols := BitVec.ofNat 16 x4, fmtD := BitVec.ofNat 4 x5, fmtS2 := BitVec.ofNat 4 x6, slot := BitVec.ofNat 3 x7,
      tsBase := BitVec.ofNat 17 x8, ow := BitVec.ofNat 15 x9, flags := BitVec.ofNat 8 x10,
      unit := BitVec.ofNat 4 x11, delay := BitVec.ofNat 10 x12 })
  | _ => none

/-- Reads the fields of shape; reserved bits are checked by `decodeOpWord`. -/
def shapeOf (n : Nat) : Option OpWord :=
  match cutFields [17, 6, 4, 4, 1, 16, 4, 4, 3, 5, 17, 15, 8, 2, 4, 10] n with
  | [x0, x1, x2, x3, _, x4, x5, x6, x7, _, x8, x9, x10, _, x11, x12] =>
    some (.shape {
      pdBase := BitVec.ofNat 17 x0, mm1 := BitVec.ofNat 6 x1, fmtS0 := BitVec.ofNat 4 x2, fmtS1 := BitVec.ofNat 4 x3,
      cols := BitVec.ofNat 16 x4, fmtD := BitVec.ofNat 4 x5, fmtS2 := BitVec.ofNat 4 x6, slot := BitVec.ofNat 3 x7,
      tsBase := BitVec.ofNat 17 x8, ow := BitVec.ofNat 15 x9, flags := BitVec.ofNat 8 x10,
      unit := BitVec.ofNat 4 x11, delay := BitVec.ofNat 10 x12 })
  | _ => none

/-- Reads the fields of gate; reserved bits are checked by `decodeOpWord`. -/
def gateOf (n : Nat) : Option OpWord :=
  match cutFields [17, 6, 4, 4, 1, 16, 4, 4, 3, 5, 17, 15, 8, 2, 4, 10] n with
  | [x0, x1, x2, x3, _, x4, x5, x6, x7, _, x8, x9, x10, _, x11, x12] =>
    some (.gate {
      pdBase := BitVec.ofNat 17 x0, mm1 := BitVec.ofNat 6 x1, fmtS0 := BitVec.ofNat 4 x2, fmtS1 := BitVec.ofNat 4 x3,
      cols := BitVec.ofNat 16 x4, fmtD := BitVec.ofNat 4 x5, fmtS2 := BitVec.ofNat 4 x6, slot := BitVec.ofNat 3 x7,
      tsBase := BitVec.ofNat 17 x8, ow := BitVec.ofNat 15 x9, flags := BitVec.ofNat 8 x10,
      unit := BitVec.ofNat 4 x11, delay := BitVec.ofNat 10 x12 })
  | _ => none

/-- Reads the fields of smaxStep; reserved bits are checked by `decodeOpWord`. -/
def smaxStepOf (n : Nat) : Option OpWord :=
  match cutFields [17, 6, 4, 4, 1, 16, 4, 4, 3, 5, 17, 15, 8, 2, 4, 10] n with
  | [x0, x1, x2, x3, _, x4, x5, x6, x7, _, x8, x9, x10, _, x11, x12] =>
    some (.smaxStep {
      pdBase := BitVec.ofNat 17 x0, mm1 := BitVec.ofNat 6 x1, fmtS0 := BitVec.ofNat 4 x2, fmtS1 := BitVec.ofNat 4 x3,
      cols := BitVec.ofNat 16 x4, fmtD := BitVec.ofNat 4 x5, fmtS2 := BitVec.ofNat 4 x6, slot := BitVec.ofNat 3 x7,
      tsBase := BitVec.ofNat 17 x8, ow := BitVec.ofNat 15 x9, flags := BitVec.ofNat 8 x10,
      unit := BitVec.ofNat 4 x11, delay := BitVec.ofNat 10 x12 })
  | _ => none

/-- Reads the fields of normStats; reserved bits are checked by `decodeOpWord`. -/
def normStatsOf (n : Nat) : Option OpWord :=
  match cutFields [17, 6, 4, 4, 1, 16, 4, 4, 3, 5, 17, 15, 8, 2, 4, 10] n with
  | [x0, x1, x2, x3, _, x4, x5, x6, x7, _, x8, x9, x10, _, x11, x12] =>
    some (.normStats {
      pdBase := BitVec.ofNat 17 x0, mm1 := BitVec.ofNat 6 x1, fmtS0 := BitVec.ofNat 4 x2, fmtS1 := BitVec.ofNat 4 x3,
      cols := BitVec.ofNat 16 x4, fmtD := BitVec.ofNat 4 x5, fmtS2 := BitVec.ofNat 4 x6, slot := BitVec.ofNat 3 x7,
      tsBase := BitVec.ofNat 17 x8, ow := BitVec.ofNat 15 x9, flags := BitVec.ofNat 8 x10,
      unit := BitVec.ofNat 4 x11, delay := BitVec.ofNat 10 x12 })
  | _ => none

/-- Reads the fields of normApply; reserved bits are checked by `decodeOpWord`. -/
def normApplyOf (n : Nat) : Option OpWord :=
  match cutFields [17, 6, 4, 4, 1, 16, 4, 4, 3, 5, 17, 15, 8, 2, 4, 10] n with
  | [x0, x1, x2, x3, _, x4, x5, x6, x7, _, x8, x9, x10, _, x11, x12] =>
    some (.normApply {
      pdBase := BitVec.ofNat 17 x0, mm1 := BitVec.ofNat 6 x1, fmtS0 := BitVec.ofNat 4 x2, fmtS1 := BitVec.ofNat 4 x3,
      cols := BitVec.ofNat 16 x4, fmtD := BitVec.ofNat 4 x5, fmtS2 := BitVec.ofNat 4 x6, slot := BitVec.ofNat 3 x7,
      tsBase := BitVec.ofNat 17 x8, ow := BitVec.ofNat 15 x9, flags := BitVec.ofNat 8 x10,
      unit := BitVec.ofNat 4 x11, delay := BitVec.ofNat 10 x12 })
  | _ => none

/-- Reads the fields of deriv; reserved bits are checked by `decodeOpWord`. -/
def derivOf (n : Nat) : Option OpWord :=
  match cutFields [17, 6, 4, 4, 1, 16, 4, 4, 3, 5, 17, 15, 8, 2, 4, 10] n with
  | [x0, x1, x2, x3, _, x4, x5, x6, x7, _, x8, x9, x10, _, x11, x12] =>
    some (.deriv {
      pdBase := BitVec.ofNat 17 x0, mm1 := BitVec.ofNat 6 x1, fmtS0 := BitVec.ofNat 4 x2, fmtS1 := BitVec.ofNat 4 x3,
      cols := BitVec.ofNat 16 x4, fmtD := BitVec.ofNat 4 x5, fmtS2 := BitVec.ofNat 4 x6, slot := BitVec.ofNat 3 x7,
      tsBase := BitVec.ofNat 17 x8, ow := BitVec.ofNat 15 x9, flags := BitVec.ofNat 8 x10,
      unit := BitVec.ofNat 4 x11, delay := BitVec.ofNat 10 x12 })
  | _ => none

/-- Reads the fields of elem; reserved bits are checked by `decodeOpWord`. -/
def elemOf (n : Nat) : Option OpWord :=
  match cutFields [17, 6, 4, 4, 1, 16, 4, 4, 3, 5, 17, 15, 8, 2, 4, 10] n with
  | [x0, x1, x2, x3, _, x4, x5, x6, x7, _, x8, x9, x10, _, x11, x12] =>
    some (.elem {
      pdBase := BitVec.ofNat 17 x0, mm1 := BitVec.ofNat 6 x1, fmtS0 := BitVec.ofNat 4 x2, fmtS1 := BitVec.ofNat 4 x3,
      cols := BitVec.ofNat 16 x4, fmtD := BitVec.ofNat 4 x5, fmtS2 := BitVec.ofNat 4 x6, slot := BitVec.ofNat 3 x7,
      tsBase := BitVec.ofNat 17 x8, ow := BitVec.ofNat 15 x9, flags := BitVec.ofNat 8 x10,
      unit := BitVec.ofNat 4 x11, delay := BitVec.ofNat 10 x12 })
  | _ => none

/-- Reads the fields of sel; reserved bits are checked by `decodeOpWord`. -/
def selOf (n : Nat) : Option OpWord :=
  match cutFields [17, 6, 4, 4, 1, 16, 4, 4, 3, 5, 17, 15, 8, 2, 4, 10] n with
  | [x0, x1, x2, x3, _, x4, x5, x6, x7, _, x8, x9, x10, _, x11, x12] =>
    some (.sel {
      pdBase := BitVec.ofNat 17 x0, mm1 := BitVec.ofNat 6 x1, fmtS0 := BitVec.ofNat 4 x2, fmtS1 := BitVec.ofNat 4 x3,
      cols := BitVec.ofNat 16 x4, fmtD := BitVec.ofNat 4 x5, fmtS2 := BitVec.ofNat 4 x6, slot := BitVec.ofNat 3 x7,
      tsBase := BitVec.ofNat 17 x8, ow := BitVec.ofNat 15 x9, flags := BitVec.ofNat 8 x10,
      unit := BitVec.ofNat 4 x11, delay := BitVec.ofNat 10 x12 })
  | _ => none

/-- Reads the fields of tblLoad; reserved bits are checked by `decodeOpWord`. -/
def tblLoadOf (n : Nat) : Option OpWord :=
  match cutFields [17, 3, 4, 8, 17, 15, 32, 1, 1, 1, 5, 2, 4, 10] n with
  | [x0, x1, x2, _, x3, _, _, _, x4, x5, _, _, x6, x7] =>
    some (.tblLoad {
      tBase := BitVec.ofNat 17 x0, slot := BitVec.ofNat 3 x1, romid := BitVec.ofNat 4 x2,
      dumpBase := BitVec.ofNat 17 x3, rom := BitVec.ofNat 1 x4, dump := BitVec.ofNat 1 x5, unit := BitVec.ofNat 4 x6,
      delay := BitVec.ofNat 10 x7 })
  | _ => none

/-- Reads the fields of streamDef; reserved bits are checked by `decodeOpWord`. -/
def streamDefOf (n : Nat) : Option OpWord :=
  match cutFields [17, 15, 32, 32, 8, 2, 4, 10] n with
  | [x0, _, _, _, _, _, x1, x2] =>
    some (.streamDef {
      sdBase := BitVec.ofNat 17 x0, unit := BitVec.ofNat 4 x1, delay := BitVec.ofNat 10 x2 })
  | _ => none

/-- Reads the fields of streamStart; reserved bits are checked by `decodeOpWord`. -/
def streamStartOf (n : Nat) : Option OpWord :=
  match cutFields [32, 32, 32, 8, 2, 4, 10] n with
  | [_, _, _, _, _, x0, x1] =>
    some (.streamStart {
      unit := BitVec.ofNat 4 x0, delay := BitVec.ofNat 10 x1 })
  | _ => none

/-- Reads the fields of streamRearm; reserved bits are checked by `decodeOpWord`. -/
def streamRearmOf (n : Nat) : Option OpWord :=
  match cutFields [17, 15, 32, 32, 8, 2, 4, 10] n with
  | [x0, _, _, _, _, _, x1, x2] =>
    some (.streamRearm {
      raBase := BitVec.ofNat 17 x0, unit := BitVec.ofNat 4 x1, delay := BitVec.ofNat 10 x2 })
  | _ => none

/-- Reads the fields of streamStop; reserved bits are checked by `decodeOpWord`. -/
def streamStopOf (n : Nat) : Option OpWord :=
  match cutFields [32, 32, 32, 8, 2, 4, 10] n with
  | [_, _, _, _, _, x0, x1] =>
    some (.streamStop {
      unit := BitVec.ofNat 4 x0, delay := BitVec.ofNat 10 x1 })
  | _ => none

/-- Reads the fields of put; reserved bits are checked by `decodeOpWord`. -/
def putOf (n : Nat) : Option OpWord :=
  match cutFields [17, 15, 32, 32, 8, 2, 4, 10] n with
  | [x0, _, _, _, _, _, x1, x2] =>
    some (.put {
      rdBase := BitVec.ofNat 17 x0, unit := BitVec.ofNat 4 x1, delay := BitVec.ofNat 10 x2 })
  | _ => none

/-- Reads the fields of get; reserved bits are checked by `decodeOpWord`. -/
def getOf (n : Nat) : Option OpWord :=
  match cutFields [17, 15, 32, 32, 8, 2, 4, 10] n with
  | [x0, _, _, _, _, _, x1, x2] =>
    some (.get {
      rdBase := BitVec.ofNat 17 x0, unit := BitVec.ofNat 4 x1, delay := BitVec.ofNat 10 x2 })
  | _ => none

/-- Reads the fields of qadd; reserved bits are checked by `decodeOpWord`. -/
def qaddOf (n : Nat) : Option OpWord :=
  match cutFields [17, 15, 32, 32, 8, 2, 4, 10] n with
  | [x0, _, _, _, _, _, x1, x2] =>
    some (.qadd {
      rdBase := BitVec.ofNat 17 x0, unit := BitVec.ofNat 4 x1, delay := BitVec.ofNat 10 x2 })
  | _ => none

/-- Reads the fields of signal; reserved bits are checked by `decodeOpWord`. -/
def signalOf (n : Nat) : Option OpWord :=
  match cutFields [12, 8, 5, 7, 16, 5, 11, 32, 8, 2, 4, 10] n with
  | [x0, x1, x2, _, x3, x4, _, _, _, _, x5, x6] =>
    some (.signal {
      chip := BitVec.ofNat 12 x0, tgt := BitVec.ofNat 8 x1, ctr := BitVec.ofNat 5 x2, inc := BitVec.ofNat 16 x3,
      tparam := BitVec.ofNat 5 x4, unit := BitVec.ofNat 4 x5, delay := BitVec.ofNat 10 x6 })
  | _ => none

/-- Reads the fields of wait; reserved bits are checked by `decodeOpWord`. -/
def waitOf (n : Nat) : Option OpWord :=
  match cutFields [5, 27, 32, 32, 8, 2, 4, 10] n with
  | [x0, _, x1, _, _, _, x2, x3] =>
    some (.wait {
      ctr := BitVec.ofNat 5 x0, count := BitVec.ofNat 32 x1, unit := BitVec.ofNat 4 x2, delay := BitVec.ofNat 10 x3 })
  | _ => none

/-- Reads the fields of fence; reserved bits are checked by `decodeOpWord`. -/
def fenceOf (n : Nat) : Option OpWord :=
  match cutFields [32, 32, 32, 8, 2, 4, 10] n with
  | [_, _, _, _, _, x0, x1] =>
    some (.fence {
      unit := BitVec.ofNat 4 x0, delay := BitVec.ofNat 10 x1 })
  | _ => none

/-- Reads the fields of swapDef; reserved bits are checked by `decodeOpWord`. -/
def swapDefOf (n : Nat) : Option OpWord :=
  match cutFields [3, 29, 17, 15, 17, 15, 1, 7, 2, 4, 10] n with
  | [x0, _, x1, _, x2, _, _, _, _, x3, x4] =>
    some (.swapDef {
      pair := BitVec.ofNat 3 x0, wBase := BitVec.ofNat 17 x1, hsize := BitVec.ofNat 17 x2, unit := BitVec.ofNat 4 x3,
      delay := BitVec.ofNat 10 x4 })
  | _ => none

/-- Reads the fields of swap; reserved bits are checked by `decodeOpWord`. -/
def swapOf (n : Nat) : Option OpWord :=
  match cutFields [3, 29, 32, 32, 1, 7, 2, 4, 10] n with
  | [x0, _, _, _, _, _, _, x1, x2] =>
    some (.swap {
      pair := BitVec.ofNat 3 x0, unit := BitVec.ofNat 4 x1, delay := BitVec.ofNat 10 x2 })
  | _ => none

/-- Reads the fields of barLocal; reserved bits are checked by `decodeOpWord`. -/
def barLocalOf (n : Nat) : Option OpWord :=
  match cutFields [16, 6, 10, 32, 32, 8, 2, 4, 10] n with
  | [x0, x1, _, _, _, _, _, x2, x3] =>
    some (.barLocal {
      units := BitVec.ofNat 16 x0, engines := BitVec.ofNat 6 x1, unit := BitVec.ofNat 4 x2,
      delay := BitVec.ofNat 10 x3 })
  | _ => none

/-- Reads the fields of creditSet; reserved bits are checked by `decodeOpWord`. -/
def creditSetOf (n : Nat) : Option OpWord :=
  match cutFields [8, 24, 16, 16, 32, 8, 2, 4, 10] n with
  | [x0, _, x1, _, _, _, _, x2, x3] =>
    some (.creditSet {
      edge := BitVec.ofNat 8 x0, filled := BitVec.ofNat 16 x1, unit := BitVec.ofNat 4 x2,
      delay := BitVec.ofNat 10 x3 })
  | _ => none

/-- Reads the fields of calTapOpen; reserved bits are checked by `decodeOpWord`. -/
def calTapOpenOf (n : Nat) : Option OpWord :=
  match cutFields [32, 32, 17, 15, 2, 1, 1, 4, 2, 4, 10] n with
  | [_, _, x0, _, _, _, x1, _, _, x2, x3] =>
    some (.calTapOpen {
      tmBase := BitVec.ofNat 17 x0, tmw := BitVec.ofNat 1 x1, unit := BitVec.ofNat 4 x2,
      delay := BitVec.ofNat 10 x3 })
  | _ => none

/-- Reads the fields of calTapPush; reserved bits are checked by `decodeOpWord`. -/
def calTapPushOf (n : Nat) : Option OpWord :=
  match cutFields [17, 15, 17, 12, 3, 17, 15, 2, 1, 5, 2, 4, 10] n with
  | [x0, _, x1, x2, _, x3, _, _, x4, _, _, x5, x6] =>
    some (.calTapPush {
      hbBase := BitVec.ofNat 17 x0, cvBase := BitVec.ofNat 17 x1, cvnm1 := BitVec.ofNat 12 x2,
      recBase := BitVec.ofNat 17 x3, psrc := BitVec.ofNat 1 x4, unit := BitVec.ofNat 4 x5,
      delay := BitVec.ofNat 10 x6 })
  | _ => none

/-- Reads the fields of calTapClose; reserved bits are checked by `decodeOpWord`. -/
def calTapCloseOf (n : Nat) : Option OpWord :=
  match cutFields [32, 17, 12, 3, 32, 2, 6, 2, 4, 10] n with
  | [_, x0, x1, _, _, _, _, _, x2, x3] =>
    some (.calTapClose {
      cvBase := BitVec.ofNat 17 x0, cvnm1 := BitVec.ofNat 12 x1, unit := BitVec.ofNat 4 x2,
      delay := BitVec.ofNat 10 x3 })
  | _ => none

/-- Reads the fields of scaleAdapt; reserved bits are checked by `decodeOpWord`. -/
def scaleAdaptOf (n : Nat) : Option OpWord :=
  match cutFields [17, 4, 4, 4, 3, 23, 9, 8, 17, 7, 1, 1, 6, 2, 4, 10] n with
  | [x0, x1, x2, x3, _, x4, _, x5, x6, _, x7, x8, _, _, x9, x10] =>
    some (.scaleAdapt {
      hbBase := BitVec.ofNat 17 x0, tfmt := BitVec.ofNat 4 x1, margin := BitVec.ofNat 4 x2,
      depth := BitVec.ofNat 4 x3, sAddr := BitVec.ofNat 23 x4, z := BitVec.ofNat 8 x5, cbBase := BitVec.ofNat 17 x6,
      cb := BitVec.ofNat 1 x7, scf := BitVec.ofNat 1 x8, unit := BitVec.ofNat 4 x9, delay := BitVec.ofNat 10 x10 })
  | _ => none

/-- Reads the fields of quant; reserved bits are checked by `decodeOpWord`. -/
def quantOf (n : Nat) : Option OpWord :=
  match cutFields [17, 2, 4, 6, 3, 32, 32, 1, 1, 1, 1, 1, 1, 2, 2, 4, 10] n with
  | [x0, x1, x2, x3, _, _, _, x4, x5, x6, x7, x8, x9, _, _, x10, x11] =>
    some (.quant {
      qdBase := BitVec.ofNat 17 x0, qw := BitVec.ofNat 2 x1, dfmt := BitVec.ofNat 4 x2, mm1 := BitVec.ofNat 6 x3,
      src := BitVec.ofNat 1 x4, req := BitVec.ofNat 1 x5, meas := BitVec.ofNat 1 x6, scope := BitVec.ofNat 1 x7,
      scf := BitVec.ofNat 1 x8, cb := BitVec.ofNat 1 x9, unit := BitVec.ofNat 4 x10, delay := BitVec.ofNat 10 x11 })
  | _ => none

/-- Reads the fields of hadamard; reserved bits are checked by `decodeOpWord`. -/
def hadamardOf (n : Nat) : Option OpWord :=
  match cutFields [3, 4, 25, 32, 32, 1, 7, 2, 4, 10] n with
  | [x0, x1, _, _, _, x2, _, _, x3, x4] =>
    some (.hadamard {
      blk := BitVec.ofNat 3 x0, srcfmt := BitVec.ofNat 4 x1, en := BitVec.ofNat 1 x2, unit := BitVec.ofNat 4 x3,
      delay := BitVec.ofNat 10 x4 })
  | _ => none

/-- Reads the fields of smooth; reserved bits are checked by `decodeOpWord`. -/
def smoothOf (n : Nat) : Option OpWord :=
  match cutFields [17, 4, 11, 32, 32, 1, 7, 2, 4, 10] n with
  | [x0, x1, _, _, _, x2, _, _, x3, x4] =>
    some (.smooth {
      svBase := BitVec.ofNat 17 x0, srcfmt := BitVec.ofNat 4 x1, en := BitVec.ofNat 1 x2, unit := BitVec.ofNat 4 x3,
      delay := BitVec.ofNat 10 x4 })
  | _ => none

/-- Reads the fields of reqLoad; reserved bits are checked by `decodeOpWord`. -/
def reqLoadOf (n : Nat) : Option OpWord :=
  match cutFields [17, 15, 12, 13, 7, 32, 8, 2, 4, 10] n with
  | [x0, _, x1, x2, _, _, _, _, x3, x4] =>
    some (.reqLoad {
      rtBase := BitVec.ofNat 17 x0, first := BitVec.ofNat 12 x1, count := BitVec.ofNat 13 x2,
      unit := BitVec.ofNat 4 x3, delay := BitVec.ofNat 10 x4 })
  | _ => none

/-- Reads the fields of nop; reserved bits are checked by `decodeOpWord`. -/
def nopOf (n : Nat) : Option OpWord :=
  match cutFields [32, 32, 32, 8, 2, 4, 10] n with
  | [_, _, _, _, _, x0, x1] =>
    some (.nop {
      unit := BitVec.ofNat 4 x0, delay := BitVec.ofNat 10 x1 })
  | _ => none

/-- Reads the fields of loop; reserved bits are checked by `decodeOpWord`. -/
def loopOf (n : Nat) : Option OpWord :=
  match cutFields [24, 8, 32, 32, 8, 2, 4, 10] n with
  | [x0, _, _, _, _, _, x1, x2] =>
    some (.loop {
      trip := BitVec.ofNat 24 x0, unit := BitVec.ofNat 4 x1, delay := BitVec.ofNat 10 x2 })
  | _ => none

/-- Reads the fields of endLoop; reserved bits are checked by `decodeOpWord`. -/
def endLoopOf (n : Nat) : Option OpWord :=
  match cutFields [32, 32, 32, 8, 2, 4, 10] n with
  | [_, _, _, _, _, x0, x1] =>
    some (.endLoop {
      unit := BitVec.ofNat 4 x0, delay := BitVec.ofNat 10 x1 })
  | _ => none

/-- Reads the fields of mark; reserved bits are checked by `decodeOpWord`. -/
def markOf (n : Nat) : Option OpWord :=
  match cutFields [64, 32, 8, 2, 4, 10] n with
  | [x0, _, _, _, x1, x2] =>
    some (.mark {
      value := BitVec.ofNat 64 x0, unit := BitVec.ofNat 4 x1, delay := BitVec.ofNat 10 x2 })
  | _ => none

/-- Reads the fields of sliceEnd; reserved bits are checked by `decodeOpWord`. -/
def sliceEndOf (n : Nat) : Option OpWord :=
  match cutFields [32, 32, 32, 8, 2, 4, 10] n with
  | [_, _, _, _, _, x0, x1] =>
    some (.sliceEnd {
      unit := BitVec.ofNat 4 x0, delay := BitVec.ofNat 10 x1 })
  | _ => none

/-- The operation an opcode selects, before the reserved-bit check; `none` for a reserved opcode (02 R51). SWAP is split by
DEF (FLAGS[96]) and CAL_TAP by COP (FLAGS[97:96]). -/
def opWordFields (n : Nat) : Option OpWord :=
  match bitField n 120 8 with
  | 0 => mmaOf n
  | 1 => mmaTOf n
  | 2 => convOf n
  | 3 => gradPairOf n
  | 4 => lutCfgOf n
  | 5 => arrCfgOf n
  | 16 => qzeroOf n
  | 17 => qstoreOf n
  | 18 => qimgStOf n
  | 19 => qimgLdOf n
  | 20 => redMaxOf n
  | 21 => redMinOf n
  | 22 => redTopkOf n
  | 23 => treeStepOf n
  | 32 => fnOf n
  | 33 => shapeOf n
  | 34 => gateOf n
  | 35 => smaxStepOf n
  | 36 => normStatsOf n
  | 37 => normApplyOf n
  | 39 => derivOf n
  | 40 => elemOf n
  | 41 => selOf n
  | 38 => tblLoadOf n
  | 48 => streamDefOf n
  | 49 => streamStartOf n
  | 50 => streamRearmOf n
  | 51 => streamStopOf n
  | 64 => putOf n
  | 65 => getOf n
  | 66 => qaddOf n
  | 67 => signalOf n
  | 68 => waitOf n
  | 69 => fenceOf n
  | 80 => if bitAt n 96 then swapDefOf n else swapOf n
  | 81 => barLocalOf n
  | 82 => creditSetOf n
  | 96 => match bitField n 96 2 with
    | 0 => calTapOpenOf n
    | 1 => calTapPushOf n
    | 2 => calTapCloseOf n
    | _ => none
  | 97 => scaleAdaptOf n
  | 98 => quantOf n
  | 99 => hadamardOf n
  | 100 => smoothOf n
  | 101 => reqLoadOf n
  | 112 => nopOf n
  | 113 => loopOf n
  | 114 => endLoopOf n
  | 115 => markOf n
  | 116 => sliceEndOf n
  | _ => none

/-- Decodes a 128-bit operation word: `none` where the opcode is reserved or a reserved bit is set (02 R50). -/
def decodeOpWord (n : Nat) : Option OpWord :=
  match opWordFields n with
  | none => none
  | some w => if encodeOpWord w = n then some w else none

/-- The DELAY field of a word (02 R49). -/
def opDelay : OpWord → Nat
  | .mma w => w.delay.toNat
  | .mmaT w => w.delay.toNat
  | .conv w => w.delay.toNat
  | .gradPair w => w.delay.toNat
  | .lutCfg w => w.delay.toNat
  | .arrCfg w => w.delay.toNat
  | .qzero w => w.delay.toNat
  | .qstore w => w.delay.toNat
  | .qimgSt w => w.delay.toNat
  | .qimgLd w => w.delay.toNat
  | .redMax w => w.delay.toNat
  | .redMin w => w.delay.toNat
  | .redTopk w => w.delay.toNat
  | .treeStep w => w.delay.toNat
  | .fn w => w.delay.toNat
  | .shape w => w.delay.toNat
  | .gate w => w.delay.toNat
  | .smaxStep w => w.delay.toNat
  | .normStats w => w.delay.toNat
  | .normApply w => w.delay.toNat
  | .deriv w => w.delay.toNat
  | .elem w => w.delay.toNat
  | .sel w => w.delay.toNat
  | .tblLoad w => w.delay.toNat
  | .streamDef w => w.delay.toNat
  | .streamStart w => w.delay.toNat
  | .streamRearm w => w.delay.toNat
  | .streamStop w => w.delay.toNat
  | .put w => w.delay.toNat
  | .get w => w.delay.toNat
  | .qadd w => w.delay.toNat
  | .signal w => w.delay.toNat
  | .wait w => w.delay.toNat
  | .fence w => w.delay.toNat
  | .swapDef w => w.delay.toNat
  | .swap w => w.delay.toNat
  | .barLocal w => w.delay.toNat
  | .creditSet w => w.delay.toNat
  | .calTapOpen w => w.delay.toNat
  | .calTapPush w => w.delay.toNat
  | .calTapClose w => w.delay.toNat
  | .scaleAdapt w => w.delay.toNat
  | .quant w => w.delay.toNat
  | .hadamard w => w.delay.toNat
  | .smooth w => w.delay.toNat
  | .reqLoad w => w.delay.toNat
  | .nop w => w.delay.toNat
  | .loop w => w.delay.toNat
  | .endLoop w => w.delay.toNat
  | .mark w => w.delay.toNat
  | .sliceEnd w => w.delay.toNat

/-- The UNIT field of a word (02 R49). -/
def opUnit : OpWord → Nat
  | .mma w => w.unit.toNat
  | .mmaT w => w.unit.toNat
  | .conv w => w.unit.toNat
  | .gradPair w => w.unit.toNat
  | .lutCfg w => w.unit.toNat
  | .arrCfg w => w.unit.toNat
  | .qzero w => w.unit.toNat
  | .qstore w => w.unit.toNat
  | .qimgSt w => w.unit.toNat
  | .qimgLd w => w.unit.toNat
  | .redMax w => w.unit.toNat
  | .redMin w => w.unit.toNat
  | .redTopk w => w.unit.toNat
  | .treeStep w => w.unit.toNat
  | .fn w => w.unit.toNat
  | .shape w => w.unit.toNat
  | .gate w => w.unit.toNat
  | .smaxStep w => w.unit.toNat
  | .normStats w => w.unit.toNat
  | .normApply w => w.unit.toNat
  | .deriv w => w.unit.toNat
  | .elem w => w.unit.toNat
  | .sel w => w.unit.toNat
  | .tblLoad w => w.unit.toNat
  | .streamDef w => w.unit.toNat
  | .streamStart w => w.unit.toNat
  | .streamRearm w => w.unit.toNat
  | .streamStop w => w.unit.toNat
  | .put w => w.unit.toNat
  | .get w => w.unit.toNat
  | .qadd w => w.unit.toNat
  | .signal w => w.unit.toNat
  | .wait w => w.unit.toNat
  | .fence w => w.unit.toNat
  | .swapDef w => w.unit.toNat
  | .swap w => w.unit.toNat
  | .barLocal w => w.unit.toNat
  | .creditSet w => w.unit.toNat
  | .calTapOpen w => w.unit.toNat
  | .calTapPush w => w.unit.toNat
  | .calTapClose w => w.unit.toNat
  | .scaleAdapt w => w.unit.toNat
  | .quant w => w.unit.toNat
  | .hadamard w => w.unit.toNat
  | .smooth w => w.unit.toNat
  | .reqLoad w => w.unit.toNat
  | .nop w => w.unit.toNat
  | .loop w => w.unit.toNat
  | .endLoop w => w.unit.toNat
  | .mark w => w.unit.toNat
  | .sliceEnd w => w.unit.toNat

end Sys2Proof.Machine
end

