-- ==== Sys2Proof/Machine/WordChecks.lean ====
section
/-! DEFINITION. The checks of load validation on one operation word by itself (02 R50, 03 R84, R92, 04 R107, R113, R120, R125,
05 R130 to R137, 06 R163 to R183, 07 R190, 08 R224, R231): UNIT, field ranges, and addresses that the word fixes. Checks that
need the slice image stand in `PlanChecks`. A LOOP trip count of 0 and a DELAY on LOOP or ENDLOOP have their own status
(02 R53): `loopOk`. -/

namespace Sys2Proof.Machine

/-- `n` bytes at a 64-byte-unit address lie in core memory. -/
def memOk (base64 n : Nat) : Bool := decide (base64 * 64 + n ≤ coreMemBytes)

/-- `n` units from unit `q` lie in the Chuck. -/
def chuckOk (q n : Nat) : Bool := decide (q + n ≤ chuckUnits)

def qwUnits (qw : BitVec 2) : Nat := (QW.ofCode qw).units

/-- The halves of the Chuck that an array writes (03 R76, R83): `q` is a unit of the half of the array that UNIT names, the lower
half for UNIT 2. -/
def halfOk (unit q : Nat) : Bool :=
  match unit with
  | 1 => decide (49152 ≤ q) && decide (q < chuckUnits)
  | _ => decide (q < 49152)

/-- The last byte of the panel block that a QSTORE writes lies in core memory (04 R107, R109). -/
def storeFits (w : QstoreWord) : Bool :=
  decide (addr64 w.dBase + blockBytes (Fmt.ofCode w.dfmt) (w.mm1.toNat + 1) (w.nm1.toNat + 1) w.dpc.toNat ≤ coreMemBytes)

/-- The flags and fields that a Profile word does not use are zero (05 R130), and the others stand in their ranges. -/
def profWordOk (op : OpWord) (w : ProfWord) : Bool :=
  let fl := w.flags.toNat
  let only (mask : Nat) : Bool := decide (fl &&& (255 - mask) = 0)
  let noS1 : Bool := decide (w.fmtS1 = 0)
  let noS2 : Bool := decide (w.fmtS2 = 0)
  let noD : Bool := decide (w.fmtD = 0)
  let noSlot : Bool := decide (w.slot = 0)
  let noOw : Bool := decide (w.ow = 0)
  decide (w.unit = 0) && memOk w.pdBase.toNat 64 && memOk w.tsBase.toNat 8
    && (match op with
        | .fn _ => only 0x87 && noS1 && noS2 && noSlot && noOw
        | .shape _ => only 0x84 && noS1 && noS2 && noOw
        | .gate _ => only 0x80 && noS2 && noOw
        | .smaxStep _ => only 0x01 && noS2 && noSlot
        | .normStats _ => only 0x03 && (bitAt fl 1 || noS1) && noS2 && noD && noSlot && noOw
        | .normApply _ => only 0x01 && noSlot && noOw
        | .deriv _ => only 0x81 && (bitAt fl 0 || noS2) && noOw
        | .elem _ => only 0x1F && decide (fl % 8 ≠ 7) && decide (bitField fl 3 2 ≠ 3) && (decide (fl % 8 = 3) || noS2) && noSlot
            && noOw
        | .sel _ => only 0x07 && decide (fl % 8 ≤ 5) && noSlot && noOw
        | _ => true)

/-- UNIT names an instance, fields stand in their ranges, and the addresses that the word fixes lie in their memories. -/
def opWordOk (op : OpWord) : Bool :=
  match op with
  | .mma w => decide (w.unit.toNat ≤ 2) && decide (w.tside = 0) && decide (if w.unit.toNat = 2 then 32 ≤ w.nm1.toNat else w.nm1.toNat < 32)
      && memOk w.aBase.toNat 0 && memOk w.bBase.toNat 0 && halfOk w.unit.toNat w.qBase.toNat
  | .mmaT w => decide (w.unit.toNat ≤ 2) && decide (if w.unit.toNat = 2 then 32 ≤ w.nm1.toNat else w.nm1.toNat < 32)
      && memOk w.aBase.toNat 0 && memOk w.bBase.toNat 0 && halfOk w.unit.toNat w.qBase.toNat
  | .conv w => decide (w.unit.toNat ≤ 2) && memOk w.cdBase.toNat 64 && halfOk w.unit.toNat w.qBase.toNat
  | .gradPair w => decide (w.unit.toNat = 2) && (decide (w.dxen = 1) || decide (w.dwen = 1)) && memOk w.gdBase.toNat 64
      && halfOk 0 w.qxBase.toNat && halfOk 1 w.qwBase.toNat
  | .lutCfg w => decide (w.unit.toNat ≤ 2) && memOk w.cbBase.toNat 32
  | .arrCfg w => decide (w.unit.toNat ≤ 2) && decide (w.gsize ≠ 3)
  | .qzero w => decide (w.unit = 0) && decide (1 ≤ w.count.toNat) && chuckOk w.qBase.toNat w.count.toNat
  | .qstore w => decide (w.unit = 0) && decide (w.dpc ≠ 0) && memOk w.tsBase.toNat 8 && storeFits w
      && chuckOk w.qBase.toNat ((w.mm1.toNat + 1) * (w.nm1.toNat + 1) * qwUnits w.qw)
  | .qimgSt w => decide (w.unit = 0) && chuckOk w.qBase.toNat ((w.cntm1.toNat + 1) * qwUnits w.qw)
      && memOk w.dBase.toNat ((w.cntm1.toNat + 1) * 16 * qwUnits w.qw) && memOk w.tsBase.toNat 8
  | .qimgLd w => decide (w.unit = 0) && chuckOk w.qBase.toNat ((w.cntm1.toNat + 1) * qwUnits w.qw)
      && memOk w.sBase.toNat ((w.cntm1.toNat + 1) * 16 * qwUnits w.qw)
  | .redMax w => decide (w.unit = 0) && decide (w.lowest = 0) && memOk w.rdBase.toNat 32
  | .redMin w => decide (w.unit = 0) && decide (w.lowest = 0) && memOk w.rdBase.toNat 32
  | .redTopk w => decide (w.unit = 0) && memOk w.rdBase.toNat 32
  | .treeStep w =>
      let n := w.count.toNat
      decide (w.unit = 0) && decide (w.mode ≠ 3) && decide (1 ≤ n) && decide (n ≤ 98304)
        && decide (w.level.toNat ≤ 11) && (decide (w.mode = 2) || decide (w.km1 = 0))
        && (decide (w.arrival = 0) || (decide (w.chip = 1) && decide (w.level = 0) && decide (w.mode = 0) && decide (w.down = 0)))
        && (if w.mode = 0 then chuckOk w.base.toNat (n * qwUnits w.qw)
            else memOk w.base.toNat (n * (w.km1.toNat + 1) * 16) && memOk w.land.toNat (n * (w.km1.toNat + 1) * 16))
        && memOk w.land.toNat 1
  | .fn w => profWordOk op w
  | .shape w => profWordOk op w
  | .gate w => profWordOk op w
  | .smaxStep w => profWordOk op w
  | .normStats w => profWordOk op w
  | .normApply w => profWordOk op w
  | .deriv w => profWordOk op w
  | .elem w => profWordOk op w
  | .sel w => profWordOk op w
  | .tblLoad w => decide (w.unit = 0)
      && (decide (w.romid.toNat ≤ 3) || (decide (8 ≤ w.romid.toNat) && decide (w.romid.toNat ≤ 11)))
      && (decide (w.rom = 1) || memOk w.tBase.toNat 64)
      && (if w.dump = 1 then memOk w.dumpBase.toNat 64 else true)
  | .streamDef w => memOk w.sdBase.toNat 128
  | .streamStart _ => true
  | .streamRearm w => memOk w.raBase.toNat 16
  | .streamStop _ => true
  | .put w => decide (w.unit = 0) && memOk w.rdBase.toNat 32
  | .get w => decide (w.unit = 0) && memOk w.rdBase.toNat 32
  | .qadd w => decide (w.unit = 0) && memOk w.rdBase.toNat 32
  | .signal w => decide (w.unit = 0) && decide (w.inc ≠ 0) && decide (w.tgt.toNat < 0x80) && decide (w.tparam.toNat ≤ 16)
  | .wait w => decide (w.unit = 0) && decide (w.count ≠ 0)
  | .fence w => decide (w.unit = 0)
  | .swapDef w => decide (w.unit = 0) && decide (1 ≤ w.hsize.toNat) && decide (w.hsize.toNat ≤ 49152)
      && memOk w.wBase.toNat (w.hsize.toNat * 128)
  | .swap w => decide (w.unit = 0)
  | .barLocal w => decide (w.unit = 0)
  | .creditSet w => decide (w.unit = 0)
  | .calTapOpen w => decide (w.unit = 0) && (decide (w.tmw = 0) || memOk w.tmBase.toNat 4)
  | .calTapPush w => decide (w.unit = 0) && memOk w.hbBase.toNat 128 && (decide (w.psrc = 0) || memOk w.recBase.toNat 16)
      && memOk w.cvBase.toNat (4 * (w.cvnm1.toNat + 1))
  | .calTapClose w => decide (w.unit = 0) && memOk w.cvBase.toNat (4 * (w.cvnm1.toNat + 1))
  | .scaleAdapt w => decide (w.unit = 0) && memOk w.hbBase.toNat 128 && decide (w.sAddr.toNat + (if w.scf = 1 then 1 else 2) ≤ coreMemBytes)
      && (decide (w.cb = 0) || memOk w.cbBase.toNat 32)
  | .quant w => decide (w.unit = 0) && memOk w.qdBase.toNat 64
  | .hadamard w => decide (w.unit.toNat ≤ 2) && decide (w.blk.toNat ≤ 4)
  | .smooth w => decide (w.unit.toNat ≤ 2) && memOk w.svBase.toNat 2
  | .reqLoad w => decide (w.unit = 0) && decide (1 ≤ w.count.toNat) && decide (w.count.toNat ≤ 4096)
      && decide (w.first.toNat + w.count.toNat ≤ 4096) && memOk w.rtBase.toNat (16 * w.count.toNat)
  | .nop w => decide (w.unit = 0)
  | .loop w => decide (w.unit = 0)
  | .endLoop w => decide (w.unit = 0)
  | .mark w => decide (w.unit = 0)
  | .sliceEnd w => decide (w.unit = 0)

/-- The loop checks that one word shows by itself (02 R53). -/
def loopOk : OpWord → Bool
  | .loop w => decide (w.trip ≠ 0) && decide (w.delay = 0)
  | .endLoop w => decide (w.delay = 0)
  | _ => true

/-- What a core may be given. -/
def wordOk (op : OpWord) : Bool := opWordOk op && loopOk op

end Sys2Proof.Machine
end

