-- ==== Sys2Proof/Machine/Sequencer.lean ====
section
/-! DEFINITION. The sequencer and the unit queues of a core (02 R44, R45, R51, R53, R54, R56; 03 R74, R83; 08 R222, R224): dispatch,
the beginning of words, occupancy, stalls and the end of a slice. -/

namespace Sys2Proof.Machine

/-! ### Units of a word -/

/-- The array units that a UNIT value names. -/
def arrayUnits (u : BitVec 4) : List UnitId := unitArrays u.toNat

/-- The units whose queues a word enters; none for a word that runs in the sequencer. -/
def unitsOf (w : OpWord) : List UnitId :=
  match w with
  | .mma x => arrayUnits x.unit
  | .mmaT x => arrayUnits x.unit
  | .conv x => arrayUnits x.unit
  | .gradPair x => (if x.dxen = 1 then [0] else []) ++ (if x.dwen = 1 then [1] else [])
  | .lutCfg x => arrayUnits x.unit
  | .arrCfg x => arrayUnits x.unit
  | .hadamard x => arrayUnits x.unit
  | .smooth x => arrayUnits x.unit
  | .qzero _ => [unitChuck]
  | .qstore _ => [unitChuck]
  | .qimgSt _ => [unitChuck]
  | .qimgLd _ => [unitChuck]
  | .redMax _ => [unitChuck]
  | .redMin _ => [unitChuck]
  | .redTopk _ => [unitChuck]
  | .treeStep _ => [unitChuck, unitRemote]
  | .fn _ => [unitProfile]
  | .shape _ => [unitProfile]
  | .gate _ => [unitProfile]
  | .smaxStep _ => [unitProfile]
  | .normStats _ => [unitProfile]
  | .normApply _ => [unitProfile]
  | .tblLoad _ => [unitProfile]
  | .deriv _ => [unitProfile]
  | .elem _ => [unitProfile]
  | .sel _ => [unitProfile]
  | .streamDef x => [unitStream x.unit.toNat]
  | .streamStart x => [unitStream x.unit.toNat]
  | .streamRearm x => [unitStream x.unit.toNat]
  | .streamStop x => [unitStream x.unit.toNat]
  | .put _ => [unitRemote]
  | .get _ => [unitRemote]
  | .qadd _ => [unitRemote]
  | .signal _ => [unitRemote]
  | .wait _ => [unitRemote]
  | .fence _ => [unitRemote]
  | .calTapOpen _ => [unitCaliper]
  | .calTapPush _ => [unitCaliper]
  | .calTapClose _ => [unitCaliper]
  | .scaleAdapt _ => [unitCaliper]
  | .quant _ => [unitChuck]
  | .reqLoad _ => [unitChuck]
  | .swapDef _ => []
  | .swap _ => []
  | .barLocal _ => []
  | .creditSet _ => []
  | .nop _ => []
  | .loop _ => []
  | .endLoop _ => []
  | .mark _ => []
  | .sliceEnd _ => []

/-- The words that begin in all their units together (03 R83; 04 R124; 07 R189); a configuration word runs in each queue by
itself (03 R79). -/
def jointWord (w : OpWord) : Bool :=
  match w with
  | .mma _ => true
  | .mmaT _ => true
  | .conv _ => true
  | .gradPair _ => true
  | .treeStep _ => true
  | _ => false

def Core.unit (core : Core) (u : UnitId) : UnitState := SMap.get {} core.units u

def Core.setUnit (core : Core) (u : UnitId) (x : UnitState) : Core := { core with units := SMap.set {} core.units u x }

def Core.updUnit (core : Core) (u : UnitId) (f : UnitState → UnitState) : Core := core.setUnit u (f (core.unit u))

/-- The engine that a unit is, if it is one, holds a pass. -/
def Core.passOpen (core : Core) (u : UnitId) : Bool := decide (6 ≤ u) && (core.engine (u - 6)).pass.isSome

/-- Whether a unit is idle (02 R56): nothing queued, running, undelivered, in flight. -/
def State.unitIdle (s : State) (c : Nat) (u : UnitId) : Bool :=
  let k := s.core c
  let x := k.unit u
  x.waiting.isEmpty && x.blocked.isNone && !(k.flights.any (fun f => decide (f.owner = u))) && !k.passOpen u
    && !(decide (u = unitRemote) && s.inFlight c)

/-! ### Dispatch (R44, R45, R51, R53) -/

/-- The first cycle from `t` in which a unit's queue has room, where it is known (R44, R45). -/
def Core.roomFrom (core : Core) (u : UnitId) (t : Nat) : Option Nat :=
  let x := core.unit u
  let held := x.waiting.length + (if x.blocked.isSome then 1 else 0) + (if core.passOpen u then 1 else 0)
  if 4 ≤ held then none
  else
    let fits (q : Nat) : Bool := decide ((x.ends.filter (fun e => decide (q < e))).length + held ≤ 3)
    if fits t then some t
    else
      let ok := x.ends.filter (fun e => decide (t ≤ e) && fits e)
      match ok with
      | [] => none
      | e :: es => some (es.foldl min e)

/-- The units that BAR_LOCAL names (R51). -/
def barUnits (w : BarWord) : List UnitId :=
  ((List.range 16).filter (fun i => bitAt w.units.toNat i)) ++ (((List.range 6).filter (fun i => bitAt w.engines.toNat i)).map (· + 16))

/-- LOOP and ENDLOOP (R53, R54): at most four loops open; an ENDLOOP with none open does nothing. -/
def Sequencer.loopWord (q : Sequencer) (w : OpWord) : Sequencer :=
  match w with
  | .loop x => if q.loops.length < 4 then { q with loops := (x.trip.toNat, 0, q.pos + 1) :: q.loops, pos := q.pos + 1 } else q
  | .endLoop _ =>
    match q.loops with
    | [] => q
    | (trip, n, p) :: rest =>
      if n + 1 < trip then { q with loops := (trip, n + 1, p) :: rest, pos := p } else { q with loops := rest, pos := q.pos + 1 }
  | _ => q

def isLoopWord (w : OpWord) : Bool :=
  match w with
  | .loop _ => true
  | .endLoop _ => true
  | _ => false

/-- The cycle in which a word of the sequencer can dispatch from `t` on, if that is known. -/
def State.dispatchAt (s : State) (c t : Nat) (w : OpWord) : Option Nat :=
  let k := s.core c
  match w with
  | .barLocal x =>
    if (barUnits x).all (fun u => s.unitIdle c u) then some ((barUnits x).foldl (fun m u => max m (k.unit u).idleAt) t) else none
  | _ =>
    (unitsOf w).foldl (fun o u =>
      match o with
      | none => none
      | some q => k.roomFrom u q) (some t)

/-- Whether a word that could dispatch in cycle `t` must go a cycle later: four words have gone in `t`, or one to the same unit (R45). -/
def Sequencer.clash (q : Sequencer) (t : Nat) (us : List UnitId) : Bool :=
  decide (t = q.cycle) && (decide (4 ≤ q.slots) || us.any (fun u => q.units.contains u))

/-- The cycle in which the sequencer dispatches word `w` next, if that is known (R45). LOOP and ENDLOOP take no cycle. -/
def State.dispatchCycle (s : State) (c : Nat) (w : OpWord) : Option Nat :=
  let q := (s.core c).seq
  if isLoopWord w then some q.cycle
  else
    match s.dispatchAt c (q.cycle + opDelay w) w with
    | none => none
    | some t1 => s.dispatchAt c (if q.clash t1 (unitsOf w) then t1 + 1 else t1) w

/-! ### The mapping that a word binds (08 R224, R225) -/

/-- What a word does to the swap pairs as it dispatches. -/
def swapWord (m : SMap (Option SwapPair)) (w : OpWord) : SMap (Option SwapPair) :=
  match w with
  | .swapDef x => SMap.set none m x.pair.toNat (some ⟨addr64 x.wBase, addr64 x.hsize, false⟩)
  | .swap x => SMap.set none m x.pair.toNat ((SMap.get none m x.pair.toNat).map (fun p => { p with flipped := !p.flipped }))
  | _ => m

/-- The swap pairs once the words of the body that still dispatch in the sequencer's present cycle have dispatched: a word that begins
in a SWAP's dispatch cycle uses the new mapping. -/
def swapsSoon : Nat → Core → Sequencer → SMap (Option SwapPair) → SMap (Option SwapPair)
  | 0, _, _, m => m
  | n + 1, core, q, m =>
    match (core.body[q.pos]?).bind (fun b => decodeOpWord b.toNat) with
    | none => m
    | some (.barLocal _) => m
    | some w =>
      let us := unitsOf w
      if opDelay w ≠ 0 then m
      else if isLoopWord w then swapsSoon n core (q.loopWord w) m
      else if q.clash q.cycle us || us.any (fun u => decide (core.roomFrom u q.cycle ≠ some q.cycle)) then m
      else swapsSoon n core { q with slots := q.slots + 1, units := q.units ++ us, pos := q.pos + 1 } (swapWord m w)

/-- The core as a word that begins now finds it: the mapping of the cycle's end in force, and the counter of its free values advanced. -/
def Core.ahead (core : Core) : Core :=
  { core with
    swaps := if core.seq.ending.isSome then core.swaps else swapsSoon 12 core core.seq core.swaps
    freeCtr := core.freeCtr + 1 }

/-! ### What a word does as it begins -/

/-- The effect of a word on one array's configuration. -/
def Core.configure (c : Nat) (core : Core) (u : UnitId) (w : OpWord) : Core :=
  let upd (f : ArrCfg → ArrCfg) : Core := if u = 0 then { core with arrA := f core.arrA } else { core with arrB := f core.arrB }
  match w with
  | .lutCfg x => upd (fun a => { a with codebook := core.codebookAt c u (addr64 x.cbBase) })
  | .arrCfg x => upd (fun a => a.withFormats x)
  | .hadamard x => upd (fun a => { a with rotOn := x.en == 1, rotBlk := x.blk, rotFmt := x.srcfmt })
  | .smooth x => upd (fun a => { a with smoothOn := x.en == 1, smoothBase := x.svBase, smoothFmt := x.srcfmt })
  | _ => core

/-- The fault that keeps a word of the core alone from its effect, where the core holds one for it. -/
def Core.faultOf (c : Nat) (core : Core) (w : OpWord) : Option WordFault :=
  match w with
  | .mma x => core.bookFault x.unit.toNat
  | .mmaT x => core.bookFault x.unit.toNat
  | .conv x => core.convFault c x
  | .gradPair x => core.gradFault c x
  | .redMax x => core.reduceFault c x false
  | .redMin x => core.reduceFault c x false
  | .redTopk x => core.reduceFault c x true
  | .fn x => core.profFault c x (fnSpans x)
  | .shape x => core.profFault c x (fnSpans x)
  | .gate x => core.profFault c x (tableSpans x false)
  | .deriv x => core.profFault c x (tableSpans x (profFlag x 0))
  | .elem x => core.profFault c x (elemSpans x) (elemBad x)
  | .sel x => core.profFault c x (selSpans x)
  | .smaxStep x => core.smaxFault c x
  | .normStats x => core.profFault c x (statsSpans x)
  | .normApply x => core.profFault c x (applySpans x) (applyBad x)
  | .tblLoad x => core.tblFault c x
  | .calTapPush x => core.historyFault c (addr64 x.hbBase)
  | .scaleAdapt x => core.adaptFault c x
  | .quant x => core.quantFault c x
  | .reqLoad x => core.reqFault c x
  | _ => none

/-- The effect of a word of the core alone that meets no fault. -/
def Core.perform (c : Nat) (core : Core) (u : UnitId) (w : OpWord) : Core :=
  match w with
  | .mma x => core.mma c x false
  | .mmaT x => core.mma c x true
  | .conv x => core.conv c x
  | .gradPair x => core.gradPair c x
  | .qzero x => core.qzero c x
  | .qstore x => core.qstore c x
  | .qimgSt x => core.qimgSt c x
  | .qimgLd x => core.qimgLd c x
  | .redMax x => core.reduce c x false false
  | .redMin x => core.reduce c x false true
  | .redTopk x => core.reduce c x true (x.lowest == 1)
  | .fn x => core.fn c x
  | .shape x => core.shape c x
  | .gate x => core.tableProduct c x false
  | .smaxStep x => core.smaxStep c x
  | .normStats x => core.normStats c x
  | .normApply x => core.normApply c x
  | .tblLoad x => core.tblLoad c x
  | .deriv x => core.tableProduct c x (profFlag x 0)
  | .elem x => core.elem c x
  | .sel x => core.sel c x
  | .calTapOpen x => core.calOpen x
  | .calTapPush x => core.calPush c x
  | .calTapClose x => core.calClose c x
  | .scaleAdapt x => core.scaleAdapt c x
  | .quant x => core.quant c x
  | .reqLoad x => core.reqLoad c x
  | w => core.configure c u w

/-- What a word of the core alone does: its fault, or its effect. -/
def Core.pureWord (c : Nat) (core : Core) (u : UnitId) (w : OpWord) : Except WordFault Core :=
  match core.faultOf c w with
  | some f => .error f
  | none => .ok (core.perform c u w)

/-- Cycles for which a word occupies its unit, and the cycles from its beginning to its last result (02 R56; 03 R74, R79, R96;
04 R110, R113, R118; 05 R134; 06 R167, R172, R180, R183). -/
def Core.timing (c : Nat) (core : Core) (w : OpWord) : Nat × Nat :=
  let feed (occ : Nat) : Nat × Nat := (occ, occ - 1 + 26)
  let drain (occ d : Nat) : Nat × Nat := (occ, occ + d)
  let plain (occ : Nat) : Nat × Nat := (occ, occ - 1)
  let units (x : BitVec 2) : Nat := (QW.ofCode x).units
  match w with
  | .mma x => feed (core.matrixFeed x.unit.toNat x.k.toNat)
  | .mmaT x => feed (core.matrixFeed x.unit.toNat x.k.toNat)
  | .conv x => feed (core.matrixFeed x.unit.toNat (core.convK c x) + 2)
  | .gradPair x => feed (core.gradFeed c x + 2)
  | .lutCfg _ => plain 4
  | .qzero x => plain (ceilDiv x.count.toNat 256)
  | .qstore x =>
    drain (ceilDiv ((x.mm1.toNat + 1) * (x.nm1.toNat + 1)) (QW.ofCode x.qw).rate) (if x.req = 1 then 12 else 8)
  | .qimgSt x => drain (ceilDiv ((x.cntm1.toNat + 1) * 16 * units x.qw) 512 + 8) 8
  | .qimgLd x => plain (ceilDiv ((x.cntm1.toNat + 1) * 16 * units x.qw) 512 + 8)
  | .redMax x => plain (core.reduceOccupancy c x false)
  | .redMin x => plain (core.reduceOccupancy c x false)
  | .redTopk x => plain (core.reduceOccupancy c x true)
  | .quant x =>
    let r := if x.src = 1 then 32 else (QW.ofCode x.qw).rate
    drain (4 + 2 * ceilDiv ((x.mm1.toNat + 1) * core.quantColumns c x) r) 12
  | .reqLoad x => plain (ceilDiv x.count.toNat 4 + 8)
  | .calTapOpen _ => plain 2
  | .calTapPush x => plain (4 + ceilDiv (x.cvnm1.toNat + 1) 64)
  | .calTapClose x => plain (4 + ceilDiv (x.cvnm1.toNat + 1) 64)
  | .scaleAdapt _ => plain 6
  | .tblLoad _ => plain (profOccupancy w core.ctx.strict)
  | .fn _ => drain (profOccupancy w core.ctx.strict) 10
  | .shape _ => drain (profOccupancy w core.ctx.strict) 10
  | .gate _ => drain (profOccupancy w core.ctx.strict) 10
  | .smaxStep _ => drain (profOccupancy w core.ctx.strict) 10
  | .normStats _ => drain (profOccupancy w core.ctx.strict) 10
  | .normApply _ => drain (profOccupancy w core.ctx.strict) 10
  | .deriv _ => drain (profOccupancy w core.ctx.strict) 10
  | .elem _ => drain (profOccupancy w core.ctx.strict) 10
  | .sel _ => drain (profOccupancy w core.ctx.strict) 10
  | _ => plain 1

/-- A word of an engine's queue (08 R214, R219, R226). A STREAM_STOP of a descriptor that an earlier slice left ends what the engine
carried: it holds no descriptor (R219). -/
def State.beginStream (s : State) (c : Nat) (d : Dispatched) : Start :=
  let k := s.core c
  match d.word with
  | .streamDef x =>
    let e := x.unit.toNat
    if (k.engine e).pass.isSome then .wait none
    else
      let b := k.rdBytes c (unitStream e) (addr64 x.sdBase) 128
      if k.streamInvalid e b then .fault .streamDesc
      else .go { s := s.setCore c (Core.loadDesc c k e (streamDescOf b)), occ := 4, last := 3 }
  | .streamStart x =>
    let e := x.unit.toNat
    if (k.engine e).pass.isSome then .wait none
    else if (k.engine e).desc.isNone then .fault .streamDesc
    else .go { s := s.setCore c (k.startPass e d.loops), occ := 1, last := 0, keeps := true }
  | .streamRearm x =>
    let e := x.unit.toNat
    let g := k.engine e
    if g.armed then
      let b := k.rdBytes c (unitStream e) (addr64 x.raBase) 16
      let k1 := if g.pending.isSome then
          { k with counts := { k.counts with rearmReplaced := k.counts.rearmReplaced + 1 } } else k
      .go { s := s.setCore c (k1.setEngine e { g with pending := some (fieldAt b 0 8, fieldAt b 8 8) }), occ := 2, last := 1 }
    else .fault .streamDesc
  | .streamStop x =>
    let e := x.unit.toNat
    let g := k.engine e
    let k1 := k.setEngine e { g with armed := false, desc := if g.carried then none else g.desc }
    let k2 :=
      match g.pass with
      | none => k1
      | some p =>
        if g.inFlight = 0 then k1.cutPass e p
        else k1.setEngine e { k1.engine e with pass := some { p with limit := some g.inFlight } }
    .go { s := s.setCore c k2, occ := 1, last := 0 }
  | _ => .wait none

/-- The memory ranges that the last words of unit `u` have written and not delivered. -/
def newRanges (old new : Core) : List (Nat × Nat) :=
  ((new.flights.drop old.flights.length).filter (fun f => !f.inChuck)).map (fun f => (f.lo, f.len))

/-- The units of a word have issued its reads. -/
def Core.consumeAll (core : Core) (us : List UnitId) (rs : List Reads) : Core := us.foldl (fun q v => q.consumeBy v rs) core

/-- Begins a word in unit `u`. -/
def State.startWord (s : State) (c : Nat) (u : UnitId) (d : Dispatched) : Start :=
  let k := (s.core c).ahead
  let rs := k.readsOf c d.word d.loops
  let units := if jointWord d.word then unitsOf d.word else [u]
  match units.findSome? (fun v => k.readStall v rs) with
  | some r => .wait (some r)
  | none =>
    let s1 := s.setCore c k
    let r : Start :=
      match d.word with
      | .treeStep x => s1.beginTree c x
      | .put x => s1.beginPut c d x
      | .get x => s1.beginGet c d x
      | .qadd x => s1.beginQadd c d x
      | .signal x => s1.beginSignal c x
      | .wait x => s1.beginWait c x
      | .fence _ => s1.beginFence c
      | .streamDef _ => s1.beginStream c d
      | .streamStart _ => s1.beginStream c d
      | .streamRearm _ => s1.beginStream c d
      | .streamStop _ => s1.beginStream c d
      | w =>
        match Core.pureWord c k u w with
        | .error f => .fault f
        | .ok k1 =>
          if k.writeFree u (newRanges k k1) then
            let t := Core.timing c k w
            .go { s := s1.setCore c (k.took k1), occ := t.1, last := t.2 }
          else .wait (some stallChuck)
    match r with
    | .go b => .go { b with s := b.s.updCore c (fun q =>
        { (q.consumeAll units rs) with swaps := (s.core c).swaps }) }
    | other => other

/-- Advances the operation number of a unit that has results to deliver. -/
def Core.closeOp (core : Core) (u : UnitId) : Core :=
  let x := core.unit u
  if core.flights.any (fun f => decide (f.owner = u) && decide (f.op = x.nextOp)) then
    core.setUnit u { x with nextOp := x.nextOp + 1 }
  else core

/-- Books a begun word on its units: queue place, next free cycle, last result. A unit that the word leaves early runs it for one
cycle. -/
def Core.book (core : Core) (units : List UnitId) (tb : Nat) (b : Begun) : Core :=
  units.foldl (fun k u =>
    let occ := if b.short = some u then 1 else b.occ
    let last := if b.short = some u then 0 else b.last
    (k.updUnit u (fun x => { x with
      ends := if b.keeps || b.blocked.isSome then x.ends else x.ends ++ [tb + occ]
      waiting := x.waiting.drop 1
      blocked := b.blocked
      stall := 0
      freeAt := tb + occ
      idleAt := max x.idleAt (tb + last) })).closeOp u) core

/-- The units that a waiting word needs at once. -/
def Dispatched.needs (d : Dispatched) (u : UnitId) : List UnitId := if jointWord d.word then unitsOf d.word else [u]

/-- The word at the head of unit `u`'s queue, with the first cycle in which its units can begin it; none while one of them runs a word
whose end is not known, or has not come to it. -/
def Core.headAt (k : Core) (u : UnitId) : Option (Dispatched × Nat) :=
  match (k.unit u).waiting with
  | [] => none
  | d :: _ =>
    if (d.needs u).any (fun v => (k.unit v).blocked.isSome || decide ((k.unit v).waiting.head? ≠ some d)) then none
    else some (d, (d.needs u).foldl (fun t v => max t (k.unit v).freeAt) d.cycle)

/-- Whether a SWAP may matter to a core: a pair is defined, or its body holds a SWAP. -/
def Core.swapping (k : Core) : Bool :=
  k.swaps.any (fun p => p.2.isSome) || k.body.any (fun b => decide (bitField b.toNat 120 8 = 0x50))

/-- Whether a word that could begin in cycle `tb` holds back, so that a SWAP that dispatches before binds it (08 R225): a SWAP may
matter, the sequencer stands before `tb`, and its next word is not known yet, or dispatches by `tb`, or waits for a unit that could begin
its own word earlier. -/
def State.defers (s : State) (c tb : Nat) : Bool :=
  let k := s.core c
  k.swapping && k.seq.ending.isNone && decide (k.seq.cycle < tb) &&
    (match k.seq.held with
      | [] => true
      | w :: _ =>
        match s.dispatchCycle c w with
        | some t => decide (t ≤ tb)
        | none => (List.range 22).any (fun v => decide ((k.unit v).stall = 0) &&
            (match k.headAt v with
              | some h => decide (h.2 < tb)
              | none => false)))

/-- Tries to begin the word at the head of unit `u`'s queue; `now` is the cycle of the event that may have freed it. -/
def State.tryBegin (s : State) (c : Nat) (u : UnitId) (now : Nat) : Option State :=
  let k := s.core c
  let x := k.unit u
  match x.blocked with
  | some .fence =>
    if s.inFlight c then none
    else
      let t := max x.freeAt x.idleAt + 1
      some (s.setCore c (k.setUnit u { x with blocked := none, freeAt := t, idleAt := t }))
  | some _ => none
  | none =>
    match k.headAt u with
    | none => none
    | some (d, t0) =>
      let units := d.needs u
      let tb := if x.stall = 0 then t0 else max t0 now
      if s.defers c tb then none
      else
        match s.startWord c u d with
        | .wait r =>
          let mark := match r with
            | some q => q + 1
            | none => 100
          if x.stall = mark then none
          else some (s.setCore c (units.foldl (fun k' v => k'.updUnit v (fun y => { y with stall := mark })) k))
        | .fault f => some ((s.updCore c (fun k' => units.foldl (fun k'' v =>
            k''.updUnit v (fun y => { y with waiting := y.waiting.drop 1, stall := 0 })) k')).wordFault c f)
        | .go b =>
          some (b.s.updCore c (fun k' =>
            let k1 := if x.stall = 0 ∨ 9 ≤ x.stall then k' else k'.addStall (x.stall - 1) (tb - t0)
            k1.book units tb b))

/-- The words that run in the sequencer, in dispatch cycle `t`. -/
def State.runSeq (s : State) (c t : Nat) (w : OpWord) : State :=
  let k := s.core c
  match w with
  | .swapDef _ => s.setCore c { k with swaps := swapWord k.swaps w }
  | .swap _ => s.setCore c { k with swaps := swapWord k.swaps w }
  | .creditSet x => s.setCore c (k.creditSet x.edge.toNat x.filled.toNat)
  | .mark x =>
    if s.flag audTraceLevel then
      if k.seq.marks.length < 16 then
        s.setCore c { k with seq := { k.seq with marks := k.seq.marks ++ [⟨x.value, k.ctx.logical, t⟩] } }
      else s.bump audMarkDrop 1
    else s
  | .sliceEnd _ => s.setCore c { k with seq := { k.seq with ending := some t } }
  | _ => s

/-- Dispatches a word, if it can dispatch now. DESIGN CHOICE (log entry 14): R43 lists the sequencer as a unit and R45 allows one word to a
unit in a cycle, while R222 gives a word of the sequencer a slot and no queue; here up to four such words dispatch in one cycle. -/
def State.dispatch (s : State) (c : Nat) (w : OpWord) : Option State :=
  let k := s.core c
  let q := k.seq
  if isLoopWord w then some (s.setCore c { k with seq := q.loopWord w })
  else
    let us := unitsOf w
    match s.dispatchCycle c w with
    | none => none
    | some t =>
      let fresh := decide (t ≠ q.cycle)
      let q1 := { q with
        cycle := t
        slots := (if fresh then 0 else q.slots) + 1
        units := (if fresh then [] else q.units) ++ us
        pos := q.pos + 1 }
      let k1 := us.foldl (fun k' u => k'.updUnit u (fun x => { x with
        waiting := x.waiting ++ [⟨w, q.counters, t⟩]
        ends := x.ends.filter (fun e => decide (t < e)) })) { k with seq := q1 }
      some ((s.setCore c k1).runSeq c t w)

/-- The 64-byte blocks of a region of core memory that a slice has written there (12 R327): block offset and bytes. -/
def Core.blocksOf (k : Core) (a n : Nat) : List (Nat × List Byte) :=
  let hit (b : Nat) : Bool := k.wrote.any (fun r => decide (r.1 < a + min n (b + 64)) && decide (a + b < r.1 + r.2))
  (((List.range (ceilDiv n 64)).map (fun i => 64 * i)).filter hit).map (fun b => (b, Mem.readBytes k.mem (a + b) (min 64 (n - b))))

/-- The blocks of KIND 2 to 5 regions in core memory that placed slice `p` has written. -/
def State.keptBlocks (s : State) (p : Placed) : List (Nat × Nat × List Byte) :=
  match s.placedImage p with
  | none => []
  | some im =>
    (im.regions.zip (List.range im.regions.length)).flatMap (fun ri =>
      let r := ri.1
      if r.target < 0x80 ∧ 2 ≤ r.kind ∧ r.kind ≤ 5 then
        match p.cores[if p.fold2 then r.target / 2 else r.target]? with
        | some c => ((s.core c).blocksOf (r.key % 2 ^ 44) r.bytes).map (fun b => (ri.2, b))
        | none => []
      else [])

/-- The end of a slice on a core (R56): SLICE_END has dispatched and every unit is idle. -/
def State.tryEnd (s : State) (c : Nat) : Option State :=
  let k := s.core c
  match k.seq.ending, k.seq.ended with
  | some t, none =>
    if k.seq.held.isEmpty && (List.range 22).all (fun u => s.unitIdle c u) then
      let fin := (List.range 22).foldl (fun m u => max m (k.unit u).idleAt) t + 1
      let s1 := s.setCore c { k with seq := { k.seq with ended := some fin } }
      match k.ctx.work with
      | none => some s1
      | some i =>
        match s1.placedAt i with
        | none => some s1
        | some p =>
          if p.cores.all (fun x => (s1.core x).seq.ended.isSome) then
            let last := p.cores.foldl (fun m x => max m ((s1.core x).seq.ended.getD 0)) 0
            let ks := p.cores.map s1.core
            some (s1.updPlaced i (fun y => if y.isRunning then { y with
              st := .ended last
              flags := ks.foldl (fun a x => a ||| x.summary.toNat) 0
              marks := ks.flatMap (fun x => x.seq.marks)
              stalls := (List.range 8).filter (fun q => ks.any (fun x =>
                decide (SMap.get 0 x.counts.stalls q ≠ SMap.get 0 x.startStalls q)))
              ctrs := ks.flatMap (fun x => (x.ctx.logical, x.counters) ::
                (if x.ctx.fold2 then [(x.ctx.logical + 1, x.counters2)] else []))
              kept := s1.keptBlocks p } else y))
          else some s1
    else none
  | _, _ => none

/-- One unit's part in a round. -/
def State.unitTurn (c now : Nat) (st : State × Bool) (u : UnitId) : State × Bool :=
  match st.1.tryBegin c u now with
  | some s' => (s', true)
  | none => st

/-- One round over the units, the held words and the end: the new state and whether anything happened. -/
def State.pumpRound (s : State) (c now : Nat) : State × Bool :=
  let r := (List.range 22).foldl (State.unitTurn c now) (s, false)
  let r2 :=
    match (r.1.core c).seq.held with
    | [] => r
    | w :: rest =>
      match r.1.dispatch c w with
      | some s' => (s'.updCore c (fun k => { k with seq := { k.seq with held := rest } }), true)
      | none => r
  match r2.1.tryEnd c with
  | some s' => (s', true)
  | none => r2

/-- Lets a core's units go on as far as they can. -/
def State.pumpFuel : Nat → State → Nat → Nat → State
  | 0, s, _, _ => s
  | n + 1, s, c, now =>
    let r := s.pumpRound c now
    if r.2 then State.pumpFuel n r.1 c now else r.1

/-- Enough rounds for every word that a core holds. -/
def Core.work (core : Core) : Nat :=
  8 + 4 * core.seq.held.length + 4 * core.units.foldl (fun n e => n + e.2.waiting.length + 1) 0

def State.pump (s : State) (c now : Nat) : State := State.pumpFuel (s.core c).work s c now

/-- Gives core `c` its next operation word. The sequencer dispatches words in order: while one is held back, later words wait
behind it; after SLICE_END has dispatched, it dispatches no more. -/
def State.issue (s : State) (c : Nat) (w : OpWord) : State :=
  let k := s.core c
  if k.seq.ending.isSome then s
  else (s.setCore c { k with seq := { k.seq with held := k.seq.held ++ [w] } }).pump c 0

/-- A word command: a word that load validation rejects never reaches a core. -/
def State.wordCmd (s : State) (c : Nat) (w : OpWord) (mnemonic : String) : Host.Outcome State Fault Refusal :=
  if wordOk w then .next (s.issue c w) else .refused (.illFormed mnemonic)

end Sys2Proof.Machine
end

