-- ==== Sys2Proof/Machine/ArrayWords.lean ====
section
/-! DEFINITION. The array words (03 R82, R93, R79, R92; 07 R189): each command gives its word to the core's sequencer. -/

namespace Sys2Proof.Machine

/-- A residue mismatch in a cell (03 R71): the slice aborts with ARRAY_RESIDUE, naming core and cell, and re-runs. DESIGN CHOICE (log entry
20): ADDR counts the 128 cells of Array A and then those of Array B. -/
def State.residueCheck (s : State) (c : Nat) (residue : Option (Fin 256)) : State :=
  match residue with
  | none => s
  | some cell => s.coreFatal c .arrayResidue { s.sliceRec c with addr := cell.val } none

/-- An array word, with the residue check while it runs. -/
def State.arrayCmd (s : State) (c : Nat) (w : OpWord) (residue : Option (Fin 256)) (mnemonic : String) :
    Host.Outcome State Fault Refusal :=
  if wordOk w then .next ((s.issue c w).residueCheck c residue) else .refused (.illFormed mnemonic)

/-- MMA (03 R82): the tile into the Chuck; a residue mismatch aborts the slice for re-run (03 R71). -/
def execMma (c : Fin 144) (w : MmaWord) (residue : Option (Fin 256)) (s : State) : Host.Outcome State Fault Refusal :=
  s.arrayCmd c.val (.mma w) residue "MMA"

/-- MMA_T (03 R82, R90). -/
def execMmaT (c : Fin 144) (w : MmaWord) (residue : Option (Fin 256)) (s : State) : Host.Outcome State Fault Refusal :=
  s.arrayCmd c.val (.mmaT w) residue "MMA_T"

/-- CONV (03 R93 to R97). -/
def execConv (c : Fin 144) (w : ConvWord) (residue : Option (Fin 256)) (s : State) : Host.Outcome State Fault Refusal :=
  s.arrayCmd c.val (.conv w) residue "CONV"

/-- GRAD_PAIR (07 R189 to R196). -/
def execGradPair (c : Fin 144) (w : GradWord) (residue : Option (Fin 256)) (s : State) : Host.Outcome State Fault Refusal :=
  s.arrayCmd c.val (.gradPair w) residue "GRAD_PAIR"

/-- LUT_CFG (03 R92). -/
def execLutCfg (c : Fin 144) (w : LutWord) (s : State) : Host.Outcome State Fault Refusal :=
  s.wordCmd c.val (.lutCfg w) "LUT_CFG"

/-- ARR_CFG (03 R79, R80). -/
def execArrCfg (c : Fin 144) (w : ArrCfgWord) (s : State) : Host.Outcome State Fault Refusal :=
  s.wordCmd c.val (.arrCfg w) "ARR_CFG"

end Sys2Proof.Machine
end

