-- ==== Sys2Proof/Machine/CoreEvents.lean ====
section
/-! DEFINITION. Events of the cores: the start of a slice (10 R263), results that arrive (03 R74; 04 R110), landings and WAITs (08 R232
to R234), stream requests that retire (08 R218), deadlock (08 R240), and ECC errors (02 R48; 04 R102; 05 R136; 08 R211). -/

namespace Sys2Proof.Machine

/-! ### Slice start -/

/-- Whether the edge's buffer was filled in the turn head: its producer is an armed engine (08 R228). -/
def Core.prefilled (core : Core) (e : Nat) : Bool :=
  match core.edgeDef e with
  | some d => decide (d.prodKind = 1) && (core.engine d.prodInst).armed
  | none => false

/-- A core as a slice starts on it: arrays at R80, Chuck, table slots, requant table, swap pairs and edges undefined or EMPTY,
engines without a descriptor but for armed persistent ones; core memory keeps its bytes (08 R213). `ctrs2` are the barrier counters of
the second logical core in fold 2, `next` the body that the other half of the program store takes meanwhile (R47). -/
def Core.startSlice (core : Core) (ctx : SliceCtx) (ctrs : SMap (BitVec 32)) (body : List (BitVec 128))
    (ctrs2 : SMap (BitVec 32) := []) (next : List (BitVec 128) := []) : Core :=
  let k := { core with ctx := ctx }
  { k with
    chuck := []
    slots := []
    requant := []
    arrA := {}
    arrB := {}
    accSetA := false
    accSetB := false
    cal := {}
    engines := (k.engines.filter (fun e => e.2.armed)).map (fun e => (e.1, { e.2 with carried := true }))
    startEngines := k.engines.filter (fun e => e.2.armed)
    swaps := []
    edges := k.edges.filter (fun e => k.prefilled e.1)
    counters := ctrs
    startCounters := ctrs
    counters2 := ctrs2
    startCounters2 := ctrs2
    startStalls := k.counts.stalls
    seq := {}
    units := []
    flights := []
    summary := 0
    body := body
    nextBody := next
    freeCtr := 0
    wrote := [] }

/-- The context of the `j`-th core of a placed slice; `seed` is that of its work. -/
def sliceCtx (i j : Nat) (p : Placed) (w : Work) (im : Image) (seed : Nat := 0) : SliceCtx :=
  let l := if p.fold2 then 2 * j else j
  { work := some i
    logical := l
    seed := some seed
    width := im.width
    chips := im.chips
    chip := if im.chips ≤ 1 then 0 else w.sbase.toNat
    strict := im.strict
    repro := im.repro
    elastic := im.elastic
    fold2 := p.fold2
    params := (im.params.drop (l * im.nParams)).take im.nParams
    edges := im.edges
    coreOf := if p.fold2 then p.cores.flatMap (fun c => [c, c]) else p.cores }

/-- Whether a core runs a slice of the turn. -/
def State.coreBusy (s : State) (c : Nat) : Bool :=
  match (s.core c).ctx.work with
  | none => false
  | some i =>
    match s.placedAt i with
    | some p => p.isRunning
    | none => false

/-- The body that core `c` runs next in the turn: that of the first placed slice that has it and has not begun (02 R47). -/
def State.bodyAfter (s : State) (i c : Nat) : List (BitVec 128) :=
  match (s.turn.placed.drop (i + 1)).find? (fun p => decide (p.st = .placed) && p.cores.contains c) with
  | none => []
  | some p =>
    match s.placedImage p with
    | some im => if p.fold2 then im.body2 else im.body
    | none => []

/-- Starts placed slice `i` on its cores, where it is placed, the window is open and its cores are free. -/
def State.startPlaced (s : State) (i : Nat) : State :=
  match s.placedAt i with
  | none => s
  | some p =>
    match s.findWork p.ring p.seq with
    | none => s
    | some w =>
      match s.imageOf w p.slice with
      | none => s
      | some im =>
        if p.st = .placed ∧ s.turn.phase = .window ∧ !s.turn.stretched ∧ !(p.cores.any s.coreBusy) then
          let body := if p.fold2 then im.body2 else im.body
          let s1 := (p.cores.zip (List.range p.cores.length)).foldl (fun t cj =>
            let ctx := sliceCtx i cj.2 p w im (s.seedOf w + 2 ^ 2048 * p.slice)
            let second := if p.fold2 then SMap.get [] w.chain.counters (ctx.logical + 1) else []
            t.updCore cj.1 (fun k =>
              k.startSlice ctx (SMap.get [] w.chain.counters ctx.logical) body second (s.bodyAfter i cj.1))) s
          let s2 := s1.updPlaced i (fun q => { q with st := .running })
          if s.flag tlsBrake && !(s.flag audReplayActive) then s2.ndPlaced i 0 else s2
        else s

/-- SLICE_START (10 R263). -/
def execSliceStart (p : Fin 4096) (s : State) : Host.Outcome State Fault Refusal := .next (s.startPlaced p.val)

/-! ### Results -/

/-- The oldest undelivered operation of unit `u` delivers its last result. -/
def State.deliver (s : State) (c : Nat) (u : UnitId) : State :=
  let k := s.core c
  let x := k.unit u
  if x.doneOp < x.nextOp then
    let mine (f : Flight) : Bool := decide (f.owner = u) && decide (f.op = x.doneOp)
    let ranges := ((k.flights.filter mine).filter (fun f => !f.inChuck)).map (fun f => (f.lo, f.len))
    let k1 := { k with flights := k.flights.filter (fun f => !mine f) }
    let k2 := (k1.setUnit u { x with doneOp := x.doneOp + 1 }).produceBy u ranges
    let now := if k2.flights.any (fun f => decide (f.owner = u)) then 0 else x.idleAt
    (s.setCore c k2).pump c now
  else s

/-- ARRAY_OP_DONE (03 R74). -/
def execArrayOpDone (c : Fin 144) (arr : Fin 2) (s : State) : Host.Outcome State Fault Refusal := .next (s.deliver c.val arr.val)

/-- WORD_RESULTS_DELIVERED (02 R44, R56; 04 R110; 05 R134): unit 0 Chuck, 1 Profile unit, 2 Caliper. -/
def execWordResultsDelivered (c : Fin 144) (unit : Fin 3) (s : State) : Host.Outcome State Fault Refusal :=
  .next (s.deliver c.val (unit.val + 2))

/-! ### Remote effects -/

/-- REMOTE_LANDING (08 R233, R234): the oldest effect of each named core lands, in ascending source logical core. -/
def execRemoteLanding (srcs : List (Fin 144)) (s : State) : Host.Outcome State Fault Refusal :=
  let order := sortBy (fun c => (s.core c).ctx.logical) (srcs.map (fun c => c.val))
  let s1 := order.foldl State.landOne s
  .next (order.foldl (fun t c => t.pump c 0) s1)

/-- Ends the wait of the port of core `c` in cycle `t`, after a WAIT or the WAIT of a receiving TREE_STEP. -/
def State.endWait (s : State) (c t : Nat) : State :=
  let k := s.core c
  let x := k.unit unitRemote
  let t' := max t x.freeAt
  let stalled (q : Core) : Core := if q.ctx.elastic then q.addStall stallBarrier (t' - x.freeAt) else q
  let free (occ : Nat) (y : UnitState) : UnitState :=
    { y with blocked := none, ends := y.ends ++ [t' + 1 + occ], freeAt := t' + 1 + occ, idleAt := max y.idleAt (t' + occ) }
  match x.blocked with
  | some (.waitCounter ctr n) =>
    if n ≤ k.counter ctr then
      (s.setCore c (stalled ((k.setCounter ctr (k.counter ctr - n)).updUnit unitRemote (free 0)))).pump c t'
    else s
  | some (.treeReceive ctr w) =>
    let need := if w.arrival = 1 then k.ctx.chips - 1 else 1
    if need ≤ k.counter ctr then
      let k0 := k.setCounter ctr (k.counter ctr - need)
      let (kr, nd) := Core.treeReceive c k0 w
      let k1 := { (k0.took kr) with xchip := kr.xchip }
      let occ := ceilDiv w.count.toNat (treeRate w) + 8
      let k2 := stalled ((((k1.updUnit unitRemote (free 0)).updUnit unitChuck (free occ))).closeOp unitChuck)
      let s1 := s.setCore c k2
      let s2 := if nd then (match k.ctx.work with
        | some i => s1.ndPlaced i 2
        | none => s1.bump (audNd 2) 1) else s1
      s2.pump c t'
    else s
  | _ => s

/-- WAIT_COMPLETE (08 R232; 04 R124). -/
def execWaitComplete (c : Fin 144) (cycle : Nat) (s : State) : Host.Outcome State Fault Refusal := .next (s.endWait c.val cycle)

/-! ### Streams -/

/-- The next request of the pass of engine `e` retires in cycle `t`; where a chunk keeps it waiting, the engine counts a stall
from `t` on. -/
def State.streamRetire (s : State) (c e t : Nat) : State :=
  let k := s.core c
  match (k.engine e).pass with
  | none => s
  | some p =>
    let u := unitStream e
    match s.retireRequest c e p with
    | .stalled q => s.setCore c (k.updUnit u (fun x => if x.stall = 0 then { x with stall := q + 1, freeAt := t } else x))
    | .invalid => (s.setCore c (k.endPass e)).wordFault c .streamDesc
    | .moved s1 fin =>
      let x := (s1.core c).unit u
      let out := decide (0x80 ≤ p.desc.src / 2 ^ 44 % 256) || decide (0x80 ≤ p.desc.dst / 2 ^ 44 % 256)
      let n := if out then Config.freeNat (7000 + c) k.freeCtr (3 * (p.done + 1)) else 0
      let s2 := (s1.updCore c (fun q => q.hbmStall c (p.done + 1) n (s.flag tlsBrake))).updCore c (fun q =>
        let q1 := if x.stall = 0 then q else q.addStall (x.stall - 1) (t - x.freeAt)
        q1.updUnit u (fun y => { y with
          stall := 0
          freeAt := if fin then max y.freeAt t else y.freeAt
          idleAt := if fin then max y.idleAt t else y.idleAt }))
      s2.pump c t

/-- STREAM_RETIRE (08 R218, R221). -/
def execStreamRetire (c : Fin 144) (engine : Fin 16) (cycle : Nat) (s : State) : Host.Outcome State Fault Refusal :=
  .next (s.streamRetire c.val engine.val cycle)

/-! ### Deadlock -/

/-- Whether a unit of the cores waits for a chunk or for a WAIT's condition. -/
def State.unitStalled (s : State) (cores : List Nat) : Bool :=
  cores.any (fun c => (s.core c).units.any (fun e => decide (e.2.stall ≠ 0) || (match e.2.blocked with
    | some (.waitCounter _ _) => true
    | some (.treeReceive _ _) => true
    | some .getData => true
    | _ => false)))

/-- DEADLOCK_BREAK (08 R240): a running elastic slice with a stalled unit is marked; the turn tail aborts it. -/
def execDeadlockBreak (p : Fin 4096) (s : State) : Host.Outcome State Fault Refusal :=
  match s.placedAt p.val with
  | none => .next s
  | some q =>
    match s.placedImage q with
    | none => .next s
    | some im =>
      if im.elastic && q.isRunning && s.unitStalled q.cores then .next (s.updPlaced p.val (fun y => { y with deadlock := true })) else .next s

/-! ### ECC errors -/

/-- PROG_ECC (02 R48). -/
def execProgEcc (c : Fin 144) (s : State) : Host.Outcome State Fault Refusal :=
  .next (s.coreFatal c.val .progEcc (s.sliceRec c.val) none)

/-- The row of a core memory byte, as the repair map names it (15 R421): bank × 256 + row of 512 bytes. -/
def memRow (a : Nat) : Nat := a / 131072 * 256 + a % 131072 / 512

/-- A corrected error of a row, by the repair map's KIND (08 R212; 17 R466): it counts for the next re-planning. -/
def State.noteRow (s : State) (kind c row : Nat) : State :=
  { s with witness := { s.witness with rowErrs := s.witness.rowErrs ++ [(kind, c, row, s.turn.clock)] } }

/-- CMEM_CE (08 R211): counted on the core and on its row. -/
def execCmemCe (c : Fin 144) (addr : BitVec 23) (s : State) : Host.Outcome State Fault Refusal :=
  .next (((s.noteRow 2 c.val (memRow addr.toNat)).updCore c.val (fun k => { k with counts := { k.counts with cmemCe := k.counts.cmemCe + 1 } })).log .cmemCe
    { s.sliceRec c.val with addr := addr.toNat })

/-- The banks of a chain's Offcut store in a core memory (07 R201): the lowest byte of the core part. -/
def corePart (stash : Nat) : Nat := coreMemBytes - ceilDiv stash 131072 * 131072

/-- The segment whose recompute variant or backward slices slice `i` belongs to: the last one whose recompute variant begins by it. -/
def Plan.segOf (plan : Plan) (i : Nat) : Option Nat :=
  ((List.range plan.stash.length).filter (fun k => match plan.stash[k]? with
    | some g => decide (g.rcFirst ≤ i)
    | none => false)).foldl (fun best k => match best with
      | none => some k
      | some j => if (plan.stash.getD j ⟨0, 0, 0, 0, 0⟩).rcFirst < (plan.stash.getD k ⟨0, 0, 0, 0, 0⟩).rcFirst then some k else some j)
    none

/-- Offcut data of some segments is lost (07 R206): those still in stash form run in recompute form from their checkpoints; a chain
that stands in one of them, in either form, goes back to its recompute variant. -/
def Work.loseOffcut (w : Work) (plan : Plan) (segs : List Nat) : Work :=
  let hit := w.chain.stashSegs.filter segs.contains
  let stands := match plan.segOf w.next with
    | some k => segs.contains k
    | none => false
  if hit.isEmpty && !stands then w
  else
    let next := match plan.segOf w.next with
      | some k => if segs.contains k then (plan.stash.getD k ⟨0, 0, 0, 0, 0⟩).rcFirst else w.next
      | none => w.next
    { w with
      next := next
      chain := { w.chain with stashSegs := w.chain.stashSegs.filter (fun k => !segs.contains k) }
      sums := { w.sums with flags := w.sums.flags ||| 0x8000 } }

/-- Restarts a work's chain from its first slice (13 R351, R352): staging copies are discarded, to be filled again, its inputs are
staged again, and its pins are released. -/
def Work.restart (w : Work) : Work :=
  { w with
    st := .accepted
    next := 0
    staged := false
    hostIn := []
    hostOut := []
    copies := w.copies.map (fun c => { c with filled := false, data := [] })
    chain := {}
    sums := { carried := w.sums.carried }
    rank := { w.rank with rerun := true } }

/-- The segments that keep Offcut data in a chain's core part: segment 0, and the one in which the chain stands (07 R202, R205). -/
def Work.coreSegs (w : Work) (plan : Plan) : List Nat := 0 :: (plan.segOf w.next).toList

/-- What an uncorrectable error at byte `a` of core `c`'s memory costs a chain beyond its running slice (08 R211): Offcut data runs
in recompute form, and data that an earlier slice left for the chain restarts the chain. -/
def State.chainMemLost (s : State) (c a : Nat) : State :=
  match s.sliceEnv c with
  | none => s
  | some (_, p, w, _) =>
    match s.planOf w with
    | none => s
    | some plan =>
      let stash := plan.images.foldl (fun m x => max m x.stashCore) 0
      let ctx := (s.core c).ctx
      let holds (r : Region) : Bool := decide (r.target < 0x80) && decide (r.chip = ctx.chip) && decide (ctx.coreOf.getD r.target 144 = c)
        && decide (r.key % 2 ^ 44 ≤ a) && decide (a < r.key % 2 ^ 44 + r.bytes)
      if stash ≠ 0 ∧ !p.fold2 ∧ corePart stash ≤ a then s.updWork p.ring p.seq (fun x => x.loseOffcut plan (w.coreSegs plan))
      else if w.next ≠ 0 ∧ plan.images.any (fun im => im.regions.any holds) then
        (s.disarm w w.chain.pins).updWork p.ring p.seq Work.restart
      else s

/-- CMEM_ECC (08 R211). -/
def execCmemEcc (c : Fin 144) (addr : BitVec 23) (s : State) : Host.Outcome State Fault Refusal :=
  let lost := s.chainMemLost c.val addr.toNat
  .next (lost.coreFatal c.val .cmemEcc { s.sliceRec c.val with addr := addr.toNat } none)

/-- CHUCK_CE (04 R102; 17 R466): counted on the core and on its row. -/
def execChuckCe (c : Fin 144) (unit : BitVec 17) (s : State) : Host.Outcome State Fault Refusal :=
  .next (((s.noteRow 3 c.val (Config.chuckRow unit.toNat % 65536)).updCore c.val (fun k => { k with counts := { k.counts with chuckCe := k.counts.chuckCe + 1 } })).log .chuckCe
    { s.sliceRec c.val with addr := unit.toNat })

/-- CHUCK_ECC (04 R102). -/
def execChuckEcc (c : Fin 144) (unit : BitVec 17) (s : State) : Host.Outcome State Fault Refusal :=
  .next (s.coreFatal c.val .chuckEcc { s.sliceRec c.val with addr := unit.toNat } none)

/-- PROF_ECC (05 R136; 17 R466): a corrected error is counted on the core and on its row, which is free, for the command names none; an
uncorrectable one aborts the slice for re-run. -/
def execProfEcc (c : Fin 144) (corrected : Bool) (s : State) : Host.Outcome State Fault Refusal :=
  if corrected then .next ((s.tickFree.noteRow 4 c.val (Config.freeNat 48 s.freeCtr 0 % 65536)).updCore c.val (fun k => { k with counts := { k.counts with profCe := k.counts.profCe + 1 } }))
  else .next (s.coreFatal c.val .profEcc (s.sliceRec c.val) none)

end Sys2Proof.Machine
end

