-- ==== Sys2Proof/Machine/HbmOps.lean ====
section
/-! DEFINITION. HBM beyond plain reads and writes (09): the inverse of the map, bad sectors, lost ranges, spares, the loss of a
stack, and what a loss does to accepted work (07 R206; 13 R358). -/

namespace Sys2Proof.Machine

/-! ### Places back to class keys (R244) -/

/-- The stack offset of a byte of a logical channel. -/
def channelOff (lch caddr : Nat) : Nat := (caddr / 256 * 31 + lch) * 256 + caddr % 256

def stripedKey : Nat := 0xFF * 2 ^ 44
def mirrorKey : Nat := 0xFF * 2 ^ 44 + mirrorBit

/-- The class key of a byte of a stack; none in a recovery area. -/
def Hbm.keyOf (h : Hbm) (stack soff : Nat) : Option Nat :=
  let l := h.layout.localBytes
  let m := h.layout.mirrorBytes
  if soff < l then some ((0xF0 + stack) * 2 ^ 44 + soff)
  else if soff < l + m then
    let r := (soff - l) / 4096
    if soff - l < m - gib / 2 then some (mirrorKey + (4 * r + stack % 4) * 4096 + soff % 4096) else none
  else
    let live := h.liveStacks
    (live.idxOf? stack).map (fun i => stripedKey + ((soff - l - m) / 4096 * live.length + i) * 4096 + soff % 4096)

/-- Whether a class key is in the mirrored class. -/
def isMirrored (key : Nat) : Bool := decide (key / mirrorBit = mirrorKey / mirrorBit)

/-- The other copy of a mirrored stack offset, if its stack is in service. -/
def Hbm.hasOther (h : Hbm) (stack : Nat) : Bool :=
  let o := if stack < 4 then stack + 4 else stack - 4
  decide (h.degraded ≠ some o) && !(SMap.get {} h.stks o).lost

def Hbm.stack (h : Hbm) (k : Nat) : Stack := SMap.get {} h.stks k
def Hbm.setStack (h : Hbm) (k : Nat) (x : Stack) : Hbm := { h with stks := SMap.set {} h.stks k x }

/-! ### Stores -/

/-- Stack keys of the 64-byte sectors that a write of `n` bytes at `key` covers whole. -/
def Hbm.coveredSectors (h : Hbm) (key n : Nat) : List Nat :=
  ((List.range (n / 64 + 1)).map (fun i => (key + 63) / 64 * 64 + 64 * i)).filter (fun k => decide (k + 64 ≤ key + n))
    |>.flatMap h.places

/-- Writes bytes at a class key; a listed sector that is written whole leaves the list (R255). -/
def Hbm.store (h : Hbm) (key : Nat) (bs : List Byte) : Hbm :=
  let h1 := h.writeKeys key bs
  if h1.badSectors.isEmpty then h1
  else
    let c := h.coveredSectors key bs.length
    { h1 with badSectors := h1.badSectors.filter (fun x => !c.contains x) }

def State.hbmStore (s : State) (key : Nat) (bs : List Byte) : State := { s with hbm := s.hbm.store key bs }

/-! ### Areas of the striped class (R245, R246) -/

def Hbm.stashBase (h : Hbm) : Nat := stripedKey + (h.stripedOffered - h.layout.stashPool)
def Hbm.ringBase (h : Hbm) : Nat := h.stashBase - h.layout.ringArea
def Hbm.linkBase (h : Hbm) : Nat := h.ringBase - h.layout.linkBuffer

/-- Whether a striped range touches the stash pool. -/
def Hbm.inStash (h : Hbm) (key n : Nat) : Bool :=
  decide (h.stashBase < key + n) && decide (key < h.stashBase + h.layout.stashPool)

/-- Whether a class range lies in the journal or another fixed area. -/
def Hbm.inFixed (h : Hbm) (key n : Nat) : Bool :=
  if isMirrored key then decide (key - mirrorKey < gib + h.layout.mirrorStage)
  else decide (key / 2 ^ 44 = 0xFF) && decide (h.linkBase < key + n)

/-! ### Losses and accepted work -/

/-- Ends the placed slices of a work whose next slice has changed. -/
def State.abortWork (s : State) (w : Work) (cause : Nat) : State :=
  (List.range s.turn.placed.length).foldl (fun t i => match t.placedAt i with
    | some p => if p.ring = w.ring ∧ p.seq = w.seq then t.abortSlice i cause none else t
    | none => t) s

/-- Offcut data of a work is lost. -/
def State.offcutLost (s : State) (w : Work) (segs : List Nat) : State :=
  match s.planOf w with
  | none => s
  | some plan =>
    let w' := w.loseOffcut plan segs
    let s1 := if w'.next ≠ w.next then s.abortWork w 1 else s
    s1.updWork w.ring w.seq (fun x => x.loseOffcut plan segs)

/-- Segments of a plan that keep Offcut data in the overflow region. -/
def overflowSegs (plan : Plan) (fold2 : Bool) : List Nat :=
  (List.range plan.stash.length).filter (fun k =>
    decide ((plan.stash.getD k ⟨0, 0, 0, 0, 0⟩).hbmKib ≠ 0) || (fold2 && decide (k = 0)))

/-- The Offcut data that a work holds in the overflow region is lost (07 R206). -/
def State.overflowLost (s : State) (w : Work) : State :=
  match s.planOf w with
  | some plan =>
    if 0 < w.chain.stashKib.getD 0 then s.offcutLost w (overflowSegs plan (w.chain.fold2 = some true)) else s
  | none => s

/-- Every work that holds Offcut data in the overflow region loses it (R260). -/
def State.poolLost (s : State) : State := s.works.foldl State.overflowLost s

/-- A staging copy whose bytes are lost (13 R358): refilled before COMMITTED, else its region is lost. -/
def State.stageLost (s : State) (hit : StageCopy → Bool) : State :=
  s.works.foldl (fun t w =>
    if w.copies.any hit then
      if w.st = .committed ∧ !w.copiedBack then
        let lost := w.copies.filter hit
        let t1 := lost.foldl (fun u c => { u with hbm := u.hbm.lose c.base c.bytes }) t
        let t2 := lost.foldl (fun u c => u.log .regionLost { ring := w.ring, seq := w.seq, addr := c.base }) t1
        t2.updWork w.ring w.seq (fun x => { x with
          copies := x.copies.filter (fun c => !hit c)
          result := some stStateLost })
      else if w.st = .committed then t
      else
        let t1 := t.abortWork w 1
        t1.updWork w.ring w.seq (fun x => { x with
          next := 0
          copies := x.copies.map (fun c => if hit c then { c with filled := false } else c)
          st := .accepted })
    else t) s

/-- A plan declares regions in host memory. -/
def Plan.onHost (plan : Plan) : Bool := plan.images.any (fun im => im.regions.any (fun r => decide (r.target = 0xFE)))

/-- A plan declares KIND 3, 4 or 5 regions. -/
def Plan.inPlace (plan : Plan) : Bool := plan.images.any (fun im => im.regions.any (fun r => decide (3 ≤ r.kind ∧ r.kind ≤ 5)))

/-- The staging copies of a work's host regions are lost (R260; 13 R358): inputs are staged again and outputs come from a run from the
first slice. DESIGN CHOICE (log entry 32): a COMMITTED work that has updated regions in place cannot run a second time, and ends with
STATE_LOST. -/
def State.hostStageLost (s : State) (w : Work) : State :=
  match s.planOf w with
  | none => s
  | some plan =>
    if !w.isRun || !w.staged || !plan.onHost then s
    else if w.st = .committed then
      if w.result ≠ some stOk then s
      else if plan.inPlace then
        (s.log .regionLost { ring := w.ring, seq := w.seq }).updWork w.ring w.seq (fun x => { x with
          copies := []
          copiedBack := true
          result := some stStateLost })
      else s.updWork w.ring w.seq (fun x => { x.restart with result := none })
    else if w.result.isSome then s
    else (((s.abortWork w 1).disarm w w.chain.pins).updWork w.ring w.seq Work.restart)

/-- The journal sector of a degraded pair is lost on both copies. -/
def Hbm.journalHit (h : Hbm) (stack soff : Nat) : Bool :=
  match h.keyOf stack soff with
  | some key => isMirrored key && decide (key - mirrorKey < gib) && !h.hasOther stack
  | none => false

/-! ### Loss of a stack (R257, R258) -/

/-- Declares a stack lost: the slices that accessed it abort; the degraded map follows at the next head. -/
def State.declareLost (s : State) (k : Nat) : State :=
  let hit := (List.range s.turn.placed.length).filter (fun i => match s.placedAt i with
    | some p => p.touched.contains k
    | none => false)
  let s1 := hit.foldl (fun t i => t.abortSlice i 5 none) s
  let s2 := { s1 with hbm := (s1.hbm.setStack k { s1.hbm.stack k with lost := true, copying := none }) }
  let s3 := { s2 with hbm := { s2.hbm with newlyLost := s2.hbm.newlyLost ++ [k] } }
  s3.log .stackLost { inst := 32 * k }

/-- Whether a stack has been lost already. -/
def Hbm.anyLost (h : Hbm) : Bool := h.degraded.isSome || !h.newlyLost.isEmpty

/-- The degraded map comes into force: striped contents and the moved stack-local area are lost, and the journal of the degraded
pair moves. -/
def State.applyDegraded (s : State) : State :=
  match s.hbm.newlyLost with
  | [] => s
  | k :: _ =>
    let s0 := s.poolLost
    let l := s0.hbm.layout.localBytes
    let h := { s0.hbm with
      degraded := some k
      newlyLost := []
      journalMove := true
      bytes := s0.hbm.bytes.filter (fun e => decide (e.1 / 2 ^ 36 ≠ k))
      lost := s0.hbm.lost.filter (fun r => decide (r.target ≠ 0xFF) || isMirrored r.base) }
    let s1 := { s0 with hbm := (h.lose stripedKey h.stripedBytes).lose ((0xF0 + k) * 2 ^ 44) l }
    let s2 := s1.stageLost (fun c => !c.mirrored)
    s2.works.foldl State.hostStageLost s2

end Sys2Proof.Machine
end

