-- ==== Sys2Proof/Machine/NvStore.lean ====
section
/-! DEFINITION. The NV log and its stores (15 R411 to R414, R418, R419, R422, R425, R426): records, the hold-up check, chunks,
compaction, and the repair map (R421). -/

namespace Sys2Proof.Machine

def rtBoot : Nat := 0x80
def rtRepair : Nat := 0x81
def rtEpoch : Nat := 0x82
def rtRing : Nat := 0x83
def rtPlan : Nat := 0x84
def rtSeal : Nat := 0x85
def rtHead : Nat := 0x86
def rtBadSector : Nat := 0x87
def rtActivate : Nat := 0x88
def rtHoldup : Nat := 0x89
def rtMinSvn : Nat := 0x8A
def rtOwner : Nat := 0x8B
def rtRoleKey : Nat := 0x8C
def rtWitness : Nat := 0x8D

/-- The log as either device in service holds it (R418: both hold every record that counts). -/
def State.nvLog (s : State) : List NvRec := if s.nv.flash0.ok then s.nv.flash0.log else s.nv.flash1.log

def recBytes (r : NvRec) : Nat := (80 + r.value.length + 15) / 16 * 16
def logBytes (l : List NvRec) : Nat := l.foldl (fun a r => a + recBytes r) 0

def newestOf (l : List NvRec) (t : Nat) : Option NvRec := (l.filter (fun r => decide (r.type = t))).getLast?

/-! ### Live records (R419, R437, R467) -/

/-- Whether a later record supersedes `r`; `rest` are the records after it, and `gen` is the generation of the active slot. -/
def superseded (gen : Nat) (r : NvRec) (rest : List NvRec) : Bool :=
  let same (n : Nat) : Bool := rest.any (fun x => decide (x.type = r.type) && decide (x.value.take n = r.value.take n))
  if r.type = rtBoot ∨ r.type = rtHoldup ∨ r.type = rtMinSvn ∨ r.type = rtSeal ∨ r.type = rtHead ∨ r.type = rtWitness then same 0
  else if r.type = rtRing then same 7
  else if r.type = rtPlan then same 5
  else if r.type = rtRoleKey then same 1
  else if r.type = 0x30 ∨ r.type = 0x31 then same 2
  else if r.type = rtEpoch ∧ fieldAt r.value 14 1 = 1 then rest.any (fun x => decide (x.type = rtEpoch))
  else if r.type = rtEpoch ∨ r.type = rtActivate then
    rest.any (fun x => decide (x.type = rtActivate) && decide (fieldAt x.value 13 1 = 0) && decide (fieldAt x.value 1 8 = gen))
  else false

/-- Copies the live records of the oldest 64 KiB to the head of the log and drops that sector; `next` is the next RSEQ. -/
def compactGo (gen : Nat) : Nat → Nat → List NvRec → List NvRec × Nat
  | _, next, [] => ([], next)
  | used, next, r :: rest =>
    if used + recBytes r ≤ 65536 then
      let out := compactGo gen (used + recBytes r) (next + 1) rest
      if superseded gen r rest then (out.1, out.2) else (out.1 ++ [{ r with rseq := next }], out.2)
    else (r :: rest, next)

/-- Compaction where less than 1 MiB of erased log remains. -/
def State.compact (s : State) : State :=
  if 15 * 2 ^ 20 - logBytes s.nvLog < 2 ^ 20 then
    let c := compactGo (s.pair nviGenLo nviGenHi) 0 s.nv.nextSeq s.nvLog
    let put (f : Flash) : Flash := if f.ok then { f with log := c.1 } else f
    ({ s with nv := { s.nv with flash0 := put s.nv.flash0, flash1 := put s.nv.flash1, nextSeq := c.2 } }).bump nviCompacts 1
  else s

/-! ### The hold-up check (R425, R426) -/

/-- Pages of the largest chunk that passes the check: 2 (n + 1) E_page at most E_hu, with E_page = P_HU × 2 × 1.2 ms. -/
def State.chunkPages (s : State) : Nat :=
  let v := s.fld nviHuVolt
  let e := 85 * s.fld nviHuCap * (v * v - 16000000)
  if s.nv.flash0.ok || s.nv.flash1.ok then e / (9600000 * max 1 Config.holdupMw.toNat) - 1 else 0

/-- Shows the bank's energy in the registers. -/
def State.showBank (s : State) : State :=
  let v := s.fld nviHuVolt
  let s1 := s.setFld nviHuEmj (85 * s.fld nviHuCap * (v * v - 16000000) / 2000000000)
  let s2 := s1.setFld nviChunkPages s1.chunkPages
  s2.setFlag nviHoldupOk (decide (1 ≤ s2.chunkPages))

/-! ### Stores -/

/-- Appends a record to the log of every device in service. -/
def State.appendLog (s : State) (type : Nat) (value : List Byte) : State :=
  let r : NvRec := ⟨type, s.nv.nextSeq, value⟩
  let put (f : Flash) : Flash := if f.ok then { f with log := f.log ++ [r] } else f
  ({ s with nv := { s.nv with flash0 := put s.nv.flash0, flash1 := put s.nv.flash1, nextSeq := s.nv.nextSeq + 1 } }).compact

/-- Starts the next chunk of the oldest store, or defers the store. -/
def State.nvPump (s : State) : State :=
  match s.nv.queue with
  | [] => s
  | x :: rest =>
    if x.chunk ≠ 0 then s
    else
      let n := min x.pages s.chunkPages
      if n = 0 then
        if x.deferred then s
        else (({ s with nv := { s.nv with queue := { x with deferred := true } :: rest } }).log .holdupLow {}).bump nviDefers 1
      else { s with nv := { s.nv with queue := { x with chunk := n, deferred := false } :: rest } }

/-- Queues the store of a record; the answer is the store's number. -/
def State.nvStore (s : State) (type : Nat) (value : List Byte) : State × Nat :=
  let x : NvStore := ⟨s.nv.nextSid, type, value, ceilDiv (recBytes ⟨type, 0, value⟩) 256, 0, false⟩
  (({ s with nv := { s.nv with queue := s.nv.queue ++ [x], nextSid := s.nv.nextSid + 1 } }).nvPump, s.nv.nextSid)

/-- A store for which nothing waits. -/
def State.nvNote (s : State) (type : Nat) (value : List Byte) : State := (s.nvStore type value).1

/-- A chunk ends: the next chunk starts, or the record counts and the next store starts. -/
def State.chunkDone (s : State) : State :=
  match s.nv.queue with
  | [] => s
  | x :: rest =>
    if x.chunk = 0 then s
    else if x.chunk < x.pages then
      ({ s with nv := { s.nv with queue := { x with pages := x.pages - x.chunk, chunk := 0 } :: rest } }).nvPump
    else
      let s1 := { s with nv := { s.nv with queue := rest, written := s.nv.written ++ [x.sid] } }
      ((s1.appendLog x.type x.value).bump nviStores 1).nvPump

/-- Retries a deferred store at a turn head. -/
def State.nvRetry (s : State) : State := s.nvPump

def State.stored (s : State) (sid : Nat) : Bool := s.nv.written.contains sid

/-- The value of an ACTIVATE record (15 R419, R429). -/
def activateValue (slot gen epoch : Nat) (failed : Bool) : List Byte :=
  [BitVec.ofNat 8 slot] ++ le64 gen ++ le32 epoch ++ [if failed then 1 else 0]

/-- Queues an epoch step behind the stores `needs`; a head takes its NV record and applies it (13 R353, R372). -/
def State.stageEpoch (s : State) (step : EpochStep) (ring seq : Nat) (list : Bool) (needs : List Nat := []) : State :=
  { s with epochs := s.epochs ++ [⟨needs, step, ring, seq, list, false⟩] }

/-! ### Rings listed as enabled -/

/-- The rings of a function that the NV log lists as enabled (13 R353): the RING_STATE records in order. -/
def State.nvRings (s : State) (f : Nat) : List Nat :=
  (s.nvLog.filter (fun r => decide (r.type = rtRing) && decide (fieldAt r.value 0 1 = f))).foldl (fun acc r =>
    let first := fieldAt r.value 1 2
    let count := fieldAt r.value 3 4
    let rest := acc.filter (fun x => decide (x < first) || decide (first + count ≤ x))
    if fieldAt r.value 7 1 = 1 then rest ++ (List.range count).map (fun i => first + i) else rest) []

/-! ### The repair map (R421, R422) -/

def repairValue (kind inst sub dst : Nat) : List Byte :=
  [BitVec.ofNat 8 kind] ++ le16 inst ++ le16 sub ++ le16 dst ++ [0]

/-- Appends a REPAIR record. -/
def State.repair (s : State) (kind inst sub dst : Nat) : State := s.nvNote rtRepair (repairValue kind inst sub dst)

/-- A REPAIR record that is not stored yet: the substitution of a unit that has not failed waits for it (R422). -/
def State.repairWaits (s : State) (kind inst sub dst : Nat) : Bool :=
  s.nv.queue.any (fun x => decide (x.type = rtRepair) && decide (x.value = repairValue kind inst sub dst))

/-- Entries of the log's REPAIR records, in order: kind, instance, sub, to. -/
def State.repairs (s : State) : List (Nat × Nat × Nat × Nat) :=
  (s.nvLog.filter (fun r => decide (r.type = rtRepair))).map (fun r =>
    (fieldAt r.value 0 1, fieldAt r.value 1 2, fieldAt r.value 3 2, fieldAt r.value 5 2))

/-- Measures the bank (R425). -/
def State.measureBank (s : State) (dropMv stepMv volt : Nat) : State :=
  let cap := min 65535 (if dropMv = 0 then 65535 else 4000000 / dropMv)
  let esr := min 65535 (5 * stepMv)
  let s1 := (((s.setFld nviHuCap cap).setFld nviHuEsr esr).setFld nviHuVolt volt).showBank
  let s2 := s1.nvNote rtHoldup (le32 cap ++ le32 esr ++ le32 volt ++ le64 s1.turn.number)
  if cap < 1000 ∨ 500 < esr then s2.log .holdupDegraded {} else s2

end Sys2Proof.Machine
end

