-- ==== Sys2Proof/Machine/KeyOps.lean ====
section
/-! DEFINITION. Image keys: ranges, joint rules, sources and effective values (13 R371; 15 R415, R417, R420, R520), the
validity of a user slot, and the topology record (14 R388, R401, R402). -/

namespace Sys2Proof.Machine

/-! ### Ranges and joint rules -/

/-- Whether a value is within a field's range. INCAP_W takes 0 or 600 to 2,000. -/
def fieldOk (f : RegField) (v : Nat) : Bool :=
  if f.off = tlsIncapW.off then decide (v = 0) || (decide (600 ≤ v) && decide (v ≤ 2000))
  else decide (f.lo ≤ v) && decide (v ≤ f.hi)

def keyOk (k v : Nat) : Bool :=
  match keyFieldOf k with
  | some f => fieldOk f v
  | none => false

/-- The VF ranges as first unit and count. -/
def vfRanges (val : Nat → Nat) : List (Nat × Nat) := (List.range 63).map (fun i => (val (6 + 2 * i), val (7 + 2 * i)))

def rangesOk : List (Nat × Nat) → Bool
  | [] => true
  | (f, n) :: rest =>
    (decide (n = 0) || (decide (1 ≤ f) && decide (f + n ≤ 1024)
      && rest.all (fun r => decide (r.2 = 0) || decide (f + n ≤ r.1) || decide (r.1 + r.2 ≤ f)))) && rangesOk rest

/-- The HBM capacity rules of R246. -/
def capacityOk (val : Nat → Nat) : Bool :=
  let l := val 164
  let m := val 165
  decide (1 + val 5 + 2 ≤ 4 * m)
    && decide ((val 145 + val 4 + 16) * 1024 + val 168 ≤ (7 * (62 - l - m) - l) * 1024)

/-- The joint rules of R371 over key values. -/
def jointOk (val : Nat → Nat) : Bool :=
  decide (val 133 ≤ val 134) && capacityOk val && decide (val 150 ≤ val 149) && rangesOk (vfRanges val)

/-! ### Sources (R420) -/

/-- The entries of a KEYS record: key ID and value. -/
def keysOf (r : NvRec) : List (Nat × Nat) :=
  if r.type = 0x10 then (List.range (r.value.length / 8)).map (fun i => (fieldAt r.value (8 * i) 2, fieldAt r.value (8 * i + 4) 4))
  else []

def State.slot (s : State) (i : Nat) : Slot :=
  let f := if s.nv.flash0.ok then s.nv.flash0 else s.nv.flash1
  if i = 0 then f.slotA else f.slotB

/-- Writes a user slot on every device in service. -/
def State.setSlot (s : State) (i : Nat) (x : Slot) : State :=
  let put (f : Flash) : Flash := if !f.ok then f else if i = 0 then { f with slotA := x } else { f with slotB := x }
  { s with nv := { s.nv with flash0 := put s.nv.flash0, flash1 := put s.nv.flash1 } }

def State.activeSlot (s : State) : Option Slot := if s.flag nviNoUser then none else some (s.slot (s.fld nviActiveSlot))

/-- The EPOCH_STEP records of steps applied since the running slot was activated: from its successful ACTIVATE record on. -/
def State.epochRecs (s : State) : List NvRec :=
  let gen := match s.activeSlot with
    | some x => x.gen
    | none => 0
  let after := s.nvLog.foldl (fun acc r =>
    if r.type = rtActivate ∧ fieldAt r.value 13 1 = 0 ∧ fieldAt r.value 1 8 = gen then [r] else acc ++ [r]) []
  after.filter (fun r => decide (r.type = rtEpoch) && decide (fieldAt r.value 14 1 = 0))

/-- The step list of an EPOCH_STEP record: offset and value. -/
def stepEntries (r : NvRec) : List (Nat × Nat) :=
  (List.range (fieldAt r.value 4 2)).map (fun i => (fieldAt r.value (16 + 8 * i) 4, fieldAt r.value (20 + 8 * i) 4))

/-- The value that a list of register writes gives a field. -/
def entryValue (f : RegField) (es : List (Nat × Nat)) : Option Nat :=
  ((es.filter (fun (e : Nat × Nat) => decide (e.1 = f.off))).getLast?).map (fun e => bitField e.2 f.lsb f.width)

/-- The value of a key from sources 2 to 4, and the source: 0 factory, 1 user slot, 2 epoch record. -/
def State.keySource (s : State) (k : Nat) : Nat × Nat :=
  match keyFieldOf k with
  | none => (0, 4)
  | some f =>
    match (s.epochRecs.filterMap (fun r => entryValue f (stepEntries r))).getLast? with
    | some v => (v, 2)
    | none =>
      match (match s.activeSlot with
          | some x => ((x.recs.flatMap keysOf).filter (fun (e : Nat × Nat) => decide (e.1 = k))).getLast?
          | none => none) with
      | some e => (e.2, 1)
      | none => (f.dflt, 0)

/-- The value of a field in the configuration of epoch `e` (13 R355, R373): that of the running slot, with every recorded step up to that
epoch. -/
def State.fldUnder (s : State) (f : RegField) (e : Nat) : Nat :=
  match ((s.epochRecs.filter (fun r => decide (fieldAt r.value 0 4 ≤ e))).filterMap (fun r => entryValue f (stepEntries r))).getLast? with
  | some v => v
  | none =>
    match (List.range 250).find? (fun k => decide (keyFieldOf k = some f)), s.activeSlot with
    | some k, some x => (((x.recs.flatMap keysOf).filter (fun (e : Nat × Nat) => decide (e.1 = k))).getLast?.map (fun e => e.2)).getD f.dflt
    | _, _ => f.dflt

/-- The effective value of a key: a register write made before ready comes first. -/
def State.effKey (s : State) (k : Nat) : Nat :=
  if s.nv.early.contains k then (match keyFieldOf k with
    | some f => s.fld f
    | none => 0)
  else (s.keySource k).1

/-- The key's value in force in its register. -/
def State.keyNow (s : State) (k : Nat) : Nat :=
  match keyFieldOf k with
  | some f => s.fld f
  | none => 0

/-- Every keyed field takes its effective value from sources 2 to 4. -/
def State.loadKeys (s : State) : State :=
  (List.range 250).foldl (fun t k => match keyFieldOf k with
    | some f => t.setFld f (s.keySource k).1
    | none => t) s

/-! ### User slots (R417) -/

/-- The key values a slot's KEYS records give. -/
def slotKeys (x : Slot) : List (Nat × Nat) := x.recs.flatMap keysOf

def slotKeyVal (x : Slot) (k : Nat) : Nat :=
  match ((slotKeys x).filter (fun e => decide (e.1 = k))).getLast? with
  | some e => e.2
  | none => match keyFieldOf k with
    | some f => f.dflt
    | none => 0

/-- SVN and COMPAT of a FIRMWARE or MICROCODE record. -/
def codeSvn (r : NvRec) : Nat := fieldAt r.value 4 4
def codeCompat (r : NvRec) : Nat := fieldAt r.value 8 4
def isCode (r : NvRec) : Bool := decide (r.type = 0x20) || decide (r.type = 0x21)

/-- The management firmware record of a slot. -/
def slotFirmware (x : Slot) : List NvRec := x.recs.filter (fun r => decide (r.type = 0x20) && decide (fieldAt r.value 0 1 = 1))

/-- Whether a slot's records meet R417; `sigOk` says that its code signatures verify (R416, R451). -/
def State.slotValid (s : State) (x : Slot) (sigOk : Bool) : Bool :=
  decide (x.state ≠ 0xFF) && sigOk
    && (x.recs.filter isCode).all (fun r => decide (s.fld nviMinSvn ≤ codeSvn r))
    && (slotKeys x).all (fun e => keyOk e.1 e.2) && jointOk (slotKeyVal x)
    && decide ((slotFirmware x).length = 1)

/-- The slot that the boot ROM runs: valid, ACTIVE, highest GEN. -/
def State.chooseSlot (s : State) (sig : Bool × Bool) : Option Nat :=
  let a := s.slot 0
  let b := s.slot 1
  let okA := s.slotValid a sig.1 && decide (a.state = 0x3F)
  let okB := s.slotValid b sig.2 && decide (b.state = 0x3F)
  if okA && (!okB || decide (b.gen ≤ a.gen)) then some 0 else if okB then some 1 else none

/-! ### The topology record (14 R401) -/

/-- Expected neighbour chip and port of port `p`, as R391 and R392 place them; none where the port is unused. -/
def expectPort (t : Topology) (p : Nat) : Option (Nat × Nat) :=
  if t.kind = 1 then
    let q := 24 / max 1 (t.size - 1)
    let j := p / max 1 q
    if p < (t.size - 1) * q then
      let b := if j < t.self then j else j + 1
      let i := if t.self < b then t.self else t.self - 1
      some (b, i * q + p % q)
    else none
  else if t.kind = 2 then
    let n := 24 / max 1 (2 * t.dims)
    let dir := p / max 1 n
    let d := dir / 2
    if d < t.dims then
      let e := max 1 (t.ext.getD d 1)
      let c := fun (k : Nat) => if k = 0 then t.self % max 1 (t.ext.getD 0 1)
        else if k = 1 then t.self / max 1 (t.ext.getD 0 1) % max 1 (t.ext.getD 1 1)
        else t.self / max 1 (t.ext.getD 0 1) / max 1 (t.ext.getD 1 1)
      let moved := fun (k : Nat) => if k = d then (if dir % 2 = 0 then (c k + 1) % e else (c k + e - 1) % e) else c k
      let chip := moved 0 + t.ext.getD 0 1 * (moved 1 + t.ext.getD 1 1 * moved 2)
      some (chip, (if dir % 2 = 0 then dir + 1 else dir - 1) * n + p % n)
    else none
  else none

/-- Reads a TOPOLOGY record. -/
def parseTopology (v : List Byte) : Topology :=
  let ext := [fieldAt v 8 1, fieldAt v 9 1, fieldAt v 10 1]
  let ports := (List.range 24).map (fun p => (fieldAt v (0x40 + 8 * p) 2, fieldAt v (0x42 + 8 * p) 1, fieldAt v (0x43 + 8 * p) 1))
  let t : Topology :=
    { kind := fieldAt v 6 1
      dims := fieldAt v 7 1
      ext := ext
      size := fieldAt v 12 2
      self := fieldAt v 14 2
      master := fieldAt v 16 2
      backup := fieldAt v 18 2
      ports := ports }
  let zero (o n : Nat) : Bool := (sliceBytes v o n).all (fun b => decide (b = 0))
  let extOk := (List.range 3).all (fun d =>
    let e := ext.getD d 0
    if t.kind = 2 ∧ d < t.dims then decide (2 ≤ e) && decide (e ≤ 64) else decide (e = 1))
  let shape := if t.kind = 0 then decide (t.dims = 0) && decide (t.size = 1)
    else if t.kind = 1 then decide (t.dims = 0) && decide (2 ≤ t.size) && decide (t.size ≤ 25)
    else decide (t.kind = 2) && decide (1 ≤ t.dims) && decide (t.dims ≤ 3) && decide (t.size ≤ 4096)
      && decide (t.size = (ext.getD 0 1) * (ext.getD 1 1) * (ext.getD 2 1))
  let portsOk := (List.range 24).all (fun p =>
    let e := ports.getD p (0, 0, 0)
    zero (0x44 + 8 * p) 4 && decide (e.2.2 ≤ 4)
      && (decide (e.2.2 = 0) || (match expectPort t p with
        | some x => decide (x.1 = e.1) && decide (x.2 = e.2.1)
        | none => false)))
  let ok := decide (v.length = 0x100) && decide (fieldAt v 0 4 = 0x1CE570B0) && decide (fieldAt v 4 2 = 1) && shape && extOk
    && decide (t.self < t.size) && decide (t.master < t.size) && decide (t.backup < t.size)
    && (decide (t.size = 1) || decide (t.backup ≠ t.master)) && zero 11 1 && zero 0x14 44 && portsOk
  { t with malformed := !ok }

/-- The topology in force: the running slot's record, else a single chip. -/
def State.topology (s : State) : Topology :=
  match s.activeSlot with
  | none => {}
  | some x =>
    match (x.recs.filter (fun r => decide (r.type = 0x32))).getLast? with
    | some r => parseTopology r.value
    | none => {}

/-- The first 32 bytes of SYSDIG. -/
def State.sysdig (s : State) : List Byte :=
  match s.activeSlot with
  | none => zeros 32
  | some x =>
    match (x.recs.filter (fun r => decide (r.type = 0x32))).getLast? with
    | some r => (sha512 (sliceBytes r.value 4 10 ++ sliceBytes r.value 0x10 4)).take 32
    | none => zeros 32

/-- Largest hop count of a route (R391, R392). -/
def Topology.hops (t : Topology) : Nat :=
  if t.kind = 1 then 1 else if t.kind = 2 then (List.range t.dims).foldl (fun a d => a + t.ext.getD d 1 / 2) 0 else 0

/-- LAG (R388): the smallest L with H_max × 160 ns + 280 ns at most 3 us + L turns. -/
def Topology.lag (t : Topology) (ticks : Nat) : Nat :=
  let need := t.hops * 160 + 280
  if need ≤ 3000 then 0 else ceilDiv (need - 3000) (max 1 (ticks * 10))

/-- CODE of a port in the difference report (R403). -/
def portCode (t : Topology) (p : Nat) (x : Port) : Nat :=
  let e := t.ports.getD p (0, 0, 0)
  if t.malformed then 9
  else if e.2.2 = 0 then (if x.lanes.isEmpty then 0 else 7)
  else if x.state = 0 then 1
  else if x.lanes.isEmpty then 2
  else if x.lanes.length < e.2.2 then 3
  else
    match x.found with
    | none => 1
    | some f => if f.1 ≠ e.1 then 4 else if f.2.1 ≠ e.2.1 then 5 else if !f.2.2 then 6 else if x.state ≠ 6 then 2 else 0

/-- TOPO_CODE: the lowest non-zero code among ports in use. -/
def State.topoCode (s : State) : Nat :=
  let t := s.links.topo
  if t.malformed then 9
  else
    let codes := ((List.range 24).filter (fun p => decide ((t.ports.getD p (0, 0, 0)).2.2 ≠ 0))).map (fun p =>
      portCode t p (SMap.get {} s.links.ports p))
    (codes.filter (fun c => decide (c ≠ 0))).foldl (fun a c => if a = 0 then c else min a c) 0

end Sys2Proof.Machine
end

