-- ==== Sys2Proof/Machine/BootOps.lean ====
section
/-! DEFINITION. Bring-up and resets as shared operations (13 R350, R351; 14 R398, R402, R404; 15 R408, R409, R417, R418, R423,
R424, R427; 12 R331; 16 R450; 17 R467; 19 R511). -/

namespace Sys2Proof.Machine

/-! ### Small things -/

def State.isReady (s : State) : Bool := decide (s.power.state = .ready)

/-- Whether the recovery of some fault is not complete (13 R344): a part without its replacement, a journal or an NV image with one copy,
the rings that a loss of VIN has left to take up, or work that a fault makes run again. -/
def State.recovering (s : State) : Bool :=
  s.hbm.stks.any (fun e => e.2.copying.isSome || e.2.copyDone) || !s.hbm.newlyLost.isEmpty || s.hbm.journalMove
    || !(s.nv.flash0.ok && s.nv.flash1.ok)
    || s.turn.members.any (fun c => decide (s.coreOut c ≠ 0)) || s.power.shares.any (fun e => decide (e.2.removed ≠ 0))
    || s.power.recover.any (fun f => !(s.nvRings f).isEmpty)
    || s.turn.placed.any (fun p => decide (p.st = .aborted 4)) || s.works.any (fun w => decide (w.st = .committed) && !w.copiedBack
      && w.rank.rerun)

/-- Key-encryption keys of R452. -/
def ascii (t : String) : List Byte := t.toList.map (fun c => BitVec.ofNat 8 c.toNat)
def kek (label : String) : List Byte := (hmacSha512 Config.pufSecret (ascii label)).take 32

/-- The spare lane of a group, and the group of a lane (14 R376, R377). -/
def laneOf (port i : Nat) : Nat := if port < 12 then 4 * port + i else 52 + 4 * (port - 12) + i
def spareLane (sp : Nat) : Nat := if sp < 4 then 48 + sp else 96 + sp
def lanePort (lane : Nat) : Option Nat :=
  if lane < 48 then some (lane / 4) else if lane < 52 then none else if lane < 100 then some (12 + (lane - 52) / 4) else none
def portSpare (p : Nat) : Nat := p / 3

/-! ### Steps 1 to 3: what to run -/

/-- Records of both logs, once each, by RSEQ (R418). -/
def mergeLogs (a b : List NvRec) : List NvRec :=
  let extra := b.filter (fun r => !a.any (fun x => decide (x.rseq = r.rseq)))
  extra.foldl (fun l r => l.takeWhile (fun x => decide (x.rseq < r.rseq)) ++ [r] ++ l.dropWhile (fun x => decide (x.rseq < r.rseq))) a

def newerSlot (x y : Slot) : Slot := if x.state = 0xFF then y else if y.state = 0xFF then x else if x.gen < y.gen then y else x

/-- Compares the two flashes; what one lacks is copied onto it. -/
def State.mirrorFlash (s : State) : State :=
  if s.nv.flash0.ok && s.nv.flash1.ok then
    let a := s.nv.flash0
    let b := s.nv.flash1
    let log := mergeLogs a.log b.log
    let sa := newerSlot a.slotA b.slotA
    let sb := newerSlot a.slotB b.slotB
    let s1 := { s with nv := { s.nv with
      flash0 := { a with slotA := sa, slotB := sb, log := log }
      flash1 := { b with slotA := sa, slotB := sb, log := log } } }
    if a.log = b.log ∧ a.slotA = b.slotA ∧ a.slotB = b.slotB then s1 else s1.log .nvCopyRepair {}
  else s

/-- The OWNER record of record (R449, R450): the first whose MAC verifies. -/
def ownerOf (v : List Byte) : Owner :=
  ⟨sliceBytes v 0 512, fieldAt v 512 4, fieldAt v 516 4, sliceBytes v 520 64⟩
def ownerMacOk (v : List Byte) : Bool := decide (sliceBytes v 584 64 = hmacSha512 (kek "IKB7-OWN") (v.take 584))

/-- A key slot from its ROLE_KEY record (R436). -/
def keySlotOf (v : List Byte) : Option KeySlot :=
  if fieldAt v 1 1 = 0 then none
  else (aesKeyUnwrap (kek "IKB7-RKW") (sliceBytes v 0x18 40)).map (fun k =>
    ⟨fieldAt v 1 1, fieldAt v 2 1, fieldAt v 3 1, fieldAt v 4 2, fieldAt v 6 2, sliceBytes v 8 16, k⟩)

/-- Owner and key slots from the log. -/
def State.loadSecurity (s : State) (b : BringUpIn) : State :=
  let owners := s.nvLog.filter (fun r => decide (r.type = rtOwner))
  let good := owners.filter (fun r => b.ownerMacOk && ownerMacOk r.value)
  let s1 := (owners.filter (fun r => !(b.ownerMacOk && ownerMacOk r.value))).foldl (fun t _ => t.log .identityFail {}) s
  let keys := (s1.nvLog.filter (fun r => decide (r.type = rtRoleKey))).foldl (fun m r =>
    SMap.set none m (fieldAt r.value 0 1) (keySlotOf r.value)) []
  let owner := good.head?.map (fun r => ownerOf r.value)
  let s2 := { s1 with sec := { s1.sec with
    owner := owner
    slots := keys
    pendingOwner := if s1.epochs.any (fun e => decide (e.step = EpochStep.owner)) then s1.sec.pendingOwner else none } }
  (s2.setFlag secOwned owner.isSome).setFlag secOsig (match owner with
    | some o => decide (o.ofl % 2 = 1)
    | none => false)

/-- Offsets, THETA, hours and trends from the newest WITNESS record (17 R467). -/
def State.loadWitness (s : State) : State :=
  match newestOf s.nvLog rtWitness with
  | none => { s with witness := { s.witness with fits := [] } }
  | some r =>
    let v := r.value
    let s1 := (List.range 6).foldl (fun t p => t.setFld (witOff p) (fieldAt v (0x10 + p) 1)) s
    let s2 := (List.range 4).foldl (fun t d => t.setFld (witDieOff d) (fieldAt v (0x16 + d) 1)) s1
    let s3 := (List.range 6).foldl (fun t i => t.setFld (witRl i) (fieldAt v (0x1C + 2 * i) 2)) ((s2.setFld witTheta (fieldAt v 0x1A 2)).setFld
      witRlDays ((List.range 6).foldl (fun m i => min m (fieldAt v (0x1C + 2 * i) 2)) 65535))
    let signed (o : Nat) : Int := BitVec.toInt (BitVec.ofNat 64 (fieldAt v o 8))
    let fits := (List.range 510).foldl (fun m i =>
      let o := 0x40 + 40 * i
      let f : Fit := ⟨fieldAt v o 8, signed (o + 8), signed (o + 16), signed (o + 24), signed (o + 32)⟩
      SMap.set {} m i f) []
    { s3 with witness := { s3.witness with fits := fits, hours := fieldAt v 8 8 } }

/-- Units that the repair map retires or replaces (15 R421). -/
def State.loadRepairs (s : State) : State :=
  s.repairs.foldl (fun t r =>
    let inst := r.2.1
    if r.1 = 1 then { t with witness := { t.witness with coreState := SMap.set 0 t.witness.coreState inst 2 } }
    else if r.1 = 5 then { t with hbm := t.hbm.setStack inst { t.hbm.stack inst with spareFor := r.2.2.1, sparePch := r.2.2.2 } }
    else if r.1 = 6 then { t with hbm := t.hbm.setStack inst { t.hbm.stack inst with lost := true } }
    else if r.1 = 7 then { t with links := { t.links with
      spares := SMap.set none t.links.spares r.2.2.2 (some inst)
      deadLanes := insertOnce inst t.links.deadLanes } }
    else if r.1 = 8 then
      let k := 16 * inst + r.2.2.1
      { t with power := { t.power with shares := SMap.upd {} t.power.shares k (fun x => { x with used := r.2.2.2 + 1 }) } }
    else t) s

/-- The bad-sector list after a loss of VIN, from the log's records (09 R255; 15 R419). -/
def State.loadBadSectors (s : State) : State :=
  if s.power.state = .cold then s
  else { s with hbm := { s.hbm with badSectors :=
    ((s.nvLog.filter (fun r => decide (r.type = rtBadSector))).map (fun r =>
      stackKey (fieldAt r.value 0 1) (channelOff (fieldAt r.value 1 1) (64 * fieldAt r.value 4 4)))).eraseDups } }

/-- The PLLs lock (step 4 of R408; 18 R488; 19 R503). -/
def State.lockClocks (s : State) : State :=
  (((((s.setFlag clkSysLock (!s.power.intOsc)).setFlag (clkCoreLock 0) true).setFlag (clkCoreLock 1) true).setFlag clkPcieLock
    true).setFlag (clkLnkLock 0) true).setFlag (clkLnkLock 1) true

/-- Steps 1 to 3: the flashes, the slot that runs, keys, owner, repair map, trends, topology. -/
def State.bootImage (s : State) (b : BringUpIn) : State :=
  let s0 := { s with nv := { s.nv with
    flash0 := { s.nv.flash0 with ok := b.flashOk.1 }
    flash1 := { s.nv.flash1 with ok := b.flashOk.2 }
    slotSigA := b.slotSigOk.1
    slotSigB := b.slotSigOk.2
    early := []
    activation := none } }
  let s0 := { s0 with epochs := s0.epochs.filter (fun e => decide (e.step ≠ EpochStep.slot)) }
  let s1 := s0.mirrorFlash
  let one := decide ((b.flashOk.1 && s.nv.flash0.factoryOk) ≠ (b.flashOk.2 && s.nv.flash1.factoryOk))
  let s2 := if one && b.factoryOk then s1.log .factoryOne {} else s1
  let svn := match newestOf s2.nvLog rtMinSvn with
    | some r => fieldAt r.value 0 4
    | none => 0
  let s3 := s2.setFld nviMinSvn svn
  let choice := s3.chooseSlot b.slotSigOk
  let va := s3.slotValid (s3.slot 0) b.slotSigOk.1
  let vb := s3.slotValid (s3.slot 1) b.slotSigOk.2
  let s4 := (((((((s3.setFlag nviFlash0Ok b.flashOk.1).setFlag nviFlash1Ok b.flashOk.2).setFlag errNvOne
    (one || !(b.flashOk.1 && b.flashOk.2))).setFlag nviSlotAValid va).setFlag nviSlotBValid vb).setFld nviActiveSlot
    (choice.getD 0)).setFlag nviNoUser choice.isNone).setFld nviBootStage 1
  let bad (t : State) (i : Nat) (ok : Bool) : State := if choice.isNone && !ok && decide ((t.slot i).state ≠ 0xFF)
    then t.log .slotInvalid {} else t
  let s5 := bad (bad s4 0 va) 1 vb
  let code := match s5.activeSlot with
    | some x => x.recs.filter (fun r => decide (r.type = 0x21))
    | none => []
  let s5 := { s5 with nv := { s5.nv with ucode := code, ucodeDue := [] } }
  let gen := match s5.activeSlot with
    | some x => x.gen
    | none => 0
  let s6 := (s5.setPair nviGenLo nviGenHi gen).loadKeys
  let epoch := match s6.epochRecs.getLast? with
    | some r => fieldAt r.value 0 4
    | none => match s6.activeSlot with
      | some x => x.epoch
      | none => 0
  let boot := match newestOf s6.nvLog rtBoot with
    | some r => fieldAt r.value 0 8
    | none => 0
  let s7 := ((s6.setFld errEpoch epoch).setPair audBootLo audBootHi boot).loadSecurity b
  let s8 := s7.loadWitness.loadRepairs.loadBadSectors
  let topo := s8.topology
  let s9 := { s8 with
    links := { s8.links with topo := topo, sync := { master := topo.master }, waiting := [] }
    power := { s8.power with bringUp := b } }
  let s10 := ((s9.setFld lnkSelf topo.self).setFlag lnkMaster (decide (topo.master = topo.self))).setFld lnkLag
    (topo.lag (s9.fld hstTurnTicks))
  let s11 := (s10.setFld devDomains 0x3F).lockClocks
  if b.pufOk && b.identityOk then s11 else s11.log .identityFail {}

/-! ### Steps 5 to 8: training and self-test -/

/-- The lanes of a port that carry flits, of those that train: a dead lane's place goes to its group's spare. -/
def portLanes (lk : Links) (up : List Nat) (p : Nat) : List Nat :=
  let own := ((List.range 4).map (laneOf p)).filter (fun l => up.contains l && !lk.deadLanes.contains l)
  match SMap.get none lk.spares (portSpare p) with
  | some l => if lanePort l = some p ∧ up.contains (spareLane (portSpare p)) then own ++ [spareLane (portSpare p)] else own
  | none => own

/-- The PEER flit that a port sends: chip, port, boot count, 32 bytes of SYSDIG. -/
def State.peerFlit (s : State) (p : Nat) : Flit :=
  mkFlit ftPeer 0 s.links.topo.self 0 0
    (le16 s.links.topo.self ++ [BitVec.ofNat 8 p] ++ le64 (s.pair audBootLo audBootHi + (if s.isReady then 0 else 1)) ++ s.sysdig)

/-- Trains the links: ports with a working lane reach PEER and send their PEER flit; the others fail. -/
def State.trainLinks (s : State) (up : List Nat) : State :=
  (List.range 24).foldl (fun t p =>
    let lanes := portLanes t.links up p
    let x : Port := { lanes := lanes, state := if lanes.isEmpty then 7 else 5, spareIn := lanes.contains (spareLane (portSpare p)) }
    let t1 := t.setPort p x
    if lanes.isEmpty then t1 else t1.sendOn p (t1.peerFlit p)) { s with links := { s.links with ports := [], outs := [], ins := [] } }

/-- Self-test (step 8): rows repaired, failing cores retired. -/
def State.selfTest (s : State) (b : BringUpIn) : State :=
  let s1 := b.rowRepairs.foldl (fun t r =>
    (t.repair (r.1.val + 2) r.2.1.val r.2.2.1.toNat r.2.2.2.toNat).log .selftestRepair { inst := r.2.1.val }) s
  b.coreFails.foldl (fun t c =>
    if t.coreOut c.val = 2 then t
    else (({ t with witness := { t.witness with coreState := SMap.set 0 t.witness.coreState c.val 2 } }).repair 1 c.val 0 0).log
      .selftestRepair { inst := c.val }) s1

/-- HBM training: stacks that fail are lost. -/
def State.trainHbm (s : State) (b : BringUpIn) : State :=
  let fails := b.stackFails.map (fun k => k.val)
  let fresh := fails.filter (fun k => !(s.hbm.stack k).lost)
  let s1 := fresh.foldl (fun t k =>
    ({ t with hbm := t.hbm.setStack k { t.hbm.stack k with lost := true } }).log .stackLost { inst := 32 * k }) s
  let lost := (List.range 8).filter (fun k => (s1.hbm.stack k).lost)
  let s2 := { s1 with hbm := { s1.hbm with live := true } }
  match lost, s2.hbm.degraded with
  | [k], none => ({ s2 with hbm := { s2.hbm with newlyLost := [k] } }).applyDegraded
  | _, _ => s2

/-- Steps 5 to 8. -/
def State.train (s : State) (b : BringUpIn) : State :=
  let s1 := s.trainLinks (b.lanesUp.map (fun l => l.val))
  let s2 := (s1.trainHbm b).setFld devDomains 0x3FFF
  let s3 := s2.measureBank b.bankDropMv b.bankStepMv b.bankVolt.toNat
  (s3.selfTest b).setFld nviBootStage 4

/-! ### Readiness (R424, R402) and the genesis record (12 R331) -/

/-- The first cause that holds the device back. -/
def State.nrCode (s : State) : Nat :=
  let b := s.power.bringUp
  if !b.factoryOk then 1
  else if !(b.pufOk && b.identityOk) then 2
  else if s.inService.length < 64 then 3
  else if 2 ≤ ((List.range 8).filter (fun k => (s.hbm.stack k).lost)).length then 4
  else if !b.diesOk then 7
  else if s.topoCode ≠ 0 then 5
  else if s.fld nviHuCap < 800 ∨ s.chunkPages = 0 then 6
  else 0

/-- The last completed turn; all ones where the boot has completed none. -/
def State.lastTurn (s : State) : Nat := if s.audit.tt.isEmpty then 2 ^ 64 - 1 else fieldAt s.audit.tt 0 8

/-- GEN and the chain's start for a boot that begins. -/
def State.genesis (s : State) (boot : Nat) : List Byte × Nat :=
  let log := s.nvLog
  let pick : Nat × Nat × List Byte :=
    if boot = 0 then (0, 2 ^ 64 - 1, zeros 64)
    else if !s.audit.head.isEmpty then (1, s.lastTurn, s.audit.head)
    else
      match newestOf log rtHead with
      | some r => if fieldAt r.value 0 8 = boot then (1, fieldAt r.value 8 8, sliceBytes r.value 16 64)
        else (match newestOf log rtSeal with
          | some q => (2, fieldAt q.value 8 8, sliceBytes q.value 16 64)
          | none => (2, 2 ^ 64 - 1, zeros 64))
      | none => (match newestOf log rtSeal with
          | some q => (2, fieldAt q.value 8 8, sliceBytes q.value 16 64)
          | none => (2, 2 ^ 64 - 1, zeros 64))
  (le32 0x1CE56E45 ++ le16 1 ++ le16 pick.1 ++ le64 (boot + 1) ++ le64 pick.2.1 ++ Config.partDigest 0 ++ pick.2.2 ++ zeros 8,
    pick.1)

/-- The HBM map and the other settings that bring-up fixes. -/
def State.latchLayout (s : State) : State :=
  let g (f : RegField) : Nat := s.fld f * gib
  { s with hbm := { s.hbm with layout :=
    { localBytes := g hbmLocalGib
      mirrorBytes := g hbmMirrorGib
      stashPool := g hstStashPool
      ringArea := g hifRingArea
      mirrorStage := g hifMirrorStage
      linkBuffer := s.fld lnkBufferMib * 2 ^ 20
      spread := s.fld clkSpread
      syncMode := s.fld lnkSyncMode } } }

/-- Steps 9 to 11: the readiness checks, the BOOT count, GEN, and ready. -/
def State.becomeReady (s : State) : State :=
  let code := s.nrCode
  let s1 := (s.setFlag lnkReady (decide (s.topoCode = 0))).setFld lnkTopoCode s.topoCode
  if code ≠ 0 then
    let s2 := ({ s1 with power := { s1.power with state := .notReady } }).setFld nviNrCode code
    let s3 := s2.setFld nviBootStage 8
    if code = 5 then s3.log .topoMismatch {} else if code = 6 then s3.log .holdupLow {} else s3
  else
    let boot := s1.pair audBootLo audBootHi
    let gen := s1.genesis boot
    let s2 := (s1.appendLog rtBoot (le64 (boot + 1))).bump nviStores 1
    let s3 := if s2.power.state = .warm then s2 else s2.latchLayout
    let replays := s3.flag audReplay
    let parts := (recParts 0 0x0F gen.1).map (fun r => { r with flags := if replays then 1 else 0 })
    let s4 := { s3 with
      power := { s3.power with state := .ready }
      turn := { fixHist := s3.turn.fixHist
                kappaHist := s3.turn.kappaHist
                vddMv := s3.turn.vddMv
                clock := s3.turn.clock
                ord := s3.turn.ord
                members := if s3.power.state = PowerState.warm then s3.turn.members else s3.inService.take s3.gradeCores
                stand := if s3.power.state = PowerState.warm then s3.turn.stand else []
                deficits := s3.turn.deficits
                point := s3.fld hstOpMax
                nextPoint := s3.fld hstOpMax
                ticks := s3.fld hstTurnTicks }
      audit := { s3.audit with
        head := sha512 gen.1
        tr := []
        tt := []
        sealNo := 0
        auditQ := s3.audit.auditQ ++ parts
        turnTrace := if s3.flag audTraceEn && !replays then parts else []
        stagedMine := []
        stagedTrace := [] } }
    let s5 := ((s4.setPair audBootLo audBootHi (boot + 1)).setFlag nviReady true).setFld nviNrCode 0
    (((s5.setFld nviBootStage 7).setFlag audReplayActive (s5.flag audReplay)).setPair (roWord 0x20104) (roWord 0x20108) 0)

/-! ### Resets (13 R350, R351) -/

/-- Whether a work runs a plan of more than one chip. -/
def State.multiChip (s : State) (w : Work) : Bool :=
  match s.planOf w with
  | some p => p.images.any (fun im => decide (1 < im.chips))
  | none => false

/-- Work that a reset interrupts: accepted and not COMMITTED, a multi-chip member whose words are not acknowledged among it. -/
def Work.interrupted (w : Work) : Bool :=
  w.isRun && (w.result.isNone || decide (w.result = some stOk)) && decide (w.st = .accepted ∨ w.st = .running)

/-- Restarts every accepted work that a reset interrupts, and finishes multi-chip members with TARGET_RESET. -/
def State.restartAll (s : State) : State :=
  let run := s.works.filter Work.interrupted
  let s1 := s.bump errReexec (run.filter (fun w => !s.multiChip w)).length
  { s1 with works := s1.works.map (fun w =>
      if w.interrupted then
        if s.multiChip w then { w with result := some stTargetReset, copies := [] } else w.restart
      else if w.st = .committed then { w with rank := { w.rank with rerun := true } } else w) }

/-- Announces a reset to every other chip of the topology (14 R404), and starts every pair again. -/
def State.noticeAll (s : State) : State :=
  let t := ((List.range s.links.topo.size).filter (fun c => decide (c ≠ s.links.topo.self))).foldl (fun u c =>
    u.sendPair c ftNotice 0 (le16 u.links.topo.self)) s
  { t with links := { t.links with outs := [], ins := [], turnOut := [] } }

/-- ENABLE of every function is cleared, and sampling stops. -/
def State.clearEnables (s : State) : State :=
  (List.range 64).foldl (fun t f => (t.setHif f hifEnable 0).setHif f hifRunning 0) s

/-- Cores, Chuck, core memory, program stores, barrier counters and streams cleared; the window counters stay in a warm reset. -/
def clearedCores (counts : Bool) : SMap Core → SMap Core
  | [] => []
  | (c, k) :: rest =>
    let x : Core := { counts := if counts then k.counts else {}, freeCtr := k.freeCtr }
    if x = {} then clearedCores counts rest else (c, x) :: clearedCores counts rest

/-- A warm reset. Counters, HBM, journal and the NV image stay; the H-die, cores and pending guarded values do not. -/
def State.warmReset (s : State) : State :=
  let s1 := s.noticeAll.restartAll.clearEnables
  let s2 := { s1 with
    cores := clearedCores true s1.cores
    mesh := []
    turn := { fixHist := s1.turn.fixHist
              kappaHist := s1.turn.kappaHist
              vddMv := s1.turn.vddMv
              clock := s1.turn.clock
              ord := s1.turn.ord
              members := s1.turn.members
              stand := s1.turn.stand }
    access := { s1.access with guards := [], latches := [], d3hot := [], up := [], starting := [], discardAt := [], fallback := [], vecPending := [], vecOpen := [] }
    witness := { s1.witness with window := none }
    audit := { s1.audit with turnTrace := [], accepts := [], admits := [], comps := [], replay := [] }
    power := { s1.power with state := if s.isReady then .warm else s.power.state } }
  ((s2.setFlag nviReady false).setFld nviBootStage 5).setFlag witReplanning false

/-- A reset of the host interface is a warm reset (11 R291; 13 R350). PRESUMED (log entry 42): the configuration state and the MSI-X tables of
every function start again. -/
def State.hostReset (s : State) : State :=
  let s1 := if s.power.state = .ready ∨ s.power.state = .notReady then s.warmReset else s
  { s1 with access := { s1.access with vfEnable := false, atomicEn := [], msix := [] } }

/-- The link is up at a width and generation (11 R289); 0 is down. -/
def State.setLink (s : State) (width gen : Nat) : State := (s.setFld hifLinkWidth width).setFld hifLinkGen gen

/-- Registers that mirror a level or an engaged state keep it over a cold reset: pins, brake. -/
def levelRegs : List Nat := [0xB0104, 0xB0108, 0xB010C, 0xB0110, 0x30118]

/-- A cold reset up to step 4 of the timeline. -/
def State.coldHold (s : State) (b : BringUpIn) : State :=
  let s1 := s.warmReset
  let kept := levelRegs.map (fun o => (o, s1.reg o))
  let s2 := kept.foldl (fun t e => t.setReg e.1 e.2) { s1 with regs := defaultRegs }
  let s3 := { s2 with
    cores := clearedCores false s2.cores
    sec := { s2.sec with sessions := [], sbSessions := [], sbChallenges := [], challenges := [] }
    access := { s2.access with frozen := [] }
    power := { s2.power with state := .cold, intOsc := false, mpDead := false, hstDead := false } }
  let t := s3.bootImage b
  let s4 := { t with audit := { t.audit with last := [] }, hbm := { t.hbm with live := false } }
  ((s4.setFlag audSigning s4.audit.signing.isSome).setFld devDomains 0x3FFF).setFld nviBootStage 2

/-- A cold reset: steps 4 to 8 repeat; while PERST_N is asserted the device holds at step 4. -/
def State.coldReset (s : State) (b : BringUpIn) : State :=
  let s1 := s.coldHold b
  if s1.power.perst then s1 else s1.train b

/-- The standby management processor takes control at once where a device-fatal error meets the active one at the handling of another
error (13 R366). DESIGN CHOICE (log entry 20): it handles one while the recovery of a fault is not complete. -/
def State.fatalTakeover (s : State) : State :=
  if s.recovering && !s.power.mpDead then (s.bump errMpTakeovers 1).log .mpTakeover {} else s

/-- A device-fatal error other than THERMTRIP: its record, then a cold reset; the hardware is found as at the last bring-up. -/
def State.deviceFatal (s : State) (cause : Cause) (r : ErrRec) : State :=
  let s1 := (s.log cause r).fatalTakeover
  s1.coldReset { s1.power.bringUp with stackFails := [], coreFails := [], rowRepairs := [] }

/-- The journal is lost on both copies (13 R366): after the cold reset every function recovers from host memory by R354. -/
def State.journalLost (s : State) (r : ErrRec) : State :=
  let t := s.deviceFatal .journalLost r
  { t with
    works := []
    rings := []
    plans := []
    epochs := []
    audit := { t.audit with head := [], tr := [], tt := [], signing := none, waiting := [] }
    power := { t.power with recover := List.range 64 } }

/-! ### Loss of VIN -/

/-- Firmware finishes the chunk in progress and stores CHAIN_HEAD for the last completed turn where the hold-up check passes (15 R427). -/
def State.storeHead (s : State) : State :=
  let s1 := match s.nv.queue with
    | [] => s
    | x :: _ => if x.chunk ≠ 0 ∧ x.pages ≤ x.chunk then s.chunkDone else s
  let s2 := { s1 with nv := { s1.nv with queue := [] } }
  if s2.audit.head.isEmpty ∨ !s2.isReady then s2
  else if s2.chunkPages = 0 then s2.log .holdupLow {}
  else s2.appendLog rtHead (le64 (s2.pair audBootLo audBootHi) ++ le64 s2.lastTurn ++ s2.audit.head)

/-- What a loss of the rails takes: everything but the NV image, host memory and the pins. -/
def State.dropRails (s : State) : State :=
  { s with
    cores := clearedCores false s.cores
    mesh := []
    hbm := { lost := [⟨0xFF, stripedKey, 2 ^ 43⟩, ⟨0xFF, mirrorKey, 2 ^ 43⟩]
              ++ (List.range 8).map (fun k => ⟨0xF0 + k, (0xF0 + k) * 2 ^ 44, 2 ^ 44⟩) }
    plans := []
    rings := []
    works := []
    wsets := []
    epochs := []
    turn := {}
    audit := {}
    sec := { slots := s.sec.slots, owner := s.sec.owner }
    links := { topo := s.links.topo }
    thermal := {}
    access := {}
    witness := { coreState := s.witness.coreState } }

/-- Loss of VIN. The queue's records of severity deferred or higher move to the overflow area on the flashes: none is ever dropped (13
R365). -/
def State.loseVin (s : State) : State :=
  let s1 := s.storeHead
  let s2 := { s1.dropRails with
    errs := { s1.errs with queue := [], overflow := s1.errs.overflow ++ s1.errs.queue.filter (fun (r : ErrRec) => decide (r.sev ≠ 0)) }
    regs := defaultRegs }
  let s3 := { s2 with
    nv := { s2.nv with early := [], activation := none, written := [] }
    power := { state := .off, perst := s.power.perst, recover := List.range 64 } }
  let s4 := levelRegs.foldl (fun t o => t.setReg o (s.reg o)) s3
  let s5 := ((s4.setFlag tlsBrake false).setFlag tlsCur false).setFlag tlsHot false
  [1, 2, 3, 4].foldl (fun t n => (t.setFlag (pinUnstableF n) false).setFlag (pinStuckF n) false) s5

end Sys2Proof.Machine
end

