-- ==== Sys2Proof/Machine/HbmEvents.lean ====
section
/-! DEFINITION. Events of the HBM stacks (09 R254 to R258): corrected and uncorrectable errors, patrol scrub, channel sparing, and the
loss of a stack. -/

namespace Sys2Proof.Machine

/-- The physical channel that serves a logical channel. -/
def Hbm.physical (h : Hbm) (stack lch : Nat) : Nat :=
  if (h.stack stack).spareFor = lch then (h.stack stack).sparePch else lch

/-- The logical channel that a physical channel serves; 31 where it serves none. -/
def Hbm.logical (h : Hbm) (stack pch : Nat) : Nat :=
  if pch = (h.stack stack).sparePch then (h.stack stack).spareFor
  else if pch = (h.stack stack).spareFor then 31
  else pch

/-- A second stack is lost (R260): what it held beyond the mirrored class is lost, the mirrored class too where it was the other stack of
the degraded pair, and the error is device-fatal (13 R358). -/
def State.secondLost (s : State) (k : Nat) : State :=
  let h := s.hbm.setStack k { s.hbm.stack k with lost := true, copying := none }
  let h1 := (h.lose stripedKey h.stripedBytes).lose ((0xF0 + k) * 2 ^ 44) h.layout.localBytes
  let h2 := if s.hbm.hasOther k then h1 else h1.lose mirrorKey h.layout.mirroredBytes
  ({ s with hbm := h2 }).deviceFatal .stackSecond { inst := 32 * k }

/-- Declares a stack lost; a second loss is device-fatal (R260). -/
def State.loseStack (s : State) (k : Nat) : State :=
  if (s.hbm.stack k).lost then s
  else if s.hbm.anyLost then s.secondLost k
  else s.declareLost k

/-! ### Channel sparing (R256; R519) -/

/-- Whether a stack key lies in a logical channel, outside the mirrored class. -/
def Hbm.inChannel (h : Hbm) (k lch : Nat) (e : Nat) : Bool :=
  decide (e / 2 ^ 36 = k) && decide (e % 2 ^ 36 / 256 % 31 = lch) && (match h.keyOf k (e % 2 ^ 36) with
    | some key => !isMirrored key
    | none => true)

/-- The spare takes over a logical channel whose old channel cannot be read: mirrored contents are rebuilt from the other copies, and the
rest is lost. The spare holds the zeros of its training (R519), and what a copy had brought it: which bytes that is, is free. -/
def State.takeOver (s : State) (k lch : Nat) : State :=
  let x := s.hbm.stack k
  let kept (e : Nat × Byte) : Bool := !(s.hbm.inChannel k lch e.1) || (x.copying.isSome && Config.freeBool 46 s.freeCtr e.1)
  let h := s.hbm.setStack k { x with spareFor := lch, copying := none, copyDone := false }
  let s1 := { (s.tickFree) with hbm := { h with
    bytes := h.bytes.filter kept
    lostCh := h.lostCh ++ [⟨k, lch, []⟩]
    scrubbed := h.scrubbed ++ [none] } }
  if s1.hbm.journalMove && !(s1.hbm.hasOther k) then s1.journalLost { inst := 32 * k + lch } else s1

/-- Firmware substitutes the spare of a stack for a logical channel: it is copied while the channel can be read, else it takes over at
once. A channel that is being copied already is copied on, or taken over; a stack whose spare is in use is lost. -/
def State.spareChannel (s : State) (k lch : Nat) (readable : Bool) : State :=
  let x := s.hbm.stack k
  if x.copying = some lch then (if readable then s else s.takeOver k lch)
  else if x.spareFor ≠ 31 ∨ x.copying.isSome then s.loseStack k
  else
    let s1 := (s.repair 5 k lch x.sparePch).log .hbmSpare { inst := 32 * k + lch }
    if readable then { s1 with hbm := s1.hbm.setStack k { x with copying := some lch } } else s1.takeOver k lch

/-- Reference ticks of a day. -/
def dayTicks : Nat := 86400 * 10 ^ 8

/-- Entries of a list of sectors in error that are younger than `n` ticks, and of one channel. -/
def recent (l : List SectorErr) (now n : Nat) : List SectorErr := l.filter (fun e => decide (now < e.clock + n))
def ofChannel (l : List SectorErr) (k lch : Nat) : List Nat :=
  ((l.filter (fun e => decide (e.stack = k) && decide (e.lch = lch))).map (fun e => e.sector)).eraseDups

/-- Whether a channel is in service without its spare, so that firmware may substitute it. -/
def Hbm.mayspare (h : Hbm) (k lch : Nat) : Bool :=
  let x := h.stack k
  decide (lch < 31) && decide (x.spareFor ≠ lch) && decide (x.copying ≠ some lch) && !x.lost

/-- One corrected error: counted on its channel and logged; more than 64 distinct sectors within a day bring the spare in. -/
def State.hbmCorrected (s : State) (stack pch sector : Nat) : State :=
  let lch := s.hbm.logical stack pch
  let ces := recent s.hbm.ces s.turn.clock dayTicks ++ [⟨stack, lch, sector, s.turn.clock⟩]
  let s1 := (s.bump (hbmCeCount stack pch) 1).log .hbmCe { inst := 32 * stack + pch, addr := sector }
  let s2 := { s1 with hbm := { s1.hbm with ces := ces } }
  if decide (64 < (ofChannel ces stack lch).length) && s2.hbm.mayspare stack lch then s2.spareChannel stack lch true else s2

/-- Notes an uncorrectable sector of a channel: two within 7 days bring the spare in. -/
def State.noteUe (s : State) (stack lch sector : Nat) : State :=
  let ues := recent s.hbm.ues s.turn.clock (7 * dayTicks) ++ [⟨stack, lch, sector, s.turn.clock⟩]
  let s1 := { s with hbm := { s.hbm with ues := ues } }
  if decide (2 ≤ (ofChannel ues stack lch).length) && s1.hbm.mayspare stack lch then s1.spareChannel stack lch true else s1

/-- HBM_CE (R255): the data is delivered corrected and the sector rewritten. -/
def execHbmCe (stack : Fin 8) (pch : Fin 32) (sector : Nat) (s : State) : Host.Outcome State Fault Refusal :=
  .next (s.hbmCorrected stack.val pch.val sector)

/-! ### Uncorrectable sectors (R255) -/

/-- The value of a BAD_SECTOR record. -/
def badSectorValue (stack lch sector : Nat) : List Byte := [BitVec.ofNat 8 stack, BitVec.ofNat 8 lch] ++ zeros 2 ++ le32 sector

/-- An uncorrectable sector at a stack offset outside the mirrored class enters the bad-sector list, and its record the NV log. -/
def State.listSector (s : State) (stack soff : Nat) : State :=
  let k := stackKey stack soff
  if s.hbm.badSectors.contains k then s
  else
    let blk := soff / 256
    ({ s with hbm := { s.hbm with badSectors := s.hbm.badSectors ++ [k] } }).nvNote rtBadSector
      (badSectorValue stack (blk % 31) ((blk / 31 * 256 + soff % 256) / 64))

/-- A listed sector whose data is lost at once. -/
def State.sectorLost (s : State) (stack soff : Nat) : State :=
  let s1 := s.listSector stack soff
  match s.hbm.keyOf stack soff with
  | some key => { s1 with hbm := s1.hbm.lose key 64 }
  | none => s1

/-- A listed sector whose region the next head treats as lost. -/
def State.sectorScrubbed (s : State) (stack soff : Nat) : State :=
  let s1 := s.listSector stack soff
  match s.hbm.keyOf stack soff with
  | some key => { s1 with hbm := { s1.hbm with scrubbed := s1.hbm.scrubbed ++ [some key] } }
  | none => s1

/-- An uncorrectable sector: rebuilt from the other copy in the mirrored class, lost elsewhere, at once or, where scrub found it, at the
next head. -/
def State.sectorUe (s : State) (stack soff : Nat) (scrub : Bool := false) : State :=
  let lose (t : State) : State := if scrub then t.sectorScrubbed stack soff else t.sectorLost stack soff
  match s.hbm.keyOf stack soff with
  | some key =>
    if isMirrored key then
      if s.hbm.hasOther stack then s
      else if s.hbm.journalHit stack soff then s.journalLost { inst := 32 * stack, addr := soff }
      else lose s
    else lose s
  | none => s

/-- What a work keeps in the ring area, or in the mirror staging area, is lost: its inputs are staged and its copies filled again, and it
runs from its first slice. -/
def State.restage (s : State) (w : Work) (mirrored : Bool := false) : State :=
  s.updWork w.ring w.seq (fun x => { x with
    next := 0
    st := .accepted
    staged := false
    copies := x.copies.map (fun c => if c.mirrored && !mirrored then c else { c with filled := false }) })

/-- A work whose state is lost ends with STATE_LOST (07 R207; 13 R358). -/
def State.endLost (s : State) (w : Work) : State :=
  ((((s.abortWork w 1).disarm w w.chain.pins).updWork w.ring w.seq (fun x =>
    { x with chain := {}, copies := [], result := some stStateLost }))).bump errStateLost 1

/-- What the loss of a sector that slice `i` read costs its work: Offcut data, what lies in a staging area, or a checkpoint of which no
copy is left. -/
def State.readLost (s : State) (i stack soff : Nat) : State :=
  match s.placedAt i, s.hbm.keyOf stack soff with
  | some p, some key =>
    match s.findWork p.ring p.seq with
    | none => s
    | some w =>
      if isMirrored key then
        if s.hbm.hasOther stack ∨ key - mirrorKey < gib then s
        else if key - mirrorKey < gib + s.hbm.layout.mirrorStage then s.restage w true
        else s.endLost w
      else if key / 2 ^ 44 ≠ 0xFF then s
      else if s.hbm.inStash key 64 then
        match s.planOf w with
        | some plan => s.offcutLost w ((plan.segOf p.slice).toList)
        | none => s
      else if s.hbm.ringBase ≤ key ∧ key < s.hbm.stashBase then s.restage w
      else s
  | _, _ => s

/-- HBM_UE (R255, R257): the slice that read the sector aborts; two channels of one stack in one turn lose the stack. -/
def execHbmUe (stack : Fin 8) (lch : Fin 31) (sector : Nat) (p : Fin 4096) (s : State) : Host.Outcome State Fault Refusal :=
  if sector < 2 ^ 25 then
    let soff := channelOff lch.val (sector * 64)
    let r : ErrRec := match s.placedAt p.val with
      | some q => { inst := 32 * stack.val + s.hbm.physical stack.val lch.val, ring := q.ring, seq := q.seq, slice := q.slice
                    addr := sector }
      | none => { inst := 32 * stack.val + s.hbm.physical stack.val lch.val, addr := sector }
    let s1 := ((s.log .hbmUe r).abortSlice p.val 1 none).readLost p.val stack.val soff
    let s2 := (s1.sectorUe stack.val soff).noteUe stack.val lch.val sector
    let two := s2.hbm.ueTurn.any (fun e => decide (e.1 = stack.val) && decide (e.2 ≠ lch.val))
    let s3 := { s2 with hbm := { s2.hbm with ueTurn := s2.hbm.ueTurn ++ [(stack.val, lch.val)] } }
    .next (if two then s3.loseStack stack.val else s3)
  else .next s

/-- PATROL_SCRUB (R254, R255): corrected sectors are counted, uncorrectable ones rebuilt or listed. -/
def execPatrolScrub (stack : Fin 8) (lch : Fin 31) (corrected uncorrectable : List Nat) (s : State) :
    Host.Outcome State Fault Refusal :=
  let pch := s.hbm.physical stack.val lch.val
  let s1 := corrected.foldl (fun t x => t.hbmCorrected stack.val pch x) s
  .next (uncorrectable.foldl (fun t x =>
    ((t.log .hbmUeScrub { inst := 32 * stack.val + pch, addr := x }).sectorUe stack.val (channelOff lch.val (x * 64)) true).noteUe
      stack.val lch.val x) s1)

/-- HBM_SPARE (R256): firmware substitutes the spare for a channel. -/
def execHbmSpare (stack : Fin 8) (lch : Fin 31) (readable : Bool) (s : State) : Host.Outcome State Fault Refusal :=
  .next (s.spareChannel stack.val lch.val readable)

/-- CHANNEL_COPY_DONE (R256): the spare takes over at the next turn head. -/
def execChannelCopyDone (stack : Fin 8) (s : State) : Host.Outcome State Fault Refusal :=
  let x := s.hbm.stack stack.val
  if x.copying.isSome then .next { s with hbm := s.hbm.setStack stack.val { x with copyDone := true } } else .next s

/-- STACK_LOST (R257). -/
def execStackLost (stack : Fin 8) (s : State) : Host.Outcome State Fault Refusal := .next (s.loseStack stack.val)

/-- JOURNAL_MOVE_DONE (R258): the journal has two copies again, and acceptance resumes at the next head. -/
def execJournalMoveDone (s : State) : Host.Outcome State Fault Refusal :=
  .next { s with hbm := { s.hbm with journalMove := false } }

end Sys2Proof.Machine
end

