-- ==== Sys2Proof/Machine/FaultEvents.lean ====
section
/-! DEFINITION. Failures of a physical core, of the Headstock engine, of the management processor and of a flash device (07 R206; 10
R285, R286; 13 R352, R360; 15 R418, R430; 17 R466). -/

namespace Sys2Proof.Machine

/-! ### Physical core -/

/-- Whether a plan keeps data in core memory beyond the Offcut store (08 R213). -/
def Plan.coreRegions (plan : Plan) : Bool := plan.images.any (fun im => im.regions.any (fun r => decide (r.target < 0x80)))

/-- Whether an engine of a core is armed with a persistent stream. -/
def Core.anyArmed (k : Core) : Bool := k.engines.any (fun e => e.2.armed)

/-- Counts ND_SPARE for each of the first `n` slices of a work, which run again (13 R352). -/
def State.ndSpare (s : State) (w : Work) (n : Nat) : State :=
  let s1 := (List.range n).foldl (fun t i => (t.bump (audNd 5) 1).event 0x15 0 w.ring w.seq i) s
  s1.updWork w.ring w.seq (fun x => { x with sums := { x.sums with carried := x.sums.carried + n } })

/-- Restarts the chain of a work for a core that left it (13 R352; 17 R465). -/
def State.restartChain (s : State) (w : Work) : State :=
  let s1 := (s.abortWork w 4).ndSpare w w.next
  ((s1.disarm w w.chain.pins).updWork w.ring w.seq Work.restart).bump errReexec 1

/-- Physical cores that a plan's widest slice needs in a fold. -/
def Plan.widest (plan : Plan) (fold2 : Bool) : Nat :=
  let w := plan.images.foldl (fun m im => max m im.width) 0
  if fold2 then ceilDiv w 2 else w

/-- What the loss of core `c` costs a work whose chain is pinned to it: a restart, also where the cores in service no longer give the chain
its fold (07 R201), or the Offcut data in the core part alone, which in fold 2 lies elsewhere (07 R202). -/
def State.pinLost (s : State) (c : Nat) (w : Work) : State :=
  if !w.chain.pins.contains c ∨ w.result.isSome ∨ w.st = .committed then s
  else
    match s.planOf w with
    | none => s
    | some plan =>
      if plan.coreRegions || w.chain.pins.any (fun x => (s.core x).anyArmed) || !w.chain.counters.isEmpty
          || decide (s.inService.length < plan.widest (w.chain.fold2.getD false)) then s.restartChain w
      else
        let s1 := if w.chain.fold2 = some true then s else s.offcutLost w (w.coreSegs plan)
        s1.updWork w.ring w.seq (fun x => { x with chain := { x.chain with
          pins := x.chain.pins.map (fun p => if p = c then 144 else p) } })

/-- CORE_FAILED (R285, R352): the slices placed on the core abort and re-run; a spare joins the service set at the next head. -/
def execCoreFailed (c : Fin 144) (s : State) : Host.Outcome State Fault Refusal :=
  if s.coreOut c.val ≠ 0 then .next s
  else
    let s1 := { s with witness := { s.witness with coreState := SMap.set 0 s.witness.coreState c.val 1 } }
    let s2 := (s1.repair 1 c.val 0 0).log .coreFailed { inst := c.val }
    let s3 := (List.range s2.turn.placed.length).foldl (fun t i => match t.placedAt i with
      | some p => if p.cores.contains c.val && p.active then (t.ndCarried i 5).abortSlice i 4 none else t
      | none => t) s2
    .next (s3.works.foldl (fun t w => t.pinLost c.val w) s3)

/-! ### Headstock engine -/

/-- HST_FAILOVER (R286): the standby runs the tail and later heads; where the engine fails in a head before its step 4, that head
admits nothing. A second failure is device-fatal. -/
def execHstFailover (afterStep4 : Bool) (s : State) : Host.Outcome State Fault Refusal :=
  if s.power.hstDead then .next (s.deviceFatal .hstBoth {})
  else
    let s1 := ((s.bump hstFailovers 1).setFld hstEngine (s.fld hstEngine + 1)).log .hstFailover {}
    let s2 := { s1.event 0x21 0 0 0 0 with power := { s1.power with hstDead := true } }
    .next (if afterStep4 then s2 else { s2 with turn := { s2.turn with noSlices := true } })

/-! ### Management processor -/

/-- The register writes that give keys their values `old` where they have others now. -/
def State.restoring (s : State) (old : List (Nat × Nat)) : List (Nat × Nat) :=
  let fs := (old.filterMap (fun k => (keyFieldOf k.1).map (fun f => (f, k.2)))).filter (fun e => !e.1.late && decide (s.fld e.1 ≠ e.2))
  let t := fs.foldl (fun t e => t.setFld e.1 e.2) s
  ((fs.map (fun e => e.1.off)).eraseDups).map (fun o => (o, (t.reg o).toNat))

/-- Ends an activation in failure (15 R430): the old firmware keeps control or takes it back, the slot is REJECTED, and after a takeover
an epoch step restores the old keys at the next head. -/
def State.rejectActivation (s : State) : State :=
  match s.nv.activation with
  | none => s
  | some a =>
    let x := s.slot a.slot
    let s1 := s.setSlot a.slot { x with state := 0x1F }
    let s2 := { s1 with
      nv := { s1.nv with activation := none }
      epochs := s1.epochs.filter (fun e => decide (e.step ≠ EpochStep.slot)) }
    let s3 := (s2.setFlag nviPending false).log .fwRejected {}
    let s4 := s3.updWork a.ring a.seq (fun w => { w with admin := .none, result := some stFwRejected })
    if a.takeover.isSome then
      (s4.nvNote rtActivate (activateValue a.slot x.gen (s4.fld errEpoch) true)).stageEpoch (.regs (s4.restoring a.oldKeys)) a.ring a.seq false
    else s4

/-- MP_TAKEOVER (R360, R366): the standby takes over; a seal with REASON 3 follows (12 R332). A second failure is device-fatal. -/
def execMpTakeover (s : State) : Host.Outcome State Fault Refusal :=
  if s.power.mpDead then .next (s.deviceFatal .mpBoth {})
  else
    let s1 := (s.bump errMpTakeovers 1).log .mpTakeover {}
    let s2 := { s1 with
      power := { s1.power with mpDead := true }
      audit := { s1.audit with reasons := s1.audit.reasons ++ [3] } }
    .next (match s2.nv.activation with
      | some a => if a.takeover.isSome then s2.rejectActivation else s2
      | none => s2)

/-! ### Flash -/

/-- NV_DEGRADED (R360): the other device serves and takes every NV record. -/
def execNvDegraded (flash : Fin 2) (s : State) : Host.Outcome State Fault Refusal :=
  let s1 := if flash = 0 then { s with nv := { s.nv with flash0 := { s.nv.flash0 with ok := false } } }
    else { s with nv := { s.nv with flash1 := { s.nv.flash1 with ok := false } } }
  let s2 := if flash = 0 then s1.setFlag nviFlash0Ok false else s1.setFlag nviFlash1Ok false
  .next ((s2.setFlag errNvOne true).log .nvDegraded {})

end Sys2Proof.Machine
end

