-- ==== Sys2Proof/Machine/RingOps.lean ====
section
/-! DEFINITION. Rings (11): owners, host tables, enabling, faults, sessions of a ring group (16 R438, R444, R448), acceptance of a
descriptor with its staging reservations (R306, R307; 13 R347), and the checks of a work descriptor (R298, R320; 14 R383). -/

namespace Sys2Proof.Machine

/-! ### Functions and their rings (R293, R294) -/

def State.vfFirst (s : State) (v : Nat) : Nat := s.fld (hifVfFirst v)
def State.vfCount (s : State) (v : Nat) : Nat := s.fld (hifVfCount v)

/-- First ring and number of rings of a function. -/
def State.ringRange (s : State) (f : Nat) : Nat × Nat :=
  if f = 0 then (0, 65536) else (64 * s.vfFirst f, 64 * s.vfCount f)

/-- The function that owns a ring. -/
def State.ringOwner (s : State) (r : Nat) : Nat :=
  (((List.range 63).map (fun i => i + 1)).find? (fun v =>
    decide (s.vfFirst v ≤ r / 64) && decide (r / 64 < s.vfFirst v + s.vfCount v))).getD 0

/-- The admin ring of a function, if it has one. -/
def State.adminRing (s : State) (f : Nat) : Option Nat :=
  if f = 0 then some 0 else if s.vfCount f = 0 then none else some (64 * s.vfFirst f)

def State.isAdminRing (s : State) (r : Nat) : Bool := decide (s.adminRing (s.ringOwner r) = some r)

/-- A host table base of a function. -/
def State.tableBase (s : State) (f : Nat) (lo hi : RegField) : Nat := s.hif f lo * 2 ^ lo.lsb + 2 ^ 32 * s.hif f hi

def State.localIndex (s : State) (f r : Nat) : Nat := r - (s.ringRange f).1
def State.ctxAddr (s : State) (f r : Nat) : Nat := s.tableBase f hifRctLo hifRctHi + 64 * s.localIndex f r
def State.pitAddr (s : State) (f r : Nat) : Nat := s.tableBase f hifPitLo hifPitHi + 4 * s.localIndex f r
/-- DESIGN CHOICE (log entry 28): the 16-byte status entry holds ACCEPTED (u64) and then COMPLETED (u64). -/
def State.rstAddr (s : State) (f r : Nat) : Nat := s.tableBase f hifRstLo hifRstHi + 16 * s.localIndex f r

def State.hostRead (s : State) (a n : Nat) : Nat := Mem.readNat s.host a n
def State.hostBytes (s : State) (a n : Nat) : List Byte := Mem.readBytes s.host a n
def State.hostPut (s : State) (a : Nat) (bs : List Byte) : State := { s with host := Mem.writeBytes s.host a bs }

/-! ### The ring table -/

def State.ring (s : State) (r : Nat) : Option Ring := SMap.get none s.rings r
def State.setRing (s : State) (r : Nat) (x : Ring) : State := { s with rings := SMap.set none s.rings r (some x) }
def State.dropRing (s : State) (r : Nat) : State := { s with rings := SMap.set none s.rings r none }
def State.updRing (s : State) (r : Nat) (f : Ring → Ring) : State :=
  match s.ring r with
  | some x => s.setRing r (f x)
  | none => s

def Ring.size (x : Ring) : Nat := 2 ^ x.ctx.log2n
def Ring.drSlot (x : Ring) (q : Nat) : Nat := x.ctx.drBase + 64 * (q % x.size)
def Ring.crSlot (x : Ring) (q : Nat) : Nat := x.ctx.crBase + 32 * (q % x.size)

def State.putAccepted (s : State) (r : Nat) (x : Ring) : State := s.hostPut (s.rstAddr x.fn r) (le64 x.acc)
def State.putCompleted (s : State) (r : Nat) (x : Ring) : State := s.hostPut (s.rstAddr x.fn r + 8) (le64 x.cmp)

/-- A ring context entry (R295). -/
def readCtx (b : List Byte) : RingCtx :=
  { drBase := fieldAt b 0 8
    crBase := fieldAt b 8 8
    seqBase := fieldAt b 0x10 8
    log2n := fieldAt b 0x18 1
    cls := fieldAt b 0x19 1 % 8
    scan := decide (fieldAt b 0x1A 1 % 2 = 1)
    imod := fieldAt b 0x1B 1
    vector := fieldAt b 0x1C 2
    fetchMax := fieldAt b 0x1E 2 }

def ctxReserved (b : List Byte) : Bool :=
  decide (fieldAt b 0x19 1 / 8 ≠ 0) || decide (fieldAt b 0x1A 1 / 2 ≠ 0) || (sliceBytes b 0x20 32).any (fun x => decide (x ≠ 0))

def ctxValid (f r scans : Nat) (c : RingCtx) : Bool :=
  let event := decide (1 ≤ r) && decide (r ≤ 3)
  decide (c.drBase % 4096 = 0) && decide (c.crBase % 4096 = 0) && (!event || decide (c.crBase = 0))
    && decide (1 ≤ c.seqBase) && decide (c.seqBase ≤ 2 ^ 63) && decide (6 ≤ c.log2n) && decide (c.log2n ≤ 16)
    && (decide (3 < r) || decide (c.cls = 0)) && (decide (c.vector = 0xFFFF) || decide (c.vector < (if f = 0 then 2048 else 32)))
    && decide (1 ≤ c.fetchMax) && decide (c.fetchMax ≤ 256) && (!c.scan || decide (scans < 4096))

/-- Enables a ring (R296): the status of the attempt, and the state. An enabled ring stays as it is (DEDUCED, log entry 29). -/
def State.enableRing (s : State) (r : Nat) : Nat × State :=
  match s.ring r with
  | some _ => (stOk, s)
  | none =>
    let f := s.ringOwner r
    let b := s.hostBytes (s.ctxAddr f r) 64
    let c := readCtx b
    let scans := (s.rings.filter (fun e => match e.2 with
      | some x => x.ctx.scan
      | none => false)).length
    if 4 ≤ r ∧ r ≤ 63 then (stRingConfig, s)
    else if ctxReserved b then (stRsvdNonzero, s)
    else if !ctxValid f r scans c then (stRingConfig, s)
    else
      let x : Ring := { fn := f, ctx := c, acc := c.seqBase - 1, cmp := c.seqBase - 1 }
      (stOk, ((s.setRing r x).putAccepted r x).putCompleted r x)

/-- Puts a ring into the error state (R302). -/
def State.ringFault (s : State) (r : Nat) (why : RingFault) (expected found : Nat) : State :=
  let s1 := s.updRing r (fun x => { x with err := some why })
  let f := match s.ring r with
    | some x => x.fn
    | none => 0
  match why with
  | .seq => (s1.bumpHif f hifSeqErr).log .ringSeq { ring := r, seq := expected, detail := found }
  | .overrun => (s1.bumpHif f hifOverrun).log .ringOverrun { ring := r, seq := expected }
  | .write => s1.log .ringWrite { ring := r, seq := expected }
  | .recover => s1.log .ringRecover { ring := r, seq := expected, detail := found }

/-! ### Sessions (16 R435, R438, R448) -/

def State.owned (s : State) : Bool := s.sec.owner.isSome

/-- The session bound to a ring group; an unowned part has an implicit Owner session on each. -/
def State.sessionOf (s : State) (g : Nat) : Option Session :=
  if s.owned then SMap.get none s.sec.sessions g else some ⟨256, 1, 0xFF, []⟩

/-- Whether a group lies in the scope of a session: its key slot's groups, within the function it names. -/
def State.inScope (s : State) (x : Session) (g : Nat) : Bool :=
  if x.kslot = 256 then true
  else
    match SMap.get none s.sec.slots x.kslot with
    | none => false
    | some k => decide (k.gfirst ≤ g) && decide (g < k.gfirst + k.gcount)
        && (decide (k.fn = 0xFF) || decide (s.ringOwner (16 * g) = k.fn))

/-! ### Staging (R307; 13 R347) -/

def Region.inHbm (r : Region) : Bool := decide (0xF0 ≤ r.target) && decide (r.target ≠ 0xFE)
def Region.staged (r : Region) : Bool := (r.inHbm || decide (r.target < 0x80)) && decide (3 ≤ r.kind) && decide (r.kind ≤ 5)

/-- Whether a staging copy is of a region of core memory: its chain alone sees it, and its words reach the core itself (DESIGN CHOICE, log entry 32). -/
def StageCopy.inCore (c : StageCopy) : Bool := decide (c.base / 2 ^ 44 < 0x80)

def Region.onHost (r : Region) : Bool := decide (r.target = 0xFE)
/-- Argument and offset of a host region (R298). -/
def Region.arg (r : Region) : Nat := r.key % 2 ^ 44 / 2 ^ 40
def Region.argOff (r : Region) : Nat := r.key % 2 ^ 40

/-- The regions of a plan that lie on this chip. -/
def Plan.regionsOn (plan : Plan) (chip : Int) : List Region :=
  plan.images.flatMap (fun im => im.regions.filter (fun r => decide (im.chips ≤ 1) || decide ((r.chip : Int) = chip)))

/-- Adds a region to a list of staging copies: it joins every copy it overlaps. -/
def addCopy (cs : List StageCopy) (r : Region) : List StageCopy :=
  let hit (c : StageCopy) : Bool := decide (c.base < r.key + r.bytes) && decide (r.key < c.base + c.bytes)
  let touched := cs.filter hit
  let lo := touched.foldl (fun a c => min a c.base) r.key
  let hi := touched.foldl (fun a c => max a (c.base + c.bytes)) (r.key + r.bytes)
  let m := touched.any (fun c => c.mirrored) || decide (r.kind = 5)
  cs.filter (fun c => !hit c) ++ [⟨lo, hi - lo, [], m, false⟩]

def Plan.copies (plan : Plan) (chip : Int) : List StageCopy := ((plan.regionsOn chip).filter Region.staged).foldl addCopy []

/-- Bytes that the staging of a plan's host regions needs. -/
def Plan.hostBytes (plan : Plan) : Nat :=
  ((plan.images.flatMap (fun im => im.regions.filter Region.onHost)).map (fun r => r.bytes)).foldl (fun a b => a + b) 0

def copyBytes (m : Bool) (cs : List StageCopy) : Nat := (cs.filter (fun c => decide (c.mirrored = m))).foldl (fun a c => a + c.bytes) 0

def Image.storeBytes (im : Image) : Nat :=
  256 + 16 * (im.body.length + im.body2.length) + 32 * im.regions.length + 8 * im.params.length

/-- Bytes of the ring area in use: staging of works until their outputs are written, and the images of loaded plans. -/
def State.ringAreaUsed (s : State) : Nat :=
  s.works.foldl (fun a w => a + copyBytes false w.copies + (if w.result.getD stOk ≠ stOk then 0 else match s.planOf w with
    | some p => p.hostBytes
    | none => 0)) 0
  + s.plans.foldl (fun a p => a + p.images.foldl (fun b im => b + im.storeBytes) 0) 0
def State.mirrorUsed (s : State) : Nat := s.works.foldl (fun a w => a + copyBytes true w.copies) 0

def State.stageFits (s : State) (plan : Plan) (chip : Int) : Bool :=
  let cs := plan.copies chip
  decide (s.ringAreaUsed + copyBytes false cs + plan.hostBytes ≤ s.hbm.layout.ringArea)
    && decide (s.mirrorUsed + copyBytes true cs ≤ s.hbm.layout.mirrorStage)

/-! ### Work descriptors (R297, R298, R320) -/

def descReserved (b : List Byte) : Bool :=
  decide (fieldAt b 0x0D 1 / 2 ≠ 0) || decide (fieldAt b 0x0F 1 ≠ 0) || decide (fieldAt b 0x1C 4 ≠ 0)
    || decide (fieldAt b 0x2C 4 ≠ 0) || decide (fieldAt b 0x38 8 ≠ 0)
    || (decide (fieldAt b 0x0E 1 < 1) && decide (fieldAt b 0x10 16 ≠ 0))
    || (decide (fieldAt b 0x0E 1 < 2) && decide (fieldAt b 0x20 16 ≠ 0))
    || (decide (fieldAt b 0x0E 1 ≤ 2) && decide (fieldAt b 0x30 8 ≠ 0))

/-- Host bytes that a host region names: address and length. -/
def Work.hostRange (w : Work) (r : Region) : Nat × Nat := (w.argAddr r.arg + r.argOff, r.bytes)

/-- The argument checks of R298. -/
def argCheck (w : Work) (plan : Plan) : Option Nat :=
  let rs := plan.images.flatMap (fun im => im.regions.filter Region.onHost)
  if rs.any (fun r => decide (w.narg ≤ r.arg) || decide (w.argBytes r.arg < r.argOff + r.bytes)) then some stArgRange
  else
    let ins := (rs.filter (fun r => decide (r.kind = 1))).map w.hostRange
    let outs := (rs.filter (fun r => decide (r.kind = 2))).map w.hostRange
    if ins.any (fun i => outs.any (fun o => decide (i.1 < o.1 + o.2) && decide (o.1 < i.1 + i.2))) then some stArgOverlap
    else none

/-- The group check of a plan of more than one chip (14 R383). -/
def State.groupBad (s : State) (w : Work) (plan : Plan) : Bool :=
  plan.images.any (fun im => decide (1 < im.chips) && (decide (w.sbase < 0) || decide ((im.chips : Int) ≤ w.sbase)
    || decide ((s.links.topo.size : Int) < (s.links.topo.self : Int) - w.sbase + im.chips)))

/-- Reserved bytes of the argument table. -/
def tableReserved (w : Work) : Bool :=
  (List.range (w.narg - 2)).any (fun i => decide (fieldAt w.argTable (16 * i + 12) 4 ≠ 0))

/-- Why an accepted work descriptor does not run. -/
def State.runCheck (s : State) (w : Work) : Option Nat :=
  if w.op ≠ 1 then some stBadOp
  else if descReserved w.desc ∨ tableReserved w then some stRsvdNonzero
  else
    match s.sessionOf (w.ring / 16) with
    | none => some stNoSession
    | some x =>
      if x.role = 4 then some stRoleDenied
      else
        match s.planOf w with
        | none => some stPlanUnknown
        | some plan =>
          if plan.unloading then some stPlanUnknown
          else if s.groupBad w plan then some stChipGroup
          else if 16 < w.narg ∨ fieldAt w.desc 0x30 8 % 64 ≠ 0 then some stArgRange
          else argCheck w plan

/-! ### Acceptance (R306) -/

/-- The bytes that DDIG covers (12 R327). -/
def Work.journalBytes (w : Work) : List Byte :=
  le16 w.ring ++ zeros 6 ++ w.desc ++ w.argTable ++ le32 w.epoch ++ zeros 4

/-- The argument table of a descriptor, from host memory. -/
def State.argTable (s : State) (desc : List Byte) : List Byte :=
  let n := fieldAt desc 0x0E 1
  if fieldAt desc 0x0C 1 = 1 ∧ 2 < n ∧ n ≤ 16 then s.hostBytes (fieldAt desc 0x30 8) (16 * (n - 2)) else []

/-- Makes the journal entry of a descriptor and writes ACCEPTED; the trace and the turn's ADIG take it. -/
def State.journal (s : State) (r : Nat) (x : Ring) (w : Work) : State :=
  let x1 := { x with acc := x.acc + 1 }
  let s1 := ({ s with works := s.works ++ [w] }).setRing r x1
  let rec0 := le16 r ++ zeros 2 ++ le64 w.seq ++ (sha512 w.journalBytes).take 32 ++ le32 w.epoch
  let s2 := ((s1.putAccepted r x1).trace1 0x04 rec0)
  { s2 with
    turn := { s2.turn with nacc := s2.turn.nacc + 1 }
    audit := { s2.audit with accepts := s2.audit.accepts ++ [rec0] } }

/-- What a ring engine does with one fetched descriptor. -/
inductive Accept where
  | accepted (s : State) (w : Work)
  | seqError (s : State)
  | full (s : State)

/-- The work that a fetched descriptor makes: its ring, contents, epoch, function and role (R306). -/
def State.workOf (s : State) (r : Nat) (x : Ring) (desc : List Byte) : Work :=
  { ring := r
    seq := fieldAt desc 0 8
    desc := desc
    argTable := if s.isAdminRing r then [] else s.argTable desc
    epoch := s.fld errEpoch
    fn := x.fn
    sbase := (s.links.topo.self : Int) - (s.fld (lnkFbase x.fn) : Int)
    role := match s.sessionOf (r / 16) with
      | some y => y.role
      | none => 0 }

/-- Accepts a fetched descriptor on an enabled ring (R301, R306, R307); the checks of its contents follow. -/
def State.acceptDesc (s : State) (r : Nat) (x : Ring) (desc : List Byte) : Accept :=
  let q := fieldAt desc 0 8
  if q ≠ x.acc + 1 then .seqError (s.ringFault r .seq (x.acc + 1) q)
  else
    let w := s.workOf r x desc
    if s.isAdminRing r then .accepted (s.journal r x w) w
    else
      match s.runCheck w with
      | some st => let w1 := { w with result := some st }; .accepted (s.journal r x w1) w1
      | none =>
        match s.planOf w with
        | none => .accepted (s.journal r x w) w
        | some plan =>
          if s.stageFits plan w.sbase then
            let w1 := { w with copies := plan.copies w.sbase, rank := { w.rank with accTurn := s.turn.ord } }
            .accepted (s.journal r x w1) w1
          else .full ((s.setRing r { x with backlog := true }).bumpHif x.fn hifStageFull)

end Sys2Proof.Machine
end

