-- ==== Sys2Proof/Machine/PlanChecks.lean ====
section
/-! DEFINITION. Load validation of a slice image (02 R50, R53, R57 to R63; 01 R21, R25, R32, R33; 03 R81, R84; 04 R101, R109, R126;
05 R129, R136; 06 R165, R168, R173, R182, R185; 07 R195; 08 R222, R223, R225; 09 R247; 11 R299), in the order of R63. -/

namespace Sys2Proof.Machine

/-! ### The image as stored (R57, R60 to R62) -/

def imgFlags (b : List Byte) : Nat := fieldAt b 0x0C 4
def imgWidth (b : List Byte) : Nat := fieldAt b 0x10 2
def imgChips (b : List Byte) : Nat := fieldAt b 0x12 2

/-- The raw words of a body. -/
def imgWords (b : List Byte) (off n : Nat) : List Nat := (List.range n).map (fun i => fieldAt b (off + 16 * i) 16)

def imgSix (b : List Byte) (off : Nat) : List Nat := (List.range 6).map (fun i => fieldAt b (off + 4 * i) 4)

def regionAt (b : List Byte) (o : Nat) : Region :=
  ⟨fieldAt b o 8, fieldAt b (o + 8) 8, fieldAt b (o + 16) 1, fieldAt b (o + 17) 1 % 16, fieldAt b (o + 20) 4⟩

/-- A node of the credit graph: unit kind and instance. -/
def imgNode (b : List Byte) (i : Nat) : Nat × Nat :=
  (fieldAt b (fieldAt b 0x94 4 + 4 * i) 1, fieldAt b (fieldAt b 0x94 4 + 4 * i + 1) 1)

/-- Byte offset of edge `i`. -/
def edgeOff (b : List Byte) (i : Nat) : Nat := fieldAt b 0x94 4 + 4 * fieldAt b 0x8A 2 + 8 * i

def edgeAt (b : List Byte) (i : Nat) : EdgeDef :=
  let o := edgeOff b i
  let p := imgNode b (fieldAt b o 1)
  let q := imgNode b (fieldAt b (o + 1) 1)
  ⟨p.1, p.2, q.1, q.2, fieldAt b (o + 2) 2, fieldAt b (o + 4) 4⟩

/-- An image as its fields read. -/
def readImage (b : List Byte) : Image :=
  let fl := imgFlags b
  { strict := bitAt fl 0
    repro := bitAt fl 1
    elastic := bitAt fl 2
    fold2 := bitAt fl 3
    width := imgWidth b
    chips := imgChips b
    minTurn := fieldAt b 0x18 4
    cycles := imgSix b 0x20
    cycles2 := imgSix b 0x38
    energy := imgSix b 0x50
    energy2 := imgSix b 0x68
    stashCore := fieldAt b 0x80 4
    stashHbm := fieldAt b 0x84 4
    nParams := fieldAt b 0x8E 2
    params := (List.range (fieldAt b 0x8E 2 * imgWidth b)).map (fun i => fieldAt b (fieldAt b 0x98 4 + 8 * i) 8)
    regions := (List.range (fieldAt b 0x88 2)).map (fun i => regionAt b (fieldAt b 0x90 4 + 32 * i))
    edges := (List.range (fieldAt b 0x8C 2)).map (edgeAt b)
    body := (imgWords b (fieldAt b 0x9C 4) (fieldAt b 0x1C 4)).map (BitVec.ofNat 128)
    body2 := (imgWords b (fieldAt b 0xA0 4) (fieldAt b 0xA4 4)).map (BitVec.ofNat 128)
    digest := sliceBytes b 0xC0 64 }

/-! ### PLAN_HEADER and PLAN_DIGEST (R57, R58, R61) -/

/-- A region table entry with a fault of its own. -/
def regionEntryBad (b : List Byte) (o : Nat) : Bool :=
  let k := fieldAt b (o + 16) 1
  decide (fieldAt b (o + 17) 1 / 16 ≠ 0) || decide (fieldAt b (o + 18) 2 ≠ 0) || decide (fieldAt b (o + 24) 8 ≠ 0)
    || !(inRange 1 6 k) || decide (fieldAt b (o + 8) 8 = 0) || (decide (fieldAt b (o + 20) 4 ≠ 0) && decide (k ≠ 6))

def headerBad (b : List Byte) (n : Nat) : Bool :=
  let f (o k : Nat) : Nat := fieldAt b o k
  let inside (o k : Nat) : Bool := decide (o + k ≤ n)
  let fold2 := bitAt (imgFlags b) 3
  let regions := List.range (f 0x88 2)
  decide (f 0 4 ≠ 0x1CE50B07) || decide (f 4 2 ≠ 1) || decide (f 6 2 ≠ 0x100) || decide (f 8 4 < 256) || decide (f 8 4 ≠ n)
    || decide (imgFlags b / 16 ≠ 0) || decide (f 0x14 4 ≠ 0) || (sliceBytes b 0xA8 24).any (fun x => decide (x ≠ 0))
    || !(inRange 5000 1000000 (f 0x18 4)) || !(inRange 1 4096 (f 0x1C 4)) || decide (4096 < f 0xA4 4)
    || !(inRange 1 256 (f 0x88 2)) || decide (64 < f 0x8A 2) || decide (256 < f 0x8C 2) || decide (16 < f 0x8E 2)
    || decide (f 0x9C 4 % 16 ≠ 0)
    || (if fold2 then decide (f 0xA0 4 = 0) || decide (f 0xA4 4 = 0) else decide (f 0xA0 4 ≠ 0) || decide (f 0xA4 4 ≠ 0))
    || !(inside (f 0x90 4) (32 * f 0x88 2)) || !(inside (f 0x94 4) (4 * f 0x8A 2 + 8 * f 0x8C 2))
    || !(inside (f 0x98 4) (8 * f 0x8E 2 * f 0x10 2)) || !(inside (f 0x9C 4) (16 * f 0x1C 4))
    || (fold2 && !(inside (f 0xA0 4) (16 * f 0xA4 4)))
    || regions.any (fun i => regionEntryBad b (f 0x90 4 + 32 * i))

def digestBad (b : List Byte) : Bool := decide (sha512 (b.take 0xC0 ++ zeros 64 ++ b.drop 0x100) ≠ sliceBytes b 0xC0 64)

/-! ### The words in body order, each loop body twice (R101) -/

/-- Whether the loop body from `pos` holds a CAL_TAP before its ENDLOOP. -/
def bodyTaps : Nat → List OpWord → Bool
  | _, [] => false
  | d, w :: rest =>
    match w with
    | .loop _ => bodyTaps (d + 1) rest
    | .endLoop _ => if d = 0 then false else bodyTaps (d - 1) rest
    | .calTapOpen _ => true
    | .calTapPush _ => true
    | .calTapClose _ => true
    | _ => bodyTaps d rest

/-- An open loop of the analysis: trip count, first word of the body, whether it is in its second iteration, and the weight of
that iteration for words that a Caliper may watch. -/
structure OpenLoop where
  trip : Nat
  start : Nat
  second : Bool
  weight : Nat
  deriving DecidableEq, Repr

/-- The words that the analysis visits, with the number of times each stands for; LOOP and ENDLOOP are left out. -/
def expandGo (ws : List OpWord) : Nat → Nat → List OpenLoop → List (OpWord × Nat)
  | 0, _, _ => []
  | fuel + 1, pos, open_ =>
    match ws[pos]? with
    | none => []
    | some w =>
      match w with
      | .loop x =>
        let taps := bodyTaps 0 (ws.drop (pos + 1))
        if open_.length < 4 then
          expandGo ws fuel (pos + 1) (⟨x.trip.toNat, pos + 1, false, if taps then 1 else x.trip.toNat - 1⟩ :: open_)
        else expandGo ws fuel (pos + 1) open_
      | .endLoop _ =>
        match open_ with
        | [] => expandGo ws fuel (pos + 1) []
        | l :: rest =>
          if l.second || decide (l.trip ≤ 1) then expandGo ws fuel (pos + 1) rest
          else expandGo ws fuel l.start ({ l with second := true } :: rest)
      | _ => (w, open_.foldl (fun a l => if l.second then a * l.weight else a) 1) :: expandGo ws fuel (pos + 1) open_

def expandBody (ws : List OpWord) : List (OpWord × Nat) := expandGo ws (32 * ws.length + 32) 0 []

/-! ### What the analysis tracks -/

/-- Units `lo` to `hi − 1` last written as entries of `units` units each from unit `base`; `units` is 0 for QZERO. -/
structure ChuckSeg where
  lo : Nat
  hi : Nat
  units : Nat
  base : Nat
  deriving DecidableEq, Repr

/-- What the words so far have left. `maybe` holds units that a CONV or a GRAD_PAIR may have written: how far it writes stands in
a descriptor that load validation does not see. -/
structure Scan where
  arrs : ArrCfg × ArrCfg := ({}, {})
  segs : List ChuckSeg := []
  maybe : List ChuckSeg := []
  slots : List Nat := []
  chans : List (Nat × Nat) := []
  pairs : List (Nat × Nat × Nat) := []
  opened : Bool := false
  watching : Bool := false
  watched : Nat := 0
  deriving DecidableEq, Repr

def Scan.arr (k : Scan) (i : Nat) : ArrCfg := if i = 0 then k.arrs.1 else k.arrs.2

def Scan.updArr (k : Scan) (i : Nat) (f : ArrCfg → ArrCfg) : Scan :=
  { k with arrs := if i = 0 then (f k.arrs.1, k.arrs.2) else (k.arrs.1, f k.arrs.2) }

/-- The parts of the ranges outside units `lo` to `hi − 1`. -/
def cutRange (lo hi : Nat) (rs : List (Nat × Nat)) : List (Nat × Nat) :=
  rs.flatMap (fun r =>
    if r.2 ≤ lo ∨ hi ≤ r.1 then [r]
    else (if r.1 < lo then [(r.1, lo)] else []) ++ (if hi < r.2 then [(hi, r.2)] else []))

/-- Segments without units `lo` to `hi − 1`. -/
def cutSegs (lo hi : Nat) (segs : List ChuckSeg) : List ChuckSeg :=
  segs.flatMap (fun s => (cutRange lo hi [(s.lo, s.hi)]).map (fun r => { s with lo := r.1, hi := r.2 }))

/-- A write of `n` entries of `units` units from unit `q`. -/
def Scan.write (k : Scan) (q n units : Nat) : Scan :=
  let hi := q + n * max 1 units
  { k with segs := ⟨q, hi, units, q⟩ :: cutSegs q hi k.segs, maybe := cutSegs q hi k.maybe }

/-- A write of entries of `units` units from unit `q`, of which `n` are sure and the others, up to the end of the half of the Chuck,
are not. -/
def Scan.writeFrom (k : Scan) (q n units : Nat) : Scan :=
  let k1 := k.write q n units
  { k1 with maybe := ⟨q + n * units, if q < 49152 then 49152 else chuckUnits, units, q⟩ :: k1.maybe }

/-- Whether the segments cover units `q` to `hi − 1`. -/
def covers (segs : List ChuckSeg) (q hi : Nat) : Bool := (segs.foldl (fun rs s => cutRange s.lo s.hi rs) [(q, hi)]).isEmpty

/-- Whether every unit of a range has been written, or may have been. -/
def Scan.defined (k : Scan) (q n units : Nat) : Bool := n * units = 0 || covers (k.segs ++ k.maybe) q (q + n * units)

/-- Whether every unit of a range was last written, or may have been, by QZERO or as part of the entry of this width that it is read
in. -/
def Scan.fits (k : Scan) (q n units : Nat) : Bool :=
  n * units = 0 || covers ((k.segs ++ k.maybe).filter (fun s => decide (s.units = 0)
    || (decide (s.units = units) && decide (s.base % units = q % units)))) q (q + n * units)

/-- Whether some unit that has been written can be part of an entry of this width. -/
def Scan.holds (k : Scan) (units : Nat) : Bool := (k.segs ++ k.maybe).any (fun s => decide (s.units = 0) || decide (s.units = units))

/-- Entries that a word reads or adds to: first unit, count, units of each. CONV, GRAD_PAIR and QUANT take their extents from a
descriptor: of an adding word only the least extent is known, and of a QUANT none. -/
def Scan.reads (k : Scan) (w : OpWord) : List (Nat × Nat × Nat) :=
  let matrix (unit m n q : Nat) : List (Nat × Nat × Nat) := (unitArrays unit).map (fun i =>
    let side := sideColumns unit n i
    match (k.arr i).cls with
    | some x => (q + side.2.2, m * side.2.1, x.2.units)
    | none => (q, 0, 1))
  match w with
  | .mma x => if x.acc = 1 then matrix x.unit.toNat (x.mm1.toNat + 1) (x.nm1.toNat + 1) x.qBase.toNat else []
  | .mmaT x => if x.acc = 1 then matrix x.unit.toNat (x.mm1.toNat + 1) (x.nm1.toNat + 1) x.qBase.toNat else []
  | .conv x =>
    if x.acc = 1 then matrix x.unit.toNat 1 (if x.unit.toNat = 2 then 33 else 1) x.qBase.toNat else []
  | .gradPair x =>
    (if x.dxen = 1 ∧ x.accx = 1 then [(x.qxBase.toNat, 1, (gradClass (Fmt.ofCode x.gfmt) (Fmt.ofCode x.wfmt)).2.units)] else [])
      ++ (if x.dwen = 1 ∧ x.accw = 1 then [(x.qwBase.toNat, 1, (gradClass (Fmt.ofCode x.gfmt) (Fmt.ofCode x.xfmt)).2.units)] else [])
  | .qstore x => [(x.qBase.toNat, (x.mm1.toNat + 1) * (x.nm1.toNat + 1), qwUnits x.qw)]
  | .qimgSt x => [(x.qBase.toNat, x.cntm1.toNat + 1, qwUnits x.qw)]
  | .qimgLd x => if x.acc = 1 then [(x.qBase.toNat, x.cntm1.toNat + 1, qwUnits x.qw)] else []
  | .treeStep x => if x.mode = 0 then [(x.base.toNat, x.count.toNat, qwUnits x.qw)] else []
  | _ => []

/-- The analysis after a word that stands for `n` words. -/
def Scan.after (k : Scan) (w : OpWord) (n : Nat) : Scan :=
  let each (unit : Nat) (f : ArrCfg → ArrCfg) : Scan := (unitArrays unit).foldl (fun s i => s.updArr i f) k
  let matrix (unit m cols q : Nat) : Scan := (unitArrays unit).foldl (fun s i =>
    let side := sideColumns unit cols i
    match (k.arr i).cls with
    | some x => s.write (q + side.2.2) (m * side.2.1) x.2.units
    | none => s) k
  match w with
  | .mma x => matrix x.unit.toNat (x.mm1.toNat + 1) (x.nm1.toNat + 1) x.qBase.toNat
  | .mmaT x => matrix x.unit.toNat (x.mm1.toNat + 1) (x.nm1.toNat + 1) x.qBase.toNat
  | .conv x => (unitArrays x.unit.toNat).foldl (fun s i =>
      let side := sideColumns x.unit.toNat (if x.unit.toNat = 2 then 33 else 1) i
      match (k.arr i).cls with
      | some y => s.writeFrom (x.qBase.toNat + side.2.2) side.2.1 y.2.units
      | none => s) k
  | .gradPair x =>
    let k1 := if x.dxen = 1 then k.writeFrom x.qxBase.toNat 1 (gradClass (Fmt.ofCode x.gfmt) (Fmt.ofCode x.wfmt)).2.units else k
    if x.dwen = 1 then k1.writeFrom x.qwBase.toNat 1 (gradClass (Fmt.ofCode x.gfmt) (Fmt.ofCode x.xfmt)).2.units else k1
  | .arrCfg x => each x.unit.toNat (fun a => a.withFormats x)
  | .hadamard x => each x.unit.toNat (fun a => { a with rotOn := x.en == 1, rotBlk := x.blk, rotFmt := x.srcfmt })
  | .smooth x => each x.unit.toNat (fun a => { a with smoothOn := x.en == 1, smoothBase := x.svBase, smoothFmt := x.srcfmt })
  | .qzero x => k.write x.qBase.toNat x.count.toNat 0
  | .qimgLd x => k.write x.qBase.toNat (x.cntm1.toNat + 1) (qwUnits x.qw)
  | .treeStep x => if x.mode = 0 then k.write x.base.toNat x.count.toNat (qwUnits x.qw) else k
  | .tblLoad x => { k with slots := insertOnce x.slot.toNat k.slots }
  | .reqLoad x => { k with chans := (x.first.toNat, x.first.toNat + x.count.toNat) :: k.chans }
  | .swapDef x =>
    let others := k.pairs.filter (fun (p : Nat × Nat × Nat) => decide (p.1 ≠ x.pair.toNat))
    { k with pairs := (x.pair.toNat, addr64 x.wBase, 2 * addr64 x.hsize) :: others }
  | .calTapOpen x => { k with opened := true, watching := x.tmw == 1, watched := 0 }
  | .calTapPush _ => { k with watching := false }
  | .calTapClose _ => { k with watching := false }
  | .qstore _ => { k with watched := k.watched + n }
  | .quant _ => { k with watched := k.watched + n }
  | _ => k

/-! ### PLAN_OPWORD (R50, R56 and the owning chapters) -/

/-- Whether the panels of a matrix word, with their scale panels, lie in core memory (03 R84, R87). -/
def panelsOk (cfg : ArrCfg) (o : MatrixOperands) : Bool :=
  let aEnd := o.aBase + o.aBytes (sourceFmtA cfg)
  let bEnd := o.bBase + o.bBytes (Fmt.ofCode cfg.fmtB)
  let groups := ceilDiv o.k (scaleGroup cfg.sgrp)
  decide (aEnd ≤ coreMemBytes) && decide (bEnd ≤ coreMemBytes)
    && (decide (cfg.bsm.toNat % 2 = 0) || decide (align64 aEnd + groups * o.m * scaleBytes (cfg.scfA == 1) ≤ coreMemBytes))
    && (decide (cfg.bsm.toNat / 2 = 0) || decide (align64 bEnd + groups * o.n * scaleBytes (cfg.scfB == 1) ≤ coreMemBytes))

def Scan.matrixOk (k : Scan) (w : MmaWord) (trans : Bool) : Bool :=
  let o : MatrixOperands :=
    { m := w.mm1.toNat + 1, n := w.nm1.toNat + 1, k := w.k.toNat, aBase := addr64 w.aBase, bBase := addr64 w.bBase
      aTrans := trans && w.tside == 0, bTrans := trans && w.tside == 1 }
  (unitArrays w.unit.toNat).all (fun i =>
    let side := sideColumns w.unit.toNat o.n i
    panelsOk (k.arr i) o && (match (k.arr i).cls with
      | some x => decide (w.qBase.toNat + side.2.2 + o.m * side.2.1 * x.2.units ≤ (if i = 0 then 49152 else chuckUnits))
      | none => true))

/-- The checks of a word that need the image or the words before it. -/
def Scan.wordBad (k : Scan) (im : Image) (w : OpWord) : Bool :=
  match w with
  | .mma x => !(k.matrixOk x false)
  | .mmaT x => !(k.matrixOk x true)
  | .conv x => (unitArrays x.unit.toNat).any (fun i => match (k.arr i).cls with
      | some y => !(entriesOk x.unit.toNat 1 (if x.unit.toNat = 2 then 33 else 1) x.qBase.toNat y.2.units)
      | none => false)
  | .treeStep x =>
    let n := x.count.toNat
    let fmt := Fmt.ofCode x.pfmt
    let rounds := decide (x.mode = 0) && !im.repro
    let bytes := if rounds then fmt.bytesOf n else if x.mode = 0 then n * 16 * qwUnits x.qw else n * (x.km1.toNat + 1) * 16
    decide ((if x.chip = 1 then im.chips else im.width) ≤ 2 ^ x.level.toNat) || (x.chip == 1 && !im.elastic)
      || (rounds && !(decide (fmt = .p16) || decide (fmt = .fp16) || decide (fmt = .p32) || decide (fmt = .fp32)))
      || (x.arrival == 1 && im.repro)
      || decide (coreMemBytes < addr64 x.land + (if x.arrival = 1 then (im.chips - 2) * ceilDiv bytes 64 * 64 else 0) + bytes)
  | .signal x => decide (im.nParams < x.tparam.toNat)
  | .creditSet x => match im.edges[x.edge.toNat]? with
    | some e => decide (e.credits < x.filled.toNat)
    | none => true
  | .swapDef x => k.pairs.any (fun (p : Nat × Nat × Nat) => decide (p.1 ≠ x.pair.toNat)
      && decide (p.2.1 < addr64 x.wBase + 2 * addr64 x.hsize) && decide (addr64 x.wBase < p.2.1 + p.2.2))
  | .swap x => !(k.pairs.any (fun (p : Nat × Nat × Nat) => decide (p.1 = x.pair.toNat)))
  | .calTapPush _ => !k.opened
  | .calTapClose _ => !k.opened
  | .qstore _ => k.watching && decide (4096 ≤ k.watched)
  | .quant _ => k.watching && decide (4096 ≤ k.watched)
  | _ => false

/-- Runs a check over the visited words. -/
def scanAny (bad : Scan → OpWord → Nat → Bool) : Scan → List (OpWord × Nat) → Bool
  | _, [] => false
  | k, (w, n) :: rest => bad k w n || scanAny bad (k.after w n) rest

/-- Whether the words of a body break R50: an encoding, a field, the place of SLICE_END, or a check of its chapter. -/
def bodyOpwordBad (im : Image) (raw : List (BitVec 128)) : Bool :=
  let ws := raw.filterMap (fun x => decodeOpWord x.toNat)
  let isEnd (w : OpWord) : Bool := match w with
    | .sliceEnd _ => true
    | _ => false
  decide (ws.length ≠ raw.length) || ws.any (fun w => !(opWordOk w))
    || !((ws.getLast?.map isEnd).getD false) || ws.dropLast.any isEnd
    || scanAny (fun k w n => k.wordBad im w || (k.watching && decide (4096 < k.watched + n) && (match w with
        | .qstore _ => true
        | .quant _ => true
        | _ => false))) {} (expandBody ws)

/-! ### PLAN_LOOP (R53) -/

def loopsBad : Nat → List OpWord → Bool
  | d, [] => decide (d ≠ 0)
  | d, w :: rest =>
    match w with
    | .loop _ => !(loopOk w) || decide (4 ≤ d) || loopsBad (d + 1) rest
    | .endLoop _ => !(loopOk w) || decide (d = 0) || loopsBad (d - 1) rest
    | _ => loopsBad d rest

/-! ### PLAN_FORMAT -/

def profSource (c : BitVec 4) : Bool :=
  let f := Fmt.ofCode c
  f.isPosit || decide (f = .int8) || (f.isFloat && decide (f ≠ .fp64))

def profDest (c : BitVec 4) : Bool := profSource c && decide (Fmt.ofCode c ≠ .int8)

def codeDest (c : BitVec 4) : Bool := (Fmt.ofCode c).is8 || decide (Fmt.ofCode c = .c4)

/-- Storage that an operand conversion may read: no C4, FP64 or quire image. -/
def convertSource (f : Fmt) : Bool := !(f.isQuire || decide (f = .c4) || decide (f = .fp64))

/-- R81 and R185 for one array word on the arrays of `unit`. -/
def Scan.arrayFormatBad (k : Scan) (unit : Nat) (isConv : Bool) (len : Nat) : Bool :=
  let one (a : ArrCfg) : Bool :=
    let fa := Fmt.ofCode a.fmtA
    let fb := Fmt.ofCode a.fmtB
    let cls := operandClass fa fb (a.bsm ≠ 0)
    let on := a.smoothOn || a.rotOn
    cls.isNone || (decide (fb = .c4) && decide (a.gsize = 0))
      || (decide (a.bsm ≠ 0) && (match cls with
        | some (.c16, _) => true
        | some (.c32, _) => true
        | _ => false))
      || (decide (a.za ≠ 0) && decide (fa ≠ .a8z)) || (decide (a.zb ≠ 0) && decide (fb ≠ .a8z))
      || (on && (isConv || (a.rotOn && decide (len % rotBlock a.rotBlk ≠ 0))
        || ((decide (fa = .int8) || decide (fa = .a8z)) && decide (a.bsm.toNat % 2 = 0))
        || (a.smoothOn && !(convertSource (Fmt.ofCode a.smoothFmt))) || (a.rotOn && !(convertSource (Fmt.ofCode a.rotFmt)))
        || (a.smoothOn && a.rotOn && decide (a.smoothFmt ≠ a.rotFmt))))
  let a := k.arr 0
  let b := k.arr 1
  (unitArrays unit).any (fun i => one (k.arr i))
    || (decide (unit = 2) && !(decide (a.fmtA = b.fmtA) && decide (a.fmtB = b.fmtB) && decide (a.gsize = b.gsize)
      && decide (a.bsm = b.bsm) && decide (a.scfA = b.scfA) && decide (a.scfB = b.scfB) && decide (a.sgrp = b.sgrp)
      && decide (a.za = b.za) && decide (a.zb = b.zb)))
    || (decide (unit = 2) && (a.smoothOn || a.rotOn || b.smoothOn || b.rotOn)
      && !(decide (a.smoothOn = b.smoothOn) && decide (a.smoothBase = b.smoothBase) && decide (a.smoothFmt = b.smoothFmt)
        && decide (a.rotOn = b.rotOn) && decide (a.rotBlk = b.rotBlk) && decide (a.rotFmt = b.rotFmt)))

/-- PLAN_FORMAT for one word. DESIGN CHOICE (log entry 30): ARR_CFG is no array word of R81 or R185; the formats it sets are checked at
the words that use them. -/
def Scan.formatBad (k : Scan) (w : OpWord) : Bool :=
  let prof (x : ProfWord) : Bool := !(profSource x.fmtS0 && profSource x.fmtS1 && profSource x.fmtS2 && profDest x.fmtD)
  match w with
  | .mma x => k.arrayFormatBad x.unit.toNat false x.k.toNat
  | .mmaT x => k.arrayFormatBad x.unit.toNat false x.k.toNat
  | .conv x => k.arrayFormatBad x.unit.toNat true 0
  | .gradPair x =>
    let g := Fmt.ofCode x.gfmt
    let wf := Fmt.ofCode x.wfmt
    let xf := Fmt.ofCode x.xfmt
    !(decide (g = .p16) || decide (g = .fp16)) || decide (wf = .a8z) || decide (wf = .fp64) || wf.isQuire
      || !(convertSource xf) || (x.wsc == 1 && !(wf.is8 || decide (wf = .c4))) || (x.xsc == 1 && !xf.is8)
  | .qstore x => (Fmt.ofCode x.dfmt).isQuire || decide (Fmt.ofCode x.dfmt = .a8z)
  | .quant x => !(codeDest x.dfmt)
  | .scaleAdapt x => !(codeDest x.tfmt)
  | .fn x => prof x
  | .shape x => prof x
  | .gate x => prof x
  | .smaxStep x => prof x || !(profDest x.fmtS1)
  | .normStats x => prof x
  | .normApply x => prof x
  | .deriv x => prof x
  | .elem x => prof x
  | .sel x => prof x
  | _ => false

/-! ### Undefined reads, and rows of length 0 -/

/-- The status of a word's reads, in the order of R63. -/
def Scan.readFault (k : Scan) (w : OpWord) : Option Nat :=
  let rs := k.reads w
  let slot (x : BitVec 3) : Bool := !(k.slots.contains x.toNat)
  if rs.any (fun (r : Nat × Nat × Nat) => !(k.defined r.1 r.2.1 r.2.2)) then some stPlanQundef
  else if rs.any (fun (r : Nat × Nat × Nat) => !(k.fits r.1 r.2.1 r.2.2)) then some stPlanQformat
  else
    match w with
    | .shape x => if slot x.slot then some stPlanTblundef else none
    | .gate x => if slot x.slot then some stPlanTblundef else none
    | .deriv x => if slot x.slot then some stPlanTblundef else none
    | .quant x =>
      if x.src = 0 ∧ k.segs.isEmpty ∧ k.maybe.isEmpty then some stPlanQundef
      else if x.src = 0 ∧ !(k.holds (qwUnits x.qw)) then some stPlanQformat
      else if x.req = 1 ∧ k.chans.isEmpty then some stPlanRequndef
      else none
    | .qstore x =>
      let loaded (c : Nat) : Bool := k.chans.any (fun (p : Nat × Nat) => decide (p.1 ≤ c) && decide (c < p.2))
      if x.req = 1 ∧ !((List.range (x.nm1.toNat + 1)).all (fun i => loaded (x.ch0.toNat + i))) then some stPlanRequndef else none
    | _ => none

def scanFirst : Scan → List (OpWord × Nat) → Option Nat
  | _, [] => none
  | k, (w, n) :: rest =>
    match k.readFault w with
    | some st => some st
    | none => scanFirst (k.after w n) rest

def emptyRow (w : OpWord) : Bool :=
  match w with
  | .smaxStep x => decide (x.cols = 0)
  | .normStats x => decide (x.cols = 0)
  | .normApply x => decide (x.cols = 0)
  | _ => false

/-! ### The credit graph (R223) -/

/-- Unit kind and instance of a node: 16 stream engines, two arrays, one of each other unit. -/
def nodeOk (b : List Byte) (i : Nat) : Bool :=
  let n := imgNode b i
  let limit := if n.1 = 1 then 16 else if n.1 = 2 then 2 else 1
  inRange 1 6 n.1 && decide (n.2 < limit) && decide (fieldAt b (fieldAt b 0x94 4 + 4 * i + 2) 2 = 0)

def edgeOk (b : List Byte) (i : Nat) : Bool :=
  let o := edgeOff b i
  let e := edgeAt b i
  let n := fieldAt b 0x8A 2
  decide (fieldAt b o 1 < n) && decide (fieldAt b (o + 1) 1 < n) && decide (1 ≤ e.credits) && decide (e.bytes ≠ 0)
    && decide (e.bytes % max 1 e.credits = 0) && decide (e.bytes ≤ 6291456) && decide (e.bytes / max 1 e.credits % 64 = 0)
    && (decide (e.prodKind = 1) || decide (e.consKind = 1))

def creditBad (b : List Byte) : Bool :=
  (List.range (fieldAt b 0x8A 2)).any (fun i => !(nodeOk b i)) || (List.range (fieldAt b 0x8C 2)).any (fun i => !(edgeOk b i))

/-- Drops, `n` times, the edges whose consumer node starts no edge: what is left lies on or behind a cycle. -/
def pruneEdges : Nat → List (Nat × Nat) → List (Nat × Nat)
  | 0, es => es
  | n + 1, es => pruneEdges n (es.filter (fun e => es.any (fun f => decide (f.1 = e.2))))

/-- Whether the edges, read from producer to consumer, form a directed cycle. -/
def creditCycle (b : List Byte) : Bool :=
  let es := (List.range (fieldAt b 0x8C 2)).map (fun i => (fieldAt b (edgeOff b i) 1, fieldAt b (edgeOff b i + 1) 1))
  !(pruneEdges (es.length + 1) es).isEmpty

/-! ### Regions (R61, R247, R299) -/

def State.regionBad (s : State) (im : Image) (r : Region) : Bool :=
  let t := r.target
  let o := r.key % 2 ^ 44
  if decide (im.chips ≤ r.chip) then true
  else if t < 0x80 then decide (im.width ≤ t) || decide (coreMemBytes < o + r.bytes)
  else if t = 0xFE then decide (2 ^ 44 < o + r.bytes)
  else !(s.hbm.validKey true r.key && s.hbm.validKey true (r.key + r.bytes - 1)
    && decide (o / mirrorBit = (o + r.bytes - 1) / mirrorBit) && decide (o + r.bytes ≤ 2 ^ 44))

def State.mirrorBad (s : State) (r : Region) : Bool :=
  decide (r.kind = 5) && !(isMirrored r.key && isMirrored (r.key + r.bytes - 1) && s.hbm.validKey true r.key
    && s.hbm.validKey true (r.key + r.bytes - 1))

/-! ### Usable cycles (10 R262) -/

/-- Nominal core frequency of a point in MHz. -/
def pointMhz (p : Nat) : Nat := [1800, 1600, 1400, 1200, 900, 600].getD p 0

/-- U(P): the usable core cycles of a turn of `ticks` at down-spread code `spread`. -/
def usable (ticks spread p : Nat) : Nat :=
  (ticks * 10 - 7000) * pointMhz p * (10000 - (if spread = 2 then 50 else if spread = 1 then 25 else 0)) / 10000000

/-- The non-zero entries of a cycle table are equal. -/
def cyclesEqual (l : List Nat) : Bool :=
  match l.filter (fun c => decide (c ≠ 0)) with
  | [] => true
  | c :: rest => rest.all (fun d => decide (d = c))

def State.cyclesBad (s : State) (im : Image) : Bool :=
  let fit (l : List Nat) : Bool := (List.range 6).any (fun p => decide (l.getD p 0 ≠ 0)
    && decide (l.getD p 0 ≤ usable s.turn.ticks s.hbm.layout.spread p))
  !(cyclesEqual im.cycles) || !(cyclesEqual im.cycles2) || im.cycles.all (fun c => decide (c = 0))
    || (im.fold2 && im.cycles2.all (fun c => decide (c = 0))) || !(fit im.cycles || fit im.cycles2)

/-! ### The table of R63 -/

/-- The first check that fails, of an image of `n` bytes by its chain table entry. -/
def State.imageStatus (s : State) (b : List Byte) (n : Nat) : Option Nat :=
  if headerBad b n then some stPlanHeader
  else if digestBad b then some stPlanDigest
  else
    let im := readImage b
    let raws := if im.fold2 then [im.body, im.body2] else [im.body]
    let bodies := raws.map (fun r => r.filterMap (fun x => decodeOpWord x.toNat))
    let words := bodies.map expandBody
    if raws.any (bodyOpwordBad im) then some stPlanOpword
    else if bodies.any (loopsBad 0) then some stPlanLoop
    else if words.any (scanAny (fun k w _ => k.formatBad w) {}) then some stPlanFormat
    else
      match words.findSome? (scanFirst {}) with
      | some st => some st
      | none =>
        if !(inRange 1 128 im.width) || !(inRange 1 4096 im.chips) || (decide (s.gradeCores < im.width) && !im.fold2) then
          some stPlanWidth
        else if creditBad b then some stPlanCredit
        else if creditCycle b then some stPlanCreditCycle
        else if bodies.any (fun ws => ws.any emptyRow) then some stPlanEmptyRow
        else if 4 * 2 ^ 20 < im.stashCore ∨ s.hbm.layout.stashPool < im.stashHbm * 1024 then some stPlanStash
        else if im.regions.any s.mirrorBad then some stPlanMirror
        else if im.regions.any (fun r => r.onHost && !(inRange 1 2 r.kind)) then some stPlanHostkind
        else if im.regions.any (s.regionBad im) then some stPlanRegion
        else if s.cyclesBad im then some stPlanCycles
        else none

/-! ### Chain tables (11 R315) -/

/-- A stash plan entry (07 R203) at offset `o`. -/
def stashAt (b : List Byte) (o : Nat) : StashSeg :=
  ⟨fieldAt b o 2, fieldAt b (o + 2) 2, fieldAt b (o + 4) 4, fieldAt b (o + 8) 2, fieldAt b (o + 10) 2⟩

/-- Whether a chain table of `n` bytes breaks R315, its stash plan read from host memory. -/
def chainBad (b : List Byte) (n : Nat) (stash : List Byte) : Bool :=
  let ns := fieldAt b 6 2
  let nst := fieldAt b 0x10 2
  decide (fieldAt b 0 4 ≠ 0x1CE5C4A1) || decide (fieldAt b 4 2 ≠ 1) || !(inRange 1 4096 ns) || decide (256 < nst)
    || (sliceBytes b 0x12 46).any (fun x => decide (x ≠ 0)) || decide (n ≠ 0x40 + 16 * ns)
    || decide ((fieldAt b 8 8 = 0) ≠ (nst = 0))
    || (List.range ns).any (fun i => decide (fieldAt b (0x40 + 16 * i + 8) 4 < 256) || decide (fieldAt b (0x40 + 16 * i + 12) 4 ≠ 0))
    || (List.range nst).any (fun i =>
      let g := stashAt stash (16 * i)
      decide (fieldAt stash (16 * i + 12) 4 ≠ 0) || decide (g.fwdCount = 0) || decide (g.rcCount = 0)
        || decide (ns < g.fwdFirst + g.fwdCount) || decide (ns < g.rcFirst + g.rcCount))

/-- The result of loading a plan: a status other than OK, or the plan. -/
inductive Loaded where
  | rejected (st : Nat) (images : Nat)
  | loaded (p : Plan)

/-- Validates images in chain order. A plan that is loaded again after a loss of VIN stays under the limits against which it was admitted
(13 R354, R373): `again` checks only that its images stand whole. -/
def State.loadImages (s : State) (again : Bool) : List (Nat × Nat) → List Image → Except Nat (List Image)
  | [], acc => .ok acc.reverse
  | (a, n) :: rest, acc =>
    let b := s.hostBytes a n
    match (if again then (if headerBad b n then some stPlanHeader else if digestBad b then some stPlanDigest else none)
      else s.imageStatus b n) with
    | some st => .error st
    | none => s.loadImages again rest (readImage b :: acc)

/-- Loads and validates the chain table at host address `a` of `n` bytes, and its images. `images` is 1 where an image is
rejected. -/
def State.loadPlan (s : State) (fn id a n : Nat) (again : Bool := false) : Loaded :=
  let b := s.hostBytes a (min n (0x40 + 16 * 4096))
  let ns := fieldAt b 6 2
  let nst := fieldAt b 0x10 2
  let stashBytes := s.hostBytes (fieldAt b 8 8) (16 * nst)
  if n < 0x40 ∨ chainBad b n stashBytes then .rejected stPlanChain 0
  else
    let entries := (List.range ns).map (fun i => (fieldAt b (0x40 + 16 * i) 8, fieldAt b (0x40 + 16 * i + 8) 4))
    match s.loadImages again entries [] with
    | .error st => .rejected st 1
    | .ok ims =>
      let stash := (List.range nst).map (fun i => stashAt stashBytes (16 * i))
      let sum := stash.foldl (fun t g => t + g.hbmKib) 0
      let odig := sha512 (ims.flatMap (fun im => im.digest))
      if ims.any (fun im => decide (im.stashHbm ≠ sum)) then .rejected stPlanChain 0
      else .loaded ⟨fn, id, a, n, odig, ims, stash, false, []⟩

end Sys2Proof.Machine
end

