-- ==== Sys2Proof/Machine/SessionOps.lean ====
section
/-! DEFINITION. Sessions, key slots and ownership (16 R434 to R450), and configuration epoch steps (13 R353, R355, R370 to R373). -/

namespace Sys2Proof.Machine

/-! ### Epoch steps -/

def kindOf : EpochStep → Nat
  | .regs _ => 0
  | .bind _ _ _ _ _ => 1
  | .owner => 2
  | .unbind _ => 3
  | .slot => 4

/-- The value of an EPOCH_STEP record: epoch, step and boundary list; a record that a step takes ahead of its head (R441) is marked.
DESIGN CHOICE (log entry 28): the spec lists the contents and gives no layout. -/
def epochValue (epoch : Nat) (step : EpochStep) (bound : List (Nat × Nat)) (ahead : Bool := false) : List Byte :=
  let entries := match step with
    | .regs es => es
    | _ => []
  let who : List Byte := match step with
    | .bind g slot role fn _ => [BitVec.ofNat 8 role] ++ le16 g ++ [BitVec.ofNat 8 slot, BitVec.ofNat 8 fn]
    | .unbind g => [0] ++ le16 g ++ [0, 0]
    | _ => zeros 5
  le32 epoch ++ le16 entries.length ++ le16 bound.length ++ [BitVec.ofNat 8 (kindOf step)] ++ who
    ++ [if ahead then 1 else 0, 0]
    ++ entries.flatMap (fun (e : Nat × Nat) => le32 e.1 ++ le32 e.2)
    ++ bound.flatMap (fun (e : Nat × Nat) => le16 e.1 ++ le64 e.2)

/-- Rings with ACCEPTED above COMPLETED (R355). -/
def State.boundaries (s : State) : List (Nat × Nat) :=
  s.rings.filterMap (fun e => match e.2 with
    | some x => if x.cmp < x.acc then some (e.1, x.acc) else none
    | none => none)

def State.endSession (s : State) (g : Nat) : State :=
  { s with sec := { s.sec with sessions := SMap.set none s.sec.sessions g none } }

/-- Ends every session that the test names. -/
def State.endSessions (s : State) (p : Nat → Session → Bool) : State :=
  { s with sec := { s.sec with sessions := s.sec.sessions.filter (fun e => match e.2 with
      | some x => !(p e.1 x)
      | none => false) } }

/-- Writes the keyed fields of a register. -/
def State.putKeyed (s : State) (off v : Nat) : State :=
  (regFields off).foldl (fun t f => if f.key.isSome then t.setFld f (bitField v f.lsb f.width) else t) s

/-- The keys of the slot that is being activated come into force, but for those that wait for a cold reset, and its firmware takes over: a
seal with REASON 3 follows (15 R429 step 3). -/
def State.applySlot (s : State) (a : Activation) : State :=
  let keys := (List.range 250).filterMap (fun k => (keyFieldOf k).map (fun f => (k, f)))
  let s1 := keys.foldl (fun t e => if e.2.late then t else t.setFld e.2 (slotKeyVal (s.slot a.slot) e.1)) s
  let s2 := s1.endSessions (fun g _ => decide (s1.ringOwner (16 * g) ≠ s.ringOwner (16 * g)))
  { s2 with
    nv := { s2.nv with activation := some { a with
      takeover := some s.turn.ord
      oldKeys := keys.map (fun e => (e.1, s.fld e.2))
      epoch := s2.fld errEpoch } }
    audit := { s2.audit with reasons := s2.audit.reasons ++ [3] } }

/-- What an epoch step sets (R371, R441, R442, R449; 15 R429); a write of DBMODE ends doorbell fallback (11 R304). -/
def State.applyStep (s : State) (step : EpochStep) : State :=
  match step with
  | .regs es =>
    let s1 := es.foldl (fun t (e : Nat × Nat) => t.putKeyed e.1 e.2) s
    let s2 := s1.endSessions (fun g _ => decide (s1.ringOwner (16 * g) ≠ s.ringOwner (16 * g)))
    if es.any (fun e => decide (e.1 = hifDbmode.off)) then { s2 with access := { s2.access with fallback := [] } } else s2
  | .bind g slot role fn ch => { s with sec := { s.sec with sessions := SMap.set none s.sec.sessions g (some ⟨slot, role, fn, ch⟩) } }
  | .unbind g => s.endSession g
  | .slot => match s.nv.activation with
    | some a => s.applySlot a
    | none => s
  | .owner =>
    match s.sec.pendingOwner with
    | none => s
    | some (o, k) =>
      let sec := { s.sec with owner := some o, slots := SMap.set none s.sec.slots 0 (some k), pendingOwner := none, sessions := [] }
      ((({ s with sec := sec }).setFlag secOwned true).setFlag secOsig (decide (o.ofl % 2 = 1))).log .ownershipTaken {}

/-- Type and value of the record of a step that begins epoch `epoch`: EPOCH_STEP with its boundary list (R353, R355), or ACTIVATE. -/
def State.epochRecord (s : State) (epoch : Nat) (step : EpochStep) : Nat × List Byte :=
  match step, s.nv.activation with
  | .slot, some a => (rtActivate, activateValue a.slot (s.slot a.slot).gen epoch false)
  | _, _ => (rtEpoch, epochValue epoch step s.boundaries)

/-- An epoch step takes its record and applies at a head; the operation that it ends waits for the record (R353, R372), but for a step whose
records came before it, which ends its operation at that turn's tail (R441, R449). -/
def State.applyEpoch (s : State) (x : EpochItem) : State :=
  let s1 := s.bump errEpoch 1
  let r := s1.epochRecord (s1.fld errEpoch) x.step
  let st := s1.nvStore r.1 r.2
  (st.1.applyStep x.step).updWork x.ring x.seq (fun w => match w.admin with
    | .epoch n =>
      { w with
        admin := if n ≤ 1 then .none else .epoch (n - 1)
        result := if n ≤ 1 then some stOk else w.result
        stores := if x.needs.isEmpty then w.stores ++ [st.2] else w.stores }
    | _ => w)

/-- The hold-up check holds a step back: EPOCH_WAIT counts the head, and the record is deferred once. -/
def State.holdEpoch (s : State) (x : EpochItem) (rest : List EpochItem) : State :=
  let s1 := s.bump errEpochWait 1
  let s2 := { s1 with epochs := s1.epochs ++ { x with deferred := true } :: rest }
  if x.deferred then s2 else (s2.log .holdupLow {}).bump nviDefers 1

/-- Whether a step may apply at a head at which a step of a list has (`listDone`) or has not applied. -/
def State.epochDue (s : State) (listDone : Bool) (x : EpochItem) : Bool := x.needs.all s.stored && !(x.list && listDone)

/-- Applies the epoch steps of a head, in the order in which they were staged, up to one step of lists; a step that is not due waits, and
where the hold-up check fails all of them wait. -/
def State.applyEpochsGo : List EpochItem → Bool → State → State
  | [], _, s => s
  | x :: rest, listDone, s =>
    if !(s.epochDue listDone x) then State.applyEpochsGo rest listDone { s with epochs := s.epochs ++ [x] }
    else if s.chunkPages = 0 then s.holdEpoch x rest
    else State.applyEpochsGo rest (listDone || x.list) (s.applyEpoch x)

def State.applyEpochs (s : State) : State := State.applyEpochsGo s.epochs false { s with epochs := [] }

/-! ### Authentication (R439 to R443) -/

/-- A 32-byte challenge of the random generator: free bytes. -/
def State.newChallenge (s : State) : List Byte × State :=
  ((List.range 32).map (fun i => Config.freeByte 300 s.freeCtr i), s.tickFree)

/-- The message that the MAC of a SESSION_OPEN or SB_OPEN covers. -/
def macMessage (challenge : List Byte) (fn role kslot group : Nat) : List Byte :=
  ascii "IKB7-SES" ++ challenge ++ Config.partDigest 0 ++ [BitVec.ofNat 8 fn, BitVec.ofNat 8 role, BitVec.ofNat 8 kslot, 0]
    ++ le16 group ++ le16 0

/-- A failed attempt on a key slot: it counts, and locks the slot at AUTH_TRIES. -/
def State.authFailed (s : State) (kslot : Nat) : State :=
  let n := SMap.get 0 s.sec.fails kslot + 1
  let s1 := (({ s with sec := { s.sec with fails := SMap.set 0 s.sec.fails kslot n } }).bump secAuthFails 1).log .authFail
    { detail := kslot }
  if s1.fld secAuthTries ≤ n then
    let s2 := { s1 with sec := { s1.sec with
      lockouts := SMap.upd 0 s1.sec.lockouts kslot (fun x => x + 1)
      locked := insertOnce kslot s1.sec.locked } }
    (s2.bump secLockouts 1).log .authLocked { detail := kslot }
  else s1

def State.authPassed (s : State) (kslot : Nat) : State :=
  { s with sec := { s.sec with fails := SMap.set 0 s.sec.fails kslot 0, lockouts := SMap.set 0 s.sec.lockouts kslot 0 } }

/-- Whether a group lies in the scope of a key slot (R438). -/
def State.slotCovers (s : State) (k : KeySlot) (g : Nat) : Bool :=
  decide (k.gfirst ≤ g) && decide (g < k.gfirst + k.gcount) && (decide (k.fn = 0xFF) || decide (s.ringOwner (16 * g) = k.fn))

/-- SESSION_OPEN's checks in the order of R441, then the record that the session waits for; `resp` is the 80-byte response. -/
def State.openSession (s : State) (ring seq fn g : Nat) (resp : List Byte) : Nat × State :=
  match SMap.get none s.sec.challenges g with
  | none => (stChallengeStale, s)
  | some ch =>
    let s1 := { s with sec := { s.sec with challenges := SMap.set none s.sec.challenges g none } }
    let kslot := fieldAt resp 0 1
    let role := fieldAt resp 1 1
    if s1.sec.locked.contains kslot then (stAuthLocked, s1)
    else
      match SMap.get none s1.sec.slots kslot with
      | none => (stKeySlotBad, s1)
      | some k =>
        if k.role ≠ role ∨ k.kfl % 2 = 1 ∨ !(s1.slotCovers k g) ∨ s1.ringOwner (16 * g) ≠ fn then (stKeySlotBad, s1)
        else if hmacSha512 k.key (macMessage ch fn role kslot g) = sliceBytes resp 16 64 then
          let step := EpochStep.bind g kslot role fn ch
          let r := (s1.authPassed kslot).nvStore rtEpoch (epochValue 0 step [] true)
          (stOk, r.1.stageEpoch step ring seq false [r.2])
        else (stAuthFail, s1.authFailed kslot)

/-! ### Key slots (R436, R437, R450) -/

/-- The fields of a ROLE_KEY request: reserved bits, then ranges. -/
def keyRequestReserved (b : List Byte) : Bool :=
  decide (fieldAt b 3 1 / 2 ≠ 0) || (decide (fieldAt b 3 1 % 2 = 0) && (sliceBytes b 8 16).any (fun x => decide (x ≠ 0)))

def keyRequestBad (b : List Byte) : Bool :=
  let role := fieldAt b 1 1
  let fn := fieldAt b 2 1
  let g := fieldAt b 4 2
  let n := fieldAt b 6 2
  decide (4 < role) || (decide (role ≠ 0) && (!(decide (fn ≤ 63) || decide (fn = 0xFF)) || decide (4095 < g) || !(inRange 1 4096 n)
    || decide (4096 < g + n) || (decide (role = 1) && !(decide (fn = 0xFF) && decide (g = 0) && decide (n = 4096)))
    || (decide (fieldAt b 3 1 = 1) && decide (role ≠ 2))))

/-- KW_S of the session that carries the request. -/
def State.sessionKw (s : State) (x : Session) : List Byte :=
  match SMap.get none s.sec.slots x.kslot with
  | some k => (hmacSha512 k.key (ascii "IKB7-KW" ++ x.challenge)).take 32
  | none => zeros 32

/-- Whether some slot other than `kslot` is an Owner slot. -/
def State.otherOwner (s : State) (kslot : Nat) : Bool :=
  s.sec.slots.any (fun e => decide (e.1 ≠ kslot) && (match e.2 with
    | some k => decide (k.role = 1)
    | none => false))

/-- KEY_PROVISION: the status of a refused request, or the state with the record's store queued. -/
def State.provisionKey (s : State) (x : Session) (b : List Byte) : Nat × State × Nat :=
  let kslot := fieldAt b 0 1
  let role := fieldAt b 1 1
  if keyRequestReserved b then (stRsvdNonzero, s, 0)
  else if keyRequestBad b ∨ (role ≠ 1 ∧ !(s.otherOwner kslot)) then (stKeySlotBad, s, 0)
  else
    match (if role = 0 then some (zeros 32) else aesKeyUnwrap (s.sessionKw x) (sliceBytes b 0x18 40)) with
    | none => (stKeySlotBad, s, 0)
    | some key =>
      let value := b.take 0x18 ++ aesKeyWrap (kek "IKB7-RKW") key
      let (s1, sid) := s.nvStore rtRoleKey value
      (stOk, s1, sid)

/-- A stored key slot takes effect at a head: the sessions that use it end. -/
def State.applyKey (s : State) (kslot : Nat) : State :=
  match ((s.nvLog.filter (fun r => decide (r.type = rtRoleKey) && decide (fieldAt r.value 0 1 = kslot))).getLast?) with
  | none => s
  | some r =>
    let used := s.sec.sessions.any (fun e => match e.2 with
      | some x => decide (x.kslot = kslot)
      | none => false)
    let s1 := { s with sec := { s.sec with slots := SMap.set none s.sec.slots kslot (keySlotOf r.value) } }
    let s2 := s1.endSessions (fun _ x => decide (x.kslot = kslot))
    if used then s2.log .keyChanged { detail := kslot } else s2

/-- KEY_LIST's 2,048 bytes. -/
def State.keyList (s : State) : List Byte :=
  (List.range 256).flatMap (fun i => match SMap.get none s.sec.slots i with
    | some k => [BitVec.ofNat 8 i, BitVec.ofNat 8 k.role, BitVec.ofNat 8 k.fn, BitVec.ofNat 8 k.kfl] ++ le16 k.gfirst ++ le16 k.gcount
    | none => zeros 8)

/-! ### Ownership (R449) -/

def derLen (n : Nat) : List Byte :=
  if n < 128 then [BitVec.ofNat 8 n] else if n < 256 then [0x81, BitVec.ofNat 8 n] else 0x82 :: natToBytesBE 2 n

def der (tag : Byte) (body : List Byte) : List Byte := tag :: derLen body.length ++ body

/-- A positive integer, big-endian. -/
def derInt (bs : List Byte) : List Byte :=
  let t := bs.dropWhile (fun b => decide (b = 0))
  der 0x02 (if 128 ≤ (t.getD 0 0).toNat ∨ t.isEmpty then 0 :: t else t)

/-- The DER SubjectPublicKeyInfo of an RSA key. -/
def spki (modulus : List Byte) (exponent : Nat) : List Byte :=
  let alg := der 0x30 ([0x06, 0x09, 0x2A, 0x86, 0x48, 0x86, 0xF7, 0x0D, 0x01, 0x01, 0x01] ++ [0x05, 0x00])
  der 0x30 (alg ++ der 0x03 (0 :: der 0x30 (derInt modulus ++ derInt (natToBytesBE 4 exponent))))

/-- The OWNER record of an ownership block. -/
def ownerValue (b : List Byte) : List Byte :=
  let n := b.take 512
  let head := n ++ sliceBytes b 512 8 ++ sha512 (spki n (fieldAt b 512 4))
  head ++ hmacSha512 (kek "IKB7-OWN") head

/-- The ROLE_KEY record of slot 0 that taking ownership makes. -/
def firstKeyValue (b : List Byte) : List Byte :=
  [0, 1, 0xFF, 0] ++ le16 0 ++ le16 4096 ++ zeros 16 ++ aesKeyWrap (kek "IKB7-RKW") (sliceBytes b 0x208 32)

/-- TAKE_OWNERSHIP's checks in the order of R449, and its two stores. -/
def State.takeOwnership (s : State) (ring seq : Nat) (b : List Byte) : Nat × State :=
  if s.owned ∨ s.sec.pendingOwner.isSome then (stOwned, s)
  else if !(s.flag (pinLevel 4)) ∨ s.flag (pinUnstableF 4) then (stPresenceRequired, s)
  else if fieldAt b 512 4 ≠ 65537 ∨ fieldAt b 516 4 / 2 ≠ 0 ∨ (sliceBytes b 0x228 36).any (fun x => decide (x ≠ 0)) then
    (stRsvdNonzero, s)
  else
    let o := ownerValue b
    let k : KeySlot := ⟨1, 0xFF, 0, 0, 4096, zeros 16, sliceBytes b 0x208 32⟩
    let r1 := s.nvStore rtOwner o
    let r2 := r1.1.nvStore rtRoleKey (firstKeyValue b)
    (stOk, ({ r2.1 with sec := { r2.1.sec with pendingOwner := some (ownerOf o, k) } }).stageEpoch .owner ring seq false [r1.2, r2.2])

/-! ### Expiry (R439, R443) -/

/-- CHALLENGE_EXPIRE (R439): 1 s after it was issued, an outstanding challenge is gone. -/
def execChallengeExpire (group : Fin 4096) (s : State) : Host.Outcome State Fault Refusal :=
  .next { s with sec := { s.sec with challenges := SMap.set none s.sec.challenges group.val none } }

/-- LOCKOUT_EXPIRE (R443): the key slot's lockout ends; the failures that led to it still count. -/
def execLockoutExpire (kslot : Fin 256) (s : State) : Host.Outcome State Fault Refusal :=
  .next { s with sec := { s.sec with locked := s.sec.locked.filter (fun k => decide (k ≠ kslot.val)) } }

end Sys2Proof.Machine
end

