-- ==== Sys2Proof/Machine/SlotOps.lean ====
section
/-! DEFINITION. User slots: records of an area, code signatures, SLOT_WRITE and the steps of an activation (15 R412, R413, R416, R417,
R428 to R430; 16 R451). -/

namespace Sys2Proof.Machine

/-! ### Records of an area (R413) -/

/-- The records of an area, or none where a record is malformed or its DIGEST does not verify. -/
def parseRecs : Nat → Nat → List Byte → List (NvRec × List Byte) → Option (List (NvRec × List Byte))
  | 0, _, _, _ => none
  | fuel + 1, i, b, acc =>
    if b.isEmpty then some acc.reverse
    else
      let len := fieldAt b 4 4
      let value := sliceBytes b 0x50 len
      let digest := sliceBytes b 0x10 64
      let size := ceilDiv (80 + len) 16 * 16
      if b.length < 80 + len ∨ fieldAt b 0 2 = 0 ∨ fieldAt b 0 2 = 0xFFFF ∨ fieldAt b 2 2 ≠ 0 ∨ fieldAt b 8 8 ≠ i
          ∨ (sliceBytes b (80 + len) (size - 80 - len)).any (fun x => decide (x ≠ 0)) then none
      else if sha512 (b.take 16 ++ value) ≠ digest then none
      else parseRecs fuel (i + 1) (b.drop size) ((⟨fieldAt b 0 2, i, value⟩, digest) :: acc)

/-! ### Signatures (R416, R451) -/

/-- Whether a SIGNATURE record signs `digest`: signer, key digest and key. -/
def signedBy (signer : Nat) (keydig modulus digest : List Byte) (r : NvRec) : Bool :=
  decide (r.type = 0x28) && decide (r.value.length = 584) && decide (fieldAt r.value 0 1 = signer) && decide (fieldAt r.value 1 1 = 0)
    && decide (sliceBytes r.value 8 64 = keydig) && rsaPssVerify modulus 65537 digest (sliceBytes r.value 0x48 512)

/-- Whether every code record carries the signatures that it needs. -/
def codeSigned (owner : Option Owner) : List (NvRec × List Byte) → Bool
  | [] => true
  | (r, d) :: rest =>
    if isCode r then
      (match rest with
        | (v, _) :: _ => signedBy 1 (Config.partDigest 9) Config.vendorModulus d v
        | [] => false)
      && (match owner with
        | some o => decide (o.ofl % 2 = 0) || (match rest with
          | _ :: (v, _) :: _ => signedBy 2 o.okeydig o.modulus d v
          | _ => false)
        | none => true)
      && codeSigned owner rest
    else codeSigned owner rest

/-! ### SLOT_WRITE (R428) -/

/-- The slot that is not running; slot A where neither is. -/
def State.idleSlot (s : State) : Nat := if s.flag nviNoUser then 0 else 1 - s.fld nviActiveSlot

def State.setSlotOk (s : State) (i : Nat) (sig valid : Bool) : State :=
  let s1 := { s with nv := if i = 0 then { s.nv with slotSigA := sig } else { s.nv with slotSigB := sig } }
  s1.setFlag (if i = 0 then nviSlotAValid else nviSlotBValid) valid

/-- Writes the records at host address `a` into the slot that is not running: the status, and the state. -/
def State.writeSlot (s : State) (a n : Nat) : Nat × State :=
  if s.nv.activation.isSome then (stSlotBusy, s)
  else
    let i := s.idleSlot
    let blank := (s.setSlot i {}).setSlotOk i false false
    let gen := match s.activeSlot with
      | some x => x.gen + 1
      | none => 1
    match parseRecs (n / 80 + 2) 0 (s.hostBytes a n) [] with
    | none => (stSlotInvalid, blank)
    | some recs =>
      let sig := codeSigned s.sec.owner recs
      let x : Slot := { state := 0x7F, gen := gen, epoch := 0, recs := recs.map (fun r => r.1) }
      if s.slotValid x sig then (stOk, (s.setSlot i x).setSlotOk i true true) else (stSlotInvalid, blank)

/-! ### SLOT_ACTIVATE (R429) -/

/-- Step 1: the standby stops following the journal and boots the slot's firmware. -/
def State.startActivation (s : State) (slot ring seq : Nat) : Nat × State :=
  let x := s.slot slot
  if s.nv.activation.isSome then (stSlotBusy, s)
  else if x.state ≠ 0x7F ∨ !(s.slotValid x (if slot = 0 then s.nv.slotSigA else s.nv.slotSigB)) then (stSlotInvalid, s)
  else (stOk, ({ s with nv := { s.nv with activation := some ⟨slot, ring, seq, none, [], false, 0⟩ } }).setFlag nviPending true)

/-- ACTIVATE_TAKEOVER (R429 step 3): the standby is ready; at the next head it takes over, and the slot's keys apply as one epoch step. -/
def execActivateTakeover (s : State) : Host.Outcome State Fault Refusal :=
  match s.nv.activation with
  | none => .next s
  | some a =>
    if a.ready ∨ !s.isReady then .next s
    else .next (({ s with nv := { s.nv with activation := some { a with ready := true } } }).stageEpoch .slot a.ring a.seq false)

/-- The COMPAT that a unit runs (R431). -/
def State.runCompat (s : State) (unit : Nat) : Nat :=
  match s.nv.ucode.find? (fun r => decide (fieldAt r.value 0 1 = unit)) with
  | some r => codeCompat r
  | none => Config.compat unit

/-- ACTIVATE_FINAL (R429 step 5): the slot becomes ACTIVE, MIN_SVN rises to its SVN, and the operation completes with OK. -/
def execActivateFinal (s : State) : Host.Outcome State Fault Refusal :=
  match s.nv.activation with
  | none => .next s
  | some a =>
    match a.takeover with
    | none => .next s
    | some m =>
      if s.turn.ord < m + 9999 then .next s
      else
        let x := s.slot a.slot
        let svn := (slotFirmware x).foldl (fun n r => max n (codeSvn r)) 0
        let s1 := s.setSlot a.slot { x with state := 0x3F, epoch := a.epoch }
        let s2 := { s1 with nv := { s1.nv with activation := none } }
        let s3 := if s2.fld nviMinSvn < svn then (s2.setFld nviMinSvn svn).nvNote rtMinSvn (le32 svn) else s2
        let s4 := (((s3.setFlag nviPending false).setFlag nviNoUser false).setFld nviActiveSlot a.slot).setPair nviGenLo nviGenHi x.gen
        let code := x.recs.filter (fun r => decide (r.type = 0x21))
        let same (r : NvRec) : Bool := decide (codeCompat r = s4.runCompat (fieldAt r.value 0 1))
        let s5 := (code.filter (fun r => !same r)).foldl (fun t _ => t.log .microcodeDefer {})
          { s4 with nv := { s4.nv with ucodeDue := code.filter same } }
        .next (s5.updWork a.ring a.seq (fun w => { w with admin := .none, result := some stOk }))

/-- FW_REJECTED (R430): the activation in progress fails; after its takeover the old firmware takes control back, which is an
MP_TAKEOVER with its record and its seal (12 R332). -/
def execFwRejected (s : State) : Host.Outcome State Fault Refusal :=
  let taken := match s.nv.activation with
    | some a => a.takeover.isSome
    | none => false
  if taken then
    let s1 := (s.rejectActivation.bump errMpTakeovers 1).log .mpTakeover {}
    .next { s1 with audit := { s1.audit with reasons := s1.audit.reasons ++ [3] } }
  else .next s.rejectActivation

end Sys2Proof.Machine
end

