-- ==== Sys2Proof/Machine/AdminOps.lean ====
section
/-! DEFINITION. Admin descriptors (11 R315; 13 R353, R367, R370, R371; 15 R428, R429; 16 R435, R439 to R450): their checks, and what
each does when its descriptor is accepted. -/

namespace Sys2Proof.Machine

/-! ### Fields -/

def Work.fA (w : Work) : Nat := fieldAt w.desc 0x08 4
def Work.fB (w : Work) : Nat := fieldAt w.desc 0x10 8
def Work.fC (w : Work) : Nat := fieldAt w.desc 0x18 8
def Work.fD (w : Work) : Nat := fieldAt w.desc 0x20 8

/-- Reserved fields of an admin descriptor. -/
def adminReserved (w : Work) : Bool :=
  decide (fieldAt w.desc 0x0D 1 / 2 ≠ 0) || decide (fieldAt w.desc 0x0E 2 ≠ 0)
    || (sliceBytes w.desc 0x28 24).any (fun x => decide (x ≠ 0))
    || ((decide (w.op = 0x40) || decide (w.op = 0x48)) && decide (w.fA ≠ 0))

def adminOpKnown (op : Nat) : Bool :=
  [0x10, 0x11, 0x12, 0x20, 0x21, 0x30, 0x40, 0x41, 0x48, 0x49, 0x50, 0x51, 0x52, 0x53, 0x54, 0x56, 0x57].contains op

def ring0Only (op : Nat) : Bool := [0x30, 0x40, 0x48, 0x49, 0x54].contains op

/-- Whether every ring of a range belongs to the function of the admin ring. -/
def State.ownRange (s : State) (fn first count : Nat) : Bool :=
  if fn = 0 then
    ((List.range 63).map (fun i => i + 1)).all (fun v => decide (s.vfCount v = 0) || decide (first + count ≤ 64 * s.vfFirst v)
      || decide (64 * (s.vfFirst v + s.vfCount v) ≤ first))
  else
    let r := s.ringRange fn
    decide (r.1 ≤ first) && decide (first + count ≤ r.1 + r.2)

/-- Whether a field lies outside the range that its row gives. -/
def State.adminFieldsBad (s : State) (w : Work) : Bool :=
  let key := w.fD % 2 ^ 52
  match w.op with
  | 0x10 => decide (w.fB = 0) || decide (65536 < w.fA + w.fB) || !(s.ownRange w.fn w.fA w.fB)
  | 0x11 => decide (w.fB = 0) || decide (65536 < w.fA + w.fB) || !(s.ownRange w.fn w.fA w.fB)
  | 0x12 => decide (65535 < w.fA) || !(s.ownRange w.fn w.fA 1)
  | 0x20 => decide (w.fA = 0)
  | 0x21 => decide (w.fA = 0)
  | 0x30 => decide (w.fC = 0) || decide (w.fD / 2 ^ 52 ≠ 0) || !(s.hbm.validKey true key && s.hbm.validKey true (key + w.fC - 1)
      && decide (key % 2 ^ 44 / mirrorBit = (key + w.fC - 1) % 2 ^ 44 / mirrorBit))
  | 0x40 => decide (w.fC = 0) || decide (4096 < w.fC) || decide (w.fC % 16 ≠ 0)
  | 0x41 => decide (63 < w.fA) || (decide (w.ring ≠ 0) && decide (w.fA ≠ w.fn))
  | 0x48 => decide (48 * 2 ^ 20 - 4096 < w.fC)
  | 0x49 => decide (1 < w.fA)
  | 0x50 => decide (4095 < w.fA)
  | 0x51 => decide (4095 < w.fA) || decide (w.fB % 64 ≠ 0)
  | 0x52 => decide (4095 < w.fA)
  | 0x54 => decide (w.fC ≠ 588)
  | _ => false

/-! ### Roles (16 R435) -/

/-- The entries of a step list. -/
def epochList (b : List Byte) : List (Nat × Nat × Nat) :=
  (List.range (b.length / 16)).map (fun i => (fieldAt b (16 * i + 8) 1, fieldAt b (16 * i) 4, fieldAt b (16 * i + 4) 4))

/-- Groups that a ring operation names. -/
def Work.groups (w : Work) : List Nat :=
  match w.op with
  | 0x10 => (List.range ((w.fA + w.fB - 1) / 16 - w.fA / 16 + 1)).map (fun i => w.fA / 16 + i)
  | 0x11 => (List.range ((w.fA + w.fB - 1) / 16 - w.fA / 16 + 1)).map (fun i => w.fA / 16 + i)
  | 0x12 => [w.fA / 16]
  | 0x52 => [w.fA]
  | _ => []

def State.roleOk (s : State) (w : Work) (x : Session) : Bool :=
  let owner := decide (x.role = 1)
  let operator := decide (x.role = 2)
  let tenant := decide (x.role = 3)
  let auditor := decide (x.role = 4)
  let ownFn := match SMap.get none s.sec.slots x.kslot with
    | some k => decide (k.fn = 0xFF) || decide (k.fn = w.fn)
    | none => false
  let allowed := match w.op with
    | 0x10 => owner || operator || tenant
    | 0x11 => owner || operator || tenant
    | 0x12 => owner || operator || tenant
    | 0x20 => owner || operator || (tenant && ownFn)
    | 0x21 => owner || operator || (tenant && ownFn)
    | 0x30 => owner || operator
    | 0x40 => owner || (operator && (epochList (s.hostBytes w.fB w.fC)).all (fun (e : Nat × Nat × Nat) => decide (e.2.1 / 65536 ≠ 5)))
    | 0x41 => owner || operator
    | 0x48 => owner
    | 0x49 => owner
    | 0x52 => owner || operator || (match s.sessionOf w.fA with
        | some y => decide (y.kslot = x.kslot)
        | none => true)
    | 0x53 => owner && s.owned
    | 0x56 => owner || operator || auditor
    | 0x57 => (owner || operator || auditor) && s.owned
    | _ => true
  allowed && w.groups.all (s.inScope x)

/-- SESSION_CHALLENGE, SESSION_OPEN and TAKE_OWNERSHIP need no session. -/
def noSessionNeeded (op : Nat) : Bool := [0x50, 0x51, 0x54].contains op

/-- Why an accepted admin descriptor does not run. One that is taken up again after a loss of VIN had its session at its first acceptance
(16 R442). -/
def State.adminCheck (s : State) (w : Work) : Option Nat :=
  if !(adminOpKnown w.op) || (ring0Only w.op && decide (w.ring ≠ 0)) then some stBadOp
  else if adminReserved w then some stRsvdNonzero
  else if s.adminFieldsBad w then some stBadOp
  else if noSessionNeeded w.op then (if w.op = 0x51 ∧ !s.owned then some stRoleDenied else none)
  else
    match s.sessionOf (w.ring / 16) with
    | none => if w.rank.rerun then none else some stNoSession
    | some x => if s.roleOk w x || w.rank.rerun then none else some stRoleDenied

/-! ### Rings -/

/-- Enables every ring of a range: the first failing status, and the rings that passed. -/
def State.enableRange (s : State) (first count : Nat) : Nat × List Nat × State :=
  (List.range count).foldl (fun (t : Nat × List Nat × State) i =>
    let e := t.2.2.enableRing (first + i)
    (if t.1 = stOk then e.1 else t.1, if e.1 = stOk then t.2.1 ++ [first + i] else t.2.1, e.2)) (stOk, [], s)

/-- Runs of consecutive numbers, as first and count. -/
def runsOf : List Nat → List (Nat × Nat)
  | [] => []
  | x :: rest =>
    match runsOf rest with
    | (y, n) :: more => if y = x + 1 then (x, n + 1) :: more else (x, 1) :: (y, n) :: more
    | [] => [(x, 1)]

/-- The value of a RING_STATE record. -/
def ringStateValue (fn first count : Nat) (on : Bool) : List Byte :=
  [BitVec.ofNat 8 fn] ++ le16 first ++ le32 count ++ [if on then 1 else 0]

/-- Stores RING_STATE records for rings that are now enabled or disabled. -/
def State.storeRings (s : State) (fn : Nat) (rs : List Nat) (on : Bool) : State × List Nat :=
  (runsOf rs).foldl (fun (t : State × List Nat) e =>
    let r := t.1.nvStore rtRing (ringStateValue fn e.1 e.2 on)
    (r.1, t.2 ++ [r.2])) (s, [])

/-- Stops the sampling of the rings of a range. -/
def State.stopRange (s : State) (first count : Nat) : State :=
  { s with rings := s.rings.map (fun e => (e.1, e.2.map (fun x =>
      if first ≤ e.1 ∧ e.1 < first + count then { x with stopped := true } else x))) }

/-- Stops the sampling of every range that an accepted RING_DISABLE names. -/
def State.stopDisabled (s : State) : State :=
  s.works.foldl (fun t w => match w.admin with
    | .ringDisable first count => t.stopRange first count
    | _ => t) s

/-! ### Plans -/

/-- Whether accepted work that has not completed names a plan. -/
def State.planNamed (s : State) (fn id : Nat) : Bool :=
  s.works.any (fun w => w.isRun && decide (w.fn = fn) && decide (w.planId = id)
    && !(decide (w.result = some stPlanUnknown)))

def planValue (fn id addr bytes : Nat) (odig : List Byte) : List Byte :=
  [BitVec.ofNat 8 fn] ++ le32 id ++ le64 addr ++ le64 bytes ++ odig

/-- PLAN_LOAD: a plan that the ID names already is replaced (DESIGN CHOICE, log entry 30: the spec does not rule on it). -/
def State.planLoad (s : State) (w : Work) : Nat × State × Option Plan :=
  match s.loadPlan w.fn w.fA w.fB w.fC with
  | .rejected st n => (st, s.bump hstPlanReject n, none)
  | .loaded p =>
    let need := p.images.foldl (fun a im => a + im.storeBytes) 0
    let s1 := { s with plans := s.plans.filter (fun (q : Plan) => !(decide (q.fn = w.fn) && decide (q.id = w.fA))) }
    if s.hbm.layout.ringArea < s1.ringAreaUsed + need then (stPlanStoreFull, s, none)
    else (stOk, { s1 with plans := s1.plans ++ [p] }, some p)

/-! ### Configuration epochs (13 R371) -/

/-- Whether a register can be set by an epoch step: a keyed field, none of them late or of another access. -/
def epochReg (off : Nat) : Bool :=
  let fs := (regFields off).filter (fun f => f.key.isSome)
  !fs.isEmpty && fs.all (fun f => !f.late && (decide (f.acc = .rw) || decide (f.acc = .rwg)))

/-- Key values after a list of writes over the values in force. -/
def State.valuesAfter (s : State) (es : List (Nat × Nat)) (k : Nat) : Nat :=
  match keyFieldOf k with
  | none => 0
  | some f => (entryValue f es).getD (s.effKey k)

/-- Whether no enabled ring changes its function under new VF ranges. -/
def State.ringsStay (s : State) (val : Nat → Nat) : Bool :=
  let ranges := vfRanges val
  s.rings.all (fun e => match e.2 with
    | none => true
    | some x =>
      let owner := ((List.range 63).find? (fun i =>
        let r := ranges.getD i (0, 0)
        decide (r.1 ≤ e.1 / 64) && decide (e.1 / 64 < r.1 + r.2))).map (fun i => i + 1)
      decide (owner.getD 0 = x.fn))

def State.epochListOk (s : State) (b : List Byte) : Bool :=
  let es := epochList b
  let last := es.foldl (fun a e => max a e.1) 0
  let upTo (k : Nat) : List (Nat × Nat) :=
    (List.range (k + 1)).flatMap (fun j => (es.filter (fun (e : Nat × Nat × Nat) => decide (e.1 = j))).map (fun e => e.2))
  (List.range (last + 1)).all (fun k => es.any (fun (e : Nat × Nat × Nat) => decide (e.1 = k)))
    && decide (last ≤ 15)
    && (List.range es.length).all (fun i => (sliceBytes b (16 * i + 9) 7).all (fun x => decide (x = 0)))
    && es.all (fun (e : Nat × Nat × Nat) => epochReg e.2.1
        && (regFields e.2.1).all (fun f => f.key.isNone || fieldOk f (bitField e.2.2 f.lsb f.width)))
    && (List.range (last + 1)).all (fun k =>
      let val := s.valuesAfter (upTo k)
      jointOk val && s.ringsStay val)

/-- Queues the steps of a list. -/
def State.stageList (s : State) (w : Work) (b : List Byte) : State :=
  let es := epochList b
  let last := es.foldl (fun a e => max a e.1) 0
  let s1 := (List.range (last + 1)).foldl (fun t k =>
    t.stageEpoch (.regs ((es.filter (fun (e : Nat × Nat × Nat) => decide (e.1 = k))).map (fun e => e.2))) w.ring w.seq true) s
  s1.updWork w.ring w.seq (fun x => { x with admin := .epoch (last + 1) })

/-! ### What each operation does -/

def State.setResult (s : State) (w : Work) (st : Nat) : State :=
  s.updWork w.ring w.seq (fun x => { x with result := some st })

/-- Bytes that an admin operation writes to host memory with its completion. -/
def State.setHostOut (s : State) (w : Work) (a : Nat) (bs : List Byte) : State :=
  s.updWork w.ring w.seq (fun x => { x with hostOut := SMap.setList none x.hostOut a (bs.map some) })

/-- RING_ENABLE. -/
def State.adminRingEnable (s : State) (w : Work) : State :=
  let fresh := (List.range w.fB).filter (fun i => (s.ring (w.fA + i)).isNone)
  let e := s.enableRange w.fA w.fB
  let on := e.2.1.filter (fun r => fresh.contains (r - w.fA))
  let st := e.2.2.storeRings w.fn on true
  st.1.updWork w.ring w.seq (fun x => { x with result := some e.1, stores := st.2 })

/-- RING_DISABLE: sampling of the range stops at the next head. -/
def State.adminRingDisable (s : State) (w : Work) : State :=
  s.updWork w.ring w.seq (fun x => { x with admin := .ringDisable w.fA w.fB })

/-- RING_RESUME. -/
def State.adminRingResume (s : State) (w : Work) : State :=
  match s.ring w.fA with
  | none => s.setResult w stRingConfig
  | some x => (s.setRing w.fA { x with err := none }).setResult w stOk

/-- Runs PLAN_LOAD. -/
def State.planLoadNow (s : State) (w : Work) : State :=
  let r := s.planLoad w
  match r.2.2 with
  | none => r.2.1.setResult w r.1
  | some p =>
    let st := r.2.1.nvStore rtPlan (planValue w.fn w.fA w.fB w.fC p.odig)
    st.1.updWork w.ring w.seq (fun x => { x with result := some stOk, stores := [st.2], odig := p.odig })

/-- PLAN_LOAD; while accepted work names a plan that the ID has already, it waits (DESIGN CHOICE, log entry 30). -/
def State.adminPlanLoad (s : State) (w : Work) : State :=
  if (s.findPlan w.fn w.fA).isSome && s.planNamed w.fn w.fA then s.updWork w.ring w.seq (fun x => { x with admin := .planLoad })
  else s.planLoadNow w

/-- PLAN_UNLOAD: from its acceptance on, work that names the plan gets PLAN_UNKNOWN. -/
def State.adminPlanUnload (s : State) (w : Work) : State :=
  match s.findPlan w.fn w.fA with
  | none => s.setResult w stPlanUnknown
  | some _ =>
    ({ s with plans := s.plans.map (fun (p : Plan) => if p.fn = w.fn ∧ p.id = w.fA then { p with unloading := true } else p) }).updWork
      w.ring w.seq (fun x => { x with admin := .planUnload w.fA })

/-- WSET_LOAD: the set is present (09 R255: a load heals what was lost). -/
def State.adminWsetLoad (s : State) (w : Work) : State :=
  let bs := s.hostBytes w.fB w.fC
  let key := w.fD % 2 ^ 52
  let s1 := s.hbmStore key bs
  let s2 := { s1 with
    hbm := s1.hbm.unlose key w.fC
    wsets := s1.wsets.filter (fun (e : Nat × Nat × Nat) => !(decide (e.1 = w.fA) && decide (e.2.1 = key))) ++ [(w.fA, key, w.fC)] }
  s2.updWork w.ring w.seq (fun x => { x with result := some stOk, odig := sha512 bs })

/-- EPOCH_STAGE. -/
def State.adminEpochStage (s : State) (w : Work) : State :=
  let b := s.hostBytes w.fB w.fC
  if s.epochListOk b then s.stageList w b else s.setResult w stEpochInvalid

/-- PARTITION_RESET: it takes effect at the first head from now, also where a reset comes between (13 R351, R367). -/
def State.adminPartitionReset (s : State) (w : Work) : State :=
  s.updWork w.ring w.seq (fun x => { x with admin := .partition w.fA })

/-- SLOT_WRITE. -/
def State.adminSlotWrite (s : State) (w : Work) : State :=
  let r := s.writeSlot w.fB w.fC
  r.2.setResult w r.1

/-- SLOT_ACTIVATE. -/
def State.adminSlotActivate (s : State) (w : Work) : State :=
  let r := s.startActivation w.fA w.ring w.seq
  if r.1 = stOk then r.2.updWork w.ring w.seq (fun x => { x with admin := .activation }) else r.2.setResult w r.1

/-- SESSION_CHALLENGE. -/
def State.adminSessionChallenge (s : State) (w : Work) : State :=
  let c := s.newChallenge
  let s1 := { c.2 with sec := { c.2.sec with challenges := SMap.set none c.2.sec.challenges w.fA (some c.1) } }
  (s1.setHostOut w w.fB c.1).setResult w stOk

/-- SESSION_OPEN. -/
def State.adminSessionOpen (s : State) (w : Work) : State :=
  let b := s.hostBytes w.fB 80
  if fieldAt b 2 2 ≠ 0 ∨ (sliceBytes b 6 10).any (fun x => decide (x ≠ 0)) then s.setResult w stRsvdNonzero
  else if fieldAt b 4 2 ≠ w.fA then s.setResult w stKeySlotBad
  else
    let r := s.openSession w.ring w.seq w.fn w.fA b
    if r.1 = stOk then r.2.updWork w.ring w.seq (fun x => { x with admin := .epoch 1 }) else r.2.setResult w r.1

/-- SESSION_CLOSE. -/
def State.adminSessionClose (s : State) (w : Work) : State :=
  match SMap.get none s.sec.sessions w.fA with
  | none => s.setResult w stNoSession
  | some _ => (s.stageEpoch (.unbind w.fA) w.ring w.seq false).updWork w.ring w.seq (fun x => { x with admin := .epoch 1 })

/-- KEY_PROVISION. -/
def State.adminKeyProvision (s : State) (w : Work) : State :=
  match s.sessionOf (w.ring / 16) with
  | none => s.setResult w stNoSession
  | some x =>
    let b := s.hostBytes w.fB 64
    let r := s.provisionKey x b
    if r.1 = stOk then r.2.1.updWork w.ring w.seq (fun y => { y with admin := .key (fieldAt b 0 1), stores := [r.2.2] })
    else r.2.1.setResult w r.1

/-- KEY_LIST. -/
def State.adminKeyList (s : State) (w : Work) : State := (s.setHostOut w w.fB s.keyList).setResult w stOk

/-- SEAL_REQUEST. -/
def State.adminSealRequest (s : State) (w : Work) : State :=
  ({ s with audit := { s.audit with reasons := s.audit.reasons ++ [2] } }).setResult w stOk

/-- TAKE_OWNERSHIP. -/
def State.adminTakeOwnership (s : State) (w : Work) : State :=
  let r := s.takeOwnership w.ring w.seq (s.hostBytes w.fB 588)
  if r.1 = stOk then r.2.updWork w.ring w.seq (fun x => { x with admin := .epoch 1 }) else r.2.setResult w r.1

/-- Runs an accepted admin descriptor. -/
def State.adminRun (s : State) (w : Work) : State :=
  match s.adminCheck w with
  | some st => s.setResult w st
  | none =>
    match w.op with
    | 0x10 => s.adminRingEnable w
    | 0x11 => s.adminRingDisable w
    | 0x12 => s.adminRingResume w
    | 0x20 => s.adminPlanLoad w
    | 0x21 => s.adminPlanUnload w
    | 0x30 => s.adminWsetLoad w
    | 0x40 => s.adminEpochStage w
    | 0x41 => s.adminPartitionReset w
    | 0x48 => s.adminSlotWrite w
    | 0x49 => s.adminSlotActivate w
    | 0x50 => s.adminSessionChallenge w
    | 0x51 => s.adminSessionOpen w
    | 0x52 => s.adminSessionClose w
    | 0x53 => s.adminKeyProvision w
    | 0x54 => s.adminTakeOwnership w
    | 0x56 => s.adminSealRequest w
    | _ => s.adminKeyList w

end Sys2Proof.Machine
end

