-- ==== Sys2Proof/Machine/HostOps.lean ====
section
/-! DEFINITION. The ring engine between sampling and completion (11 R303 to R311; 12 R327, R337; 13 R347 to R349): gates, processing of
an accepted descriptor, staging of inputs, staging copies and copy-back, and failed host requests. -/

namespace Sys2Proof.Machine

/-! ### Gates -/

/-- Less than 4 MiB of the 128 MiB trace queue is free (12 R337). -/
def State.traceShort (s : State) : Bool := decide (2097152 - 65536 < s.audit.trace.length)

/-- Whether the ring engine fetches the descriptors that doorbells name (09 R258; 12 R337; 13 R365); in replay it fetches what the trace
names, and nothing once it has diverged (12 R339, R340). -/
def State.fetchOpen (s : State) : Bool :=
  s.isReady && !s.hbm.journalMove && decide (s.errs.nonCorrected ≤ s.fld errNcHold) && decide (s.audit.auditQ.length < 65536)
    && !(s.traceShort && s.flag audTraceEn && s.flag audTraceHold) && !(s.flag audReplayActive)

/-- Whether the part may send requests for a function: it and the PF are in D0 (R291). -/
def State.hostOpen (s : State) (f : Nat) : Bool := !(s.access.d3hot.contains f) && !(s.access.d3hot.contains 0)

/-- Whether a function is enabled and in D0. -/
def State.fnActive (s : State) (f : Nat) : Bool := decide (s.hif f hifEnable = 1) && s.hostOpen f

/-- A ring that the ring engine samples: enabled, not stopped, not in the error state. -/
def Ring.sampled (x : Ring) : Bool := x.err.isNone && !x.stopped

/-! ### Inputs (R308; 12 R327) -/

def Work.inputRegions (plan : Plan) : List Region :=
  plan.images.flatMap (fun im => im.regions.filter (fun r => r.onHost && decide (r.kind = 1)))

def Work.outputRegions (plan : Plan) : List Region :=
  plan.images.flatMap (fun im => im.regions.filter (fun r => r.onHost && decide (r.kind = 2)))

/-- Arguments that regions name, ascending, once each. -/
def argsOf (rs : List Region) : List Nat := (List.range 16).filter (fun a => rs.any (fun r => decide (r.arg = a)))

/-- Input bytes that staging a work reads. -/
def Work.inputBytes (plan : Plan) : Nat := (Work.inputRegions plan).foldl (fun n r => n + r.bytes) 0

/-- IDIG of a work. -/
def State.inputDigest (s : State) (w : Work) (plan : Plan) : List Byte :=
  sha512 ((argsOf (Work.inputRegions plan)).flatMap (fun a => le64 (w.argBytes a) ++ s.hostBytes (w.argAddr a) (w.argBytes a)))

/-- The input regions of a work are staged, and its STAGED record is written. -/
def State.putInputs (s : State) (w : Work) (plan : Plan) (idig : List Byte) : State :=
  (s.updWork w.ring w.seq (fun x => { x with
    staged := true
    idig := some idig
    hostIn := (Work.inputRegions plan).foldl (fun m r =>
      Mem.writeBytes m (r.key % 2 ^ 44) (s.hostBytes (w.argAddr r.arg + r.argOff) r.bytes)) [] })).trace1 0x07
    (le16 w.ring ++ zeros 2 ++ le64 w.seq ++ idig.take 32)

/-- Stages the input regions of a work. A re-staged input that differs ends the work (13 R345). -/
def State.stageInputs (s : State) (w : Work) (plan : Plan) : State :=
  let idig := s.inputDigest w plan
  match w.idig with
  | some d =>
    if d ≠ idig then
      ((s.updWork w.ring w.seq (fun x => { x with result := some stInputChanged, copies := [] })).log .inputChanged
        { ring := w.ring, seq := w.seq })
    else s.putInputs w plan idig
  | none => s.putInputs w plan idig

/-! ### A descriptor -/

/-- What follows the acceptance of a descriptor: an admin operation runs; a work without host inputs needs no staging. -/
def State.processWork (s : State) (w : Work) : State :=
  if s.isAdminRing w.ring then s.adminRun w
  else if w.result.isSome then s
  else
    match s.planOf w with
    | none => s
    | some plan => if (Work.inputRegions plan).isEmpty then s.stageInputs w plan else s

/-- Takes one fetched descriptor of ring `r`; the flag says that the ring may go on. -/
def State.takeDesc (s : State) (r : Nat) (desc : List Byte) : State × Bool :=
  match s.ring r with
  | none => (s, false)
  | some x =>
    match s.acceptDesc r x desc with
    | .accepted s1 w => (s1.processWork w, true)
    | .seqError s1 => (s1, false)
    | .full s1 => (s1, false)

/-- A descriptor that the ring engine fetches from ring `r`, where it fetches at all. -/
def State.fetchOne (s : State) (r : Nat) (desc : List Byte) : State :=
  match s.ring r with
  | none => s
  | some x => if s.fetchOpen && s.fnActive x.fn && x.sampled then (s.takeDesc r desc).1 else s

/-- The 64 bytes of a work descriptor (R297). -/
def runBytes (d : RunDesc) : List Byte :=
  let arg (a : ArgEntry) : List Byte := le64 a.addr.toNat ++ le32 a.bytes.toNat ++ le32 a.rsvd.toNat
  le64 d.seq.toNat ++ le32 d.planId.toNat ++ [1, d.dflags, d.narg, d.rsvd0] ++ arg d.arg0 ++ arg d.arg1 ++ le64 d.argtAddr.toNat
    ++ le64 d.rsvd1.toNat

/-- The 64 bytes of an admin descriptor (R315). -/
def adminBytes (op : Nat) (d : AdminDesc) : List Byte :=
  le64 d.seq.toNat ++ le32 d.a.toNat ++ [BitVec.ofNat 8 op, d.dflags] ++ le16 d.rsvd0.toNat ++ le64 d.b.toNat ++ le64 d.c.toNat
    ++ le64 d.d.toNat ++ natToBytes 24 d.rsvd1.toNat

/-! ### Staging copies (13 R348, R349) -/

/-- Whether work `a` is accepted before work `b`. -/
def earlierWork (a b : Work) : Bool :=
  decide (a.rank.accTurn < b.rank.accTurn) || (decide (a.rank.accTurn = b.rank.accTurn)
    && (decide (a.ring < b.ring) || (decide (a.ring = b.ring) && decide (a.seq < b.seq))))

def copiesOverlap (a b : StageCopy) : Bool := decide (a.base < b.base + b.bytes) && decide (b.base < a.base + a.bytes)

/-- Whether every earlier work that overlaps a copy has finished its copy-back. -/
def State.copyFree (s : State) (w : Work) (c : StageCopy) : Bool :=
  c.inCore || !(s.works.any (fun x => earlierWork x w && x.copies.any (copiesOverlap c)))

/-- A copy filled from the committed region. -/
def State.filledCopy (s : State) (c : StageCopy) : StageCopy :=
  if c.inCore then { c with filled := true }
  else { c with filled := true, data := (List.range c.bytes).foldl (fun m i => Mem.writeByte m (c.base + i) (s.hbm.readKey (c.base + i))) [] }

/-- Fills the staging copies of a work that may be filled. -/
def State.fillCopies (s : State) (w : Work) : State :=
  s.updWork w.ring w.seq (fun x => { x with copies := x.copies.map (fun c => if c.filled || !(s.copyFree w c) then c else s.filledCopy c) })

/-- Copies every staging copy of a committed work back over its region. -/
def State.copyBack (s : State) (w : Work) : State :=
  let s1 := (w.copies.filter (fun c => !c.inCore)).foldl (fun t c =>
    let bs := (List.range c.bytes).map (fun i => Mem.readByte c.data (c.base + i))
    { (t.hbmStore c.base bs) with hbm := (t.hbmStore c.base bs).hbm.unlose c.base c.bytes }) s
  s1.updWork w.ring w.seq (fun x => { x with copies := [], copiedBack := true })

/-! ### Host outputs (R310; 12 R327) -/

/-- Host bytes that the outputs of a work write, as address and byte: an output byte that no slice wrote stays as a free value. -/
def State.outputCells (s : State) (w : Work) (plan : Plan) : List (Nat × Byte) :=
  (Work.outputRegions plan).flatMap (fun r => (List.range r.bytes).map (fun i =>
    (w.argAddr r.arg + r.argOff + i,
      (SMap.get none w.hostOut ((r.key + i) % 2 ^ 44)).getD (Config.freeByte 200 (s.seedOf w) (r.key + i)))))

/-- Writes the host outputs of a work, or the bytes an admin operation returns. -/
def State.writeOutputs (s : State) (w : Work) : State :=
  if s.isAdminRing w.ring then
    { s with host := w.hostOut.foldl (fun m e => match e.2 with
        | some b => Mem.writeByte m e.1 b
        | none => m) s.host }
  else
    match s.planOf w with
    | none => s
    | some plan => { (s.tickFree) with host := (s.outputCells w plan).foldl (fun m e => Mem.writeByte m e.1 e.2) s.host }

/-- A write of outputs that fails leaves them partly written: which bytes is a free choice. -/
def State.writeSome (s : State) (w : Work) : State :=
  match s.planOf w with
  | none => s
  | some plan => { (s.tickFree) with host := (s.outputCells w plan).foldl (fun m e =>
      if Config.freeBool 202 s.freeCtr e.1 then Mem.writeByte m e.1 e.2 else m) s.host }

/-! ### Events -/

/-- INPUT_STAGED (R308): the inputs of an accepted work are staged. -/
def execInputStaged (ring : Fin 65536) (seq : BitVec 64) (s : State) : Host.Outcome State Fault Refusal :=
  match s.findWork ring.val seq.toNat with
  | none => .next s
  | some w =>
    match s.planOf w with
    | none => .next s
    | some plan =>
      if w.isRun && w.result.isNone && !w.staged && decide (w.st = .accepted) && s.hostOpen w.fn && s.access.up.contains w.fn then .next (s.stageInputs w plan)
      else .next s

/-- STAGING_COPY_FILLED (13 R348). -/
def execStagingCopyFilled (ring : Fin 65536) (seq : BitVec 64) (s : State) : Host.Outcome State Fault Refusal :=
  match s.findWork ring.val seq.toNat with
  | none => .next s
  | some w => if w.result.isNone && decide (w.st = .accepted) then .next (s.fillCopies w) else .next s

/-- COPY_BACK_DONE (13 R349). -/
def execCopyBackDone (ring : Fin 65536) (seq : BitVec 64) (s : State) : Host.Outcome State Fault Refusal :=
  match s.findWork ring.val seq.toNat with
  | none => .next s
  | some w => if w.st = .committed ∧ !w.copiedBack then .next (s.copyBack w) else .next s

/-- The completion code of DETAIL. -/
def badCode : BadCompletion → Nat
  | .ur => 1
  | .ca => 2
  | .poison => 3

/-- The HOST_DMA record of a work (R311). -/
def Work.dmaRec (w : Work) (write : Bool) (how : BadCompletion) (addr : Nat) : ErrRec :=
  { unit := 8, ring := w.ring, seq := w.seq, addr := addr, detail := badCode how * 256 + (if write then 1 else 0) }

/-- AER of a function notes a poisoned completion. PRESUMED (log entry 42): bit 12 of the status, and the header of the first one, of which the
spec gives no byte. -/
def State.aerNote (s : State) (f : Nat) (how : BadCompletion) : State :=
  let x := SMap.get {} s.access.aer f
  if how = .poison then
    let y : Aer :=
      { status := x.status ||| 0x1000
        header := if x.header.isEmpty then (List.range 16).map (fun i => Config.freeByte 61 s.freeCtr i) else x.header }
    { (s.tickFree) with access := { s.access with aer := SMap.set {} s.access.aer f y } }
  else s

/-- A host read of the staging of a work fails: the work ends without running (R308). -/
def State.stagingFails (s : State) (w : Work) (how : BadCompletion) (addr : Nat) : State :=
  ((s.aerNote w.fn how).updWork w.ring w.seq (fun x => { x with result := some stHostDma, copies := [] })).log .hostDma (w.dmaRec false how addr)

/-- HOST_DMA (R308, R310, R311): a read that fails while staging ends the work without running; a write of outputs that fails ends
it with its outputs partly written. -/
def execHostDma (ring : Fin 65536) (seq : BitVec 64) (write : Bool) (how : BadCompletion) (addr : BitVec 64) (s : State) :
    Host.Outcome State Fault Refusal :=
  match s.findWork ring.val seq.toNat with
  | none => .next s
  | some w =>
    let reads := !write && w.isRun && w.result.isNone && !w.staged && decide (w.st = .accepted) && s.access.up.contains w.fn
    let writes := write && decide (w.st = .committed) && decide (w.result = some stOk)
    if reads then .next (s.stagingFails w how addr.toNat)
    else if writes then
      .next (((s.writeSome w).updWork w.ring w.seq (fun x => { x with result := some stHostDma })).log .hostDma
        (w.dmaRec true how addr.toNat))
    else .next s

end Sys2Proof.Machine
end

