-- ==== Sys2Proof/Machine/EnableOps.lean ====
section
/-! DEFINITION. What the ring engine does at the first head after host software sets ENABLE (11 R296, R318): it enables the admin ring
and the event rings, goes on with rings that the journal holds, or recovers after a loss of VIN (13 R353 to R357). -/

namespace Sys2Proof.Machine

/-- The rings that ENABLE itself enables: the admin ring, and rings 1 to 3 of the PF. -/
def State.ownRings (s : State) (f : Nat) : List Nat := (s.adminRing f).toList ++ (if f = 0 then [1, 2, 3] else [])

/-- The rings that a recovery takes up. -/
def State.listedRings (s : State) (f : Nat) : List Nat :=
  let own := s.ownRings f
  own ++ (s.nvRings f).filter (fun r => !own.contains r)

/-! ### Epochs and plans of recovered work (R354, R355) -/

/-- A ring's boundary in an EPOCH_STEP record. -/
def boundaryOf (v : List Byte) (ring : Nat) : Option Nat :=
  let o := 16 + 8 * fieldAt v 4 2
  (((List.range (fieldAt v 6 2)).filter (fun i => decide (fieldAt v (o + 10 * i) 2 = ring))).head?).map (fun i => fieldAt v (o + 10 * i + 2) 8)

/-- The epoch of an accepted sequence: records newest first, then the slot's epoch. -/
def epochOf (ring seq slot : Nat) : List (List Byte) → Nat
  | [] => slot
  | v :: older =>
    match boundaryOf v ring with
    | none => fieldAt v 0 4
    | some b => if b < seq then fieldAt v 0 4 else epochOf ring seq slot older

def State.epochOfSeq (s : State) (ring seq : Nat) : Nat :=
  epochOf ring seq (match s.activeSlot with
    | some x => x.epoch
    | none => 0) ((s.epochRecs.map (fun r => r.value)).reverse)

/-- The plans of a function that the NV log lists as loaded: ID, chain table address and bytes, ODIG. -/
def State.nvPlans (s : State) (f : Nat) : List (Nat × Nat × Nat × List Byte) :=
  (s.nvLog.filter (fun r => decide (r.type = rtPlan) && decide (fieldAt r.value 0 1 = f))).foldl (fun acc r =>
    let id := fieldAt r.value 1 4
    let rest := acc.filter (fun (x : Nat × Nat × Nat × List Byte) => decide (x.1 ≠ id))
    if r.value.length < 85 then rest
    else rest ++ [(id, fieldAt r.value 5 8, fieldAt r.value 13 8, sliceBytes r.value 21 64)]) []

/-- Reloads the recorded plans of a function: the IDs of those that differ from their record. -/
def State.reloadPlans (s : State) (f : Nat) : State × List Nat :=
  (s.nvPlans f).foldl (fun (t : State × List Nat) e =>
    match t.1.loadPlan f e.1 e.2.1 e.2.2.1 true with
    | .loaded p => if p.odig = e.2.2.2 then ({ t.1 with plans := t.1.plans ++ [p] }, t.2) else (t.1, t.2 ++ [e.1])
    | .rejected _ _ => (t.1, t.2 ++ [e.1])) (s, [])

/-! ### Rings -/

/-- Takes up accepted sequence `q` of ring `r` again. Its session was checked at its first acceptance. -/
def State.recoverSeq (s : State) (r q : Nat) (bad : List Nat) : State :=
  match s.ring r with
  | none => s
  | some x =>
    let desc := s.hostBytes (x.drSlot q) 64
    let admin := s.isAdminRing r
    let w0 : Work :=
      { ring := r
        seq := q
        desc := desc
        argTable := if admin then [] else s.argTable desc
        epoch := s.epochOfSeq r q
        fn := x.fn
        role := 1
        sbase := (s.links.topo.self : Int) - (s.fldUnder (lnkFbase x.fn) (s.epochOfSeq r q) : Int)
        rank := { accTurn := s.turn.ord, rerun := true } }
    let w : Work :=
      if admin then w0
      else if bad.contains w0.planId then { w0 with result := some stPlanMismatch }
      else match s.planOf w0 with
        | none => { w0 with result := some (if w0.op ≠ 1 then stBadOp else if descReserved desc then stRsvdNonzero else stPlanUnknown) }
        | some plan =>
          let check := if descReserved desc ∨ tableReserved w0 then some stRsvdNonzero
            else if s.groupBad w0 plan then some stChipGroup
            else if 16 < w0.narg ∨ fieldAt desc 0x30 8 % 64 ≠ 0 then some stArgRange
            else argCheck w0 plan
          match check with
          | some st => { w0 with result := some st }
          | none => { w0 with copies := plan.copies w0.sbase }
    ({ s with works := s.works ++ [w] }).processWork w

/-- Recovers one ring: its status entry must hold together (R354), and what it says was accepted runs again. An event ring resumes at its
COMPLETED; its producer index tells what host software has still to read. -/
def State.recoverRing (s : State) (f r : Nat) (bad : List Nat) : State :=
  let b := s.hostBytes (s.ctxAddr f r) 64
  let c := readCtx b
  let acc := s.hostRead (s.rstAddr f r) 8
  let cmp := s.hostRead (s.rstAddr f r + 8) 8
  let valid := ctxValid f r 0 c && !(ctxReserved b) && decide (c.seqBase - 1 ≤ cmp)
  if 1 ≤ r ∧ r ≤ 3 then
    let unread := (cmp % 2 ^ 32 + 2 ^ 32 - s.hostRead (s.pitAddr f r) 4) % 2 ^ 32
    if valid then s.setRing r { fn := f, ctx := c, acc := cmp - (if unread ≤ 2 ^ c.log2n then unread else 0), cmp := cmp }
    else (s.setRing r { fn := f, ctx := c }).ringFault r .recover 0 0
  else if valid && decide (cmp ≤ acc) && decide (acc ≤ cmp + 2 ^ c.log2n) then
    (List.range (acc - cmp)).foldl (fun t i => t.recoverSeq r (cmp + 1 + i) bad) (s.setRing r { fn := f, ctx := c, acc := acc, cmp := cmp })
  else (s.setRing r { fn := f, ctx := c }).ringFault r .recover 0 0

/-- Settles a ring without recovery (R356, R357): it is enabled fresh, and one record names what is abandoned. -/
def State.discardRing (s : State) (f r : Nat) : State :=
  let c := readCtx (s.hostBytes (s.ctxAddr f r) 64)
  let acc := s.hostRead (s.rstAddr f r) 8
  let cmp := s.hostRead (s.rstAddr f r + 8) 8
  let ok := decide (c.seqBase - 1 ≤ cmp) && decide (cmp ≤ acc) && decide (acc ≤ cmp + 2 ^ c.log2n)
  let s1 := (s.enableRing r).2
  if 1 ≤ r ∧ r ≤ 3 then s1
  else if !ok then s1.log .ringRecover { ring := r }
  else if cmp < acc then s1.log .ringRecover { ring := r, seq := cmp + 1, detail := acc }
  else s1

/-- What the ring engine does for a function at the first head at which its ENABLE is 1. -/
def State.enableFn (s : State) (f : Nat) : State :=
  let up (t : State) : State := { t with
    access := { t.access with up := insertOnce f t.access.up, starting := t.access.starting.filter (fun x => decide (x ≠ f)), discardAt := t.access.discardAt.filter (fun x => decide (x ≠ f)) }
    power := { t.power with recover := t.power.recover.filter (fun x => decide (x ≠ f)) } }
  if s.power.recover.contains f then
    if s.access.discardAt.contains f then up ((s.listedRings f).foldl (fun t r => t.discardRing f r) s)
    else
      let p := s.reloadPlans f
      up ((s.listedRings f).foldl (fun t r => t.recoverRing f r p.2) p.1)
  else up ((s.ownRings f).foldl (fun t r => (t.enableRing r).2) s)

/-- Rings of a function, with their contents. -/
def State.fnRings (s : State) (f : Nat) : List (Nat × Ring) :=
  s.rings.filterMap (fun e => match e.2 with
    | some x => if x.fn = f then some (e.1, x) else none
    | none => none)

/-- The rings of every VF that has met an FLR since the last head are disabled (R320). -/
def State.finishFlr (s : State) : State :=
  let t := s.access.flr.foldl (fun u v =>
    let rs := (u.fnRings v).map (fun e => e.1)
    (rs.foldl State.dropRing u).storeRings v rs false |>.1) s
  { t with access := { t.access with flr := [] } }

/-- Every function that host software has enabled since the interface was reset. -/
def State.enableFns (s0 : State) : State :=
  let s := s0.finishFlr
  (List.range 64).foldl (fun t f => if t.fnActive f && (!(t.access.up.contains f) || t.access.starting.contains f) then t.enableFn f else t) s

end Sys2Proof.Machine
end

