-- ==== Sys2Proof/Machine/DescriptorRows.lean ====
section
/-! DEFINITION. The rows of descriptors (11 R297, R315; 13 R367, R370; 15 R428, R429; 16 R439 to R450): each delivers one descriptor as
the ring engine fetches it from a ring. -/

namespace Sys2Proof.Machine

/-- RUN (11 R297, R298, R306). -/
def execRun (ring : Fin 65536) (d : RunDesc) (s : State) : Host.Outcome State Fault Refusal :=
  .next (s.fetchOne ring.val (runBytes d))

/-- RING_ENABLE (11 R315). -/
def execRingEnable (ring : Fin 65536) (d : AdminDesc) (s : State) : Host.Outcome State Fault Refusal :=
  .next (s.fetchOne ring.val (adminBytes 0x10 d))

/-- RING_DISABLE (11 R315). -/
def execRingDisable (ring : Fin 65536) (d : AdminDesc) (s : State) : Host.Outcome State Fault Refusal :=
  .next (s.fetchOne ring.val (adminBytes 0x11 d))

/-- RING_RESUME (11 R302, R315). -/
def execRingResume (ring : Fin 65536) (d : AdminDesc) (s : State) : Host.Outcome State Fault Refusal :=
  .next (s.fetchOne ring.val (adminBytes 0x12 d))

/-- PLAN_LOAD (11 R315; 02 R63). -/
def execPlanLoad (ring : Fin 65536) (d : AdminDesc) (s : State) : Host.Outcome State Fault Refusal :=
  .next (s.fetchOne ring.val (adminBytes 0x20 d))

/-- PLAN_UNLOAD (11 R315). -/
def execPlanUnload (ring : Fin 65536) (d : AdminDesc) (s : State) : Host.Outcome State Fault Refusal :=
  .next (s.fetchOne ring.val (adminBytes 0x21 d))

/-- WSET_LOAD (11 R315). -/
def execWsetLoad (ring : Fin 65536) (d : AdminDesc) (s : State) : Host.Outcome State Fault Refusal :=
  .next (s.fetchOne ring.val (adminBytes 0x30 d))

/-- EPOCH_STAGE (13 R370 to R372). -/
def execEpochStage (ring : Fin 65536) (d : AdminDesc) (s : State) : Host.Outcome State Fault Refusal :=
  .next (s.fetchOne ring.val (adminBytes 0x40 d))

/-- PARTITION_RESET (13 R367). -/
def execPartitionReset (ring : Fin 65536) (d : AdminDesc) (s : State) : Host.Outcome State Fault Refusal :=
  .next (s.fetchOne ring.val (adminBytes 0x41 d))

/-- SLOT_WRITE (15 R428). -/
def execSlotWrite (ring : Fin 65536) (d : AdminDesc) (s : State) : Host.Outcome State Fault Refusal :=
  .next (s.fetchOne ring.val (adminBytes 0x48 d))

/-- SLOT_ACTIVATE (15 R429). -/
def execSlotActivate (ring : Fin 65536) (d : AdminDesc) (s : State) : Host.Outcome State Fault Refusal :=
  .next (s.fetchOne ring.val (adminBytes 0x49 d))

/-- SESSION_CHALLENGE (16 R439). -/
def execSessionChallenge (ring : Fin 65536) (d : AdminDesc) (s : State) : Host.Outcome State Fault Refusal :=
  .next (s.fetchOne ring.val (adminBytes 0x50 d))

/-- SESSION_OPEN (16 R440, R441). -/
def execSessionOpen (ring : Fin 65536) (d : AdminDesc) (s : State) : Host.Outcome State Fault Refusal :=
  .next (s.fetchOne ring.val (adminBytes 0x51 d))

/-- SESSION_CLOSE (16 R442). -/
def execSessionClose (ring : Fin 65536) (d : AdminDesc) (s : State) : Host.Outcome State Fault Refusal :=
  .next (s.fetchOne ring.val (adminBytes 0x52 d))

/-- KEY_PROVISION (16 R450). -/
def execKeyProvision (ring : Fin 65536) (d : AdminDesc) (s : State) : Host.Outcome State Fault Refusal :=
  .next (s.fetchOne ring.val (adminBytes 0x53 d))

/-- KEY_LIST (16 R450). -/
def execKeyList (ring : Fin 65536) (d : AdminDesc) (s : State) : Host.Outcome State Fault Refusal :=
  .next (s.fetchOne ring.val (adminBytes 0x57 d))

/-- SEAL_REQUEST (16 R450; 12 R332). -/
def execSealRequest (ring : Fin 65536) (d : AdminDesc) (s : State) : Host.Outcome State Fault Refusal :=
  .next (s.fetchOne ring.val (adminBytes 0x56 d))

/-- TAKE_OWNERSHIP (16 R449). -/
def execTakeOwnership (ring : Fin 65536) (d : AdminDesc) (s : State) : Host.Outcome State Fault Refusal :=
  .next (s.fetchOne ring.val (adminBytes 0x54 d))

end Sys2Proof.Machine
end

