-- ==== Sys2Proof/Machine/Admission.lean ====
section
/-! DEFINITION. Admission and placement at a turn head (02 R65, R66; 07 R201, R204; 08 R213; 10 R263, R266, R267, R271, R273 to R280). -/

namespace Sys2Proof.Machine

/-! ### Chains -/

/-- Whether a plan keeps its logical cores on their physical cores (08 R213). -/
def Plan.needsPins (plan : Plan) : Bool := plan.coreRegions || plan.images.any (fun im => decide (im.stashCore ≠ 0))

/-- Whether slice `i` is the recompute variant of a segment that runs in stash form (07 R205). -/
def Work.skips (w : Work) (plan : Plan) (i : Nat) : Bool :=
  w.chain.stashSegs.any (fun k =>
    let g := plan.stash.getD k ⟨0, 0, 0, 0, 0⟩
    decide (g.rcFirst ≤ i) && decide (i < g.rcFirst + g.rcCount))

/-- The first slice at or after `i` that the chain runs; none after its last. -/
def Work.sliceFrom (w : Work) (plan : Plan) (i : Nat) : Option Nat :=
  (List.range plan.images.length).find? (fun k => decide (i ≤ k) && !(w.skips plan k))

/-- KiB that segment 0 needs beside its table entry where the chain runs in fold 2: the core part lies in the overflow region (R202). -/
def Plan.foldExtra (plan : Plan) (fold2 : Bool) (width : Nat) : Nat :=
  if fold2 then ceilDiv (width * plan.images.foldl (fun m im => max m im.stashCore) 0) 1024 else 0

/-- The stash reservation that a pool with `free` KiB gives a plan: KiB reserved and the number of segments in stash form (R204).
`extra` adds to the need of segment 0. -/
def Plan.stashChoice (plan : Plan) (extra free : Nat) : Option (Nat × Nat) :=
  let needs := (plan.stash.zip (List.range plan.stash.length)).map (fun e => e.1.hbmKib + (if e.2 = 0 then extra else 0))
  let h := needs.foldl max 0
  if free < h then none
  else
    let sum (j : Nat) : Nat := (needs.take j).foldl (· + ·) 0
    let j := ((List.range (plan.stash.length + 1)).filter (fun j => decide (sum j + h ≤ free))).foldl max 0
    some (sum j + h, j)

/-- KiB of the stash pool that chains hold. -/
def State.stashHeld (s : State) : Nat := s.works.foldl (fun a w => a + w.chain.stashKib.getD 0) 0

def State.stashFree (s : State) : Nat := s.hbm.layout.stashPool / 1024 - s.stashHeld

/-! ### Estimates and counts (R271, R263) -/

/-- A slice that may run: its work, class, index and image. -/
structure Cand where
  w : Work
  cls : Nat
  slice : Nat
  im : Image
  plan : Plan
  deriving DecidableEq, Repr

def Cand.cycles (c : Cand) (fold2 : Bool) (p : Nat) : Nat := (if fold2 then c.im.cycles2 else c.im.cycles).getD p 0
def Cand.energy (c : Cand) (fold2 : Bool) (p : Nat) : Nat := (if fold2 then c.im.energy2 else c.im.energy).getD p 0
def Cand.need (c : Cand) (fold2 : Bool) : Nat := if fold2 then ceilDiv c.im.width 2 else c.im.width
def Cand.same (c d : Cand) : Bool := decide (c.w.ring = d.w.ring) && decide (c.w.seq = d.w.seq)

/-- Whether a fold is certified at point `p` and fits the usable window. -/
def State.foldFits (s : State) (c : Cand) (fold2 : Bool) (p : Nat) : Bool :=
  decide (c.cycles fold2 p ≠ 0) && decide (c.cycles fold2 p ≤ usable s.turn.ticks s.hbm.layout.spread p)

/-! ### Cores -/

/-- What an admission pass has given out: energy left, the class-0 reserve, deficits, placements, the cycle from which each core is
free, stash KiB, pins taken, slices passed over or deferred, classes closed by a blocker, cycle-0 places kept for slices with armed streams,
and the energy priced on each core. -/
structure Adm where
  e : Int
  res : Int
  d : List Int
  placed : List (Cand × Placed) := []
  free : SMap Nat := []
  stash : Nat
  pins : List (Cand × List Nat) := []
  passed : List Cand := []
  deferred : List Cand := []
  closed : List Nat := []
  reserved : List (Cand × List Nat) := []
  heat : SMap Nat := []
  deriving DecidableEq, Repr

/-- The projected end-of-turn temperature of a core (R278, R280), with `more` uJ beside what the pass has priced on it. DEDUCED (log entry 25):
from T̂ by the core's own terms of R270, the energy of a slice spread evenly over its cores. -/
def State.endTemp (s : State) (a : Adm) (c more : Nat) : Int :=
  let t := SMap.get 0 s.thermal.proj c
  let r : Nat := max 1 (Config.thermalRes c * s.fld witTheta / 256)
  let out := (10 * s.turn.ticks : Nat) * (t - s.thermal.tcp) / (r : Int)
  t + (((SMap.get 0 a.heat c + more : Nat) : Int) - out) / ((max 1 (Config.heatCap c) : Nat) : Int)

/-- Whether placement is thermal (R280). -/
def State.thermalPlacement (s : State) (a : Adm) : Bool :=
  s.inService.any (fun c => decide ((1000 * s.fld tlsTjSoft : Int) ≤ s.endTemp a c 0))

/-- Cores from which placement may take: the service set, in thermal placement every core in service that is not withheld. -/
def State.corePool (s : State) (a : Adm) : List Nat :=
  if s.thermalPlacement a then s.inService.filter (fun c => !(s.withheldNow.contains c)) else s.serviceSet

def roundUp8 (n : Nat) : Nat := (n + 7) / 8 * 8

/-- f_i of R278. -/
def Adm.freeAt (a : Adm) (c : Nat) : Nat := roundUp8 (SMap.get 0 a.free c)

/-- Whether core `x` comes before core `y` in the order of R278 step 3, or of thermal placement. -/
def State.coreBefore (s : State) (a : Adm) (thermal : Bool) (x y : Nat) : Bool :=
  let tx := s.endTemp a x 0
  let ty := s.endTemp a y 0
  let fx := a.freeAt x
  let fy := a.freeAt y
  if thermal then decide (tx < ty) || (decide (tx = ty) && (decide (fy < fx) || (decide (fx = fy) && decide (x < y))))
  else decide (fy < fx) || (decide (fx = fy) && (decide (tx < ty) || (decide (tx = ty) && decide (x < y))))

def insertOrd (before : Nat → Nat → Bool) (x : Nat) : List Nat → List Nat
  | [] => [x]
  | y :: rest => if before x y then x :: y :: rest else y :: insertOrd before x rest

def orderBy (before : Nat → Nat → Bool) (l : List Nat) : List Nat := l.foldl (fun acc x => insertOrd before x acc) []

/-- Cores of the cycle-0 places that are still kept (R279). -/
def Adm.kept (a : Adm) : List Nat :=
  (a.reserved.filter (fun e => !(a.passed.any e.1.same) && !(a.deferred.any e.1.same))).flatMap (fun e => e.2)

/-- Whether the turn uses a core already, or keeps it. -/
def Adm.inUse (a : Adm) (c : Nat) : Bool := a.free.any (fun e => decide (e.1 = c)) || a.kept.contains c

/-- Physical cores that the turn may still add to those it uses (R65). -/
def State.coreRoom (s : State) (a : Adm) : Nat := s.gradeCores - ((List.range 144).filter a.inUse).length

/-- Candidate cores for a work: in the pool, not held by another chain, and in use in this turn or within its count of cores. -/
def State.candidates (s : State) (a : Adm) (c : Cand) : List Nat :=
  let held := s.pinnedToOthers c.w ++ a.pins.flatMap (fun e => if e.1.same c then [] else e.2) ++ c.w.chain.pins
    ++ (if c.plan.needsPins then s.witness.retiring else [])
    ++ a.reserved.flatMap (fun e => if e.1.same c ∨ a.passed.any e.1.same ∨ a.deferred.any e.1.same then [] else e.2)
  (s.corePool a).filter (fun x => !(held.contains x) && (a.inUse x || decide (0 < s.coreRoom a)))

/-- How many of some candidates one slice can have: the turn adds at most `coreRoom` cores. -/
def State.coreCount (s : State) (a : Adm) (cs : List Nat) : Nat :=
  (cs.filter a.inUse).length + min (s.coreRoom a) (cs.filter (fun x => !(a.inUse x))).length

/-- The first `n` of ordered cores of which at most `room` are new to the turn. -/
def Adm.pickCores (a : Adm) : Nat → Nat → List Nat → List Nat
  | _, _, [] => []
  | room, n, c :: rest =>
    if n = 0 then []
    else if a.inUse c then c :: a.pickCores room (n - 1) rest
    else if room = 0 then a.pickCores room n rest
    else c :: a.pickCores (room - 1) (n - 1) rest

/-- Chooses `n` cores: the start cycle and the cores, ascending (R278 steps 2 and 3). -/
def State.chooseCores (s : State) (a : Adm) (c : Cand) (n : Nat) : Option (Nat × List Nat) :=
  let cs := s.candidates a c
  if s.coreCount a cs < n then none
  else if n = 0 then some (0, [])
  else
    let fs := orderBy (fun x y => decide (x < y)) ((cs.filter (fun x => !(a.inUse x))).take (s.coreRoom a) ++ cs.filter a.inUse |>.map a.freeAt)
    let start := fs.getD (n - 1) 0
    let pick := a.pickCores (s.coreRoom a) n (orderBy (s.coreBefore a (s.thermalPlacement a)) (cs.filter (fun x => decide (a.freeAt x ≤ start))))
    some (start, orderBy (fun x y => decide (x < y)) pick)

/-- Puts chosen cores into the places of a chain's logical cores that hold no pin. -/
def fillPins : List Nat → List Nat → List Nat
  | [], _ => []
  | p :: ps, fresh =>
    if p = 144 then (match fresh with
      | f :: fs => f :: fillPins ps fs
      | [] => 144 :: fillPins ps [])
    else p :: fillPins ps fresh

/-- Whether a chain's logical cores hold an armed persistent stream (R279). -/
def State.isArmed (s : State) (c : Cand) : Bool := c.w.chain.pins.any (fun x => decide (x < 144) && (s.core x).engines.any (fun e => e.2.armed))

/-- The cores of a slice and its start cycle; a pinned chain uses its own (R278). -/
def State.freshFor (s : State) (a : Adm) (c : Cand) (fold2 : Bool) : Option (Nat × List Nat) :=
  let n := c.need fold2
  let pins := (c.w.chain.pins ++ List.replicate n 144).take n
  let missing := (pins.filter (fun p => decide (p = 144))).length
  match s.chooseCores a c missing with
  | none => none
  | some (start, fresh) =>
    let cores := fillPins pins fresh
    some (cores.foldl (fun m x => max m (a.freeAt x)) start, cores)

/-- The same, for a slice with armed streams: its cycle-0 place, or one that is free at cycle 0 (R279). -/
def State.coresFor (s : State) (a : Adm) (c : Cand) (fold2 : Bool) : Option (Nat × List Nat) :=
  if s.isArmed c then
    match a.reserved.find? (fun e => e.1.same c) with
    | some e => some (0, e.2)
    | none => (s.freshFor a c fold2).filter (fun x => decide (x.1 = 0))
  else s.freshFor a c fold2

/-- Keeps cycle-0 places for the slices with armed streams, in rank order (R279). -/
def State.reserveArmed (s : State) (cs : List Cand) (p : Nat) (a : Adm) : Adm :=
  (cs.filter s.isArmed).foldl (fun a c =>
    let f := if s.foldFits c (c.w.chain.fold2.getD false) p then c.w.chain.fold2.getD false else false
    match s.freshFor a c f with
    | some (0, cores) => if s.coreRoom a < (cores.filter (fun x => !(a.inUse x))).length then a else { a with reserved := a.reserved ++ [(c, cores)] }
    | _ => a) a

/-- The fold of a chain with pinned cores. -/
def Cand.keptFold (c : Cand) : Option Bool := if c.w.chain.pins.isEmpty then none else c.w.chain.fold2

/-- The fold in which a slice runs (02 R66): a chain with pinned cores keeps its fold; else fold 2 only where WIDTH cores cannot be given
and the image has such a body. -/
def State.foldFor (s : State) (a : Adm) (c : Cand) : Bool :=
  c.keptFold.getD (c.im.fold2 && decide (s.coreCount a (s.candidates a c) < c.need false))

/-- That fold, where it is certified at the point. -/
def State.foldOf (s : State) (a : Adm) (c : Cand) (p : Nat) : Option Bool :=
  if s.foldFits c (s.foldFor a c) p then some (s.foldFor a c) else none

/-- est of R271, in the fold that is open. -/
def State.est (s : State) (a : Adm) (c : Cand) (p : Nat) : Int :=
  let f := (s.foldOf a c p).getD false
  ((ceilDiv (c.energy f p * s.fld tlsKappa) 256 : Nat) : Int)

/-- The stash reservation that `free` KiB give a candidate's chain in the fold that is open to it (07 R202, R204). -/
def State.stashFor (s : State) (c : Cand) (free : Nat) : Option (Nat × Nat) :=
  c.plan.stashChoice (c.plan.foldExtra (s.foldFor { e := 0, res := 0, d := [], stash := 0 } c) c.im.width) free

/-- place() of R274: the pass with the slice placed, where it fits. A slice that deadlocked once is the only elastic one (08 R240). -/
def State.place (s : State) (a : Adm) (c : Cand) (p : Nat) : Option Adm :=
  match s.foldOf a c p with
  | none => none
  | some fold2 =>
    match s.coresFor a c fold2 with
    | none => none
    | some (start, cores) =>
      let len := c.cycles fold2 p
      let share := (s.est a c p).toNat / max 1 cores.length
      let hot := cores.any (fun x => decide ((1000 * s.fld tlsTjBudget : Int) < s.endTemp a x share))
      let stash := if c.w.chain.stashKib.isSome then some (0, 0) else c.plan.stashChoice (c.plan.foldExtra fold2 c.im.width) a.stash
      match stash with
      | none => none
      | some st =>
        let alone := c.im.elastic && a.placed.any (fun e => e.1.im.elastic && (c.w.rank.serial || e.1.w.rank.serial))
        if usable s.turn.ticks s.hbm.layout.spread p < start + len ∨ hot ∨ alone ∨ cores.contains 144
            ∨ s.coreRoom a < (cores.filter (fun x => !(a.inUse x))).length then none
        else
          let q : Placed :=
            { ring := c.w.ring, seq := c.w.seq, slice := c.slice, cores := cores, fold2 := fold2, start := start, length := len
              energy := c.energy fold2 p }
          some { a with
            placed := a.placed ++ [(c, q)]
            free := cores.foldl (fun m x => SMap.set 0 m x (start + len)) a.free
            heat := cores.foldl (fun m x => SMap.upd 0 m x (fun h => h + share)) a.heat
            stash := a.stash - st.1
            pins := if c.plan.needsPins then a.pins ++ [(c, cores)] else a.pins }

/-! ### The pass (R274, R276) -/

/-- The first slice of a class that the pass has neither admitted nor passed over. -/
def Adm.firstOpen (a : Adm) (cs : List Cand) (k : Nat) : Option Cand :=
  if a.closed.contains k then none
  else cs.find? (fun c => decide (c.cls = k) && !(a.placed.any (fun e => e.1.same c)) && !(a.passed.any c.same))

/-- pass_over: a blocker closes its class. -/
def Adm.passOver (a : Adm) (c : Cand) : Adm :=
  { a with passed := a.passed ++ [c], closed := if c.w.rank.blocker then insertOnce c.cls a.closed else a.closed }

/-- Class 0, in order, until one does not fit the reserve or the cores: it and those after it wait. -/
def State.admitClass0 (s : State) (p : Nat) : List Cand → Adm → Adm
  | [], a => a
  | c :: rest, a =>
    let k := s.est a c p
    if a.res < k ∨ a.e < k then { a with deferred := c :: rest }
    else
      match s.place a c p with
      | none => { a with deferred := c :: rest }
      | some b => s.admitClass0 p rest { b with res := b.res - k, e := b.e - k }

/-- The deficit round of one class. -/
def State.deficitRound (s : State) (cs : List Cand) (p k : Nat) : Nat → Adm → Adm
  | 0, a => a
  | n + 1, a =>
    match a.firstOpen cs k with
    | none => a
    | some c =>
      let x := s.est a c p
      if a.d.getD k 0 < x ∨ a.e < x then a
      else
        match s.place a c p with
        | none => s.deficitRound cs p k n (a.passOver c)
        | some b => s.deficitRound cs p k n { b with d := b.d.set k (b.d.getD k 0 - x), e := b.e - x }

/-- The class that the fill round serves next: the largest deficit, ties to the lower class. -/
def State.fillBest (s : State) (cs : List Cand) (p : Nat) (a : Adm) : Option Nat :=
  ([1, 2, 3, 4, 5, 6, 7].filter (fun k => match a.firstOpen cs k with
    | some c => decide (s.est a c p ≤ a.e)
    | none => false)).foldl (fun best k => match best with
      | none => some k
      | some b => if a.d.getD b 0 < a.d.getD k 0 then some k else some b) none

/-- Drops the cycle-0 places of classes from which the fill round takes nothing more (R279): the first open slice costs more than what is
left, or a blocker has closed the class. -/
def State.freePlaces (s : State) (cs : List Cand) (p : Nat) (a : Adm) : Adm :=
  { a with reserved := a.reserved.filter (fun e => match a.firstOpen cs e.1.cls with
    | some c => decide (s.est a c p ≤ a.e)
    | none => false) }

def State.fillRound (s : State) (cs : List Cand) (p : Nat) : Nat → Adm → Adm
  | 0, a => a
  | n + 1, a0 =>
    let a := s.freePlaces cs p a0
    match s.fillBest cs p a with
    | none => a
    | some k =>
      match a.firstOpen cs k with
      | none => a
      | some c =>
        let x := s.est a c p
        match s.place a c p with
        | none => s.fillRound cs p n (a.passOver c)
        | some b => s.fillRound cs p n { b with d := b.d.set k (b.d.getD k 0 - x), e := b.e - x }

def clampInt (x lo hi : Int) : Int := if x < lo then lo else if hi < x then hi else x

/-- Division toward zero, as the C of R274 divides. -/
def divC (a b : Int) : Int := Int.tdiv a b

/-- admit_turn of R274 at point `p` over the ranked candidates; with no budget nothing is admitted (R288). -/
def State.admitTurn (s : State) (cs : List Cand) (p : Nat) : Adm :=
  if s.turn.budget = 0 then
    { e := 0, res := 0, d := List.replicate 8 0, stash := s.stashFree, deferred := cs.filter (fun c => decide (c.cls = 0)) } else
  let budget : Int := (s.turn.budget : Int)
  let a0 : Adm := { e := budget, res := divC (budget * (s.fld hstLatShare : Int)) 100, d := s.turn.deficits, stash := s.stashFree }
  let a1 := s.admitClass0 p (cs.filter (fun c => decide (c.cls = 0))) (s.reserveArmed cs p a0)
  let classes := [1, 2, 3, 4, 5, 6, 7].filter (fun k => (a1.firstOpen cs k).isSome)
  let wsum := classes.foldl (fun n k => n + s.fld (hstWeight k)) 0
  let a2 := { a1 with d := classes.foldl (fun d k =>
    d.set k (clampInt (d.getD k 0 + divC (a1.e * (s.fld (hstWeight k) : Int)) (wsum : Int)) (-budget) budget)) a1.d }
  let a3 := [1, 2, 3, 4, 5, 6, 7].foldl (fun a k => s.deficitRound cs p k (cs.length + 1) a) a2
  s.fillRound cs p (cs.length + 1) a3

/-- The score of a pass (R266): WIDTH times the cycle count, over the slices admitted. -/
def Adm.score (a : Adm) : Nat := a.placed.foldl (fun n e => n + e.1.im.width * e.2.length) 0

/-! ### Eligibility (R273) -/

/-- Weight sets of a plan's regions on this chip are present (13 R358). -/
def State.weightsHere (s : State) (plan : Plan) (chip : Int) : Bool :=
  (plan.regionsOn chip).all (fun r => decide (r.kind ≠ 6) || ((s.wsets.any (fun (e : Nat × Nat × Nat) => decide (e.1 = r.wset)))
    && !(r.inHbm && s.hbm.rangeLost r.key r.bytes)))

/-- Whether a work may run a slice, but for the point, the turn length, the stash and the cores. -/
def State.readyWork (s : State) (w : Work) (plan : Plan) : Bool :=
  w.isRun && w.result.isNone && (decide (w.st = .accepted) || decide (w.st = .running)) && w.staged && w.copies.all (fun c => c.filled)
    && s.weightsHere plan w.sbase && !(s.turn.partNow.contains w.fn)

/-- The class of a work's ring. -/
def State.ringClass (s : State) (r : Nat) : Nat :=
  match s.ring r with
  | some x => x.ctx.cls
  | none => 0

/-- Whether work `x` ranks before `y` in its class (R274). -/
def Work.ranksBefore (x y : Work) : Bool :=
  let k (w : Work) : Nat := if w.rank.rerun then 0 else 1
  decide (k x < k y) || (decide (k x = k y) && earlierWork x y)

def Cand.before (x y : Cand) : Bool := x.w.ranksBefore y.w

def insertCand (x : Cand) : List Cand → List Cand
  | [] => [x]
  | y :: rest => if x.before y then x :: y :: rest else y :: insertCand x rest

/-- The works that may run, in rank order. -/
def State.readyCands (s : State) : List Cand :=
  (s.works.filterMap (fun w => match s.planOf w with
    | none => none
    | some plan =>
      if s.readyWork w plan then
        match w.sliceFrom plan w.next with
        | none => none
        | some i => (plan.images[i]?).map (fun im => ⟨w, s.ringClass w.ring, i, im, plan⟩)
      else none)).foldl (fun acc c => insertCand c acc) []

/-- Cores that a slice needs at least: WIDTH, or half where fold 2 is open to it (02 R66). -/
def Cand.least (c : Cand) : Nat :=
  c.need (c.keptFold.getD c.im.fold2)

/-- Whether a candidate is eligible but for its certification at the point. -/
def State.candOpen (s : State) (c : Cand) : Bool :=
  decide (c.im.minTurn ≤ s.turn.ticks) && decide (c.least ≤ s.inService.length)
    && (c.w.chain.stashKib.isSome || (s.stashFor c s.stashFree).isSome)

/-- Whether a slice is certified at a point, in the fold that is open to it at the head. -/
def State.certifiedAt (s : State) (c : Cand) (p : Nat) : Bool :=
  s.foldFits c (s.foldFor { e := 0, res := 0, d := [], stash := 0 } c) p

/-- Whether a blocker that is not among the candidates bars a slice of its class that ranks after it (R276). -/
def State.barred (s : State) (cs : List Cand) (c : Cand) : Bool :=
  s.works.any (fun w => w.rank.blocker && w.isRun && w.result.isNone && decide (w.st ≠ .committed) && decide (s.ringClass w.ring = c.cls)
    && w.ranksBefore c.w && !(cs.any (fun d => decide (d.w.ring = w.ring) && decide (d.w.seq = w.seq))))

/-- Candidates of a pass at point `p`. -/
def State.candsAt (s : State) (cs : List Cand) (p : Nat) : List Cand :=
  let l := cs.filter (fun c => s.candOpen c && s.certifiedAt c p)
  l.filter (fun c => !(s.barred l c))

/-! ### The next point (R266, R267) -/

/-- The steps that the next head applies, of those that wait. -/
def State.nextSteps (s : State) : Bool → List EpochItem → List EpochStep
  | _, [] => []
  | listDone, x :: rest =>
    if !(s.epochDue listDone x) then s.nextSteps listDone rest
    else if s.chunkPages = 0 then []
    else x.step :: s.nextSteps (listDone || x.list) rest

/-- A field as the next head will see it. -/
def State.nextFld (s : State) (f : RegField) : Nat :=
  (s.nextSteps false s.epochs).foldl (fun v step => match step with
    | .regs es => (entryValue f es).getD v
    | .slot => (match s.nv.activation, f.key with
      | some a, some k => if f.late then v else slotKeyVal (s.slot a.slot) k
      | _, _ => v)
    | _ => v) (s.fld f)

/-- The slices whose certification alone has kept them out for PASS_LIMIT turns. -/
def State.starved (s : State) (cs : List Cand) (p : Nat) : List Cand :=
  (List.range 8).filterMap (fun k => match cs.find? (fun c => decide (c.cls = k) && s.candOpen c) with
    | some c => if !(s.certifiedAt c p) && decide (s.fld hstPassLimit ≤ c.w.rank.opWait + 1) then some c else none
    | none => none)

/-- The point of the next turn, given the pass at the current point. -/
def State.chooseNext (s : State) (cs : List Cand) (p : Nat) (real : Adm) : Nat :=
  let lo := s.nextFld hstOpMax
  let hi := s.nextFld hstOpMin
  if s.nextFld hstFixed = 1 then lo
  else
    let forced := (s.starved cs p).findSome? (fun c =>
      (List.range 6).find? (fun q => decide (lo ≤ q) && decide (q ≤ hi) && s.certifiedAt c q))
    match forced with
    | some q => q
    | none =>
      let pts := [p - 1, p, p + 1].eraseDups.filter (fun q => decide (lo ≤ q) && decide (q ≤ hi))
      let score (q : Nat) : Nat := if q = p then real.score else (s.admitTurn (s.candsAt cs q) q).score
      (pts.foldl (fun (best : Option (Nat × Nat)) q => match best with
        | none => some (q, score q)
        | some b => if b.2 < score q then some (q, score q) else some b) none).elim lo (fun b => b.1)

end Sys2Proof.Machine
end

