-- ==== Sys2Proof/Machine/HeadSample.lean ====
section
/-! DEFINITION. The ring engine at a turn head (11 R301 to R308, R313; 09 R258; 12 R335, R337): doorbell bitmaps, producer indices, fetching,
held reads, event rings, and the staging of class-0 inputs. -/

namespace Sys2Proof.Machine

/-! ### Doorbells (R303, R304) -/

/-- Counts a doorbell bit of a ring that is not enabled or not the function's, or answers the ring. -/
def State.doorbellBit (s : State) (f r : Nat) : State × List Nat :=
  match s.ring r with
  | some x => if x.fn = f ∧ s.ringOwner r = f then (s, [r]) else (s.bumpHif f hifSpuriousDb, [])
  | none => (s.bumpHif f hifSpuriousDb, [])

/-- Folds an operation that answers rings over a list. -/
def State.gather (step : State → Nat → State × List Nat) : List Nat → State → State × List Nat
  | [], s => (s, [])
  | x :: rest, s =>
    let a := step s x
    let b := State.gather step rest a.1
    (b.1, a.2 ++ b.2)

/-- Adds `n` to a HIF counter of a function. -/
def State.addHif (s : State) (f : Nat) (g : RegField) (n : Nat) : State := s.setHif f g (s.hif f g + n)

/-- Whether a function's CAS fails at a head: it completes with UR or CA, or AtomicOp Requester Enable is clear (R304). -/
def State.casFails (s : State) (h : HeadIn) (f : Nat) : Bool :=
  h.casFailed.any (fun x => decide (x.val = f)) || !(s.access.atomicEn.contains f)

/-- Reads word `w` of a function's bitmap and clears it with CAS; up to three attempts, each of which host software may beat. -/
def State.sampleWord (h : HeadIn) (f : Nat) (s : State) (w : Nat) : State × List Nat :=
  let a := s.tableBase f hifDbbLo hifDbbHi + 8 * w
  let old := s.hostRead a 8
  if old = 0 then (s, [])
  else
    let lost := (h.casLost.filter (fun e => decide (e.1 = f) && decide (e.2.1 = w))).map (fun e => e.2.2.toNat)
    let failed := s.casFails h f
    let tries := if failed then 0 else min 3 lost.length
    let seen := (lost.take tries).foldl (· ||| ·) old
    let after := if failed ∨ tries = 3 then lost.foldl (· ||| ·) old else 0
    let s1 := (s.hostPut a (le64 after)).addHif f hifCasRetry tries
    State.gather (fun t b => t.doorbellBit f ((s.ringRange f).1 + 64 * w + b)) ((List.range 64).filter (fun b => bitAt seen b)) s1

/-- Rings of a function that are enabled and pass a test. -/
def State.ringsOf (s : State) (f : Nat) (p : Ring → Bool) : List Nat :=
  s.rings.filterMap (fun e => match e.2 with
    | some x => if x.fn = f ∧ p x then some e.1 else none
    | none => none)

/-- Puts a function into doorbell fallback. -/
def State.fallBack (s : State) (f : Nat) : State :=
  if s.access.fallback.contains f then s
  else ({ s with access := { s.access with fallback := s.access.fallback ++ [f] } }).log .hifAtomic { detail := f }

/-- Samples one function: the rings whose producer indices are read at this head. -/
def State.sampleFn (h : HeadIn) (s : State) (f : Nat) : State × List Nat :=
  let kept := s.ringsOf f (fun x => x.ctx.scan || x.backlog || !x.held.isEmpty)
  if s.fld hifDbmode = 0 then (s, kept)
  else if s.access.fallback.contains f then (s, s.ringsOf f (fun _ => true))
  else
    let g := State.gather (State.sampleWord h f) (List.range ((s.ringRange f).2 / 64)) s
    ((if s.casFails h f then g.1.fallBack f else g.1), g.2 ++ kept)

/-- Functions that are sampled: enabled and in D0. -/
def State.sampledFns (s : State) : List Nat := (List.range 64).filter s.fnActive

/-! ### Fetching (R301, R305) -/

/-- Takes descriptors of a ring in order, until one is not accepted. -/
def State.takeMany (s : State) (r : Nat) : List (List Byte) → State × Bool
  | [] => (s, true)
  | d :: rest => if (s.takeDesc r d).2 then (s.takeDesc r d).1.takeMany r rest else ((s.takeDesc r d).1, false)

/-- A DOORBELL entry of the trace. -/
def State.noteDoorbell (s : State) (r pi : Nat) : State := s.trace1 0x03 (le16 r ++ le32 pi)

/-- Pending descriptors by a producer index. -/
def Ring.pendingBy (x : Ring) (pi : Nat) : Nat := (pi + 2 ^ 32 - x.acc % 2 ^ 32) % 2 ^ 32

/-- New descriptors of a ring whose index reads `pi`: the state and the number fetched; `most` bounds them. From the first late one on they
are held for the next head (R305). -/
def State.fetchNew (s : State) (h : HeadIn) (most r : Nat) (x : Ring) (pi : Nat) : State × Nat :=
  let p := x.pendingBy pi
  if x.size < p + (x.acc - x.cmp) then ((s.ringFault r .overrun (x.acc + 1) 0).noteDoorbell r pi, 0)
  else if p = 0 then (s.updRing r (fun y => { y with backlog := false }), 0)
  else
    let n := min p (min x.ctx.fetchMax most)
    let descs := (List.range n).map (fun i => s.hostBytes (x.drSlot (x.acc + 1 + i)) 64)
    let s1 := (s.noteDoorbell r pi).updRing r (fun y => { y with backlog := decide (n < p) })
    let s2 := if n < p then s1.bumpHif x.fn hifFetchDefer else s1
    let late := (List.range n).filter (fun i => h.late.any (fun e => decide (e.1.val = r) && decide (e.2 = i)))
    match late.head? with
    | none => ((s2.takeMany r descs).1, n)
    | some i =>
      let t := (s2.addHif x.fn hifLateRead late.length).takeMany r (descs.take i)
      ((if t.2 then t.1.updRing r (fun y => { y with held := descs.drop i, backlog := true }) else t.1), n)

/-- Samples ring `r`: descriptors held since the last head come first. `most` is what DEV_FETCH leaves, none where fetching is
stopped. -/
def State.fetchRing (s : State) (h : HeadIn) (most : Option Nat) (r : Nat) : State × Nat :=
  match s.ring r with
  | none => (s, 0)
  | some x =>
    if !x.sampled then (s, 0)
    else
      match most with
      | none =>
        let pi := s.hostRead (s.pitAddr x.fn r) 4
        if x.pendingBy pi = 0 then (s, 0)
        else (((s.updRing r (fun y => { y with backlog := true })).bumpHif x.fn hifFetchDefer).noteDoorbell r pi, 0)
      | some m =>
        let t := (s.updRing r (fun y => { y with held := [] })).takeMany r x.held
        if !t.2 then (t.1.updRing r (fun y => { y with backlog := true }), 0)
        else
          match t.1.ring r with
          | none => (t.1, 0)
          | some y => t.1.fetchNew h m r y (s.hostRead (s.pitAddr x.fn r) 4)

/-- Rings in the order in which the ring engine serves them: ascending from the one after `last`. -/
def serveOrder (last : Nat) (rs : List Nat) : List Nat :=
  rs.filter (fun r => decide (last < r)) ++ rs.filter (fun r => decide (r ≤ last))

/-- Serves rings in order: what is left of DEV_FETCH, and the last ring from which a descriptor was fetched. -/
def State.serveRings (h : HeadIn) : List Nat → State → Option Nat → Nat → State × Option Nat × Nat
  | [], s, most, last => (s, most, last)
  | r :: rest, s, most, last =>
    let f := s.fetchRing h most r
    State.serveRings h rest f.1 (most.map (fun m => m - f.2)) (if f.2 = 0 then last else r)

/-- Whether a ring is an event ring. -/
def isEventRing (r : Nat) : Bool := decide (1 ≤ r) && decide (r ≤ 3)

/-- What host software has consumed of an event ring (R313). -/
def State.readConsumed (s : State) (r : Nat) : State :=
  match s.ring r with
  | none => s
  | some x =>
    let c := x.acc + x.pendingBy (s.hostRead (s.pitAddr 0 r) 4)
    if s.hostOpen 0 ∧ !x.stopped ∧ s.access.up.contains 0 ∧ c ≤ x.cmp then s.setRing r { x with acc := c } else s

/-- Step 2 and 3 of a head: sampling, fetching and acceptance. -/
def State.sampleAll (s : State) (h : HeadIn) : State :=
  let g := State.gather (State.sampleFn h) s.sampledFns s.stopDisabled
  let s0 := (if s.flag audReplayActive then [1, 2] else [1, 2, 3]).foldl State.readConsumed g.1
  let hold := s0.traceShort && s0.flag audTraceEn && s0.flag audTraceHold
  let s1 := if hold then s0.bump audTraceHolds 1 else s0
  let marked := (orderBy (fun x y => decide (x < y)) g.2.eraseDups).filter (fun r => !isEventRing r)
  let most := if s1.fetchOpen then some (s1.fld hifDevFetch) else none
  let lat := marked.filter (fun r => decide (s1.ringClass r = 0))
  let rest := marked.filter (fun r => decide (s1.ringClass r ≠ 0))
  let a := State.serveRings h (serveOrder s1.turn.served0 lat) s1 most s1.turn.served0
  let b := State.serveRings h (serveOrder s1.turn.served1 rest) a.1 a.2.1 s1.turn.served1
  { b.1 with turn := { b.1.turn with served0 := a.2.2, served1 := b.2.2 } }

/-! ### Inputs staged in the head (R308) -/

/-- Stages the inputs of a class-0 work, or ends it where a host read of its ring fails. -/
def State.stageOr (s : State) (h : HeadIn) (w : Work) (plan : Plan) : State :=
  match h.stageFails.find? (fun e => decide (e.1.val = w.ring)) with
  | some e => if (Work.inputRegions plan).isEmpty then s.stageInputs w plan else s.stagingFails w e.2.1 e.2.2.toNat
  | none => s.stageInputs w plan

/-- Stages class-0 inputs in acceptance order until one does not fit in what is left of HEAD_STAGE. -/
def State.stageHead (h : HeadIn) : List Work → Nat → State → State
  | [], _, s => s
  | w :: rest, left, s =>
    match s.planOf w with
    | none => State.stageHead h rest left s
    | some plan =>
      if left < Work.inputBytes plan then s
      else State.stageHead h rest (left - Work.inputBytes plan) (s.stageOr h w plan)

/-- Class-0 works accepted at this head whose inputs are not staged. `old` counts the works that were there before. -/
def State.latWorks (s : State) (old : Nat) : List Work :=
  (s.works.drop old).filter (fun w => w.isRun && w.result.isNone && !w.staged && decide (s.ringClass w.ring = 0))

/-- Work that has no host inputs needs no staging, at its acceptance and again once its function is back after a reset. -/
def State.stageFree (s : State) : State :=
  s.works.foldl (fun t w => match t.planOf w with
    | some plan =>
      if w.isRun && w.result.isNone && !w.staged && decide (w.st = .accepted) && t.hostOpen w.fn && t.access.up.contains w.fn
          && (Work.inputRegions plan).isEmpty then t.stageInputs w plan
      else t
    | none => t) s

def State.stageLat (s : State) (h : HeadIn) (old : Nat) : State :=
  (State.stageHead h (s.latWorks old) (s.fld hifHeadStage * 1024) s).stageFree

end Sys2Proof.Machine
end

