-- ==== Sys2Proof/Machine/HeadOps.lean ====
section
/-! DEFINITION. What a turn head does beside sampling and admission: released link words (08 R235; 14 R384, R387 to R389), partition
resets (13 R367, R369), key slots (16 R437), lost state (13 R358), the maintenance window and retirements (17 R462, R463, R465), new
offsets (17 R462), channel takeover (09 R256), realignment (14 R396), and persistent streams (08 R227, R228). -/

namespace Sys2Proof.Machine

/-! ### Link words -/

/-- The bytes of a word: its header and its data. -/
def linkWordBytes (w : LinkWord) : List Byte :=
  [BitVec.ofNat 8 (if w.isSignal then 2 else 1), BitVec.ofNat 8 w.fn] ++ le16 w.ring ++ le64 w.seq ++ le16 w.slice
    ++ [BitVec.ofNat 8 w.score, BitVec.ofNat 8 w.target] ++ le32 w.offset ++ le32 w.len ++ le32 w.issue
    ++ le32 (if w.isSignal then 0 else w.offset / 2 ^ 32) ++ le64 w.sturn ++ zeros 8 ++ w.data

/-- Whether a release names the slice of a word. -/
def ReleaseIn.names (r : ReleaseIn) (w : LinkWord) : Bool :=
  decide (r.sturn = w.sturn) && r.slices.contains (w.fn, w.ring, w.seq, w.slice)

/-- Releases of a pair that are complete and due at system turn `m`, by source turn. -/
def PairIn.dueTurns (x : PairIn) (m lag : Nat) : List Nat :=
  ((x.releases.filter (fun r => r.last && decide (r.sturn + 1 + lag ≤ m))).map (fun r => r.sturn)).eraseDups

/-- Words that a due release names become due; words of an aborted slice are discarded. -/
def PairIn.makeDue (x : PairIn) (m lag : Nat) : PairIn :=
  let ts := x.dueTurns m lag
  { x with
    words := x.words.filterMap (fun w =>
      if w.due.isSome then some w
      else if ts.contains w.sturn then (if x.releases.any (fun r => r.names w) then some { w with due := some m } else none)
      else some w)
    releases := x.releases.filter (fun r => !ts.contains r.sturn) }

/-- Source turns whose release is late at system turn `m`, each told once (R389): one that has fallen due and has not come in full, or one
that has come in full after the head at which it was due. -/
def PairIn.newLate (x : PairIn) (m lag : Nat) : List Nat :=
  let full := x.dueTurns m lag
  let seen := ((x.words.filter (fun w => w.due.isNone)).map (fun w => w.sturn) ++ x.releases.map (fun r => r.sturn)).eraseDups
  seen.filter (fun t => decide (t + 1 + lag ≤ m) && (!(full.contains t) || decide (t + 1 + lag < m)) && !(x.late.contains t))

/-- The late source turns that a pair remembers: those that are still to come in full. -/
def PairIn.noteLate (x : PairIn) (m lag : Nat) : PairIn :=
  let full := x.dueTurns m lag
  { x with late := (x.late ++ x.newLate m lag).filter (fun t => !(full.contains t)) }

/-- The paired work of a word. -/
def State.pairedWork (s : State) (w : LinkWord) : Option Work :=
  s.works.find? (fun x => decide (x.fn = w.fn) && decide (x.ring = w.ring) && decide (x.seq = w.seq) && x.isRun)

/-- The source logical chip of a word (R383): by the group of its paired work, which its epoch has fixed (13 R373). -/
def State.sourceChip (s : State) (w : LinkWord) : Int :=
  match s.pairedWork w with
  | some x => (w.src : Int) - s.links.topo.self + x.sbase
  | none => (w.src : Int) - (s.fld (lnkFbase w.fn) : Int)

/-- The order in which words apply (R389): source turn, source logical chip, source logical core, ISSUE. -/
def State.wordBefore (s : State) (x y : LinkWord) : Bool :=
  let a := s.sourceChip x
  let b := s.sourceChip y
  decide (x.sturn < y.sturn) || (decide (x.sturn = y.sturn) && (decide (a < b) || (decide (a = b)
    && (decide (x.score < y.score) || (decide (x.score = y.score) && decide (x.issue < y.issue))))))

def State.insertWord (s : State) (x : LinkWord) : List LinkWord → List LinkWord
  | [] => [x]
  | y :: rest => if s.wordBefore x y then x :: y :: rest else y :: s.insertWord x rest

/-- What becomes of a due word. -/
inductive Applied where
  | waits
  | gone (s : State)
  | done (s : State)

/-- Payload of a NOTICE (DESIGN CHOICE, log entry 47: the spec gives none): the chip, 0 for its reset and 1 for a word that met a partition
reset, and then the word's function, ring and sequence. -/
def noticeReset (chip : Nat) : List Byte := le16 chip ++ [0]
def noticeWord (chip : Nat) (w : LinkWord) : List Byte := le16 chip ++ [1, BitVec.ofNat 8 w.fn] ++ le16 w.ring ++ zeros 2 ++ le64 w.seq

/-- A word for a logical core: bytes at its physical core, or an increment of its barrier counter. -/
def State.applyToCore (s : State) (w : LinkWord) (x : Work) (c : Nat) : State :=
  if w.isSignal then
    let m := SMap.get [] x.chain.counters w.target
    let v := (SMap.get 0 m (w.offset % 32)).toNat + w.len
    if 2 ^ 32 ≤ v then
      (s.log .ctrOvf { ring := x.ring, seq := x.seq, lcore := w.target }).updWork x.ring x.seq (fun y =>
        { y with result := some (wordStatus .ctrOvf) })
    else s.updWork x.ring x.seq (fun y => { y with chain := { y.chain with
        counters := SMap.set [] y.chain.counters w.target (SMap.set 0 m (w.offset % 32) (BitVec.ofNat 32 v)) } })
  else
    let from_ := (s.sourceChip w).toNat
    s.updCore c (fun k => { k with
      mem := Mem.writeBytes k.mem w.offset w.data
      xchip := k.xchip ++ [(w.offset, from_, s.turn.number)] })

/-- A PUT into HBM: into the work's staging copy where one holds the bytes, else at the offset; an invalid offset ends the work. -/
def State.applyToHbm (s : State) (w : LinkWord) (x : Work) : State :=
  let key := classKey w.target w.offset
  if s.hbm.validKey true key && s.hbm.validKey true (key + w.len - 1)
      && decide (w.offset / mirrorBit = (w.offset + w.len - 1) / mirrorBit) && !(s.hbm.inFixed key w.len) then
    match x.copyOf key with
    | some _ => s.updWork x.ring x.seq (fun y => { y with copies := y.copies.map (fun c =>
        if c.base ≤ key ∧ key < c.base + c.bytes then { c with data := Mem.writeBytes c.data key w.data } else c) })
    | none => s.hbmStore key w.data
  else
    (s.log .linkAddr { ring := x.ring, seq := x.seq, lcore := w.score, addr := w.offset }).updWork x.ring x.seq (fun y =>
      { y with result := some (wordStatus .remoteAddr) })

/-- Applies a due word on behalf of its paired work (R384, R369). -/
def State.applyWord (s : State) (w : LinkWord) : Applied :=
  match s.pairedWork w with
  | none => .waits
  | some x =>
    if w.target < 0x80 then
      if s.turn.partNow.contains w.fn then
        .gone (s.sendPair w.src ftNotice 0 (noticeWord s.links.topo.self w))
      else
        match x.chain.pins[if x.chain.fold2 = some true then w.target / 2 else w.target]? with
        | some c => if c = 144 then .waits else .done (s.applyToCore w x c)
        | none => .waits
    else .done (s.applyToHbm w x)

/-- Whether a word must wait behind `held`: a SIGNAL applies only after every earlier PUT of its source core has landed (R389). -/
def LinkWord.waitsFor (w : LinkWord) (held : List LinkWord) : Bool :=
  w.isSignal && held.any (fun x => decide (x.src = w.src) && decide (x.score = w.score) && !x.isSignal)

/-- Applies due words in order: the words that wait on, and those applied. `held` are words that have been found to wait. -/
def State.applyDue : List LinkWord → List LinkWord → State → State × List LinkWord × List LinkWord
  | [], held, s => (s, held, [])
  | w :: rest, held, s =>
    match if w.waitsFor held then Applied.waits else s.applyWord w with
    | .waits => State.applyDue rest (held ++ [w]) s
    | .gone s1 => State.applyDue rest held s1
    | .done s1 => let t := State.applyDue rest held s1; (t.1, t.2.1, w :: t.2.2)

/-- LINK_WORD_APPLY: released words of this head, with LINK_LATE and the LINK records. -/
def State.applyLinks (s : State) : State :=
  let m := s.sturn
  let lag := s.fld lnkLag
  let late := s.links.ins.foldl (fun n e => n + (e.2.newLate m lag).length) 0
  let ins1 := s.links.ins.map (fun e => (e.1, (e.2.noteLate m lag).makeDue m lag))
  let due := (ins1.flatMap (fun e => e.2.words.filter (fun w => w.due.isSome))).foldl (fun acc w => s.insertWord w acc) []
  let strip (x : PairIn) : PairIn := { x with words := x.words.filter (fun w => w.due.isNone) }
  let ins2 : SMap PairIn := ins1.map (fun (e : Nat × PairIn) => (e.1, strip e.2))
  let bare := { s with links := { s.links with ins := ins2 } }
  let r := State.applyDue due [] (bare.bump lnkLate late)
  let back := r.2.1.foldl (fun t w => t.setPairIn w.src { t.pairIn w.src with words := (t.pairIn w.src).words ++ [w] }) r.1
  ((r.2.2.map (fun w => w.src)).eraseDups).foldl (fun t src =>
    let mine := r.2.2.filter (fun w => decide (w.src = src))
    let chip := match mine.head? with
      | some w => (t.sourceChip w).toNat
      | none => src
    t.trace1 0x06 (le16 chip ++ zeros 2 ++ le32 mine.length ++ (sha512 (mine.flatMap linkWordBytes)).take 32)) back

/-! ### Partition resets -/

/-- A partition reset takes effect: accepted work of the function restarts, and its chains leave their cores. -/
def State.resetPartition (s : State) (f : Nat) : State :=
  let hit (w : Work) : Bool := decide (w.fn = f) && w.isRun && w.result.isNone && decide (w.st = .accepted ∨ w.st = .running)
  let ws := s.works.filter hit
  let s1 := (ws.flatMap (fun w => w.chain.pins)).foldl (fun t c => t.updCore c (fun k => { k with engines := [], xchip := [] })) s
  let s2 := { s1 with works := s1.works.map (fun w =>
    if hit w then w.restart
    else match w.admin with
      | .partition g => if g = f then { w with admin := .none, result := some stOk } else w
      | _ => w) }
  ((s2.bump errReexec ws.length).bump errPartResets 1).log .partReset { detail := f }

def State.resetPartitions (s : State) : State :=
  let fs := (s.works.filterMap (fun w => match w.admin with
    | .partition f => some f
    | _ => none)).eraseDups
  let t := fs.foldl State.resetPartition s
  { t with turn := { t.turn with partNow := fs } }

/-! ### Key slots and lost state -/

/-- Key slots whose records are stored take effect, and their operations end. -/
def State.applyKeys (s : State) : State :=
  s.works.foldl (fun t w => match w.admin with
    | .key k => if w.stores.all t.stored then (t.applyKey k).updWork w.ring w.seq (fun x => { x with admin := .none, result := some stOk })
      else t
    | _ => t) s

/-- A SLOT_ACTIVATE whose activation a cold reset has ended starts again (13 R351; 15 R430). -/
def State.resumeActivation (s : State) : State :=
  s.works.foldl (fun t w =>
    if w.admin = .activation ∧ w.result.isNone ∧ t.nv.activation.isNone then t.adminSlotActivate { w with admin := .none } else t) s

/-- Work whose staging copies cannot be filled, since their regions are lost, ends with STATE_LOST. -/
def State.stateLost (s : State) : State :=
  s.works.foldl (fun t w =>
    if w.isRun && w.result.isNone && decide (w.st = .accepted) && w.copies.any (fun c => !c.filled && t.copyFree w c && t.hbm.rangeLost c.base c.bytes)
    then (t.updWork w.ring w.seq (fun x => { x with result := some stStateLost, copies := [] })).bump errStateLost 1
    else t) s

/-! ### Phases (19 R500) -/

/-- Phases with PHASE_MARGIN give way to their spares once the substitution is recorded (15 R422). -/
def State.swapPhases (s : State) : State :=
  let waits (e : Nat × Nat × Nat) : Bool := s.repairWaits 8 e.1 e.2.1 e.2.2
  (s.witness.swapPhases.filter (fun e => !(waits e))).foldl (fun t e => t.log .phaseSpared { inst := e.1, detail := e.2.1 })
    { s with witness := { s.witness with swapPhases := s.witness.swapPhases.filter waits } }

/-- Spare phases join the shares that lost one: each substitution is recorded and logged. -/
def State.joinSpares (s : State) : State :=
  s.swapPhases.power.shares.foldl (fun t e =>
    let t1 := (List.range e.2.removed).foldl (fun u i => (u.repair 8 (e.1 / 16) (e.1 % 16) (e.2.used + i)).log .phaseSpared { inst := e.1 / 16, detail := e.1 % 16 }) t
    if e.2.removed = 0 then t1
    else { t1 with power := { t1.power with shares := SMap.set {} t1.power.shares e.1 { used := e.2.used + e.2.removed } } }) s.swapPhases

/-- A share loses a phase: a spare joins at the next head, or the share runs a phase short. -/
def State.phaseFault (s : State) (tile rail : Nat) : State :=
  let k := 16 * tile + rail
  let x := SMap.get {} s.power.shares k
  if x.used + x.removed < 2 then
    { s with power := { s.power with shares := SMap.set {} s.power.shares k { x with removed := x.removed + 1 } } }
  else
    ({ s with power := { s.power with short := s.power.short ++ [(tile, rail)] } }).log .phaseShort { inst := tile, detail := rail }

/-- Phases that raised PHASE_MARGIN are to be replaced, where their share has a spare, as a window opens: the records come first (15 R422). -/
def State.replacePhases (s : State) : State :=
  let t := s.witness.marginPhases.foldl (fun u (e : Nat × Nat) =>
    let x := SMap.get {} u.power.shares (16 * e.1 + e.2)
    if x.used + x.removed < 2 then
      { u.repair 8 e.1 e.2 x.used with
        power := { u.power with shares := SMap.set {} u.power.shares (16 * e.1 + e.2) { x with used := x.used + 1 } }
        witness := { u.witness with swapPhases := u.witness.swapPhases ++ [(e.1, e.2, x.used)] } }
    else u) s
  { t with witness := { t.witness with marginPhases := [] } }

/-! ### Maintenance window -/

/-- Opens a maintenance window at the turn that begins; phases with PHASE_MARGIN are replaced (19 R500). -/
def State.openWindow (s : State) : State :=
  ({ s with witness := { s.witness with
    window := some { first := s.turn.ord, tested := [], measured := false }
    request := false
    due := false } }).replacePhases.setFlag witReplanning true

/-- Cores that the window in force has still to test: those without a test, then those whose test runs again. -/
def State.untested (s : State) (w : Window) : List Nat :=
  (List.range 144).filter (fun c => decide (s.coreOut c ≠ 2) && !w.tested.contains c)
    ++ w.again.filter (fun c => decide (s.coreOut c ≠ 2))

/-- The core withheld in the turn that begins: in physical order, pinned cores after the others, and cores to test again last. -/
def State.nextTested (s : State) (w : Window) : Option Nat :=
  let open_ := (s.untested w).filter (fun c => !(s.anyPinned c))
  match open_.find? (fun c => w.tested.all (fun x => decide (x < c))) with
  | some c => some c
  | none => open_.head?

/-- A core's test begins. -/
def Window.test (w : Window) (c : Nat) : Window :=
  if w.again.contains c then { w with again := w.again.erase c } else { w with tested := w.tested ++ [c] }

/-- One head of the window: a core whose test turn met the brake or a failing core is tested again; step 1 ends when every core is
tested, or after RETIRE_WAIT turns. -/
def State.windowStep (s : State) (again : Bool) : State :=
  match s.witness.window with
  | none => { s with turn := { s.turn with withheld := [] } }
  | some w0 =>
    let w := if again then { w0 with again := w0.again ++ s.turn.withheld } else w0
    if w.measured then { s with turn := { s.turn with withheld := [] } }
    else if (s.untested w).isEmpty ∨ w.first + s.fld witRetireWait ≤ s.turn.ord then
      let t := (s.untested w).foldl (fun u c => u.log .replanLate { inst := c }) s
      { t with
        witness := { t.witness with window := some { w with measured := true } }
        turn := { t.turn with withheld := [] } }
    else
      match s.nextTested w with
      | some c => { s with
          witness := { s.witness with window := some (w.test c) }
          turn := { s.turn with withheld := [c] } }
      | none => { s with
          witness := { s.witness with window := some w }
          turn := { s.turn with withheld := [] } }

/-- The window's part of a head. -/
def State.windowHead (s : State) (again : Bool) : State :=
  let s1 := if s.witness.window.isNone && (s.witness.request || s.witness.due) && !s.recovering then s.openWindow else s
  s1.windowStep again

/-! ### Weak lanes (14 R399; 17 R460) -/

/-- Whether the spare of a port group can take a lane's place. -/
def State.spareFree (s : State) (lane sp : Nat) : Bool :=
  (SMap.get none s.links.spares sp).isNone && decide (lane ≠ spareLane sp) && !(s.links.deadLanes.contains (spareLane sp))

/-- A lane is retired to its group's spare, or its port narrows or goes down (14 R399, R400); a lane that works still has its record (15 R422)
already. -/
def State.spareLaneIn (s : State) (p lane : Nat) (noted : Bool) : State :=
  let x := s.port p
  let sp := portSpare p
  let left := x.lanes.filter (fun l => decide (l ≠ lane))
  let s0 := { s with links := { s.links with deadLanes := insertOnce lane s.links.deadLanes } }
  if s.spareFree lane sp then
    let s1 := { s0 with links := { s0.links with spares := SMap.set none s0.links.spares sp (some lane) } }
    let s2 := s1.setPort p { x with lanes := left ++ [spareLane sp], spareIn := true }
    ((if noted then s2 else s2.repair 7 lane 0 sp).bump lnkLanesSpared 1).log .laneSpared { inst := lane }
  else
    let s1 := s0.setPort p { x with lanes := left, spareIn := left.contains (spareLane sp), state := if left.isEmpty then 7 else x.state }
    if left.isEmpty then s1.log .portDown { inst := lane } else s1.log .portNarrow { inst := lane }

/-- The port whose rotation holds a lane. -/
def State.portWith (s : State) (lane : Nat) : Option Nat := (List.range 24).find? (fun p => (s.port p).lanes.contains lane)

/-- Lanes with weak eyes give way to their spares once the record that names them is stored. -/
def State.retireLanes (s : State) : State :=
  s.witness.weakLanes.foldl (fun t lane =>
    match t.portWith lane with
    | some p => if t.spareFree lane (portSpare p) then t.spareLaneIn p lane true else t.log .laneMargin { inst := lane }
    | none => t) { s with witness := { s.witness with weakLanes := [] } }

/-- One unit takes the microcode that waits for a window (15 R431): the Headstock engines by a takeover of the standby. -/
def State.loadUcode (s : State) : State :=
  match s.nv.ucodeDue with
  | [] => s
  | r :: rest =>
    let others := s.nv.ucode.filter (fun x => decide (fieldAt x.value 0 1 ≠ fieldAt r.value 0 1))
    let s1 := if fieldAt r.value 0 1 = 2 then s.setFld hstEngine (s.fld hstEngine + 1) else s
    { s1 with nv := { s1.nv with ucode := others ++ [r], ucodeDue := rest } }

/-- New offsets take effect once their record is stored (17 R462 step 5). -/
def State.applyOffsets (s : State) : State :=
  match s.witness.pendingOffs, s.witness.waitSid with
  | some (offs, dies), some sid =>
    if s.stored sid then
      let s1 := (List.range 6).foldl (fun t p => t.setFld (witOff p) (offs.getD p 0)) s
      let s2 := (List.range 4).foldl (fun t d => t.setFld (witDieOff d) (dies.getD d 0)) s1
      ({ s2 with witness := { s2.witness with pendingOffs := none, waitSid := none, retireFrom := s.turn.ord, window := none } }).retireLanes.loadUcode.setFlag
        witReplanning false
    else s
  | _, _ => s

/-- THETA takes effect at the head after the re-planning (17 R461). -/
def State.applyTheta (s : State) : State :=
  match s.witness.pendingTheta with
  | some t => { (s.setFld witTheta t) with witness := { s.witness with pendingTheta := none } }
  | none => s

/-- Cores marked for retirement leave service once no chain is pinned to them. -/
def State.retireCores (s : State) : State :=
  if s.witness.pendingOffs.isSome then s
  else
    let out := s.witness.retiring.filter (fun c => !(s.anyPinned c))
    let s1 := { s with witness := { s.witness with
      retiring := s.witness.retiring.filter (fun c => !out.contains c)
      coreState := out.foldl (fun m c => SMap.set 0 m c 2) s.witness.coreState } }
    out.foldl (fun t c => (t.bump witCoresRetired 1).log .coreRetired { inst := c }) s1

/-! ### Channel takeover, realignment -/

/-- A spare channel whose copy has ended takes over, once the substitution is recorded (15 R422). -/
def State.takeChannels (s : State) : State :=
  (List.range 8).foldl (fun t k =>
    let x := t.hbm.stack k
    if x.copyDone && !(s.repairWaits 5 k (x.copying.getD 0) x.sparePch) then { t with hbm := t.hbm.setStack k { x with spareFor := x.copying.getD x.spareFor, copying := none, copyDone := false } }
    else t) s

/-- A work of a list that a free choice names: the spec does not place Offcut data or staging copies within their areas. -/
def State.someWork (s : State) (key : Nat) (l : List Work) : Option Work :=
  l[Config.freeNat 45 s.freeCtr key % (l.length + 1)]?

/-- One sector that scrub has listed is treated as lost by what it holds (09 R255); a channel that took over unread reaches every area of
the striped class. -/
def State.treatLost (s : State) (e : Option Nat) : State :=
  match e with
  | none =>
    let s1 := s.poolLost.stageLost (fun c => !c.mirrored)
    s1.works.foldl State.hostStageLost s1
  | some key =>
    let s1 := { (s.tickFree) with hbm := s.hbm.lose key 64 }
    if s.hbm.inStash key 64 then
      match s.someWork key (s.works.filter (fun w => decide (0 < w.chain.stashKib.getD 0))) with
      | some w => s1.overflowLost w
      | none => s1
    else if s.hbm.ringBase ≤ key ∧ key < s.hbm.stashBase then
      match s.someWork key (s.works.filter (fun w => w.staged && w.result.isNone)) with
      | some w => (s1.abortWork w 1).restage w
      | none => s1
    else s1

/-- What scrub has listed since the last head. -/
def State.applyScrubbed (s : State) : State :=
  s.hbm.scrubbed.foldl State.treatLost { s with hbm := { s.hbm with scrubbed := [] } }

/-- The system turn advances (14 R394 to R396): a chip that follows a master takes its number from SYNC flits, a chip in SYNC_LOST goes on
counting. A realign turn is lengthened by the phase error and admits nothing; at the head after it the chip follows the master again. -/
def State.alignHead (s : State) (first : Bool) : State :=
  let y := s.links.sync
  let put (x : SyncState) (t : State) : State := { t with links := { t.links with sync := x } }
  let own := if first then s.sturn else s.sturn + 1
  let y1 : SyncState := { y with masterSturn := y.masterSturn + 1, seen := false, correction := 0, realigning := none }
  match y.realigning with
  | some _ =>
    let t := put { y1 with realign := none, lostTurns := 0, missed := 0, overLim := 0, good := 0 } s
    (((t.setPair lnkSturnLo lnkSturnHi y1.masterSturn).bump lnkResync 1).setFlag lnkSyncLost false).log .resync {}
  | none =>
    let lost := s.flag lnkSyncLost
    let y2 : SyncState := { y1 with
      missed := if y.seen then 0 else y.missed + 1
      good := if y.seen then y.good + 1 else 0
      lostTurns := if lost then y.lostTurns + 1 else 0
      realign := none
      realigning := y.realign }
    let t := (put y2 s).setPair lnkSturnLo lnkSturnHi (if s.follows && y.known && !lost then y1.masterSturn else own)
    if y.realign.isSome then { t with turn := { t.turn with noSlices := true } } else t

/-- The turn master sends SYNC at each turn boundary (14 R394). -/
def State.masterSync (s : State) : State :=
  if s.flag lnkMaster then s.sendSync s.links.topo.self s.sturn (s.fld hstTurnTicks) else s

/-! ### Persistent streams -/

/-- Pending bases apply to every engine whose pass has retired (R227). -/
def State.applyRearm (s : State) : State :=
  { s with cores := s.cores.map (fun e =>
      if e.2.engines.any (fun x => x.2.pending.isSome) then
        (e.1, { e.2 with engines := e.2.engines.map (fun x => match x.2.pending, x.2.pass, x.2.desc with
          | some b, none, some d => (x.1, { x.2 with desc := some { d with src := b.1, dst := b.2 }, pending := none })
          | _, _, _ => x) })
      else e) }

/-- Retires requests of the pass of engine `e` until it waits, ends, or the core's engines have written 128 KiB: the state and what
is left of the 128 KiB. -/
def State.fillPass : Nat → State → Nat → Nat → Nat → State × Nat
  | 0, s, _, _, left => (s, left)
  | n + 1, s, c, e, left =>
    match ((s.core c).engine e).pass with
    | none => (s, left)
    | some p =>
      if left = 0 then (s, left)
      else
        match s.retireRequest c e p with
        | .stalled _ => (s, left)
        | .invalid => ((s.setCore c ((s.core c).endPass e)).wordFault c .streamDesc, left)
        | .moved s1 _ =>
          State.fillPass n s1 c e (left - streamBytes (Fmt.ofCode p.desc.dfmt) (p.desc.request p.done))

/-- Starts the pass of one armed engine of core `c` for a slice with edges `old` before and the core's context after; an edge that
differs disarms the stream. -/
def State.fillEngine (s : State) (c : Nat) (old : List EdgeDef) (p : Placed) (e left : Nat) : State × Nat :=
  let k := s.core c
  let x := k.engine e
  match x.desc with
  | none => (s, left)
  | some d =>
    let same := match old[d.outEdge]?, k.ctx.edges[d.outEdge]? with
      | some a, some b => decide (a.prodKind = b.prodKind) && decide (a.prodInst = b.prodInst) && decide (a.credits = b.credits)
          && decide (a.bytes = b.bytes)
      | _, _ => false
    if same then
      let k1 := Core.bindEdge c k d.outEdge d.dst d.ruse
      State.fillPass 131072 (s.setCore c (k1.startPass e [0, 0, 0, 0])) c e left
    else ((s.setCore c (k.setEngine e {})).log .persistMismatch { inst := c, ring := p.ring, seq := p.seq, slice := p.slice, lcore := k.ctx.logical }, left)

/-- PERSIST_FILL for placed slice `i` (R228). -/
def State.fillPlaced (s : State) (i : Nat) : State :=
  match s.placedAt i with
  | none => s
  | some p =>
    match s.findWork p.ring p.seq, s.placedImage p with
    | some w, some im =>
      (p.cores.zip (List.range p.cores.length)).foldl (fun t cj =>
        let k := t.core cj.1
        let armed := (k.engines.filter (fun e => e.2.armed)).map (fun e => e.1)
        if armed.isEmpty then t
        else
          let t1 := t.setCore cj.1 { k with ctx := sliceCtx i cj.2 p w im (s.seedOf w), swaps := [], edges := [] }
          (armed.foldl (fun (u : State × Nat) e => u.1.fillEngine cj.1 k.ctx.edges p e u.2) (t1, 131072)).1) s
    | _, _ => s

def State.persistFill (s : State) : State := (List.range s.turn.placed.length).foldl State.fillPlaced s

end Sys2Proof.Machine
end

