-- ==== Sys2Proof/Machine/Trends.lean ====
section
/-! DEFINITION. Trends of what ages, the remaining life that they project, and AT_RISK (17 R467 to R469). -/

namespace Sys2Proof.Machine

/-- Free spare cores, lanes and channels (17 R470). -/
def State.coreFree (s : State) : Nat := s.inService.length - s.gradeCores

/-! ### Trends (R467, R468), in fixed point with 16 fraction bits -/

/-- HOURS to the power 1/4. -/
def quarterRoot (hours : Nat) : Nat := Nat.sqrt (Nat.sqrt (hours * 2 ^ 64))

/-- One more measurement of an item. -/
def Fit.add (f : Fit) (x : Nat) (y : Int) : Fit :=
  { n := f.n + 1
    sx := f.sx + x
    sy := f.sy + y
    sxx := f.sxx + (x : Int) * x / 65536
    sxy := f.sxy + (x : Int) * y / 65536 }

/-- The hours at which the least-squares line reaches `limit`, itself in fixed point, if it moves toward it: at least 8 measurements, and
a slope of the right sign. -/
def Fit.project (f : Fit) (limit : Int) (rising : Bool) : Option Nat :=
  let n : Int := f.n
  let b : Int := n * f.sxy * 65536 - f.sx * f.sy
  let d : Int := n * f.sxx * 65536 - f.sx * f.sx
  if f.n < 8 ∨ d ≤ 0 ∨ (if rising then b ≤ 0 else 0 ≤ b) then none
  else
    let num := (limit * n - f.sy) * d + b * f.sx
    let den := 65536 * n * b
    if num * den ≤ 0 then some 0 else some (num.natAbs ^ 4 / den.natAbs ^ 4)

/-- Items of the FIT table: 144 cores, 4 dies, 104 lanes, 256 channels, hold-up, interface. -/
def fitDie (d : Nat) : Nat := 144 + d
def fitLane (l : Nat) : Nat := 148 + l
def fitChannel (c : Nat) : Nat := 252 + c
def fitHoldup : Nat := 508
def fitTheta : Nat := 509

def State.fit (s : State) (i : Nat) : Fit := SMap.get {} s.witness.fits i

def State.addFit (s : State) (i : Nat) (y : Int) : State :=
  { s with witness := { s.witness with fits := SMap.upd {} s.witness.fits i (fun f => f.add (quarterRoot s.witness.hours) y) } }

/-- The projections of a list of items, earliest first. -/
def State.projections (s : State) (is : List Nat) (limit : Int) : List Nat :=
  insertAll (is.filterMap (fun i => (s.fit i).project (limit * 65536) false))
where
  insertAll : List Nat → List Nat
    | [] => []
    | x :: rest => put x (insertAll rest)
  put (x : Nat) : List Nat → List Nat
    | [] => [x]
    | y :: rest => if x ≤ y then x :: y :: rest else y :: put x rest

/-- Days from now until an hour of service, held at 65,535; no projection is 65,535. -/
def State.daysUntil (s : State) (h : Option Nat) : Nat :=
  match h with
  | none => 65535
  | some x => min 65535 ((x - s.witness.hours) / 24)

/-- The lanes of a spare group, and the channels of a stack. -/
def groupLanes (g : Nat) : List Nat := ((List.range 3).flatMap (fun i => (List.range 4).map (laneOf (3 * g + i)))) ++ [spareLane g]
def stackChannels (k : Nat) : List Nat := (List.range 32).map (fun p => 32 * k + p)

/-- The second-earliest projection of each of `n` sets of items. -/
def State.seconds (s : State) (n : Nat) (items : Nat → List Nat) (limit : Int) : List (Option Nat) :=
  (List.range n).map (fun g => (s.projections (items g) limit)[1]?)

/-- The earliest of a list of projections, and where it stands. -/
def earliest (l : List (Option Nat)) : Option (Nat × Nat) :=
  (l.zip (List.range l.length)).foldl (fun best e => match e.1, best with
    | some x, some b => if x < b.1 then some (x, e.2) else some b
    | some x, none => some (x, e.2)
    | none, _ => best) none

/-- The spare group that limits RL[1] and the stack that limits RL[2], with their hours. -/
def State.laneLimit (s : State) : Option (Nat × Nat) := earliest (s.seconds 8 (fun g => (groupLanes g).map fitLane) 20)
def State.hbmLimit (s : State) : Option (Nat × Nat) := earliest (s.seconds 8 (fun k => (stackChannels k).map fitChannel) 30)

/-- The limit of cores and dies: 20 mV less OFFMAX. -/
def State.marginLimit (s : State) : Int := 20 - 5 * s.fld witOffMax

/-- RL[0] to RL[5] in days. -/
def State.remaining (s : State) : List Nat :=
  let cores := s.projections ((List.range 144).filter (fun c => decide (s.coreOut c ≠ 2))) s.marginLimit
  [s.daysUntil (cores[s.coreFree]?), s.daysUntil (s.laneLimit.map (fun e => e.1)), s.daysUntil (s.hbmLimit.map (fun e => e.1)),
   s.daysUntil ((s.projections ((List.range 4).map fitDie) s.marginLimit).head?),
   s.daysUntil ((s.fit fitHoldup).project 65536000 false), s.daysUntil ((s.fit fitTheta).project 98304 true)]

/-! ### AT_RISK (R469) -/

/-- Whether results are safe but the availability target is not: no free core, spent spares where life is shortest, a die at OFFMAX, or
no remaining life. -/
def State.atRisk (s : State) : Bool :=
  decide (s.coreFree = 0)
    || (match s.laneLimit, s.hbmLimit with
      | some g, some k => (SMap.get none s.links.spares g.2).isSome && decide ((s.hbm.stack k.2).spareFor ≠ 31)
      | _, _ => false)
    || (List.range 4).any (fun d => decide (s.fld witOffMax ≤ s.fld (witDieOff d)))
    || (decide (s.fld witRlDays = 0) && (newestOf s.nvLog rtWitness).isSome)

/-- Shows AT_RISK; SPARES_OUT is logged once. -/
def State.noteRisk (s : State) : State :=
  let risk := s.atRisk
  let s1 := if risk && !(s.flag witAtRisk) then s.log .sparesOut {} else s
  s1.setFlag witAtRisk risk

end Sys2Proof.Machine
end

