-- ==== Sys2Proof/Machine/TurnHead.lean ====
section
/-! DEFINITION. The turn head (10 R261, R264 to R267, R272 to R279; 12 R328, R335): the turn begins, epochs apply, the ring engine samples,
the Headstock admits and places, and the turn record is written. -/

namespace Sys2Proof.Machine

/-! ### The turn begins -/

/-- VDD_CORE at a point (19 R499), with its Witness offset, in mV. -/
def State.vddOf (s : State) (p : Nat) : Nat := [880, 830, 780, 730, 670, 620].getD p 880 + 5 * s.fld (witOff p)

/-- Reference ticks of the turn that ends (10 R261, R283; 14 R395, R396): its length, twice that where it stretched, less the phase error
that the next head corrects, and what a realign turn adds. -/
def State.turnSpan (s : State) : Nat :=
  ((s.turn.ticks * (if s.turn.stretched then 2 else 1) + s.links.sync.realigning.getD 0 : Nat) - s.links.sync.correction : Int).toNat

/-- Sets the quantities of a turn that begins. -/
def State.beginTurn (s : State) (n : Nat) (ptm : Option Nat) : State :=
  let t := { s.turn with
    number := n
    ord := s.turn.ord + 1
    placed := []
    nacc := 0
    clock := s.turn.clock + s.turnSpan
    shares := []
    stretched := false
    raised := false
    braked := s.flag tlsBrake
    budget := s.fld tlsENext }
  ({ s with
    turn := t
    hbm := { s.hbm with ueTurn := [] }
    audit := { s.audit with
      accepts := []
      admits := []
      comps := []
      ptm := ptm } }).setFlag clkPtmValid ptm.isSome

/-- Length and point of the turn, and the voltage of the point. -/
def State.setPoint (s : State) (ticks p : Nat) : State :=
  { s with turn := { s.turn with ticks := ticks, point := p, vddMv := s.vddOf p } }

/-- The point chosen at the last head, held within the range in force; OP_MAX where FIXED is set (R266). -/
def State.pointNow (s : State) : Nat :=
  if s.fld hstFixed = 1 then s.fld hstOpMax else max (s.fld hstOpMax) (min (s.fld hstOpMin) s.turn.nextPoint)

/-- What changes at the grid (step 1): map, epochs, keys, partitions, offsets, retirements, window. -/
def State.stepOne (s : State) (again : Bool) : State :=
  let s1 := s.takeChannels.applyDegraded.applyScrubbed.joinSpares.nvRetry.applyEpochs.applyKeys.resumeActivation
  ((s1.resetPartitions.applyTheta.applyOffsets.retireCores).windowHead again).updateService.enableFns.noteRisk

/-! ### Placement takes effect -/

/-- What a work's chain holds once a slice of it is placed: its fold, pins and stash reservation. -/
def State.holdChain (s : State) (c : Cand) (q : Placed) : State :=
  let old := c.w.chain
  let extra := c.plan.foldExtra q.fold2 c.im.width
  let choice := if old.stashKib.isSome then none else c.plan.stashChoice extra s.stashFree
  s.updWork q.ring q.seq (fun w =>
    let ch := { w.chain with
      fold2 := if c.plan.needsPins || !old.pins.isEmpty then some q.fold2 else none
      pins := if c.plan.needsPins || !old.pins.isEmpty then q.cores ++ old.pins.drop q.cores.length else []
      stashKib := match choice with
        | some x => some x.1
        | none => w.chain.stashKib
      stashSegs := match choice with
        | some x => List.range x.2
        | none => w.chain.stashSegs }
    let recompute := match choice with
      | some x => decide (x.2 < c.plan.stash.length)
      | none => false
    { w with
      chain := ch
      sums := if recompute then { w.sums with flags := w.sums.flags ||| 0x8000 } else w.sums
      rank := { w.rank with passed := 0, blocker := false, opWait := 0 } })

/-- A 6-byte ADMIT entry. -/
def admitEntry (q : Placed) : List Byte := le16 q.ring ++ le32 (q.seq % 2 ^ 31 + (if q.fold2 then 2 ^ 31 else 0))

/-- One placed slice takes effect. -/
def State.putPlaced (s : State) (e : Cand × Placed) : State :=
  let s1 := s.holdChain e.1 e.2
  let s2 := { s1 with turn := { s1.turn with placed := s1.turn.placed ++ [e.2] } }
  ({ s2 with audit := { s2.audit with admits := s2.audit.admits ++ [admitEntry e.2] } }).trace1 0x05 (admitEntry e.2)

/-- A slice that place() passed over (R276): at PASS_LIMIT consecutive turns it becomes a blocker. -/
def State.notePassed (s : State) (c : Cand) : State :=
  let n := ((s.findWork c.w.ring c.w.seq).getD c.w).rank.passed + 1
  let blocks := !c.w.rank.blocker && decide (s.fld hstPassLimit ≤ n)
  let s1 := s.updWork c.w.ring c.w.seq (fun w => { w with rank := { w.rank with passed := n, blocker := w.rank.blocker || blocks } })
  if blocks then s1.bump hstBlocker 1 else s1

/-- Class-0 slices that were deferred: LAT_DEFER counts those at their first eligible head. -/
def State.noteDeferred (s : State) (cs : List Cand) : State :=
  s.bump hstLatDefer (cs.filter (fun c => c.w.rank.firstHead)).length

/-- The placed slices take effect, and the cores that run get the HBM share positions of the turn (09 R250; 10 R281), in ascending order
(DESIGN CHOICE, log entry 57). -/
def State.putAll (s : State) (a : Adm) : State :=
  let s1 := a.placed.foldl State.putPlaced s
  { s1 with turn := { s1.turn with shares := (List.range 144).filter (fun c => a.placed.any (fun e => e.2.cores.contains c)) } }

/-- The admission pass takes effect: placements, deficits, and what it remembers of the others. A slice that this pass did not pass over
starts its count of turns again (R276). -/
def State.commitPlacement (s : State) (cs : List Cand) (a : Adm) : State :=
  let s1 := { s with works := s.works.map (fun (w : Work) =>
    if a.passed.any (fun c => decide (c.w.ring = w.ring) && decide (c.w.seq = w.seq)) then w
    else { w with rank := { w.rank with passed := 0 } }) }
  let s3 := (a.passed.foldl State.notePassed (s1.putAll a)).noteDeferred a.deferred
  let s4 := cs.foldl (fun t c => t.updWork c.w.ring c.w.seq (fun w => { w with rank := { w.rank with firstHead := false } })) s3
  { s4 with turn := { s4.turn with
    deficits := (List.range 8).map (fun k => if (a.firstOpen cs k).isSome && decide (k ≠ 0) then a.d.getD k 0 else 0) } }

/-! ### Records of slices that cannot be admitted (02 R66; 07 R204; 10 R267, R277) -/

/-- Logs a cause once for a slice image. -/
def State.logOnce (s : State) (c : Cand) (key : Nat) (cause : Cause) : State :=
  match s.planOf c.w with
  | none => s
  | some plan =>
    if plan.noted.contains (c.slice, key) then s
    else
      let s1 := s.log cause { ring := c.w.ring, seq := c.w.seq, slice := c.slice }
      { s1 with plans := s1.plans.map (fun (q : Plan) =>
          if q.fn = plan.fn ∧ q.id = plan.id then { q with noted := q.noted ++ [(c.slice, key)] } else q) }

/-- Counts the turns for which the first open slice of a class lacks only the point, and logs what bars a slice; `a` is the pass of this
head. -/
def State.noteBarred (s : State) (ready : List Cand) (p : Nat) (a : Adm) : State :=
  let lo := s.nextFld hstOpMax
  let hi := s.nextFld hstOpMin
  let firsts := (List.range 8).filterMap (fun k => ready.find? (fun c => decide (c.cls = k) && s.candOpen c))
  ready.foldl (fun t c =>
    let waits := firsts.any c.same && !(s.certifiedAt c p)
    let n := if waits then c.w.rank.opWait + 1 else 0
    let t1 := t.updWork c.w.ring c.w.seq (fun w => { w with rank := { w.rank with opWait := n } })
    let nowhere := !((List.range 6).any (fun q => decide (lo ≤ q) && decide (q ≤ hi) && s.certifiedAt c q))
    let t2 := if waits && nowhere && decide (s.fld hstPassLimit ≤ n) then t1.logOnce c 1 .opRange else t1
    let t3 := if s.turn.ticks < c.im.minTurn then t2.logOnce c (4 + s.fld errEpoch) .turnShort else t2
    let t4 := if s.inService.length < c.least then t3.logOnce c 2 .coresShort else t3
    if c.w.chain.stashKib.isNone && !(a.placed.any (fun e => e.1.same c)) && (s.stashFor c a.stash).isNone then
      t4.log .stashShort { ring := c.w.ring, seq := c.w.seq, slice := c.slice }
    else t4) s

/-! ### Admission and the next point -/

/-- Step 4 of a head; where the active engine failed before it, nothing is admitted and the point stays (R286). -/
def State.admitSlices (s : State) : State :=
  let p := s.turn.point
  if s.turn.noSlices then { s with turn := { s.turn with nextPoint := p, noSlices := false } } else
  let ready := s.readyCands
  let cs := s.candsAt ready p
  let real := s.admitTurn cs p
  let next := s.chooseNext ready p real
  let s1 := (s.noteBarred ready p real).commitPlacement cs real
  { s1 with turn := { s1.turn with nextPoint := next } }

/-! ### The turn record (12 R328) -/

/-- Packs entries of `size` bytes, `n` to a 48-byte payload. -/
def packGo : Nat → Nat → List Byte → List (List Byte)
  | 0, _, _ => []
  | fuel + 1, n, b => if b.isEmpty then [] else fitBytes 48 (b.take n) :: packGo fuel n (b.drop n)

/-- 48-byte payloads that hold the entries, each payload taking `n` bytes of them. -/
def packEntries (n : Nat) (es : List (List Byte)) : List (List Byte) := packGo (es.flatten.length + 1) n es.flatten

def State.turnRecord (s : State) : List Byte :=
  le64 s.turn.number ++ le32 s.turn.ticks ++ le32 (s.fld errEpoch) ++ [BitVec.ofNat 8 s.turn.point] ++ zeros 3
    ++ le32 s.turn.nacc ++ le32 s.turn.placed.length ++ zeros 4 ++ sha512 s.audit.accepts.flatten
    ++ sha512 (packEntries 48 s.audit.admits).flatten

/-- The payload of a BUDGET record. -/
def State.budgetRecord (s : State) : List Byte :=
  le32 (s.fld tlsENext) ++ le32 (s.fld tlsECeil) ++ le32 (s.fld tlsETh) ++ le32 (s.fld tlsEIn) ++ le32 (s.fld tlsEFix)
    ++ le16 (s.fld tlsKappa) ++ [BitVec.ofNat 8 s.turn.nextPoint] ++ zeros 1 ++ le64 (s.audit.ptm.getD 0)

/-- Step 5: the turn record; the window opens. -/
def State.recordHead (s : State) : State :=
  let tr := s.turnRecord
  let s1 := ({ s with audit := { s.audit with tr := tr } }).traceItem 0x01 tr
  let s2 := s1.trace1 0x02 s1.budgetRecord
  { s2 with turn := { s2.turn with phase := .window, partNow := [] } }

/-! ### The head -/

/-- The slices of the last turn met a failing core, or the withheld core ran under the brake (17 R462). -/
def State.testAgain (s : State) : Bool := s.turn.braked || s.turn.placed.any (fun p => decide (p.st = .aborted 4))

/-- Steps 2 to 5 once the turn has its number, length and point. -/
def State.headBody (s : State) (h : HeadIn) : State :=
  let s1 := (s.sampleAll h).stageLat h s.works.length
  let s2 := s1.stateLost.applyRearm.admitSlices
  s2.persistFill.applyLinks.recordHead

/-- The head of a turn of live work. -/
def State.liveHead (s : State) (h : HeadIn) : State :=
  let first := decide (s.turn.phase = .none)
  let again := s.testAgain
  let s1 := s.beginTurn (if first then 0 else s.turn.number + 1) h.ptm
  let s2 := (s1.alignHead first).masterSync
  let s3 := s2.stepOne again
  (s3.setPoint (s3.fld hstTurnTicks) s3.pointNow).headBody h

end Sys2Proof.Machine
end

