-- ==== Sys2Proof/Machine/AuditOps.lean ====
section
/-! DEFINITION. The audit chain, seals, the trace and the event rings (11 R313; 12 R329 to R337; 13 R363, R365). -/

namespace Sys2Proof.Machine

/-! ### Digests of what runs (12 R333; 15 R412, R413; 16 R455) -/

/-- A record as the flash holds it. -/
def recImage (r : NvRec) : List Byte :=
  let head := le16 r.type ++ le16 0 ++ le32 r.value.length ++ le64 r.rseq
  let body := head ++ sha512 (head ++ r.value) ++ r.value
  body ++ zeros (recBytes r - body.length)

/-- The header of a user slot: STATE is read as 0xFF for HDIG. -/
def slotHeader (x : Slot) : List Byte :=
  let rb := x.recs.flatMap recImage
  let part (st : Nat) : List Byte :=
    le32 0x1CE54E56 ++ le16 1 ++ [2, BitVec.ofNat 8 st] ++ le64 x.gen ++ le32 rb.length ++ le32 x.recs.length ++ le32 x.epoch
      ++ zeros 4 ++ sha512 rb
  part x.state ++ sha512 (part 0xFF) ++ zeros 96

/-- NVDIG. DEDUCED (log entry 37): a slot's digest covers its header and its records. -/
def State.nvDigest (s : State) : List Byte :=
  match s.activeSlot with
  | some x => sha512 (slotHeader x ++ x.recs.flatMap recImage)
  | none => Config.partDigest 8

/-- FWDIG: the management firmware of the running slot, or of an activation that has taken over; else the base firmware. -/
def State.fwDigest (s : State) : List Byte :=
  let x := match s.nv.activation with
    | some a => if a.takeover.isSome then some (s.slot a.slot) else s.activeSlot
    | none => s.activeSlot
  match x.bind (fun y => (slotFirmware y).head?) with
  | some r => sha512 (r.value.drop 16)
  | none => Config.partDigest 2

/-! ### The trace (12 R335, R337) -/

/-- Bytes of an entry of a packed record type, and bytes of entries in one payload. -/
def packedSize (rtype : Nat) : Option (Nat × Nat) :=
  if rtype = 0x03 ∨ rtype = 0x05 then some (6, 48) else if rtype = 0x08 then some (8, 48) else if rtype = 0x09 then some (16, 48)
  else if rtype = 0x0B then some (24, 48) else none

/-- The record types of a turn's trace in the order of R335. -/
def traceOrder : List Nat := [0x0F, 0x01, 0x02, 0x03, 0x04, 0x05, 0x06, 0x07, 0x08, 0x09, 0x0A, 0x0B, 0x0E, 0x0D]

/-- The records of one type, packed. -/
def packType (turn : Nat) (l : List RingRec) (t : Nat) : List RingRec :=
  let mine := l.filter (fun r => decide (r.rtype = t))
  match packedSize t with
  | some (e, n) => (packEntries n (mine.map (fun r => r.payload.take e))).map (fun p =>
    { turn := turn, rtype := t, part := 0, npart := 1, payload := p })
  | none => mine

def traceCapacity : Nat := 2097152

/-- The trace of the turn joins the trace queue, or is dropped whole; a GAP record follows a drop once there is room. -/
def State.flushTrace (s : State) : State :=
  let recs := if s.flag audReplayActive then [] else traceOrder.flatMap (packType s.turn.number s.audit.turnTrace)
  let bare := { s with audit := { s.audit with turnTrace := [] } }
  if recs.isEmpty then bare
  else
    let need := recs.length + (if s.audit.gap.isSome then 1 else 0)
    if traceCapacity < s.audit.trace.length + need then
      let gap := match s.audit.gap with
        | some (a, _, n) => (a, s.turn.number, n + recs.length)
        | none => (s.turn.number, s.turn.number, recs.length)
      { bare with audit := { bare.audit with gap := some gap } }
    else
      match s.audit.gap with
      | some (a, b, n) =>
        let g : RingRec :=
          { turn := s.turn.number, rtype := 0x0C, part := 0, npart := 1, payload := fitBytes 48 (le64 a ++ le64 b ++ le64 n) }
        let t := { bare with audit := { bare.audit with trace := bare.audit.trace ++ [g] ++ recs, gap := none } }
        t.bump audTraceGaps n
      | none => { bare with audit := { bare.audit with trace := bare.audit.trace ++ recs } }

/-! ### The chain (12 R329, R330) -/

def State.tailSummary (s : State) : List Byte :=
  le64 s.turn.number ++ [BitVec.ofNat 8 ((if s.turn.stretched then 1 else 0) + (if s.turn.braked then 2 else 0))] ++ zeros 3
    ++ le32 s.audit.comps.length ++ zeros 16 ++ sha512 s.audit.comps.flatten

/-- CHAIN_STEP: TT_t and H_t, and the TURN_TAIL record. -/
def State.chainStep (s : State) : State :=
  let tt := s.tailSummary
  let h := sha512 (s.audit.head ++ s.audit.tr ++ tt)
  ({ s with audit := { s.audit with head := h, last := h, tt := tt } }).traceItem 0x0D (tt ++ h.take 32)

/-! ### Seals (12 R332, R333) -/

/-- Bytes 0x000 to 0x12F of a seal. -/
def State.sealBody (s : State) (reason : Nat) : List Byte :=
  le32 0x1CE55EA1 ++ le16 1 ++ le16 reason ++ le64 s.turn.number ++ le64 (s.pair audBootLo audBootHi) ++ le64 s.audit.sealNo
    ++ s.audit.head ++ Config.partDigest 0 ++ s.fwDigest ++ s.nvDigest ++ le64 (s.audit.ptm.getD 0) ++ zeros 8

/-- Starts or queues the signing of a seal. -/
def State.startSeal (s : State) (reason : Nat) : State :=
  let job : SealJob := ⟨reason, s.turn.number, s.sealBody reason⟩
  let s1 := { s with audit := { s.audit with sealNo := s.audit.sealNo + 1 } }
  let s2 := s1.nvNote rtSeal (le64 (s1.pair audBootLo audBootHi) ++ le64 s1.turn.number ++ s1.audit.head)
  if s2.audit.signing.isSome then { s2 with audit := { s2.audit with waiting := s2.audit.waiting ++ [job] } }
  else ({ s2 with audit := { s2.audit with signing := some job } }).setFlag audSigning true

/-- SEAL: the seals that are due at this tail. -/
def State.sealTail (s : State) : State :=
  if s.flag audReplayActive then s
  else
    let due := (if s.turn.number = 0 then [1] else []) ++ s.audit.reasons
    let s1 := due.foldl State.startSeal { s with audit := { s.audit with reasons := [] } }
    if (s.turn.number + 1) % max 1 (s.fld audSealN) = 0 then
      if s1.audit.signing.isSome then s1.bump audSealSkip 1 else s1.startSeal 0
    else s1

/-- SEAL_SIGNED (12 R332, R333): the seal in progress is complete; its 17 records join the audit queue, and the next one is signed.
The signature is a free value: the identity key is not given. -/
def execSealSigned (s : State) : Host.Outcome State Fault Refusal :=
  match s.audit.signing with
  | none => .next s
  | some job =>
    let sig := (List.range 512).map (fun i => Config.freeByte 310 s.freeCtr i)
    let s1 := { s.tickFree with audit := { s.audit with
      auditQ := s.audit.auditQ ++ recParts job.turn 0x20 (job.body ++ sig)
      signing := s.audit.waiting.head?
      waiting := s.audit.waiting.drop 1 } }
    .next ((s1.setFlag audSigning s1.audit.signing.isSome).setPair audSealtLo audSealtHi job.turn)

/-! ### Event rings (11 R313; 13 R363, R365) -/

/-- The 64 bytes of error record `k`. -/
def errBytes (k dropped : Nat) (r : ErrRec) : List Byte :=
  le64 k ++ le64 r.turn ++ [BitVec.ofNat 8 r.sev, BitVec.ofNat 8 r.unit] ++ le16 r.cause ++ le16 r.inst ++ le16 r.ring ++ le64 r.seq
    ++ le16 r.slice ++ le16 r.lcore ++ le32 r.tick ++ le64 r.addr ++ le32 r.count ++ le32 dropped ++ le64 r.detail

/-- The 64 bytes of record `k` of ring 2 or 3. -/
def auditBytes (k : Nat) (r : RingRec) : List Byte :=
  le64 k ++ le32 r.turn ++ [BitVec.ofNat 8 r.rtype, BitVec.ofNat 8 r.part, BitVec.ofNat 8 r.npart, BitVec.ofNat 8 r.flags] ++ fitBytes 48 r.payload

/-- Free slots of an event ring: none where it is not enabled, stopped or in error, or the PF's interface is down or in D3hot. -/
def State.eventRoom (s : State) (r : Nat) : Nat :=
  match s.ring r with
  | some x => if x.err.isNone && !x.stopped && s.hostOpen 0 && s.access.up.contains 0 then x.size - (x.cmp - x.acc) else 0
  | none => 0

/-- Writes one record to an event ring. -/
def State.putEvent (s : State) (r : Nat) (rec' : Nat → List Byte) : State :=
  match s.ring r with
  | none => s
  | some x =>
    let x1 := { x with cmp := x.cmp + 1, unsignalled := true }
    ((s.hostPut (x.drSlot x1.cmp) (rec' x1.cmp)).setRing r x1).putCompleted r x1

/-- Puts an error record behind those of its severity and of higher ones. -/
def insertErr (r : ErrRec) : List ErrRec → List ErrRec
  | [] => [r]
  | q :: rest => if q.sev < r.sev then r :: q :: rest else q :: insertErr r rest

/-- The order of release: highest severity first, then order of detection. -/
def releaseOrder (l : List ErrRec) : List ErrRec := l.foldl (fun acc r => insertErr r acc) []

/-- Releases error records to ring 1. -/
def State.releaseErrs : Nat → State → State
  | 0, s => s
  | n + 1, s =>
    match releaseOrder s.errs.queue with
    | [] => s
    | r :: rest =>
      let d := s.errs.dropped
      let s1 := s.putEvent 1 (fun k => errBytes k d r)
      State.releaseErrs n { s1 with errs := { s1.errs with queue := rest, dropped := 0 } }

/-- Records of the overflow area go to the queue as it has room. -/
def State.refillErrs (s : State) : State :=
  let n := 256 - s.errs.queue.length
  { s with errs := { s.errs with queue := s.errs.queue ++ s.errs.overflow.take n, overflow := s.errs.overflow.drop n } }

def State.releaseRecs (s : State) (r : Nat) (l : List RingRec) : State := l.foldl (fun t x => t.putEvent r (fun k => auditBytes k x)) s

/-- Event rings at a tail; `fails` are rings whose writes fail, which puts them into the error state (R302). -/
def State.releaseEvents (s : State) (fails : List Nat) : State :=
  let bad (t : State) (r : Nat) (waits : Bool) : State :=
    if fails.contains r && waits && decide (0 < t.eventRoom r) then
      t.ringFault r .write (match t.ring r with
        | some x => x.cmp + 1
        | none => 0) 0
    else t
  let s1 := bad (bad (bad s 1 (!s.errs.queue.isEmpty)) 2 (!s.audit.auditQ.isEmpty)) 3 (!s.audit.trace.isEmpty)
  let s2 := (State.releaseErrs (s1.eventRoom 1) s1).refillErrs
  let n2 := s2.eventRoom 2
  let s3 := s2.releaseRecs 2 (s2.audit.auditQ.take n2)
  let s4 := { s3 with audit := { s3.audit with auditQ := s2.audit.auditQ.drop n2 } }
  let n3 := if s4.flag audReplayActive then 0 else s4.eventRoom 3
  let s5 := s4.releaseRecs 3 (s4.audit.trace.take n3)
  { s5 with audit := { s5.audit with trace := s4.audit.trace.drop n3 } }

end Sys2Proof.Machine
end

