-- ==== Sys2Proof/Machine/CaliperWords.lean ====
section
/-! DEFINITION. The words of the Caliper and of narrow codes (06 R163, R167, R172, R175, R183): each command gives its word to the core's sequencer. -/

namespace Sys2Proof.Machine

/-- CAL_TAP OPEN (06 R167). -/
def execCalTapOpen (c : Fin 144) (w : TapOpenWord) (s : State) : Host.Outcome State Fault Refusal :=
  s.wordCmd c.val (.calTapOpen w) "CAL_TAP_OPEN"

/-- CAL_TAP PUSH (06 R167, R169). -/
def execCalTapPush (c : Fin 144) (w : TapPushWord) (s : State) : Host.Outcome State Fault Refusal :=
  s.wordCmd c.val (.calTapPush w) "CAL_TAP_PUSH"

/-- CAL_TAP CLOSE (06 R167). -/
def execCalTapClose (c : Fin 144) (w : TapCloseWord) (s : State) : Host.Outcome State Fault Refusal :=
  s.wordCmd c.val (.calTapClose w) "CAL_TAP_CLOSE"

/-- SCALE_ADAPT (06 R172). -/
def execScaleAdapt (c : Fin 144) (w : AdaptWord) (s : State) : Host.Outcome State Fault Refusal :=
  s.wordCmd c.val (.scaleAdapt w) "SCALE_ADAPT"

/-- QUANT (06 R175 to R182). -/
def execQuant (c : Fin 144) (w : QuantWord) (s : State) : Host.Outcome State Fault Refusal :=
  s.wordCmd c.val (.quant w) "QUANT"

/-- HADAMARD (06 R183). -/
def execHadamard (c : Fin 144) (w : HadamardWord) (s : State) : Host.Outcome State Fault Refusal :=
  s.wordCmd c.val (.hadamard w) "HADAMARD"

/-- SMOOTH (06 R183). -/
def execSmooth (c : Fin 144) (w : SmoothWord) (s : State) : Host.Outcome State Fault Refusal :=
  s.wordCmd c.val (.smooth w) "SMOOTH"

/-- REQ_LOAD (06 R163). -/
def execReqLoad (c : Fin 144) (w : ReqLoadWord) (s : State) : Host.Outcome State Fault Refusal :=
  s.wordCmd c.val (.reqLoad w) "REQ_LOAD"

end Sys2Proof.Machine
end

