-- ==== Sys2Proof/Machine/ChuckWords.lean ====
section
/-! DEFINITION. The quire words (04 R107, R113): each command gives its word to the core's sequencer. -/

namespace Sys2Proof.Machine

/-- QZERO (04 R113). -/
def execQzero (c : Fin 144) (w : QzeroWord) (s : State) : Host.Outcome State Fault Refusal :=
  s.wordCmd c.val (.qzero w) "QZERO"

/-- QSTORE (04 R107 to R112). -/
def execQstore (c : Fin 144) (w : QstoreWord) (s : State) : Host.Outcome State Fault Refusal :=
  s.wordCmd c.val (.qstore w) "QSTORE"

/-- QIMG_ST (04 R113). -/
def execQimgSt (c : Fin 144) (w : QimgStWord) (s : State) : Host.Outcome State Fault Refusal :=
  s.wordCmd c.val (.qimgSt w) "QIMG_ST"

/-- QIMG_LD (04 R113). -/
def execQimgLd (c : Fin 144) (w : QimgLdWord) (s : State) : Host.Outcome State Fault Refusal :=
  s.wordCmd c.val (.qimgLd w) "QIMG_LD"

end Sys2Proof.Machine
end

