-- ==== Sys2Proof/Machine/Publish.lean ====
section
/-! DEFINITION. What the turn tail does with the slices and works of the turn (02 R64; 08 R237 to R240; 10 R264, R283, R285; 11 R309 to
R316; 12 R325, R327, R335; 13 R346, R349, R358, R367; 14 R387, R390): aborts, commits, releases, admin completions, publication,
MSI-X. -/

namespace Sys2Proof.Machine

/-! ### Aborts at the tail -/

def State.placedElastic (s : State) (p : Placed) : Bool :=
  match s.placedImage p with
  | some im => im.elastic
  | none => false

/-- Whether a unit of placed slice `i`, which runs or has ended, has stalled (08 R238). -/
def State.hasStalled (s : State) (i : Nat) (p : Placed) : Bool :=
  !p.stalls.isEmpty || (p.isRunning && (s.unitStalled p.cores || p.cores.any (fun c =>
    decide ((s.core c).ctx.work = some i) && (List.range 8).any (fun q =>
      decide (SMap.get 0 (s.core c).counts.stalls q ≠ SMap.get 0 (s.core c).startStalls q)))))

/-- A slice marked deadlocked aborts (08 R240): it runs once more alone, then its work ends. -/
def State.breakDeadlock (s : State) (i : Nat) (p : Placed) (r : ErrRec) : State :=
  let again := match s.findWork p.ring p.seq with
    | some w => w.rank.serial
    | none => false
  if again then (s.log .deadlock r).abortSlice i 3 (some stDeadlock)
  else
    let s1 := ((s.log .deadlockBreak r).ndCarried i 4).abortSlice i 3 none
    s1.updWork p.ring p.seq (fun w => { w with rank := { w.rank with serial := true } })

/-- What the tail does to placed slice `i` that is still running, that was marked deadlocked, or whose words did not fit in the link
buffer. An elastic slice that stalled counts ND_ELASTIC, which its re-run carries (08 R239; 12 R325). -/
def State.tailAbort (s : State) (i : Nat) : State :=
  match s.placedAt i with
  | none => s
  | some p =>
    let r : ErrRec := { ring := p.ring, seq := p.seq, slice := p.slice, inst := p.cores.head?.getD 0 }
    let s0 := if s.placedElastic p && s.hasStalled i p then s.ndCarried i 3 else s
    match p.st with
    | .running =>
      if s.placedElastic p then
        if p.deadlock then s0.breakDeadlock i p r else (s0.bump hstElasticOverrun 1).abortSlice i 2 none
      else s.abortSlice i 1 none
    | .ended _ =>
      if p.deadlock then s0.breakDeadlock i p r
      else if p.linkFull then (s.log .linkFull r).abortSlice i 1 none
      else s
    | _ => s

def State.tailAborts (s : State) : State := (List.range s.turn.placed.length).foldl State.tailAbort s

/-! ### Commit of a slice -/

/-- Runs of consecutive keys of an overlay. -/
def overlayRuns : SMap (Option Byte) → List (Nat × List Byte)
  | [] => []
  | (_, none) :: rest => overlayRuns rest
  | (k, some b) :: rest =>
    match overlayRuns rest with
    | (j, bs) :: more => if j = k + 1 then (k, b :: bs) :: more else (k, [b]) :: (j, bs) :: more
    | [] => [(k, [b])]

/-- SDIG of a slice that commits (12 R327). -/
def State.sliceDigest (s : State) (w : Work) (p : Placed) (im : Image) : List Byte :=
  let regs := im.regions.zip (List.range im.regions.length)
  sha512 (regs.flatMap (fun ri =>
    let r := ri.1
    if 2 ≤ r.kind ∧ r.kind ≤ 5 then
      let hit := p.overlay.filter (fun (e : Nat × Option Byte) => decide (r.key ≤ e.1) && decide (e.1 < r.key + r.bytes))
      let blocks := (hit.map (fun (e : Nat × Option Byte) => (e.1 - r.key) / 64)).eraseDups
      if r.target < 0x80 then (p.kept.filter (fun e => decide (e.1 = ri.2))).flatMap (fun e => le16 ri.2 ++ le64 e.2.1 ++ e.2.2)
      else blocks.flatMap (fun b => le16 ri.2 ++ le64 (64 * b) ++ s.sliceReads w p (r.key + 64 * b) (min 64 (r.bytes - 64 * b)))
    else []))

/-- What the slice wrote outside core memory reaches the work's host outputs, its staging copies, or HBM. -/
def State.commitOverlay (s : State) (w : Work) (p : Placed) (im : Image) : State :=
  let onHost (e : Nat × Option Byte) : Bool := decide (e.1 / 2 ^ 44 = 0xFE)
  let inCopy (e : Nat × Option Byte) : Bool := !(onHost e) && (w.copyOf e.1).isSome
  let host := p.overlay.filter onHost
  let cop := p.overlay.filter inCopy
  let raw := p.overlay.filter (fun e => !(onHost e) && !(inCopy e))
  let put (c : StageCopy) (m : Mem) (e : Nat × Option Byte) : Mem :=
    match e.2 with
    | some b => if c.base ≤ e.1 ∧ e.1 < c.base + c.bytes then Mem.writeByte m e.1 b else m
    | none => m
  let fill (c : StageCopy) : StageCopy := { c with data := cop.foldl (put c) c.data }
  let s1 := s.updWork w.ring w.seq (fun x => { x with
    hostOut := host.foldl (fun m e => SMap.set none m (e.1 % 2 ^ 44) e.2) x.hostOut
    copies := x.copies.map fill })
  let s2 := (overlayRuns raw).foldl (fun t e => t.hbmStore e.1 e.2) s1
  (im.regions.filter (fun r => r.inHbm && decide (r.kind = 2))).foldl (fun t r => { t with hbm := t.hbm.unlose r.key r.bytes }) s2

/-- The cycle count of a slice that ended after `n` cycles by the model's count: the waits of 08 R209 and the certified deliveries that the
model does not count repeat with its image and fold (12 R322). -/
def Placed.count (p : Placed) (im : Image) (n : Nat) : Nat :=
  n + (if im.elastic then 0 else Config.certifiedWaits (bytesToNat im.digest) p.fold2)

/-- Records of a slice whose count or stalls depart from its certificate (02 R64; 08 R237). -/
def State.certCheck (s : State) (p : Placed) (im : Image) (n : Nat) : State :=
  let r : ErrRec := { ring := p.ring, seq := p.seq, slice := p.slice, inst := p.cores.head?.getD 0 }
  let s1 := if !im.elastic && !p.stalls.isEmpty then s.log .certStall { r with detail := p.stalls.foldl (fun a k => a + 2 ^ k) 0 } else s
  if n ≠ p.length ∧ (!im.elastic ∨ p.stalls.isEmpty) then s1.log .cycleMismatch { r with detail := n } else s1

/-- The SLICE record and the MARKs of a committed slice, at TRACE_LEVEL 1. -/
def State.traceSlice (s : State) (p : Placed) (sdig : List Byte) : State :=
  if s.flag audTraceLevel || s.flag audReplayActive then
    let s1 := s.trace1 0x0A (le16 p.ring ++ le16 p.slice ++ le64 p.seq ++ sdig.take 32)
    p.marks.foldl (fun t m => t.trace1 0x0B (le16 p.ring ++ le16 p.slice ++ le32 p.seq ++ le16 m.logical ++ zeros 2 ++ le32 m.cycle
      ++ le64 m.value.toNat)) s1
  else s

/-- The chain of a work ends: its pins, stash and armed streams, also on the cores of its last slice (07 R201; 08 R226). -/
def State.endChain (s : State) (w : Work) (cores : List Nat := []) : State :=
  (s.disarm w (w.chain.pins ++ cores)).updWork w.ring w.seq (fun x => { x with chain := {} })

/-- What a chain holds once a slice of it has committed: where the slice leaves a persistent stream armed, the chain keeps its cores
from then on (08 R213). -/
def State.chainAfter (s : State) (p : Placed) (ch : ChainState) : ChainState :=
  let armed := p.cores.any (fun c => (s.core c).engines.any (fun e => e.2.armed))
  { ch with
    counters := p.ctrs.foldl (fun m e => SMap.set [] m e.1 e.2) ch.counters
    pins := if armed && ch.pins.isEmpty then p.cores else ch.pins
    fold2 := if armed && ch.pins.isEmpty then some p.fold2 else ch.fold2 }

/-- Placed slice `i`, which ended after `m` cycles, commits (10 R264; 13 R346); work that has its status already commits nothing more. -/
def State.commitSlice (s : State) (i m : Nat) (p0 : Placed) : State :=
  match s.findWork p0.ring p0.seq, s.placedImage p0 with
  | some w, some im =>
    if w.result.isSome then s
    else
    let n := p0.count im m
    let s1 := if im.elastic && !p0.stalls.isEmpty then s.ndPlaced i 3 else s
    let p := (s1.placedAt i).getD p0
    let sdig := s1.sliceDigest w p im
    let s2 := ((s1.commitOverlay w p im).certCheck p im n).traceSlice p sdig
    let next := match s.planOf w with
      | some plan => w.sliceFrom plan (p.slice + 1)
      | none => none
    let s3 := s2.updWork p.ring p.seq (fun x => { x with
      st := .running
      next := next.getD (p.slice + 1)
      result := if next.isNone then some stOk else x.result
      chain := s.chainAfter p x.chain
      rank := { x.rank with rerun := false, serial := false, firstHead := true }
      sums := { x.sums with
        flags := x.sums.flags ||| BitVec.ofNat 16 p.flags
        cycles := x.sums.cycles + n
        energy := x.sums.energy + p.energy
        nondet := x.sums.nondet + p.nd.length
        turn := s.turn.number
        ord := s.turn.ord } })
    if next.isNone then s3.endChain w p.cores else s3
  | _, _ => s

def State.commitAt (s : State) (i : Nat) : State :=
  match s.placedAt i with
  | some p => (match p.st with
    | .ended n => s.commitSlice i n p
    | _ => s)
  | none => s

def State.commitSlices (s : State) : State := (List.range s.turn.placed.length).foldl State.commitAt s

/-! ### Release of cross-chip words (14 R387) -/

def entryGroups : Nat → List (List Byte) → List (List (List Byte))
  | 0, _ => []
  | n + 1, l => if l.length ≤ 16 then [l] else l.take 16 :: entryGroups n (l.drop 16)

/-- The RELEASE flits of one destination. -/
def State.releaseTo (s : State) (dst : Nat) : State :=
  let is := ((s.links.turnOut.filter (fun e => decide (e.2 = dst))).map (fun e => e.1)).eraseDups
  let entries := is.filterMap (fun i => match s.placedAt i with
    | some p => (match p.st, s.findWork p.ring p.seq with
      | .ended _, some w => some ([BitVec.ofNat 8 w.fn, 0] ++ le16 p.ring ++ le64 p.seq ++ le16 p.slice)
      | _, _ => none)
    | none => none)
  let gs := entryGroups (entries.length + 1) entries
  (gs.zip (List.range gs.length)).foldl (fun t g =>
    t.sendPair dst ftRelease (if g.2 + 1 = gs.length then 2 else 0)
      (le64 t.sturn ++ le16 g.1.length ++ zeros 2 ++ fitBytes 224 g.1.flatten ++ zeros 4)) s

def State.releaseWords (s : State) : State :=
  let dsts := (s.links.turnOut.map (fun e => e.2)).eraseDups
  let s1 := dsts.foldl State.releaseTo s
  { s1 with links := { s1.links with turnOut := [] } }

/-! ### The turn's cores and placements are over -/

/-- Every core leaves its slice; only the slices that aborted are remembered. -/
def State.clearPlaced (s : State) : State :=
  let s1 := s.turn.placed.foldl (fun t p => p.cores.foldl (fun u c => u.updCore c (fun k => k.stop false)) t) s
  { s1 with turn := { s1.turn with placed := s1.turn.placed.filter (fun p => !p.active) } }

/-! ### Works reach COMMITTED -/

/-- Work whose last slice has committed, and work that ends without running on, is COMMITTED (13 R346; 14 R390). -/
def State.settle (s : State) : State :=
  s.works.foldl (fun t w =>
    if w.result.isNone ∨ w.admin ≠ .none ∨ (w.st ≠ .accepted ∧ w.st ≠ .running) then t
    else if w.isRun ∧ w.result = some stOk then
      if t.multiChip w && !(t.workAcked w) then t
      else t.updWork w.ring w.seq (fun x => { x with st := .committed, copiedBack := x.copies.isEmpty })
    else
      let now := decide (w.sums.ord = 0) || decide (w.result ≠ some stOk)
      (t.endChain w).updWork w.ring w.seq (fun x => { x with
        st := .committed
        copies := []
        copiedBack := true
        sums := if now then { x.sums with turn := t.turn.number, ord := t.turn.ord } else x.sums })) s

/-! ### Admin operations that wait (11 R315) -/

/-- Whether the accepted work of a range of rings is done; of the ring that carries the descriptor, only what came before it. -/
def State.rangeDone (s : State) (w : Work) (first count : Nat) : Bool :=
  !(s.works.any (fun x => decide (first ≤ x.ring) && decide (x.ring < first + count)
    && (decide (x.ring ≠ w.ring) || decide (x.seq < w.seq))))

/-- Ends the RING_DISABLE, PLAN_LOAD and PLAN_UNLOAD operations whose condition holds. -/
def State.adminFinish (s : State) : State :=
  s.works.foldl (fun t w => match w.admin with
    | .planLoad =>
      if t.planNamed w.fn w.fA || !(t.hostOpen w.fn) || !(t.access.up.contains w.fn) then t else (t.updWork w.ring w.seq (fun x => { x with admin := .none })).planLoadNow w
    | .ringDisable first count =>
      if t.rangeDone w first count then
        let rs := (List.range count).map (fun i => first + i)
        let r := t.storeRings w.fn (rs.filter (fun x => (t.ring x).isSome)) false
        r.1.updWork w.ring w.seq (fun x => { x with admin := .none, result := some stOk, stores := r.2 })
      else t
    | .planUnload id =>
      if t.planNamed w.fn id then t
      else
        let t1 := { t with plans := t.plans.filter (fun (p : Plan) => !(decide (p.fn = w.fn) && decide (p.id = id))) }
        let r := t1.nvStore rtPlan (planValue w.fn id 0 0 [])
        r.1.updWork w.ring w.seq (fun x => { x with admin := .none, result := some stOk, stores := [r.2] })
    | _ => t) s.stopDisabled

/-- Rings that were disabled and have nothing left to complete leave the ring table; what an event ring holds is host software's. -/
def State.dropRings (s : State) : State :=
  { s with rings := s.rings.filter (fun e => match e.2 with
      | some x => !(x.stopped && (decide (x.cmp = x.acc) || isEventRing e.1) && !(s.works.any (fun w => match w.admin with
        | .ringDisable first count => decide (first ≤ e.1) && decide (e.1 < first + count)
        | _ => false)))
      | none => false) }

/-! ### Publication (11 R309 to R312) -/

/-- The 32 bytes of a completion record. -/
def completion (w : Work) (cycles nondet : Nat) : List Byte :=
  le64 w.seq ++ le16 (w.result.getD 0) ++ le16 w.sums.flags.toNat ++ le64 w.sums.turn ++ le32 (min cycles 0xFFFFFFFF)
    ++ le32 (min w.sums.energy 0xFFFFFFFF) ++ le16 (min nondet 65535) ++ le16 w.epoch

def Work.record (w : Work) : List Byte := completion w w.sums.cycles (w.sums.nondet + w.sums.carried)

/-- Bytes of host output that a work has to write. -/
def State.outBytes (s : State) (w : Work) : Nat :=
  if w.result ≠ some stOk then 0
  else if w.isRun then (match s.planOf w with
    | some plan => (Work.outputRegions plan).foldl (fun a r => a + r.bytes) 0
    | none => 0)
  else 0

/-- ODIG of a work that publishes; the outputs stand in host memory. -/
def State.outDigest (s : State) (w : Work) : List Byte :=
  if w.result ≠ some stOk then sha512 []
  else if w.isRun && !(s.isAdminRing w.ring) then
    match s.planOf w with
    | some plan => sha512 ((argsOf (Work.outputRegions plan)).flatMap (fun a =>
        le64 (w.argBytes a) ++ s.hostBytes (w.argAddr a) (w.argBytes a)))
    | none => sha512 []
  else if w.odig.isEmpty then sha512 [] else w.odig

/-- Whether a finished work may be published at this tail: its writes are done or fit, its function is in service. `left` is what
TAIL_WB leaves to class 0. -/
def State.mayPublish (s : State) (w : Work) (x : Ring) (left : Nat) : Bool :=
  decide (w.st = .committed) && w.copiedBack && w.stores.all s.stored && s.hostOpen w.fn && s.access.up.contains w.fn
    && decide (x.err ≠ some .write)
    && (decide (s.outBytes w = 0) || decide (w.sums.ord < s.turn.ord) || (decide (x.ctx.cls = 0) && decide (s.outBytes w ≤ left)))

/-- Outputs, record and COMPLETED of one work; a failing write of the record or of COMPLETED holds the ring's completions. -/
def State.publishOne (s : State) (w : Work) (x : Ring) (fails : Bool) : State :=
  let s1 := if w.result = some stOk then s.writeOutputs w else s
  if fails then s1.ringFault w.ring .write w.seq 0
  else
    let cdig := sha512 (le16 w.ring ++ zeros 6 ++ completion w 0 0 ++ s1.outDigest w)
    let comp := le16 w.ring ++ le16 (w.result.getD 0) ++ le64 w.seq ++ cdig.take 32 ++ zeros 4
    let x1 := { x with cmp := w.seq, unsignalled := true, irq := x.irq || bitAt (fieldAt w.desc 0x0D 1) 0 }
    let s2 := (((s1.hostPut (x.crSlot w.seq) w.record).setRing w.ring x1).putCompleted w.ring x1).trace1 0x0E comp
    { s2 with
      works := s2.works.filter (fun y => !(decide (y.ring = w.ring) && decide (y.seq = w.seq)))
      audit := { s2.audit with comps := s2.audit.comps ++ [comp] } }

/-- Publishes a ring's finished works in sequence; the answer is what TAIL_WB leaves. -/
def State.publishRing : Nat → State → List Nat → Nat → Nat → State × Nat
  | 0, s, _, _, left => (s, left)
  | n + 1, s, fails, r, left =>
    match s.ring r with
    | none => (s, left)
    | some x =>
      match s.findWork r (x.cmp + 1) with
      | none => (s, left)
      | some w =>
        if s.mayPublish w x left then
          let used := if x.ctx.cls = 0 ∧ w.sums.ord = s.turn.ord then s.outBytes w else 0
          let s1 := s.publishOne w x (fails.contains r)
          if fails.contains r then (s1, left) else State.publishRing n s1 fails r (left - used)
        else (s, left)

/-- The provisional record of a ring whose oldest work waits for a weight set (R312). -/
def State.provisional (s : State) (r : Nat) : State :=
  match s.ring r with
  | none => s
  | some x =>
    match s.findWork r (x.cmp + 1) with
    | none => s
    | some w =>
      match s.planOf w with
      | none => s
      | some plan =>
        if w.isRun && w.result.isNone && !(s.weightsHere plan w.sbase) && s.hostOpen w.fn && s.access.up.contains w.fn
            && decide (x.err ≠ some .write) then
          s.hostPut (x.crSlot w.seq) (le64 w.seq ++ le16 stWeightsReloadWait ++ zeros 20 ++ le16 w.epoch)
        else s

/-- COMPLETION_PUBLISH over every ring, ascending. -/
def State.publish (s : State) (fails : List Nat) : State :=
  let rs := s.rings.map (fun e => e.1)
  let n := s.works.length + 1
  let t := rs.foldl (fun (a : State × Nat) r => State.publishRing n a.1 fails r a.2) (s, s.fld hifTailWb * 1024)
  rs.foldl State.provisional t.1

/-! ### MSI-X (11 R316) -/

/-- Whether a ring requests its vector at this tail. -/
def Ring.requests (x : Ring) (turn : Nat) : Bool :=
  x.unsignalled && decide (x.ctx.vector ≠ 0xFFFF) && (decide (x.ctx.imod = 0) || x.irq || (match x.lastMsg with
    | some t => decide (t + x.ctx.imod ≤ turn)
    | none => true))

/-- The messages of a tail: one per vector; a masked vector sets its pending bit. -/
def State.sendMsix (s : State) : State :=
  let ask (x : Ring) : Bool := x.requests s.turn.ord && s.hostOpen x.fn && s.access.up.contains x.fn
  let vecs := (s.rings.filterMap (fun e => match e.2 with
    | some x => if ask x then some (x.fn, x.ctx.vector) else none
    | none => none)).eraseDups
  let masked := vecs.filter (fun v => !s.access.vecOpen.contains v)
  { s with
    access := { s.access with
      sent := vecs.filter s.access.vecOpen.contains
      vecPending := (s.access.vecPending ++ masked).eraseDups }
    rings := s.rings.map (fun e => (e.1, e.2.map (fun x =>
      if ask x then { x with unsignalled := false, irq := false, lastMsg := some s.turn.ord } else x))) }

end Sys2Proof.Machine
end

