-- ==== Sys2Proof/Machine/Replay.lean ====
section
/-! DEFINITION. Replay of a recorded trace (12 R338 to R340): the records of the next turn on ring 3, the head that follows them, and the
comparison. -/

namespace Sys2Proof.Machine

/-! ### The traced turn -/

/-- A ring record from its 64 bytes, its K aside. -/
def recOf (b : List Byte) : RingRec :=
  { turn := fieldAt b 8 4
    rtype := fieldAt b 0x0C 1
    part := fieldAt b 0x0D 1
    npart := fieldAt b 0x0E 1
    payload := sliceBytes b 0x10 48
    flags := fieldAt b 0x0F 1 }

/-- Records up to the last part of a TURN_TAIL item, if they have one. -/
def uptoTail : List RingRec → Option (List RingRec)
  | [] => none
  | r :: rest => if r.rtype = 0x0D ∧ r.part + 1 = r.npart then some [r] else (uptoTail rest).map (fun l => r :: l)

/-- The 64 bytes of each slot of ring 3 that host software has filled and replay has not consumed. -/
def State.traceSlots (s : State) : List (List Byte) :=
  match s.ring 3 with
  | none => []
  | some x =>
    let pi := s.hostRead (s.pitAddr 0 3) 4
    let n := min x.size ((pi + 2 ^ 32 - x.cmp % 2 ^ 32) % 2 ^ 32)
    if s.fnActive 0 && x.err.isNone then (List.range n).map (fun i => s.hostBytes (x.drSlot (x.cmp + 1 + i)) 64) else []

/-- The records of the next turn, where ring 3 holds all of them. -/
def State.tracedTurn (s : State) : Option (List RingRec) := uptoTail (s.traceSlots.map recOf)

/-- Whether the first `n` unconsumed slots hold the next `n` record numbers. -/
def State.traceNumbered (s : State) (n : Nat) : Bool :=
  match s.ring 3 with
  | none => false
  | some x => ((s.traceSlots.take n).zip (List.range n)).all (fun e => decide (fieldAt e.1 0 8 = x.cmp + 1 + e.2))

/-- The payload bytes of one record type, and the payloads. -/
def payloads (l : List RingRec) (t : Nat) : List (List Byte) := (l.filter (fun r => decide (r.rtype = t))).map (fun r => r.payload)

/-- Entries of a packed type: the zero entries that fill a payload are none. -/
def entriesOf (l : List RingRec) (t size : Nat) : List (List Byte) :=
  ((payloads l t).flatMap (fun p => (List.range (48 / size)).map (fun i => sliceBytes p (size * i) size))).filter
    (fun e => e.any (fun b => decide (b ≠ 0)))

/-- Traced events of a code. -/
def State.tracedEvents (s : State) (code : Nat) : List (List Byte) :=
  (entriesOf s.audit.replay 0x09 16).filter (fun e => decide (fieldAt e 0 1 = code))

/-- The bytes of a record payload, or of an item, that are reserved or pad it, as offset and length (R328, R329, R331, R335). -/
def reservedAt (t : Nat) : List (Nat × Nat) :=
  match t with
  | 0x0F => [(0x98, 40)]
  | 0x01 => [(0x11, 3), (0x1C, 4), (160, 32)]
  | 0x02 => [(23, 1), (32, 16)]
  | 0x04 => [(2, 2)]
  | 0x06 => [(2, 2), (40, 8)]
  | 0x07 => [(2, 2), (44, 4)]
  | 0x08 => (List.range 6).map (fun i => (8 * i + 6, 2))
  | 0x09 => (List.range 3).map (fun i => (16 * i + 10, 2))
  | 0x0A => [(44, 4)]
  | 0x0B => [(10, 2), (34, 2)]
  | 0x0E => [(44, 4)]
  | 0x0D => [(0x09, 3), (0x10, 16), (128, 16)]
  | _ => []

/-- The items of a record type: whole items of several parts, single payloads of the others. -/
def itemsOf (l : List RingRec) (t : Nat) : List (List Byte) :=
  if t = 0x0F ∨ t = 0x01 ∨ t = 0x0D then [(payloads l t).flatten] else payloads l t

/-- Parts that an item of a record type has. -/
def partsOf (t : Nat) : Nat := if t = 0x0F ∨ t = 0x01 then 4 else if t = 0x0D then 3 else 1

/-- The number of the traced turn; TURNLO of its first record where it has no TURN_HEAD. -/
def tracedNumber (l : List RingRec) : Nat :=
  let tr := (payloads l 0x01).flatten
  if tr.isEmpty then (l.map (fun r => r.turn)).headD 0 else fieldAt tr 0 8

/-- Whether the records of a turn break the order of R335, the items or the turn they belong to, or a reserved field is not zero; the
first turn of a trace, and no other, begins with GENESIS (R338). -/
def traceFormatBad (first : Bool) (l : List RingRec) : Bool :=
  let rank (r : RingRec) : Nat := (traceOrder.idxOf? r.rtype).getD 99
  let ordered := (l.zip (l.drop 1)).all (fun e => decide (rank e.1 < rank e.2) || (decide (rank e.1 = rank e.2)
    && (decide (e.2.part = 0) || decide (e.2.part = e.1.part + 1))))
  let reserved := traceOrder.any (fun t => (itemsOf l t).any (fun b => (reservedAt t).any (fun f =>
    (sliceBytes b f.1 f.2).any (fun x => decide (x ≠ 0)))))
  !ordered || reserved || l.any (fun r => decide (rank r = 99) || decide (r.npart ≠ partsOf r.rtype) || decide (2 ≤ r.flags)
    || decide (r.turn ≠ tracedNumber l % 2 ^ 32)) || decide ((payloads l 0x01).length ≠ 4) || decide ((payloads l 0x0D).length ≠ 3)
    || decide ((payloads l 0x0F).length ≠ (if first then 4 else 0)) || decide (4 ≤ fieldAt (payloads l 0x0D).flatten 8 1)

/-! ### Divergence (R340) -/

/-- The first mismatch, in turn `turn`: DIVERGED, the record and the report registers. -/
def State.divergeIn (s : State) (turn kind ring seq slice : Nat) : State :=
  if s.flag audDiverged then s
  else
    let s1 := (s.setFlag audDiverged true).log .replayDiverge { ring := ring, seq := seq, slice := slice, detail := kind }
    let s2 := (s1.setPair audDivTurnLo audDivTurnHi turn).setFld audDivRing ring
    ((s2.setFld audDivSlice slice).setPair audDivSeqLo audDivSeqHi seq).setFld audDivKind kind

/-- The first mismatch of the turn that replays. -/
def State.diverge (s : State) (kind ring seq slice : Nat) : State := s.divergeIn s.turn.number kind ring seq slice

/-! ### The head -/

/-- Fetches the descriptor that an ACCEPT record names, and compares it. -/
def State.replayAccept (s : State) (p : List Byte) : State :=
  let r := fieldAt p 0 2
  let q := fieldAt p 4 8
  if s.flag audDiverged then s
  else
    match s.ring r with
    | none => s.diverge 1 r q 0xFFFF
    | some x =>
      if q ≠ x.acc + 1 ∨ x.pendingBy (s.hostRead (s.pitAddr x.fn r) 4) = 0 then s.diverge 1 r q 0xFFFF
      else
        let t := (s.takeDesc r (s.hostBytes (x.drSlot q) 64)).1
        if t.audit.accepts.getLast? = some p then t else t.diverge 2 r q 0xFFFF

/-- Places the slice that an ADMIT entry names, in its fold. -/
def State.replayAdmitOne (ready : List Cand) (p : Nat) (st : State × Adm) (e : List Byte) : State × Adm :=
  let s := st.1
  let r := fieldAt e 0 2
  let q := fieldAt e 2 4 % 2 ^ 31
  let fold2 := bitAt (fieldAt e 2 4) 31
  if s.flag audDiverged then st
  else
    match ready.find? (fun c => decide (c.w.ring = r) && decide (c.w.seq % 2 ^ 31 = q)) with
    | none => (s.diverge 3 r q 0xFFFF, st.2)
    | some c =>
      if !(s.candOpen c) || !(s.foldFits c fold2 p) then (s.diverge 3 r q c.slice, st.2)
      else
        match s.freshFor st.2 c fold2 with
        | none => (s.diverge 3 r q c.slice, st.2)
        | some (start, cores) =>
          let len := c.cycles fold2 p
          let x : Placed :=
            { ring := c.w.ring, seq := c.w.seq, slice := c.slice, cores := cores, fold2 := fold2, start := start, length := len
              energy := c.energy fold2 p }
          (s, { st.2 with
            placed := st.2.placed ++ [(c, x)]
            free := cores.foldl (fun m y => SMap.set 0 m y (start + len)) st.2.free
            pins := if c.plan.needsPins then st.2.pins ++ [(c, cores)] else st.2.pins })

/-- Admits exactly the traced list. -/
def State.replayAdmit (s : State) (l : List RingRec) : State :=
  let ready := s.readyCands
  let a0 : Adm := { e := 0, res := 0, d := s.turn.deficits, stash := s.stashFree }
  let t := (entriesOf l 0x05 6).foldl (State.replayAdmitOne ready s.turn.point) (s, a0)
  t.1.putAll t.2

/-- The brake events of the trace, in order: reference tick and whether the brake engages. -/
def brakeEvents (l : List RingRec) : List (Nat × Bool) :=
  ((entriesOf l 0x09 16).filter (fun e => decide (fieldAt e 0 1 = 1) || decide (fieldAt e 0 1 = 2))).map (fun e =>
    (fieldAt e 12 4, decide (fieldAt e 0 1 = 1)))

/-- The brake as the trace's events leave it. -/
def State.replayBrake (s : State) (l : List RingRec) : State :=
  (brakeEvents l).foldl (fun t e =>
    if e.2 then
      let t1 := (t.setFlag tlsBrake true).bump tlsBrakeCount 1
      { t1 with turn := { t1.turn with braked := true } }
    else t.setFlag tlsBrake false) s

/-- The half cycles of the turn in which the brake is engaged, as first and end, from the events that remain: `f` core cycles pass in a
tick, half as many under the brake; `t` and `c` are the tick and the half cycle reached, `stop` the tick at which the window ends. -/
def brakeSpans (f stop : Nat) : Bool → Nat → Nat → List (Nat × Bool) → List (Nat × Nat)
  | on, t, c, [] => if on then [(c, c + f * (stop - t))] else []
  | on, t, c, (u, b) :: rest =>
    let v := max t (min u stop)
    let d := c + (if on then f else 2 * f) * (v - t)
    (if on then [(c, d)] else []) ++ brakeSpans f stop b v d rest

/-- Charges ND_BRAKE to each placed slice that runs while the traced brake is engaged (R325, R339); `on` says that the turn began so. The
ticks of the trace are counted at the nominal frequency of the point (DEDUCED, log entry 50). -/
def State.chargeBrake (s : State) (on : Bool) (l : List RingRec) : State :=
  let f := [18, 16, 14, 12, 9, 6].getD s.turn.point 18
  let stop := s.turn.ticks * (if (entriesOf l 0x09 16).any (fun e => decide (fieldAt e 0 1 = 3)) then 2 else 1) - 300
  let spans := brakeSpans f stop on 400 0 (brakeEvents l)
  (List.range s.turn.placed.length).foldl (fun t i => match t.placedAt i with
    | some p => if spans.any (fun e => decide (e.1 < 2 * (p.start + p.length)) && decide (2 * p.start < e.2)) then t.ndPlaced i 0 else t
    | none => t) s

/-- LINK records of the head against the trace. -/
def State.replayLinks (s : State) (l : List RingRec) : State :=
  if payloads s.audit.turnTrace 0x06 = payloads l 0x06 then s
  else s.diverge 4 0xFFFF 0 0xFFFF

/-- Ring 3's COMPLETED passes the records of the turn. -/
def State.consumeTrace (s : State) (n : Nat) : State :=
  match s.ring 3 with
  | none => s
  | some x => (s.setRing 3 { x with cmp := x.cmp + n }).putCompleted 3 { x with cmp := x.cmp + n }

/-- A replayed turn's head. -/
def State.replayTurn (s : State) (h : HeadIn) (l : List RingRec) : State :=
  let tr := (payloads l 0x01).flatten
  let again := s.testAgain
  let on := s.flag tlsBrake
  let s1 := s.beginTurn (fieldAt tr 0 8) h.ptm
  let gen := (payloads l 0x0F).flatten
  let s2 := { s1 with audit := { s1.audit with
    replay := l
    head := if gen.isEmpty then s1.audit.head else sha512 (gen.take 160) } }
  let s3 := (((s2.alignHead (decide (s.turn.phase = .none))).stepOne again).setFld errEpoch (fieldAt tr 0x0C 4)).setPoint (fieldAt tr 8 4) (fieldAt tr 0x10 1)
  let s4 := (payloads l 0x04).foldl State.replayAccept ((s3.replayBrake l).readConsumed 1)
  let s5 := ((s4.stageLat {} s3.works.length).stateLost.applyRearm.replayAdmit l).chargeBrake on l
  ((s5.persistFill.applyLinks.replayLinks l).recordHead).consumeTrace l.length

/-- The head of a grid turn in replay: a turn whose records are not all there waits. -/
def State.replayHead (s : State) (h : HeadIn) : State :=
  if s.flag audDiverged then s
  else
    match s.tracedTurn with
    | none => s.bump audReplayWait 1
    | some l =>
      if l.any (fun r => decide (r.rtype = 0x0C)) then s.divergeIn (tracedNumber l) 8 0xFFFF 0 0xFFFF
      else if traceFormatBad (decide (s.turn.phase = .none)) l || !(s.traceNumbered l.length) then
        s.divergeIn (tracedNumber l) 9 0xFFFF 0 0xFFFF
      else s.replayTurn h l

/-! ### The tail -/

/-- Aborts every slice that a traced ABORT names. -/
def State.replayAborts (s : State) : State :=
  if s.flag audReplayActive then
    (s.tracedEvents 0x20).foldl (fun t e =>
      match t.turn.placed.findIdx? (fun p => decide (p.ring = fieldAt e 2 2) && decide (p.seq % 2 ^ 32 = fieldAt e 4 4)
        && decide (p.slice = fieldAt e 8 2)) with
      | some i => t.abortSlice i (fieldAt e 1 1) none
      | none => t) s
  else s

/-- The first payload pair that differs. -/
def firstDiff : List (List Byte) → List (List Byte) → Option (List Byte)
  | [], [] => none
  | a :: as_, b :: bs => if a = b then firstDiff as_ bs else some b
  | a :: _, [] => some a
  | [], b :: _ => some b

/-- STAGED payloads for which the other side names the same work. -/
def pairedWith (l : List (List Byte)) (p : List Byte) : Bool := l.any (fun q => decide (p.take 12 = q.take 12))

/-- IDIG of every work whose staging both the trace and this part have completed (R339). -/
def State.replayStaged (s : State) : State :=
  let mine := s.audit.stagedMine ++ payloads s.audit.turnTrace 0x07
  let his := s.audit.stagedTrace ++ payloads s.audit.replay 0x07
  let s1 := match mine.find? (fun p => his.any (fun q => decide (p.take 12 = q.take 12) && decide (p ≠ q))) with
    | some p => s.diverge 2 (fieldAt p 0 2) (fieldAt p 4 8) 0xFFFF
    | none => s
  { s1 with audit := { s1.audit with
      stagedMine := mine.filter (fun p => !(pairedWith his p))
      stagedTrace := his.filter (fun p => !(pairedWith mine p)) } }

/-- The comparisons of a tail, by kind; `done` are the slices that committed: ring, sequence and slice index. -/
def State.replayCheck (s : State) (done : List (Nat × Nat × Nat)) : State :=
  if s.flag audReplayActive && !s.audit.replay.isEmpty then
    let mine := s.audit.turnTrace
    let l := s.audit.replay
    let s1 := s.replayStaged
    let s2 := if (payloads l 0x0A).isEmpty then s1
      else (match firstDiff (payloads mine 0x0A) (payloads l 0x0A) with
        | some p => s1.diverge 5 (fieldAt p 0 2) (fieldAt p 4 8) (fieldAt p 2 2)
        | none => s1)
    let s3 := match firstDiff (payloads mine 0x0E) (payloads l 0x0E) with
      | some p =>
        let r := fieldAt p 0 2
        let q := fieldAt p 4 8
        s2.diverge 6 r q (match done.find? (fun (e : Nat × Nat × Nat) => decide (e.1 = r) && decide (e.2.1 = q)) with
          | some e => e.2.2
          | none => 0xFFFF)
      | none => s2
    let s4 := if payloads mine 0x01 = payloads l 0x01 ∧ payloads mine 0x0D = payloads l 0x0D then s3
      else s3.diverge 7 0xFFFF 0 0xFFFF
    { s4 with audit := { s4.audit with replay := [] } }
  else s

end Sys2Proof.Machine
end

