-- ==== Sys2Proof/Machine/TurnTail.lean ====
section
/-! DEFINITION. The turn tail (10 R264 to R272, R283, R284; 19 R499): stretch, commits, publication, the audit chain, and the budget of
the next turn; the raise of VDD_CORE before a faster turn. -/

namespace Sys2Proof.Machine

/-! ### Stretch (R283, R284) -/

/-- Whether a certified slice is still running. -/
def State.certRunning (s : State) : Bool := s.turn.placed.any (fun p => p.isRunning && !(s.placedElastic p))

/-- Whether the turn stretches at the end of its first interval: in replay, where the trace says so. -/
def State.stretches (s : State) : Bool :=
  if s.flag audReplayActive then (s.tracedEvents 0x03).isEmpty = false else s.certRunning

/-- Whether a placed slice has run in the turn. -/
def Placed.hasRun (p : Placed) : Bool :=
  match p.st with
  | .placed => false
  | _ => true

/-- The turn gains one turn length; every slice that runs in it is charged ND_STRETCH. -/
def State.stretch (s : State) : State :=
  let s1 := (s.bump hstTurnOverrun 1).event 0x03 0 0 0 0
  let s2 := { s1 with turn := { s1.turn with stretched := true } }
  (List.range s2.turn.placed.length).foldl (fun t i => match t.placedAt i with
    | some p => if p.hasRun then t.ndPlaced i 1 else t
    | none => t) s2

/-! ### The budget (R270 to R272) -/

/-- The thermal term in uJ: heat capacity in mJ per degree, resistance in micro-degrees per watt scaled by THETA, temperatures in
thousandths of a degree. -/
def State.eTh (s : State) : Nat :=
  let tj : Int := 1000 * s.fld tlsTjBudget
  (List.range 144).foldl (fun a i =>
    let t := SMap.get 0 s.thermal.proj i
    let r : Nat := max 1 (Config.thermalRes i * s.fld witTheta / 256)
    a + ((Config.heatCap i : Int) * (tj - t) + (10 * s.turn.ticks : Nat) * (t - s.thermal.tcp) / (r : Int)).toNat) 0

def sumNat (l : List Nat) : Nat := l.foldl (· + ·) 0

/-- The last `n` entries of a history. -/
def lastOf (n : Nat) {α : Type} (l : List α) : List α := l.drop (l.length - n)

/-- The energy that the slices of the turn were estimated at: the header entries of those that ran. -/
def State.estimated (s : State) : Nat := sumNat ((s.turn.placed.filter Placed.hasRun).map (fun p => p.energy))

/-- KAPPA over a history of energy drawn and estimated (R271). -/
def kappaOf (h : List (Nat × Nat)) : Nat :=
  let est := sumNat (h.map (fun e => e.2))
  if est = 0 then 256 else max 256 (min 320 (256 * sumNat (h.map (fun e => e.1)) / est))

/-- E_next held to what shares that run short of phases carry (19 R500). -/
def State.shareLimit (s : State) (e : Nat) : Nat :=
  s.power.short.foldl (fun m k => min m (Config.shareBudget k.1 k.2 (s.power.short.filter (fun j => decide (j = k))).length)) e

/-- BUDGET_PUBLISH: the projection, the terms, KAPPA and E_NEXT. `est` is what the turn's slices were estimated at. -/
def State.publishBudget (s : State) (t : TailIn) (est : Nat) : State :=
  let temps := (List.range 152).map (fun i => SMap.get 0 s.thermal.temps i)
  let hist := lastOf 16 (s.turn.fixHist ++ [t.fixUj])
  let fix := sumNat hist / max 1 hist.length
  let s1 := { s with
    thermal := { s.thermal with proj := (List.range 152).map (fun i => (i, Config.thermalProject i temps)) }
    turn := { s.turn with
      fixHist := hist
      kappaHist := lastOf 64 (s.turn.kappaHist ++ [(t.drawnUj - fix, est)]) } }
  let ceil := s1.fld tlsCeilW * s1.turn.ticks / 100
  let cap := s1.fld tlsIncapW
  let mw := if cap = 0 then t.vinMv * 36 else min (t.vinMv * 36) (1000 * cap)
  let ein := mw * s1.turn.ticks / 100000
  let th := s1.eTh
  let word (x : Nat) : Nat := min x 0xFFFFFFFF
  let s2 := (((s1.setFld tlsECeil (word ceil)).setFld tlsETh (word th)).setFld tlsEIn (word ein)).setFld tlsEFix (word fix)
  (s2.setFld tlsENext (word (s1.shareLimit (min ceil (min th ein) - fix)))).setFld tlsKappa (kappaOf s1.turn.kappaHist)

/-! ### The tail -/

/-- The placed slices that ended and did not abort: ring, sequence and slice index. -/
def State.ranSlices (s : State) : List (Nat × Nat × Nat) :=
  s.turn.placed.filterMap (fun p => match p.st with
    | .ended _ => some (p.ring, p.seq, p.slice)
    | _ => none)

/-- Steps 7 to 10 once the tail begins. -/
def State.tailBody (s : State) (t : TailIn) : State :=
  let fails := t.recordFails.map (fun e => e.1.val)
  let est := s.estimated
  let s0 := s.replayAborts.tailAborts.commitSlices
  let s1 := s0.releaseWords.clearPlaced
  let s2 := ((s1.adminFinish.settle.publish fails).dropRings).chainStep.replayCheck s0.ranSlices
  let s3 := (s2.sealTail.flushTrace.releaseEvents fails).sendMsix
  let s4 := (s3.publishBudget t est).setFld clkCoreMhz t.coreMhz.toNat
  { s4 with turn := { s4.turn with phase := .done } }

/-- TURN_TAIL (R264): where a certified slice still runs in the first grid interval, the turn stretches instead. -/
def execTurnTail (t : TailIn) (s : State) : Host.Outcome State Fault Refusal :=
  if s.isReady && decide (s.turn.phase = .window) then
    if s.stretches && !s.turn.stretched then .next s.stretch else .next (s.tailBody t)
  else .next s

/-- TURN_HEAD (R264): host software's stores reach host memory, and a turn begins where the part is ready and no turn is open. -/
def execTurnHead (h : HeadIn) (s : State) : Host.Outcome State Fault Refusal :=
  let s1 := h.stores.foldl (fun t w => t.hostPut w.addr w.bytes) s
  if s1.isReady && decide (s1.turn.phase ≠ .window) then
    .next (if s1.flag audReplayActive then s1.replayHead h else s1.liveHead h)
  else .next s1

/-- VOLTAGE_RAISE (R265): 3.2 us before the end of a turn whose next point is faster, VDD_CORE takes the next point's voltage. -/
def execVoltageRaise (s : State) : Host.Outcome State Fault Refusal :=
  if s.isReady && decide (s.turn.phase = .window) && decide (s.turn.nextPoint < s.turn.point) then
    .next { s with turn := { s.turn with raised := true, vddMv := s.vddOf s.turn.nextPoint } }
  else .next s

end Sys2Proof.Machine
end

