-- ==== Sys2Proof/Machine/PowerEvents.lean ====
section
/-! DEFINITION. The brake, the thermal model and trip, VIN, the P-tiles, the reference clocks and PERST_N (10 R268, R269, R282, R284; 15
R408, R409, R424, R425; 17 R461; 18 R488; 19 R497, R500, R502, R503, R511). -/

namespace Sys2Proof.Machine

/-- Whether the rails of the dies are up. -/
def State.powered (s : State) : Bool := decide (s.power.state ≠ .off) && decide (s.power.state ≠ .tripped)

/-- Whether the M-die runs. -/
def State.mdieUp (s : State) : Bool := decide (s.power.state ≠ .off)

/-! ### The brake (10 R282, R284) -/

/-- Engages the brake: the core clock halves, and every slice that runs is charged ND_BRAKE once. -/
def State.engageBrake (s : State) : State :=
  if s.flag tlsBrake then s
  else
    let s1 := ((s.setFlag tlsBrake true).bump tlsBrakeCount 1).event 0x01 0 0 0 0
    let s2 := { s1 with turn := { s1.turn with braked := true } }
    (List.range s2.turn.placed.length).foldl (fun t i => match t.placedAt i with
      | some p => if p.isRunning && !(p.nd.contains 0) then t.ndPlaced i 0 else t
      | none => t) s2

def State.releaseBrake (s : State) : State := if s.flag tlsBrake then (s.setFlag tlsBrake false).event 0x02 0 0 0 0 else s

/-- Whether no cause of the brake is present. -/
def State.brakeFree (s : State) : Bool := !(s.flag tlsCur) && !(s.flag tlsPin) && !(s.flag tlsHot) && !s.power.brakeVin

/-- BRAKE_TRIP (R282): input current exceeds TRIP for 2 us. -/
def execBrakeTrip (s : State) : Host.Outcome State Fault Refusal :=
  if s.powered then .next (s.setFlag tlsCur true).engageBrake else .next s

/-- BRAKE_HOT (R282): an unmasked sensor reaches 100 degrees. -/
def execBrakeHot (sensor : Fin 600) (s : State) : Host.Outcome State Fault Refusal :=
  if s.powered && !(s.thermal.masked.contains sensor.val) then .next (s.setFlag tlsHot true).engageBrake else .next s

/-- BRAKE_RELEASE (R282): current and temperature have been absent for 20 us, and so has PWRBRK_N. -/
def execBrakeRelease (s : State) : Host.Outcome State Fault Refusal :=
  if s.flag tlsPin then .next s
  else
    let s1 := (s.setFlag tlsCur false).setFlag tlsHot false
    .next (if s1.brakeFree then s1.releaseBrake else s1)

/-! ### The thermal model (10 R268, R269; 17 R461) -/

/-- The sensors of a node. -/
def nodeSensors (i : Nat) : List Nat :=
  if i < 148 then (List.range 4).map (fun j => 4 * i + j) else (List.range 2).map (fun j => 592 + 2 * (i - 148) + j)

/-- The node that a sensor stands on. -/
def sensorNode (k : Nat) : Nat := if k < 592 then k / 4 else 148 + (k - 592) / 2

/-- What the Tailstock takes a sensor to read: its node's temperature where it is masked. -/
def Thermal.reading (t : Thermal) (k : Nat) : Int :=
  if t.masked.contains k then SMap.get 0 t.temps (sensorNode k) else SMap.get 0 t.sensors k

/-- Whether every sensor, masked or not, reads below 95 degrees. -/
def Thermal.cool (t : Thermal) : Bool := t.sensors.all (fun (e : Nat × Int) => decide (e.2 < 95000))

/-- THERMAL_MODEL_UPDATE (R269). -/
def execThermalModelUpdate (t : ThermalIn) (s : State) : Host.Outcome State Fault Refusal :=
  if s.mdieUp then
    let th := s.thermal
    let raw : SMap Int := (List.range 600).foldl (fun m k => SMap.set 0 m k (t.sensors.getD k (SMap.get 0 th.sensors k))) []
    let th1 := { th with sensors := raw }
    let temps := (List.range 152).map (fun i => SMap.get 0 th.temps i)
    let next : SMap Int := (List.range 152).foldl (fun m i => SMap.set 0 m i
      (Config.thermalStep i (temps.getD i 0) (t.powerMw.getD i 0) temps ((nodeSensors i).map th1.reading) (s.fld witTheta))) []
    let seen := ((List.range 600).filter (fun k => !th.masked.contains k)).map (fun k => SMap.get 0 raw k)
    let th2 := { th1 with temps := next, tcp := Config.coldPlate seen }
    .next { s with thermal := th2 }
  else .next s

/-- TSENSOR (R268): a sensor that disagrees with the model for 100 samples is masked. -/
def execTsensor (sensor : Fin 600) (s : State) : Host.Outcome State Fault Refusal :=
  if s.thermal.masked.contains sensor.val ∨ !s.mdieUp then .next s
  else .next (({ s with thermal := { s.thermal with masked := s.thermal.masked ++ [sensor.val] } }).log .tsensor {})

/-- THETA_STEP (17 R461): one estimate, in thousandths of a degree per kilowatt, from a power step of 100 W or more. -/
def execThetaStep (riseMk stepW : Nat) (s : State) : Host.Outcome State Fault Refusal :=
  if 100 ≤ stepW ∧ s.powered then
    .next { s with thermal := { s.thermal with thetas := s.thermal.thetas ++ [riseMk * 1000 / stepW] } }
  else .next s

/-- THERMTRIP (19 R511): the record, THERMTRIP_N, and every rail but VDD_MGMT stops. -/
def execThermtrip (s : State) : Host.Outcome State Fault Refusal :=
  if s.powered then
    let s1 := s.log .thermtrip {}
    let s2 := { s1.dropRails with
      thermal := { sensors := s1.thermal.sensors, masked := s1.thermal.masked }
      sec := { s1.sec with pendingOwner := none }
      power := { s1.power with state := .tripped, thermtripN := true, recover := List.range 64, configReady := false, brakeVin := false } }
    let s3 := (s2.setFld devDomains 3).setFlag nviReady false
    .next (((s3.setFlag tlsBrake false).setFlag tlsCur false).setFlag tlsHot false)
  else .next s

/-! ### Power-up (15 R408, R409, R424) -/

/-- Steps 1 to 4, and 5 to 8 where PERST_N is deasserted. -/
def State.powerUp (s : State) (b : BringUpIn) : State :=
  let s1 := ((if s.flag tlsPin then s.engageBrake else s).bootImage b).setFld nviBootStage 2
  let s2 := { s1 with power := { s1.power with state := .starting, configReady := !s1.power.perst } }
  if s2.power.perst then s2 else s2.train b

/-- POWER_UP (15 R408): VIN rises into its range. -/
def execPowerUp (b : BringUpIn) (s : State) : Host.Outcome State Fault Refusal :=
  if decide (s.power.state = .off) && decide (46000 ≤ b.vinMv) && decide (b.vinMv ≤ 56000) then .next (s.powerUp b) else .next s

/-- DEVICE_READY (15 R424; 14 R402): the readiness checks; a device that they hold back tries again. -/
def execDeviceReady (s : State) : Host.Outcome State Fault Refusal :=
  if s.powered && !s.isReady && !s.power.perst then .next s.becomeReady else .next s

/-- PERST_N_ASSERT (13 R350): a cold reset, held at step 4. -/
def execPerstAssert (s : State) : Host.Outcome State Fault Refusal :=
  if s.power.perst then .next s
  else
    let s1 := { s with
      power := { s.power with perst := true, configReady := false }
      access := { s.access with vfEnable := false, atomicEn := [], msix := [], aer := [] } }
    if s1.powered then .next (s1.coldHold { s1.power.bringUp with stackFails := [], coreFails := [], rowRepairs := [] })
    else .next { s1 with sec := { s1.sec with sessions := [], sbSessions := [], sbChallenges := [], challenges := [] } }

/-- PERST_N_DEASSERT (15 R408, R409; 19 R511): the configuration space becomes ready, and training and self-test run. After a thermal
trip the part restarts where every sensor reads below 95 degrees. -/
def execPerstDeassert (b : BringUpIn) (s : State) : Host.Outcome State Fault Refusal :=
  if s.power.perst then
    let s1 := { s with power := { s.power with perst := false, configReady := s.powered } }
    if s1.power.state = .tripped then
      if s1.thermal.cool then
        let s2 := levelRegs.foldl (fun t o => t.setReg o (s1.reg o)) { s1 with regs := defaultRegs }
        .next ({ s2 with
          power := { perst := false, recover := List.range 64, shares := s1.power.shares, short := s1.power.short } }.powerUp b)
      else .next s1
    else if s1.powered then .next ({ s1 with power := { s1.power with bringUp := b } }.train b)
    else .next s1
  else .next s

/-! ### VIN (19 R497; 13 R350) -/

/-- VIN_LOSS: below 40 V at the M-die. -/
def execVinLoss (s : State) : Host.Outcome State Fault Refusal := if s.mdieUp then .next s.loseVin else .next s

/-- VIN_LOW: between 40 V and 46 V for more than 1 ms. -/
def execVinLow (s : State) : Host.Outcome State Fault Refusal := if s.mdieUp then .next (s.log .vinLow {}) else .next s

/-- VIN_HIGH: above 58 V for more than 10 us. -/
def execVinHigh (s : State) : Host.Outcome State Fault Refusal :=
  if s.powered && !s.power.brakeVin then
    .next (({ s with power := { s.power with brakeVin := true } }).log .vinHigh {}).engageBrake
  else .next s

/-- VIN_HIGH_END: below 57 V for 1 ms. -/
def execVinHighEnd (s : State) : Host.Outcome State Fault Refusal :=
  if s.power.brakeVin then
    let s1 := { s with power := { s.power with brakeVin := false } }
    .next (if s1.brakeFree then s1.releaseBrake else s1)
  else .next s

/-- VIN_OVP: above 60 V for more than 10 us. -/
def execVinOvp (s : State) : Host.Outcome State Fault Refusal := if s.mdieUp then .next (s.log .vinOvp {}).loseVin else .next s

/-! ### Phases and the bank (19 R498, R500; 15 R425) -/

/-- Whether a tile has a share of a rail: rail 8 is that of tiles 0 and 1. -/
def hasShare (tile rail : Nat) : Bool := decide (rail < 8) || decide (tile < 2)

/-- PHASE_FAULT (R500). -/
def execPhaseFault (tile : Fin 4) (rail : Fin 9) (s : State) : Host.Outcome State Fault Refusal :=
  if s.powered && hasShare tile.val rail.val then .next (s.phaseFault tile.val rail.val) else .next s

/-- HOLDUP_MEASURE (R425). -/
def execHoldupMeasure (dropMv stepMv : Nat) (volt : BitVec 16) (s : State) : Host.Outcome State Fault Refusal :=
  if s.mdieUp then .next (s.measureBank dropMv stepMv volt.toNat) else .next s

/-! ### Clocks (19 R502, R503; 18 R488; 14 R400) -/

/-- SYSCLK_LOST (R503): the timebase switches to the in-package oscillator until the next cold reset. -/
def execSysclkLost (s : State) : Host.Outcome State Fault Refusal :=
  if s.mdieUp && !s.power.intOsc then
    .next ((({ s with power := { s.power with intOsc := true } }).setFlag clkSysLock false).log .sysclkLost {})
  else .next s

/-- A port that carried flits goes down. -/
def State.dropPort (s : State) (p : Nat) : State :=
  let x := s.port p
  if x.lanes.isEmpty && x.down then s
  else
    let s1 := s.setPort p { x with lanes := [], down := true, state := 7, spareIn := false }
    if x.up then s1.log .portDown { inst := laneOf p 0 } else s1

/-- REFCLK_LNK_LOSS (R502): every port of the die goes down. -/
def execRefclkLnkLoss (east : Bool) (s : State) : Host.Outcome State Fault Refusal :=
  if s.powered then
    let s1 := s.setFlag (clkLnkLock (if east then 0 else 1)) false
    .next ((List.range 12).foldl (fun t i => t.dropPort (if east then i else 12 + i)) s1)
  else .next s

/-- REFCLK_PCIE_LOSS (R502): link down, and so a warm reset. -/
def execRefclkPcieLoss (s : State) : Host.Outcome State Fault Refusal :=
  if s.powered then .next ((s.setFlag clkPcieLock false).setLink 0 0).hostReset else .next s

/-- PPS_IN_PULSE (R502). -/
def execPpsInPulse (s : State) : Host.Outcome State Fault Refusal :=
  if s.mdieUp then .next (s.setFlag clkPpsValid true) else .next s

/-- PPS_IN_LOSS (R502). -/
def execPpsInLoss (s : State) : Host.Outcome State Fault Refusal := .next (s.setFlag clkPpsValid false)

/-- The lock bit of a PLL. -/
def pllBit : Pll → RegField
  | .core0 => clkCoreLock 0
  | .core1 => clkCoreLock 1
  | .pcie => clkPcieLock
  | .lnkE => clkLnkLock 0
  | .lnkW => clkLnkLock 1

/-- PLL_LOSS_OF_LOCK (18 R488). -/
def execPllLossOfLock (pll : Pll) (s : State) : Host.Outcome State Fault Refusal :=
  if s.mdieUp then .next ((s.setFlag (pllBit pll) false).bump clkLoss 1) else .next s

/-! ### Control inputs (19 R505 to R507; 12 R335) -/

def pinCode : PinId → Nat
  | .pwrbrk => 1
  | .turnSync => 2
  | .pps => 3
  | .presence => 4

/-- PWRBRK_N and PRESENCE_N are asserted low. -/
def pinActiveLow (pin : PinId) : Bool := decide (pin = .pwrbrk) || decide (pin = .presence)

/-- The level that leaves an input's stages: what the Tailstock and LEVEL see. -/
def State.driveLevel (s : State) (pin : PinId) (asserted : Bool) : State :=
  let s1 := s.setFlag (pinLevel (pinCode pin)) asserted
  let s2 := if asserted then s1 else s1.setFlag (pinStuckF (pinCode pin)) false
  if pin = .pwrbrk then
    let s3 := s2.setFlag tlsPin asserted
    if asserted && s3.powered then s3.engageBrake else s3
  else s2

/-- The PIN event of a level. -/
def pinLevelEvent (pin : PinId) (asserted : Bool) : Nat := if asserted != pinActiveLow pin then 1 else 0

/-- PIN_TRANSITION (R505): a level that has passed the glitch filter; while UNSTABLE the last stable level is held. -/
def execPinTransition (pin : PinId) (asserted : Bool) (tick : Nat) (s : State) : Host.Outcome State Fault Refusal :=
  let n := pinCode pin
  let s1 := s.setFlag (pinRaw n) asserted
  if s.mdieUp then
    let s2 := s1.bump (pinEvents n) 1
    if s2.flag (pinUnstableF n) then .next s2 else .next ((s2.pinEvent n (pinLevelEvent pin asserted) tick).driveLevel pin asserted)
  else .next (s1.driveLevel pin asserted)

/-- PIN_UNSTABLE (R506): more than 8 transitions in 1 ms hold the last stable level. -/
def execPinUnstable (pin : PinId) (held : Bool) (tick : Nat) (s : State) : Host.Outcome State Fault Refusal :=
  let n := pinCode pin
  if s.mdieUp && s.flag (pinRateEn n) && !(s.flag (pinUnstableF n)) && decide (n ≠ 2) then
    .next ((((s.setFlag (pinUnstableF n) true).driveLevel pin held).log .pinUnstable {}).pinEvent n 2 tick)
  else .next s

/-- PIN_UNSTABLE_CLEAR (R506): LEVEL follows the input again. -/
def execPinUnstableClear (pin : PinId) (s : State) : Host.Outcome State Fault Refusal :=
  let n := pinCode pin
  if s.flag (pinUnstableF n) then
    let s1 := s.setFlag (pinUnstableF n) false
    let now := s1.flag (pinRaw n)
    if s1.flag (pinLevel n) = now then .next s1
    else .next ((s1.pinEvent n (pinLevelEvent pin now) s1.freeTick).tickFree.driveLevel pin now)
  else .next s

/-- PIN_STUCK (R507): an input asserted longer than STUCK_S; it is still honoured. -/
def execPinStuck (pin : PinId) (tick : Nat) (s : State) : Host.Outcome State Fault Refusal :=
  let n := pinCode pin
  if s.mdieUp && s.flag (pinStuckS n) && s.flag (pinLevel n) && !(s.flag (pinStuckF n)) then
    .next (((s.setFlag (pinStuckF n) true).log .pinStuck {}).pinEvent n 3 tick)
  else .next s

end Sys2Proof.Machine
end

