-- ==== Sys2Proof/Machine/LinkEvents.lean ====
section
/-! DEFINITION. Laros Links from the receiving side (14 R379 to R400, R404; 13 R369; 19 R506): hop and end-to-end sequences, the eight
flit types, turn alignment, lanes, ports and routes. -/

namespace Sys2Proof.Machine

/-! ### Hop level (R379, R380) -/

/-- Bits of the header that are reserved. -/
def flitReserved (f : Flit) : Bool :=
  decide (f.fflags.toNat / 4 ≠ 0) || decide (f.lseq.toNat / 4096 ≠ 0) || decide (f.src.toNat / 4096 ≠ 0)
    || decide (f.dst.toNat / 4096 ≠ 0)

/-- LINK_ACK of port `p`: acknowledges up to the sequence before `n`, or asks for a replay from `n`. The spec gives the payload no
layout: 0 acknowledgement or 1 negative, then the sequence. -/
def State.sendLinkAck (s : State) (p : Nat) (nak : Bool) (n : Nat) : State :=
  s.sendOn p (mkFlit ftLinkAck 0 s.links.topo.self s.links.topo.self 0 ([if nak then 1 else 0] ++ le16 n))

/-- Whether flits of a type are acknowledged by LINK_ACK: all but IDLE and LINK_ACK. -/
def ackedType (ft : Nat) : Bool := decide (ft ≠ 0) && decide (ft ≠ ftLinkAck)

/-- What the hop level makes of a flit that arrives on port `p`: the flit goes up once, in LSEQ order, and only where it is of a known
type with no reserved bit set; a gap is told once. `ft` is the type that the command names. -/
def State.hopReceive (s : State) (ft p : Nat) (f : Flit) : State × Bool :=
  let x := s.port p
  if x.lanes.isEmpty || x.down || decide (x.state < 5) then (s, false)
  else if !flitCrcOk f then
    ((s.setPort p { x with nakSent := true }).sendLinkAck p true x.rxSeq, false)
  else
    let n := f.lseq.toNat % 4096
    if n ≠ x.rxSeq then
      if (n + 4096 - x.rxSeq) % 4096 < 2048 then
        if x.nakSent then (s, false) else ((s.setPort p { x with nakSent := true }).sendLinkAck p true x.rxSeq, false)
      else (s, false)
    else
      let s1 := s.setPort p { x with rxSeq := (x.rxSeq + 1) % 4096, nakSent := false }
      let s2 := if ackedType ft then s1.sendLinkAck p false ((x.rxSeq + 1) % 4096) else s1
      if f.ftype.toNat ≠ ft ∨ flitReserved f then (s2.bump lnkFlitBad 1, false) else (s2, true)

/-- Whether a routed flit is for this chip; another chip's is forwarded, or discarded where its destination does not exist. -/
def State.routeIn (s : State) (f : Flit) : State × Bool :=
  if f.dst.toNat = s.links.topo.self then (s, true)
  else if s.links.topo.size ≤ f.dst.toNat then (s.bump lnkFlitBad 1, false)
  else (s.sendRoute f, false)

/-! ### End to end (R385) -/

/-- Cumulative acknowledgement of a pair: ESEQ names the last flit passed upward (the spec gives E2E_ACK no payload). -/
def State.sendE2eAck (s : State) (src : Nat) : State :=
  let x := s.pairIn src
  s.sendRoute (mkFlit ftE2eAck 0 s.links.topo.self src ((x.expect + 2 ^ 32 - 1) % 2 ^ 32) [])

/-- Bytes of inbound words that the link buffer holds. -/
def State.inboundBytes (s : State) : Nat :=
  s.links.ins.foldl (fun a e => a + (e.2.words.foldl (fun b w => b + 48 + w.data.length) 0)
    + (match e.2.partialWord with
      | some w => 48 + w.data.length
      | none => 0) + 256 * e.2.ahead.length) 0

/-! ### Words and releases (R382, R387) -/

/-- A word from its header; a reserved field set makes none. -/
def parseWord (src : Nat) (b : List Byte) : Option LinkWord :=
  let kind := fieldAt b 0 1
  let sig := decide (kind = 2)
  let hi := fieldAt b 0x1C 4
  if (kind = 1 ∨ kind = 2) ∧ fieldAt b 0x28 8 = 0 ∧ fieldAt b 1 1 < 64
      ∧ (if sig then hi = 0 ∧ fieldAt b 0x0F 1 < 0x80 else hi < 4096) then
    some
      { src := src, isSignal := sig, fn := fieldAt b 1 1, ring := fieldAt b 2 2, seq := fieldAt b 4 8, slice := fieldAt b 0x0C 2
        score := fieldAt b 0x0E 1, target := fieldAt b 0x0F 1, offset := fieldAt b 0x10 4 + 2 ^ 32 * hi, len := fieldAt b 0x14 4
        issue := fieldAt b 0x18 4, sturn := fieldAt b 0x20 8, data := [] }
  else none

/-- A DATA flit passes upward: a word grows, and enters the buffer when its last flit has come. -/
def State.takeData (s : State) (src : Nat) (f : Flit) : State :=
  let x := s.pairIn src
  let last := f.fflags.getLsbD 1
  let next : Option LinkWord :=
    if f.fflags.getLsbD 0 then (parseWord src f.payload).map (fun w => { w with data := f.payload.drop 48 })
    else x.partialWord.map (fun w => { w with data := w.data ++ f.payload })
  match next with
  | none => (s.setPairIn src { x with partialWord := none }).bump lnkFlitBad 1
  | some w =>
    if last then
      let done := { w with data := if w.isSignal then [] else w.data.take w.len }
      s.setPairIn src { x with partialWord := none, words := x.words ++ [done] }
    else s.setPairIn src { x with partialWord := some w }

/-- A RELEASE flit passes upward. -/
def State.takeRelease (s : State) (src : Nat) (f : Flit) : State :=
  let b := f.payload
  let n := fieldAt b 8 2
  let entry (i : Nat) : Nat × Nat × Nat × Nat :=
    let o := 12 + 14 * i
    (fieldAt b o 1, fieldAt b (o + 2) 2, fieldAt b (o + 4) 8, fieldAt b (o + 12) 2)
  if n ≤ 16 ∧ fieldAt b 10 2 = 0 ∧ fieldAt b 0xEC 4 = 0 ∧ (List.range n).all (fun i => decide (fieldAt b (13 + 14 * i) 1 = 0)) then
    let x := s.pairIn src
    s.setPairIn src { x with releases := x.releases ++ [⟨fieldAt b 0 8, (List.range n).map entry, f.fflags.getLsbD 1⟩] }
  else s.bump lnkFlitBad 1

/-! ### NOTICE (R404, R369) -/

/-- Whether a work's chip group includes system chip `c` (R383). -/
def State.groupHas (s : State) (w : Work) (c : Nat) : Bool :=
  match s.planOf w with
  | none => false
  | some p =>
    let n := p.images.foldl (fun m im => max m im.chips) 1
    let base : Int := (s.links.topo.self : Int) - w.sbase
    decide (base ≤ c) && decide ((c : Int) < base + n)

/-- Works that end with TARGET_RESET: their later slices do not run, and their staging is discarded. -/
def State.endTargetReset (s : State) (hit : Work → Bool) : State :=
  let n := (s.works.filter (fun (w : Work) => w.interrupted && hit w)).length
  let s1 : State := { s with works := s.works.map (fun (w : Work) =>
    if w.interrupted && hit w then { w with result := some stTargetReset, copies := [] } else w) }
  let idx := (List.range s1.turn.placed.length).filter (fun i => match s1.placedAt i with
    | some p => s1.works.any (fun w => decide (w.ring = p.ring) && decide (w.seq = p.seq) && decide (w.result = some stTargetReset))
    | none => false)
  (idx.foldl (fun (t : State) i => t.abortSlice i 1 none) s1).bump errTargetResets n

/-- Another chip resets: members of works whose group includes it end, and the pair starts again. -/
def State.chipReset (s : State) (c : Nat) : State :=
  let s1 := s.endTargetReset (fun w => s.multiChip w && s.groupHas w c)
  let s2 := { s1 with links := { s1.links with
    outs := SMap.set {} s1.links.outs c {}
    ins := SMap.set {} s1.links.ins c {}
    waiting := s1.links.waiting.filter (fun f => decide (f.dst.toNat ≠ c)) } }
  s2.log .peerReset {}

/-- A NOTICE flit passes upward. -/
def State.takeNotice (s : State) (f : Flit) : State :=
  let b := f.payload
  if fieldAt b 2 1 = 0 then s.chipReset (fieldAt b 0 2)
  else s.endTargetReset (fun w => decide (w.fn = fieldAt b 3 1) && decide (w.ring = fieldAt b 4 2) && decide (w.seq = fieldAt b 8 8))

/-! ### Passing upward -/

/-- Takes a flit of the pair from `src` that is next in ESEQ order. -/
def State.takeUp (s : State) (src : Nat) (f : Flit) : State :=
  let x := s.pairIn src
  let s1 := s.setPairIn src { x with expect := (x.expect + 1) % 2 ^ 32 }
  if f.ftype.toNat = ftData then s1.takeData src f
  else if f.ftype.toNat = ftRelease then s1.takeRelease src f
  else s1.takeNotice f

/-- Passes upward the flits held ahead that are now next. -/
def State.drainAhead : Nat → State → Nat → State
  | 0, s, _ => s
  | n + 1, s, src =>
    let x := s.pairIn src
    match x.ahead.find? (fun f => decide (f.eseq.toNat = x.expect)) with
    | none => s
    | some f =>
      State.drainAhead n ((s.setPairIn src { x with ahead := x.ahead.filter (fun g => decide (g.eseq ≠ f.eseq)) }).takeUp src f) src

/-- Whether a DATA flit finds no room in the inbound share (R386). -/
def State.inboundFull (s : State) (f : Flit) : Bool :=
  decide (f.ftype.toNat = ftData) && decide (max 256 (Config.inboundShare s.hbm.layout.linkBuffer) < s.inboundBytes + 256)

/-- The end-to-end level of a flit for this chip. -/
def State.pairReceive (s : State) (f : Flit) : State :=
  let src := f.src.toNat
  let x := s.pairIn src
  let ahead := (f.eseq.toNat + 2 ^ 32 - x.expect) % 2 ^ 32
  if s.inboundFull f then s
  else if ahead = 0 then
    let s1 := s.takeUp src f
    let s2 := State.drainAhead ((s1.pairIn src).ahead.length + 1) s1 src
    s2.sendE2eAck src
  else if ahead < 2 ^ 31 then
    if x.ahead.any (fun g => decide (g.eseq = f.eseq)) then s
    else (s.setPairIn src { x with ahead := x.ahead ++ [f] }).sendE2eAck src
  else s.sendE2eAck src

/-- A routed flit of type `ft` that arrives on port `p`. -/
def State.recvRouted (s : State) (ft p : Nat) (f : Flit) : State :=
  let r := s.hopReceive ft p f
  if r.2 then
    let q := r.1.routeIn f
    if q.2 then q.1.pairReceive f else q.1
  else r.1

/-! ### The flit commands -/

/-- DATA (R382, R385). -/
def execData (p : Fin 24) (f : Flit) (s : State) : Host.Outcome State Fault Refusal := .next (s.recvRouted ftData p.val f)

/-- RELEASE (R387). -/
def execRelease (p : Fin 24) (f : Flit) (s : State) : Host.Outcome State Fault Refusal := .next (s.recvRouted ftRelease p.val f)

/-- NOTICE (R404). -/
def execNotice (p : Fin 24) (f : Flit) (s : State) : Host.Outcome State Fault Refusal := .next (s.recvRouted ftNotice p.val f)

/-- A cumulative acknowledgement frees the flits of a pair up to it. -/
def State.takeE2eAck (s : State) (f : Flit) : State :=
  let d := f.src.toNat
  let x := s.pairOut d
  let covered (g : Flit) : Bool := decide ((f.eseq.toNat + 2 ^ 32 - g.eseq.toNat) % 2 ^ 32 < 2 ^ 31)
  let left := x.held.filter (fun g => !covered g)
  s.setPairOut d { x with held := left, retries := if left.length < x.held.length then 0 else x.retries }

/-- E2E_ACK (R385). -/
def execE2eAck (p : Fin 24) (f : Flit) (s : State) : Host.Outcome State Fault Refusal :=
  let r := s.hopReceive ftE2eAck p.val f
  if r.2 then
    let q := r.1.routeIn f
    .next (if q.2 then q.1.takeE2eAck f else q.1)
  else .next r.1

/-- Counts a replay of a port; more than 1,000 within 1 s are logged, with the first lane of the port (DESIGN CHOICE, log entry 20: R376 has a lane
there, and the cause names a port). -/
def State.countReplay (s : State) (p : Nat) : State :=
  let s1 := s.bump lnkReplay 1
  let span := 100000000 / max 1 s1.turn.ticks
  let l := ((SMap.get [] s1.links.replays p).filter (fun t => decide (s1.turn.ord < t + span))) ++ [s1.turn.ord]
  let put (x : List Nat) : State := { s1 with links := { s1.links with replays := SMap.set [] s1.links.replays p x } }
  if 1000 < l.length then (put []).log .linkReplay { inst := laneOf p 0 } else put l

/-- LINK_ACK (R380): a negative acknowledgement replays the retry buffer from the failed flit on. -/
def execLinkAck (p : Fin 24) (f : Flit) (s : State) : Host.Outcome State Fault Refusal :=
  let r := s.hopReceive ftLinkAck p.val f
  if r.2 && decide (fieldAt f.payload 0 1 = 1)
      && (r.1.port p.val).retry.any (fun g => decide (g.lseq.toNat = fieldAt f.payload 1 2)) then .next (r.1.countReplay p.val)
  else .next r.1

/-- IDLE (R381). -/
def execIdle (p : Fin 24) (f : Flit) (s : State) : Host.Outcome State Fault Refusal := .next (s.hopReceive 0 p.val f).1

/-- PEER (R398): the peer found; the port becomes active, and a new boot of the peer starts the pair again. -/
def State.takePeer (s : State) (p : Nat) (f : Flit) : State :=
  let b := f.payload
  let chip := fieldAt b 0 2
  let boot := fieldAt b 3 8
  let x := s.port p
  let s1 := s.setPort p { x with
    found := some (chip, fieldAt b 2 1, decide (sliceBytes b 11 32 = s.sysdig))
    state := if x.state = 5 then 6 else x.state }
  let y := s1.pairIn chip
  let s2 := if y.boot < boot then
      { (s1.setPairIn chip { boot := boot }) with links := { (s1.setPairIn chip { boot := boot }).links with
        outs := if y.boot = 0 then s1.links.outs else SMap.set {} s1.links.outs chip {} } }
    else s1
  s2.sendWaiting

/-- PEER (R398, R404). -/
def execPeer (p : Fin 24) (f : Flit) (s : State) : Host.Outcome State Fault Refusal :=
  let r := s.hopReceive ftPeer p.val f
  .next (if r.2 then r.1.takePeer p.val f else r.1)

/-! ### Turn alignment (R394 to R397) -/

/-- Largest correction per turn, in reference ticks. -/
def State.syncLimit (s : State) : Nat := max 2 (s.fld hstTurnTicks / 5000)

/-- A valid sync with phase error `e`. -/
def State.takePhase (s : State) (e : Int) : State :=
  let lim : Int := s.syncLimit
  let y := s.links.sync
  let s1 := { s with links := { s.links with sync := { y with
    seen := true
    overLim := if lim < e ∨ e < -lim then y.overLim + 1 else 0
    correction := if s.flag lnkSyncLost then 0 else max (-lim) (min lim e) } } }
  s1.setFld lnkSyncErr (BitVec.ofInt 16 e).toNat

/-- TURN_SYNC_PULSE (R395; 19 R506): a pulse that comes too early is ignored. -/
def execTurnSyncPulse (sinceLast : Nat) (err : Int) (s : State) : Host.Outcome State Fault Refusal :=
  if s.isReady && s.follows && decide (s.hbm.layout.syncMode = 1) then
    if s.flag (pinRateEn 2) && decide (sinceLast < s.fld hstTurnTicks - 2 * s.syncLimit) then .next s
    else .next (s.takePhase err)
  else .next s

/-- A SYNC flit: the system turn, the master, and in link mode the phase; it is passed on. -/
def State.takeSync (s : State) (f : Flit) (err : Int) : State :=
  let b := f.payload
  let m := fieldAt b 12 2
  let t := s.links.topo
  if m ≠ t.master ∧ m ≠ t.backup then s
  else if s.links.sync.master = t.backup ∧ m = t.master ∧ t.master ≠ t.backup then s
  else
    let s1 := { s with links := { s.links with sync := { s.links.sync with known := true, masterSturn := fieldAt b 0 8, master := m } } }
    let s2 := s1.setFlag lnkMaster (decide (m = t.self))
    let s3 := if s2.follows && decide (s2.hbm.layout.syncMode = 2) then s2.takePhase err else s2
    s3.sendSync m (fieldAt b 0 8) (fieldAt b 8 4)

/-- SYNC (R394, R395). -/
def execSync (p : Fin 24) (f : Flit) (err : Int) (s : State) : Host.Outcome State Fault Refusal :=
  let r := s.hopReceive ftSync p.val f
  .next (if r.2 then r.1.takeSync f err else r.1)

/-- SYNC_LOST (R396): three turns without a valid sync, or over the correction limit; the chip runs free. -/
def execSyncLost (s : State) : Host.Outcome State Fault Refusal :=
  let y := s.links.sync
  if s.isReady && s.follows && !(s.flag lnkSyncLost) && (decide (3 ≤ y.missed) || decide (3 ≤ y.overLim)) then
    let s1 := { s with links := { s.links with sync := { y with good := 0, lostTurns := 0, correction := 0 } } }
    .next (((s1.setFlag lnkSyncLost true).log .syncLost {}).pinEvent 2 4 s.freeTick)
  else .next s

/-- RESYNC (R396): after three turns of valid sync the next turn realigns by the phase error. -/
def execResync (err : Nat) (s : State) : Host.Outcome State Fault Refusal :=
  let y := s.links.sync
  if s.isReady && s.flag lnkSyncLost && decide (3 ≤ y.good) && decide (err < s.fld hstTurnTicks) then
    .next { s with links := { s.links with sync := { y with realign := some err } } }
  else .next s

/-- BACKUP_MASTER_TAKEOVER (R397): after ten turns in SYNC_LOST the backup becomes turn master. -/
def execBackupMasterTakeover (s : State) : Host.Outcome State Fault Refusal :=
  let y := s.links.sync
  let t := s.links.topo
  if s.isReady && s.flag lnkSyncLost && decide (t.backup = t.self) && decide (y.master ≠ t.self) && decide (10 ≤ y.lostTurns) then
    let s1 := { s with links := { s.links with sync := { y with master := t.self, lostTurns := 0 } } }
    .next ((s1.setFlag lnkMaster true).setFlag lnkSyncLost false)
  else .next s

/-! ### Timers, lanes, ports and routes (R384, R385, R393, R398 to R400, R404) -/

/-- E2E_TIMEOUT (R385): the oldest unacknowledged flit of the pair is sent again. -/
def execE2eTimeout (dst : BitVec 12) (s : State) : Host.Outcome State Fault Refusal :=
  let x := s.pairOut dst.toNat
  match x.held with
  | [] => .next s
  | f :: _ => .next (((s.setPairOut dst.toNat { x with retries := x.retries + 1 }).bump lnkE2eRetx 1).sendRoute f)

/-- The ports that the topology expects to lead to a chip. -/
def Topology.portsTo (t : Topology) (c : Nat) : List Nat :=
  (List.range 24).filter (fun p => decide ((t.ports.getD p (0, 0, 0)).1 = c) && decide ((t.ports.getD p (0, 0, 0)).2.2 ≠ 0))

/-- PORT_DOWN_NOTICE (R404): every port to a neighbour has been down for 10 us; NOTICE flits go out for it. -/
def execPortDownNotice (p : Fin 24) (s : State) : Host.Outcome State Fault Refusal :=
  let t := s.links.topo
  let e := t.ports.getD p.val (0, 0, 0)
  if decide (e.2.2 ≠ 0) && (s.upOf (t.portsTo e.1)).isEmpty then
    let others := (List.range t.size).filter (fun c => decide (c ≠ t.self) && decide (c ≠ e.1))
    .next (others.foldl (fun u c => u.sendPair c ftNotice 0 (noticeReset e.1)) (s.chipReset e.1))
  else .next s

/-- LANE_SPARED (R399, R400). -/
def execLaneSpared (lane : Fin 104) (s : State) : Host.Outcome State Fault Refusal :=
  match s.portWith lane.val with
  | some p => .next (s.spareLaneIn p lane.val false)
  | none => .next s

/-- ROUTE_LOST (R393): a route that stayed down for LINK_HOLD turns; the words held for the destination are abandoned. -/
def execRouteLost (dst : BitVec 12) (s : State) : Host.Outcome State Fault Refusal :=
  let d := dst.toNat
  let x := s.pairOut d
  if x.held.isEmpty ∨ (s.routePort s.links.topo.self d).isSome then .next s
  else
    let hit (w : Work) : Bool := w.interrupted && heldFor w.fn w.ring w.seq false x.held
    let s1 := { s with works := s.works.map (fun (w : Work) => if hit w then { w with result := some stRouteLost, copies := [] } else w) }
    let s2 := s1.setPairOut d { x with held := [], retries := 0 }
    let s3 := { s2 with links := { s2.links with waiting := s2.links.waiting.filter (fun f => decide (f.dst.toNat ≠ d)) } }
    .next ((s3.bump lnkRouteLoss 1).log .routeLost {})

/-- LINK_ORPHAN (R384): a due word that has waited LINK_HOLD turns, or whose paired work has been published, is discarded. -/
def execLinkOrphan (src : BitVec 12) (index : Nat) (s : State) : Host.Outcome State Fault Refusal :=
  let x := s.pairIn src.toNat
  match x.words[index]? with
  | none => .next s
  | some w =>
    let gone := (s.pairedWork w).isNone && (match SMap.get none s.rings w.ring with
      | some r => decide (w.seq ≤ r.cmp)
      | none => false)
    let waited := match w.due with
      | some m => decide (m + s.fld lnkLinkHold ≤ s.sturn)
      | none => false
    if gone || waited then
      .next (((s.setPairIn src.toNat { x with words := x.words.eraseIdx index }).bump lnkOrphan 1).log .linkOrphan
        { ring := w.ring, seq := w.seq, slice := w.slice, lcore := w.score })
    else .next s

/-- LINK_TRAIN_RETRY (R398): a lane that failed training carries flits, once it trains and its place is free. -/
def execLinkTrainRetry (lane : Fin 104) (result : TrainResult) (s : State) : Host.Outcome State Fault Refusal :=
  match result, lanePort lane.val with
  | .active, some p =>
    let x := s.port p
    if s.powered && !(x.lanes.contains lane.val) && !(s.links.deadLanes.contains lane.val) && decide (x.lanes.length < 4) then
      let fresh := x.lanes.isEmpty
      let s1 := s.setPort p { x with
        lanes := x.lanes ++ [lane.val]
        down := false
        state := if fresh then 5 else x.state
        txSeq := if fresh then 0 else x.txSeq
        rxSeq := if fresh then 0 else x.rxSeq
        retry := if fresh then [] else x.retry }
      .next (if fresh then s1.sendOn p (s1.peerFlit p) else s1)
    else .next s
  | _, _ => .next s

end Sys2Proof.Machine
end

