-- ==== Sys2Proof/Machine/RegAccess.lean ====
section
/-! DEFINITION. Reads of BAR0 (18 R472 to R477, R481, R482, R485 to R489, and the register tables of the other chapters): windows,
power domains, the value of every register, and the latch of a register pair. -/

namespace Sys2Proof.Machine

/-! ### Windows (R472 to R474) -/

/-- Where an access lands: the register's key in the PF's map, and the window. -/
inductive RegWindow where
  | normal | complement | set | clear | toggle | none
  deriving DecidableEq, Repr

/-- The register and window of an offset of function `f`'s BAR0; a VF's BAR0 is one HIF block. -/
def regTarget (f off : Nat) : Nat × RegWindow :=
  let at64 (base o : Nat) : Nat × RegWindow :=
    let r := o % 0x2000
    match o / 0x2000 with
    | 0 => (base + r, .normal)
    | 1 => (base + r, .complement)
    | 2 => (base + r, .set)
    | 4 => (base + r, .clear)
    | 6 => (base + r, .toggle)
    | _ => (base + r, .none)
  if f ≠ 0 then at64 hifBase (off % 0x10000)
  else if off < 0x100000 then at64 (off / 0x10000 * 0x10000) (off % 0x10000)
  else
    let base := off / 0x1000 * 0x1000
    let o := off % 0x1000
    match o / 0x400 with
    | 0 => (base + o % 0x400, .normal)
    | 1 => (base + o % 0x400, .set)
    | 2 => (base + o % 0x400, .clear)
    | _ => (base + o % 0x400, .toggle)

/-- Whether an offset lies in function `f`'s BAR0. -/
def inBar (f off : Nat) : Bool := decide (f = 0) || decide (off < 0x10000)

/-- Whether the register's domain is powered (R472, R482): DOMAINS bits, and the windows of retired cores, where CORE_STATE answers at
all times. -/
def State.domainOn (s : State) (key : Nat) : Bool :=
  let bit (i : Nat) : Bool := bitAt (s.fld devDomains) i
  match key / 0x10000 with
  | 0x0 => true
  | 0x1 => bit 2
  | 0x2 => bit 3
  | 0x3 => bit 1
  | 0x4 => true
  | 0x5 => bit 1
  | 0x6 => true
  | 0x7 => bit 1
  | 0x8 => bit 1
  | 0x9 => bit 3
  | 0xA => if 0xA0400 ≤ key ∧ key < 0xA0460 then bit (if key < 0xA0430 then 4 else 5) else bit 1
  | 0xB => true
  | 0xC => true
  | _ =>
    if 0x100000 ≤ key ∧ key < 0x190000 then
      decide (key % 0x1000 = 0) || (bit 3 && decide (s.coreOut ((key - 0x100000) / 0x1000) = 0))
    else true

/-! ### Registers whose value the device computes -/

/-- Bits of `x` placed at `lsb`, held to `width` bits. -/
def fieldBits (lsb width x : Nat) : Nat := x % 2 ^ width * 2 ^ lsb

def boolNat (b : Bool) : Nat := if b then 1 else 0

/-- DEV 0x0004: GRADE, NCORE, INSERVICE. -/
def State.devPart (s : State) : Nat := boolNat s.nv.gradeB + fieldBits 1 8 s.gradeCores + fieldBits 9 8 s.inService.length

/-- HIF_STATUS of a function. -/
def State.hifStatus (s : State) (f : Nat) : Nat :=
  boolNat (s.isReady && s.fnActive f) + fieldBits 1 1 (boolNat (s.access.fallback.contains f))
    + fieldBits 2 1 (boolNat (s.access.d3hot.contains f)) + fieldBits 3 5 (s.fld hifLinkWidth) + fieldBits 8 4 (s.fld hifLinkGen)

/-- The key that KEYSEL selects: value, default, source and pending bit. -/
def State.keyView (s : State) (k : Nat) : Nat × Nat × Nat × Bool :=
  match keyFieldOf k with
  | some f =>
    let early := s.nv.early.contains k
    (s.effKey k, f.dflt, if early then 3 else (s.keySource k).2, f.late && s.isReady && decide (s.effKey k ≠ s.keyNow k))
  | none =>
    if k = 250 then
      (0, 0, (match s.activeSlot with
        | some x => if x.recs.any (fun r => decide (r.type = 0x32)) then 1 else 0
        | none => 0), false)
    else (0, 0, 4, false)

/-- NVI registers that show the selected key. -/
def State.nviKey (s : State) (off : Nat) : Nat :=
  let v := s.keyView (s.fld nviKeySel)
  match off with
  | 0x04 => v.1
  | 0x08 => v.2.1
  | 0x0C => v.2.2.1 + fieldBits 3 1 (boolNat v.2.2.2)
  | _ => nKeys

/-- SEC 0x0100. -/
def State.secStatus (s : State) : Nat :=
  s.fld secOwned + fieldBits 1 1 (s.fld secOsig) + fieldBits 2 1 (s.fld (pinLevel 4)) + fieldBits 3 9 (s.sec.slots.length)
    + fieldBits 12 13 (if s.owned then s.sec.sessions.length else 4096) + fieldBits 25 3 s.sec.sbSessions.length

/-- ERR 0x0100. -/
def State.errStatus (s : State) : Nat :=
  fieldBits 0 9 s.errs.queue.length + fieldBits 9 1 (boolNat s.recovering) + fieldBits 10 1 (s.fld errNvOne)

def State.laneFree (s : State) : Nat := 8 - s.links.spares.length
def State.chFree (s : State) : Nat :=
  ((List.range 8).filter (fun k => decide ((s.hbm.stack k).spareFor = 31) && (s.hbm.stack k).copying.isNone && !(s.hbm.stack k).lost)).length

/-- HBM 0x0100. -/
def State.hbmStatus (s : State) : Nat :=
  (if s.hbm.live then (List.range 8).foldl (fun a k => a + (if (s.hbm.stack k).lost then 0 else 2 ^ k)) 0 else 0)
    + (List.range 8).foldl (fun a k => a + (if (s.hbm.stack k).spareFor = 31 then 0 else 2 ^ (8 + k))) 0
    + fieldBits 16 1 (boolNat s.hbm.degraded.isSome) + fieldBits 17 1 (boolNat s.hbm.journalMove)

/-- HBM 0x0200 + 4k. -/
def State.hbmSpareReg (s : State) (k : Nat) : Nat :=
  let x := s.hbm.stack k
  fieldBits 0 5 x.sparePch + fieldBits 5 5 x.spareFor + fieldBits 10 1 (boolNat x.lost)

/-- LNK 0x0400 + 4p. -/
def State.portReg (s : State) (p : Nat) : Nat :=
  let x := s.port p
  fieldBits 0 3 x.lanes.length + fieldBits 3 4 x.state + fieldBits 7 1 (boolNat x.spareIn)

/-- The 16-byte entry of a port in the difference report (14 R403). -/
def State.portReport (s : State) (p : Nat) : List Byte :=
  let x := s.port p
  let e := s.links.topo.ports.getD p (0, 0, 0)
  let found := match x.found with
    | some f => (f.1, f.2.1)
    | none => (0xFFFF, 0xFF)
  le16 e.1 ++ [BitVec.ofNat 8 e.2.1, BitVec.ofNat 8 e.2.2] ++ le16 found.1
    ++ [BitVec.ofNat 8 found.2, BitVec.ofNat 8 x.lanes.length, BitVec.ofNat 8 (portCode s.links.topo p x)] ++ zeros 7

/-- The slice that a core runs, or the last that was placed on it this turn. -/
def State.placedOn (s : State) (c : Nat) : Option Placed :=
  match (s.core c).ctx.work with
  | some i => s.placedAt i
  | none => (s.turn.placed.filter (fun p => p.cores.contains c)).getLast?

/-- CORE_STATE (R489). -/
def State.coreStateReg (s : State) (c : Nat) : Nat :=
  let role := if s.coreOut c ≠ 0 then 2 else if s.withheldNow.contains c then 3 else if s.serviceSet.contains c then 0 else 1
  match s.placedOn c with
  | some p => role + fieldBits 2 8 (p.cores.idxOf c * (if p.fold2 then 2 else 1)) + fieldBits 10 1 (boolNat (s.anyPinned c))
      + fieldBits 11 1 (boolNat p.fold2)
  | none => role + fieldBits 2 8 0xFF + fieldBits 10 1 (boolNat (s.anyPinned c))

/-- The thirteen counters of a core's window. -/
def Core.windowCounts (k : Core) : List (BitVec 32) :=
  (List.range 8).map (fun i => SMap.get 0 k.counts.stalls i)
    ++ [k.counts.cmemCe, k.counts.chuckCe, k.counts.profCe, k.counts.rearmReplaced, k.counts.feedSat]

/-- A counter of a core's window as it reads: CNT_FREEZE holds a snapshot. -/
def State.coreCounter (s : State) (c i : Nat) : Nat :=
  let live := (s.core c).windowCounts
  let shown := if s.flag (coreCntFreeze c) then SMap.get live s.access.frozen c else live
  (shown.getD i 0).toNat

def wordOf (b : List Byte) (i : Nat) : Nat := fieldAt b (4 * i) 4

/-- What the register at `key` reads as, for requester `rid` and function `f`. -/
def State.regValue (s : State) (rid f key : Nat) : BitVec 32 :=
  let own : BitVec 32 :=
    if f ≠ 0 then (if (hifCommon.any (fun g => decide (g.off = key))) then s.reg (barOf f + (key - hifBase)) else 0)
    else s.reg key
  let w (x : Nat) : BitVec 32 := BitVec.ofNat 32 x
  if key = 0x10100 then w (s.hifStatus f)
  else if f ≠ 0 then own
  else
    match key / 0x10000 with
    | 0x0 =>
      if key = 0x0004 then w s.devPart
      else if key = 0x0100 then
        w (own.toNat % 8 + fieldBits 3 1 (boolNat (s.access.guards.any (fun g => decide (g.rid = rid) && decide (g.fn = f))))
          + fieldBits 4 1 (s.fld nviReady))
      else own
    | 0x2 =>
      if key = 0x20100 then
        w (s.turn.point + fieldBits 3 3 s.turn.nextPoint + fieldBits 6 1 (s.fld hstEngine) + fieldBits 7 1 (boolNat s.turn.stretched))
      else if key = 0x20104 then w s.turn.number
      else if key = 0x20108 then w (s.turn.number / 2 ^ 32)
      else own
    | 0x4 => if 0x40004 ≤ key ∧ key ≤ 0x40010 then w (s.nviKey (key - 0x40000)) else if key = 0x40020 then 0 else own
    | 0x5 =>
      if key = 0x50100 then w s.secStatus
      else if key = 0x50104 then w (wordOf (Config.partDigest 0) 0)
      else if key = 0x50108 then w (wordOf (Config.partDigest 0) 1)
      else own
    | 0x6 => if key = 0x60100 then w s.errStatus else if key = 0x60004 then 0 else own
    | 0x7 =>
      if 0x70200 ≤ key ∧ key < 0x70240 then w (wordOf s.audit.last ((key - 0x70200) / 4))
      else if key = 0x70008 then 0
      else own
    | 0x8 =>
      if key = 0x80108 then
        w (own.toNat + fieldBits 2 6 s.coreFree + fieldBits 8 4 s.laneFree + fieldBits 12 4 s.chFree)
      else if 0x80200 ≤ key ∧ key < 0x80440 then
        w (own.toNat % 256 + fieldBits 8 1 (boolNat (decide (s.coreOut ((key - 0x80200) / 4) ≠ 0))))
      else if key = 0x80008 then 0
      else own
    | 0x9 =>
      if key = 0x90100 then w s.hbmStatus
      else if key = 0x90104 then w s.hbm.badSectors.length
      else if 0x90200 ≤ key ∧ key < 0x90220 then w (s.hbmSpareReg ((key - 0x90200) / 4))
      else own
    | 0xA =>
      if 0xA0400 ≤ key ∧ key < 0xA0460 then w (s.portReg ((key - 0xA0400) / 4))
      else if 0xA0800 ≤ key ∧ key < 0xA0980 then
        w (wordOf (s.portReport ((key - 0xA0800) / 16)) ((key - 0xA0800) % 16 / 4))
      else own
    | _ =>
      if 0x100000 ≤ key ∧ key < 0x190000 then
        let c := (key - 0x100000) / 0x1000
        let o := key % 0x1000
        if o = 0 then w (s.coreStateReg c)
        else if 0x10 ≤ o ∧ o < 0x44 then w (s.coreCounter c ((o - 0x10) / 4))
        else own
      else own

/-! ### Reads (R475, R477, R482) -/

/-- The LO registers of register pairs; each HI register is the next. -/
def loRegs : List Nat :=
  [0x10010, 0x10018, 0x10020, 0x10028, 0x20104, 0x40104, 0x50104, 0x70104, 0x7010C, 0x70180, 0x7018C, 0xA0204]

def latchKey (rid f key : Nat) : Nat := rid * 2 ^ 34 + fnReg f key

/-- A 4-byte read through a window: the state after it, and the value. -/
def State.read4 (s : State) (rid f off : Nat) : State × BitVec 32 :=
  let t := regTarget f off
  let key := t.1
  match t.2 with
  | .complement => (s, 0)
  | .none => (s, 0)
  | _ =>
    if !(s.domainOn key) then (s.setFlag devDomainOff true, 0xFFFFFFFF)
    else if loRegs.contains key then
      ({ s with access := { s.access with
          latches := SMap.set none s.access.latches (latchKey rid f (key + 4)) (some (s.regValue rid f (key + 4))) } },
        s.regValue rid f key)
    else (s, (SMap.get none s.access.latches (latchKey rid f key)).getD (s.regValue rid f key))

/-- An 8-byte read: both registers at once, with no latch. -/
def State.read8 (s : State) (rid f off : Nat) : State × Nat :=
  let one (o : Nat) : Bool × BitVec 32 :=
    let t := regTarget f o
    match t.2 with
    | .complement => (true, 0)
    | .none => (true, 0)
    | _ => if s.domainOn t.1 then (true, s.regValue rid f t.1) else (false, 0xFFFFFFFF)
  let a := one off
  let b := one (off + 4)
  (if a.1 && b.1 then s else s.setFlag devDomainOff true, a.2.toNat + 2 ^ 32 * b.2.toNat)

/-- Whether host requests reach the part: its H-die is up and its configuration space ready. -/
def State.hostPath (s : State) : Bool := s.powered && s.power.configReady

/-- A host read of `size` bytes. -/
def State.hostReadReg (s : State) (rid f off size : Nat) : State :=
  let put (t : State) (r : Reply) : State := { t with reply := r }
  if !s.hostPath then put s .silent
  else if !(inBar f off) ∨ !(size = 4 ∨ size = 8) ∨ off % size ≠ 0 then put s .unsupported
  else if size = 4 then
    let r := s.read4 rid f off
    put r.1 (.value r.2.toNat 4)
  else
    let r := s.read8 rid f off
    put r.1 (.value r.2 8)

/-- REG_READ (R475, R477, R482). -/
def execRegRead (rid : BitVec 16) (f : Fin 64) (off : BitVec 25) (size : BitVec 4) (s : State) : Host.Outcome State Fault Refusal :=
  .next (s.hostReadReg rid.toNat f.val off.toNat size.toNat)

/-- LO_READ_LATCH (R477): a 4-byte read; of an _LO register it latches the _HI register for the requester. -/
def execLoReadLatch (rid : BitVec 16) (f : Fin 64) (off : BitVec 25) (s : State) : Host.Outcome State Fault Refusal :=
  .next (s.hostReadReg rid.toNat f.val off.toNat 4)

end Sys2Proof.Machine
end

