-- ==== Sys2Proof/Machine/RegWrites.lean ====
section
/-! DEFINITION. Writes of BAR0 (18 R473 to R480, R482, R483; 15 R420; 11 R293, R304, R318; 12 R332; 13 R350, R356, R374; 15 R425; 17 R462;
18 R489): windows, access codes, the guarded sequence, and what the fields with an effect of their own do. -/

namespace Sys2Proof.Machine

/-- What a write brings beside its value, where it resets the part or measures the bank. -/
structure WriteWith where
  bring : Option BringUpIn := none
  bank : Option (Nat × Nat × Nat) := none

/-! ### Guard failures (R480) -/

def State.guardFail (s : State) (why off rid f : Nat) : State :=
  ((((((s.setFlag devGuardFail true).bump devGuardFails 1).setFld devGuardOff off).setFld devGuardRid rid).setFld devGuardWhy why).setFld
    devGuardFn f)

def State.guardOf (s : State) (rid f : Nat) : Option Guard := s.access.guards.find? (fun g => decide (g.rid = rid) && decide (g.fn = f))

def State.dropGuard (s : State) (rid f : Nat) : State :=
  { s with access := { s.access with guards := s.access.guards.filter (fun g => !(decide (g.rid = rid) && decide (g.fn = f))) } }

def State.badWrite (s : State) : State := (s.setFlag devBadWrite true).bump devBadWrites 1

/-- One further write of a requester to a function: the sixteenth without the complement discards the pending value. -/
def State.countWrite (s : State) (rid f : Nat) : State :=
  match s.guardOf rid f with
  | none => s
  | some g =>
    if g.left ≤ 1 then (s.dropGuard rid f).guardFail 2 g.off rid f
    else
      { s with access := { s.access with guards := s.access.guards.map (fun x =>
        if x.rid = rid ∧ x.fn = f then { x with left := x.left - 1 } else x) } }

/-! ### Fields -/

/-- The fields of a register of function `f`, by the PF's key. -/
def fieldsOf (f key : Nat) : List RegField := if f = 0 then regFields key else hifCommon.filter (fun g => decide (g.off = key))

def guardedReg (f key : Nat) : Bool := (fieldsOf f key).any (fun g => decide (g.acc = .rwg))

def State.fnFld (s : State) (f : Nat) (g : RegField) : Nat := if f = 0 then s.fld g else s.hif f g
def State.setFnFld (s : State) (f : Nat) (g : RegField) (x : Nat) : State := if f = 0 then s.setFld g x else s.setHif f g x

/-- Whether the device has been ready since the last cold reset (15 R420). -/
def State.afterReady (s : State) : Bool := decide (s.power.state = .ready) || decide (s.power.state = .warm)

/-- A key takes a register write made before ready. -/
def State.noteEarly (s : State) (g : RegField) : State :=
  match g.key with
  | some k => { s with nv := { s.nv with early := insertOnce k s.nv.early } }
  | none => s

/-- ENABLE of a function (11 R318; 13 R356): set, the ring engine takes the function up at the next head. -/
def State.setEnable (s : State) (f : Nat) (on : Bool) : State :=
  let was := s.hif f hifEnable
  let s1 := s.setHif f hifEnable (boolNat on)
  if on && decide (was = 0) then
    { s1 with access := { s1.access with
      starting := insertOnce f s1.access.starting
      discardAt := if s1.power.recover.contains f && s1.flag errDiscard then insertOnce f s1.access.discardAt else s1.access.discardAt } }
  else s1

/-- CNT_FREEZE of a core (R489): set, its counters read as a snapshot. -/
def State.setFreeze (s : State) (c : Nat) (on : Bool) : State :=
  let was := s.flag (coreCntFreeze c)
  let s1 := s.setFlag (coreCntFreeze c) on
  if on && !was then { s1 with access := { s1.access with frozen := SMap.set [] s1.access.frozen c (s1.core c).windowCounts } }
  else if on then s1
  else { s1 with access := { s1.access with frozen := SMap.set [] s1.access.frozen c [] } }

/-- One RW field of a register without a guard takes a value; out of its range it keeps its own (R476), and a weight of 0 stores 1
(10 R287). -/
def State.putRw (s : State) (f : Nat) (g : RegField) (x : Nat) : State :=
  if g = hifEnable then s.setEnable f (decide (x = 1))
  else if 0x100000 ≤ g.off then s.setFreeze ((g.off - 0x100000) / 0x1000) (decide (x = 1))
  else if g.off = 0x2000C ∨ g.off = 0x20010 then (s.setFnFld f g (max 1 x)).noteEarly g
  else if fieldOk g x then (s.setFnFld f g x).noteEarly g
  else s.badWrite

/-- The RW fields of a register without a guard take a value. After ready a keyed field keeps its own, and KEY_DROP counts the write. -/
def State.putRwAll (s : State) (f key v : Nat) : State :=
  let rw := (fieldsOf f key).filter (fun g => decide (g.acc = .rw))
  if s.afterReady && rw.any (fun g => g.key.isSome) then s.bump nviKeyDrop 1
  else rw.foldl (fun t g => t.putRw f g (bitField v g.lsb g.width)) s

/-! ### Fields that act (WO) -/

/-- A bank measurement that the host asks for without naming its outcome is free. -/
def State.freeBank (s : State) : Nat × Nat × Nat :=
  (Config.freeNat 60 s.freeCtr 0, Config.freeNat 60 s.freeCtr 1, Config.freeNat 60 s.freeCtr 2 % 65536)

/-- ERR_RESET.REQ (13 R350, R374). -/
def State.requestReset (s : State) (req : Nat) (o : WriteWith) : State :=
  if req = 1 then (if s.power.state = .ready ∨ s.power.state = .notReady then s.warmReset else s)
  else if req = 2 then
    (if s.powered then s.coldReset (o.bring.getD { s.power.bringUp with stackFails := [], coreFails := [], rowRepairs := [] }) else s)
  else s

/-- A write of a WO field. -/
def State.actWo (s : State) (key v : Nat) (o : WriteWith) : State :=
  if key = 0x60004 then s.requestReset (v % 4) o
  else if v % 2 = 0 then s
  else if key = 0x40020 then
    let m := o.bank.getD s.freeBank
    s.tickFree.measureBank m.1 m.2.1 m.2.2
  else if key = 0x70008 then { s with audit := { s.audit with reasons := s.audit.reasons ++ [2] } }
  else if key = 0x80008 then { s with witness := { s.witness with request := true } }
  else s

/-! ### The guarded sequence (R478 to R480) -/

/-- Whether the field's row forbids the write in the present state: a table base with ENABLE set, a VF's range with VF Enable set. -/
def State.forbidden (s : State) (f key : Nat) : Bool :=
  (decide (0x10010 ≤ key) && decide (key ≤ 0x1002C) && decide (s.hif f hifEnable = 1))
    || (decide (0x10204 ≤ key) && decide (key ≤ 0x102FC) && s.access.vfEnable)

/-- The value that a key has with the register at `key` written `v`. -/
def State.keyWith (s : State) (key v k : Nat) : Nat :=
  match keyFieldOf k with
  | some g => if g.off = key then bitField v g.lsb g.width else s.effKey k
  | none => 0

/-- Why a committed value is discarded: 5 range or joint rule, 6 a guarded keyed field changed after ready, 0 another keyed field
changed, 7 forbidden. -/
def State.commitFault (s : State) (f key v : Nat) : Option Nat :=
  let fs := (fieldsOf f key).filter (fun g => decide (g.acc = .rw) || decide (g.acc = .rwg))
  let new (g : RegField) : Nat := bitField v g.lsb g.width
  let changed := fs.filter (fun g => g.key.isSome && decide (new g ≠ s.fnFld f g))
  if fs.any (fun g => !(fieldOk g (new g))) then some 5
  else if fs.any (fun g => g.key.isSome) && !(jointOk (s.keyWith key v)) then some 5
  else if s.afterReady && changed.any (fun g => decide (g.acc = .rwg)) then some 6
  else if s.afterReady && !changed.isEmpty then some 0
  else if s.forbidden f key then some 7
  else none

/-- A committed value reaches its register; a write of DBMODE ends doorbell fallback (11 R304), and a change of VF ranges ends the sessions
of the groups that it moves (16 R442). -/
def State.putGuarded (s : State) (f key v : Nat) : State :=
  let fs := (fieldsOf f key).filter (fun g => decide (g.acc = .rw) || decide (g.acc = .rwg))
  let s1 := fs.foldl (fun t g =>
    let u := t.setFnFld f g (bitField v g.lsb g.width)
    if s.afterReady then u else u.noteEarly g) s
  let s1 := s1.endSessions (fun n _ => decide (s1.ringOwner (16 * n) ≠ s.ringOwner (16 * n)))
  if key = hifDbmode.off then { s1 with access := { s1.access with fallback := [] } } else s1

/-- Commits or discards a pending value. -/
def State.commitGuard (s : State) (rid f : Nat) (g : Guard) : State :=
  let s1 := s.dropGuard rid f
  let key := (regTarget f g.off).1
  match s1.commitFault f key g.value.toNat with
  | none => s1.putGuarded f key g.value.toNat
  | some 0 => s1.bump nviKeyDrop 1
  | some why => s1.guardFail why g.off rid f

/-- A write in the complement port. -/
def State.complementWrite (s : State) (rid f off : Nat) (v : BitVec 32) : State :=
  match s.guardOf rid f with
  | none => s.guardFail 4 off rid f
  | some g =>
    if off = g.off + 0x2000 ∧ v = ~~~g.value then s.commitGuard rid f g
    else (s.dropGuard rid f).guardFail 1 g.off rid f

/-- A first write of a guarded register. -/
def State.stageGuard (s : State) (rid f off : Nat) (v : BitVec 32) : State :=
  let s1 := match s.guardOf rid f with
    | some g => (s.dropGuard rid f).guardFail 3 g.off rid f
    | none => s
  { s1 with access := { s1.access with guards := s1.access.guards ++ [⟨rid, f, off, v, 16⟩] } }

/-! ### A write -/

/-- A normal write of a register without a guard. -/
def State.plainWrite (s : State) (f key : Nat) (v : BitVec 32) (o : WriteWith) : State :=
  let s1 := s.putRwAll f key v.toNat
  let fs := fieldsOf f key
  let s2 := (fs.filter (fun g => decide (g.acc = .w1c))).foldl (fun t g =>
    if bitField v.toNat g.lsb g.width = 0 then t else t.setFld g 0) s1
  if fs.any (fun g => decide (g.acc = .wo)) then s2.actWo key v.toNat o else s2

/-- The value that an alias write gives a register. -/
def aliasValue (w : RegWindow) (old v : BitVec 32) : BitVec 32 :=
  match w with
  | .set => old ||| v
  | .clear => old &&& ~~~v
  | _ => old ^^^ v

/-- Whether a write may be the second of a guarded sequence: it lands in the complement port of a powered block. -/
def State.isComplement (s : State) (f off : Nat) : Bool :=
  match (regTarget f off).2 with
  | .complement => s.domainOn (regTarget f off).1
  | _ => false

/-- What a write does once it has been counted. -/
def State.landWrite (s : State) (rid f off : Nat) (v : BitVec 32) (o : WriteWith) : State :=
  let t := regTarget f off
  if t.2 = .none then s
  else if !(s.domainOn t.1) then (s.setFlag devDomainOff true).bump devDomainDrops 1
  else
    match t.2 with
    | .normal => if guardedReg f t.1 then s.stageGuard rid f off v else s.plainWrite f t.1 v o
    | .complement => s.complementWrite rid f off v
    | w => if guardedReg f t.1 then s.guardFail 8 off rid f else s.putRwAll f t.1 (aliasValue w (s.regValue rid f t.1) v).toNat

/-- A write of requester `rid` at offset `off` of function `f`'s BAR0; `whole` says that it is of 4 aligned bytes, all enabled. -/
def State.busWrite (s : State) (rid f off : Nat) (v : BitVec 32) (whole : Bool) (o : WriteWith) : State :=
  if !whole ∨ off % 4 ≠ 0 then (s.countWrite rid f).badWrite
  else if s.isComplement f off then s.complementWrite rid f off v
  else (s.countWrite rid f).landWrite rid f off v o

/-- A write by the host. -/
def State.hostWriteReg (s : State) (rid : BitVec 16) (f : Fin 64) (off : Nat) (v : BitVec 32) (whole : Bool) (o : WriteWith) : State :=
  if s.hostPath && inBar f.val off then s.busWrite rid.toNat f.val off v whole o else s

/-! ### The commands -/

/-- REG_WRITE (R475, R476). -/
def execRegWrite (rid : BitVec 16) (f : Fin 64) (off : BitVec 25) (v : BitVec 32) (whole : Bool) (s : State) :
    Host.Outcome State Fault Refusal :=
  .next (s.hostWriteReg rid f off.toNat v whole {})

/-- GUARDED_WRITE_STAGE (R478). -/
def execGuardedWriteStage (rid : BitVec 16) (f : Fin 64) (off : BitVec 25) (v : BitVec 32) (s : State) :
    Host.Outcome State Fault Refusal :=
  .next (s.hostWriteReg rid f off.toNat v true {})

/-- GUARDED_WRITE_COMMIT (R478): the write of the complement, at the complement port. -/
def execGuardedWriteCommit (rid : BitVec 16) (f : Fin 64) (off : BitVec 25) (v : BitVec 32) (s : State) :
    Host.Outcome State Fault Refusal :=
  .next (s.hostWriteReg rid f off.toNat v true {})

/-- GUARD_EXPIRE (R480): a further write of the requester; the sixteenth discards the pending value. -/
def execGuardExpire (rid : BitVec 16) (f : Fin 64) (off : BitVec 25) (v : BitVec 32) (s : State) : Host.Outcome State Fault Refusal :=
  .next (s.hostWriteReg rid f off.toNat v true {})

/-- SET_ALIAS_WRITE (R473). -/
def execSetAliasWrite (rid : BitVec 16) (f : Fin 64) (off : BitVec 25) (v : BitVec 32) (s : State) : Host.Outcome State Fault Refusal :=
  .next (s.hostWriteReg rid f off.toNat v true {})

/-- CLEAR_ALIAS_WRITE (R473). -/
def execClearAliasWrite (rid : BitVec 16) (f : Fin 64) (off : BitVec 25) (v : BitVec 32) (s : State) :
    Host.Outcome State Fault Refusal :=
  .next (s.hostWriteReg rid f off.toNat v true {})

/-- TOGGLE_ALIAS_WRITE (R473). -/
def execToggleAliasWrite (rid : BitVec 16) (f : Fin 64) (off : BitVec 25) (v : BitVec 32) (s : State) :
    Host.Outcome State Fault Refusal :=
  .next (s.hostWriteReg rid f off.toNat v true {})

/-- W1C_WRITE (R476). -/
def execW1cWrite (rid : BitVec 16) (f : Fin 64) (off : BitVec 25) (v : BitVec 32) (s : State) : Host.Outcome State Fault Refusal :=
  .next (s.hostWriteReg rid f off.toNat v true {})

/-- The offset of HIF_CTRL in a function's BAR0. -/
def enableOff (f : Fin 64) : Nat := if f.val = 0 then 0x10000 else 0

/-- HIF_ENABLE_SET (11 R318). -/
def execHifEnableSet (rid : BitVec 16) (f : Fin 64) (s : State) : Host.Outcome State Fault Refusal :=
  .next (s.hostWriteReg rid f (enableOff f) 1 true {})

/-- HIF_ENABLE_CLEAR (11 R318). -/
def execHifEnableClear (rid : BitVec 16) (f : Fin 64) (s : State) : Host.Outcome State Fault Refusal :=
  .next (s.hostWriteReg rid f (enableOff f) 0 true {})

/-- DBMODE_WRITE (11 R304): the write that commits value `v` of the register that holds DBMODE. -/
def execDbmodeWrite (rid : BitVec 16) (v : BitVec 32) (s : State) : Host.Outcome State Fault Refusal :=
  .next (s.hostWriteReg rid 0 0x12004 (~~~v) true {})

/-- SEAL_NOW (12 R332). -/
def execSealNow (rid : BitVec 16) (s : State) : Host.Outcome State Fault Refusal :=
  .next (s.hostWriteReg rid 0 0x70008 1 true {})

/-- MEASURE (15 R425). -/
def execMeasure (rid : BitVec 16) (dropMv stepMv : Nat) (volt : BitVec 16) (s : State) : Host.Outcome State Fault Refusal :=
  .next (s.hostWriteReg rid 0 0x40020 1 true { bank := some (dropMv, stepMv, volt.toNat) })

/-- WINDOW_NOW (17 R462). -/
def execWindowNow (rid : BitVec 16) (s : State) : Host.Outcome State Fault Refusal :=
  .next (s.hostWriteReg rid 0 0x80008 1 true {})

/-- CNT_FREEZE (R489). -/
def execCntFreeze (rid : BitVec 16) (c : Fin 144) (on : Bool) (s : State) : Host.Outcome State Fault Refusal :=
  .next (s.hostWriteReg rid 0 (coreWindow c.val + 4) (if on then 1 else 0) true {})

/-- ERR_RESET_WARM (13 R350, R374). -/
def execErrResetWarm (rid : BitVec 16) (s : State) : Host.Outcome State Fault Refusal :=
  .next (s.hostWriteReg rid 0 0x60004 1 true {})

/-- ERR_RESET_COLD (13 R350, R374). -/
def execErrResetCold (rid : BitVec 16) (b : BringUpIn) (s : State) : Host.Outcome State Fault Refusal :=
  .next (s.hostWriteReg rid 0 0x60004 2 true { bring := some b })

end Sys2Proof.Machine
end

