-- ==== Sys2Proof/Machine/HostResets.lean ====
section
/-! DEFINITION. Resets, power states and link events of the PCIe interface (11 R289, R291, R316, R320; 13 R350, R357, R360; 15 R408). -/

namespace Sys2Proof.Machine

/-- Widths and generations that the link trains to (R289). -/
def linkShape (width gen : Nat) : Bool := [1, 2, 4, 8, 16].contains width && decide (1 ≤ gen) && decide (gen ≤ 7)

/-- PCIE_HOT_RESET (R291). -/
def execPcieHotReset (s : State) : Host.Outcome State Fault Refusal := .next s.hostReset

/-- PCIE_LINK_DOWN (R291). -/
def execPcieLinkDown (s : State) : Host.Outcome State Fault Refusal := .next (s.setLink 0 0).hostReset

/-- PCIE_LINK_UP (R289). -/
def execPcieLinkUp (width : BitVec 5) (gen : BitVec 4) (s : State) : Host.Outcome State Fault Refusal :=
  if s.hostPath && linkShape width.toNat gen.toNat then .next (s.setLink width.toNat gen.toNat) else .next s

/-- LINK_NARROW (13 R360): the link retrains narrower without link down. -/
def execLinkNarrow (width : BitVec 5) (gen : BitVec 4) (s : State) : Host.Outcome State Fault Refusal :=
  if s.hostPath && decide (width.toNat < s.fld hifLinkWidth) && linkShape width.toNat gen.toNat then .next (s.setLink width.toNat gen.toNat) else .next s

/-- PF_FLR (R291). -/
def execPfFlr (s : State) : Host.Outcome State Fault Refusal := .next s.hostReset

/-! ### FLR of a VF (R320; 13 R357) -/

/-- The uncompleted accepted work of one ring is abandoned: one record names it, what runs aborts, and what is COMMITTED finishes its
copy-back. -/
def State.abandonRing (s : State) (r : Nat) (x : Ring) : State :=
  let s1 := if x.cmp < x.acc then s.log .vfFlr { ring := r, seq := x.cmp + 1, detail := x.acc } else s
  let s2 := (s1.works.filter (fun w => decide (w.ring = r))).foldl (fun t w =>
    if w.st = .committed then (if w.copiedBack then t else t.copyBack w) else t.abortWork w 1) s1
  { s2 with works := s2.works.filter (fun w => decide (w.ring ≠ r)) }

/-- VF_FLR: the accepted work of the VF's rings is abandoned, its interface starts again, and the next head disables its rings (R320). -/
def State.flrVf (s : State) (v : Nat) : State :=
  let s2 := (s.fnRings v).foldl (fun t e => t.abandonRing e.1 e.2) s
  let no (l : List Nat) : List Nat := l.filter (fun x => decide (x ≠ v))
  let s3 := { s2 with access := { s2.access with
    guards := s2.access.guards.filter (fun g => decide (g.fn ≠ v))
    d3hot := no s2.access.d3hot
    up := no s2.access.up
    starting := no s2.access.starting
    discardAt := no s2.access.discardAt
    fallback := no s2.access.fallback
    vecPending := s2.access.vecPending.filter (fun e => decide (e.1 ≠ v))
    vecOpen := s2.access.vecOpen.filter (fun e => decide (e.1 ≠ v))
    msix := s2.access.msix.filter (fun e => decide (e.1 / 2048 ≠ v))
    atomicEn := no s2.access.atomicEn
    flr := insertOnce v s2.access.flr } }
  s3.setHif v hifEnable 0

/-- VF_FLR (R357). -/
def execVfFlr (v : Fin 64) (s : State) : Host.Outcome State Fault Refusal :=
  if v = 0 then .next s.hostReset else .next (s.flrVf v.val)

/-! ### Power states (R291) -/

/-- D3HOT_ENTRY. -/
def execD3hotEntry (f : Fin 64) (s : State) : Host.Outcome State Fault Refusal :=
  .next { s with access := { s.access with d3hot := insertOnce f.val s.access.d3hot } }

/-- D0_RETURN: held writes go out at the next tail. -/
def execD0Return (f : Fin 64) (s : State) : Host.Outcome State Fault Refusal :=
  .next { s with access := { s.access with d3hot := s.access.d3hot.filter (fun x => decide (x ≠ f.val)) } }

/-- The value of a configuration register of function `f`; none for those that the model does not name. -/
def State.cfgRead (s : State) (f : Nat) : CfgField → Option Nat
  | .vfEnable => some (boolNat (decide (f = 0) && s.access.vfEnable))
  | .atomicEnable => some (boolNat (s.access.atomicEn.contains f))
  | .aerStatus => some (SMap.get {} s.access.aer f).status.toNat
  | .aerHeader i => some (fieldAt (SMap.get {} s.access.aer f).header (4 * i.val) 4)
  | .other => none

/-- A write of a configuration register: VF Enable is the PF's; a one clears a bit of the AER status, and with the last bit the header
log; the header log is read-only. -/
def State.cfgWrite (s : State) (f : Nat) (x : CfgField) (v : BitVec 32) : State :=
  let a := s.access
  match x with
  | .vfEnable => if f = 0 then { s with access := { a with vfEnable := v.getLsbD 0 } } else s
  | .atomicEnable =>
    { s with access := { a with atomicEn := if v.getLsbD 0 then insertOnce f a.atomicEn else a.atomicEn.filter (fun g => decide (g ≠ f)) } }
  | .aerStatus =>
    let old := SMap.get {} a.aer f
    let st := old.status &&& ~~~v
    { s with access := { a with aer := SMap.set {} a.aer f { status := st, header := if st = 0 then [] else old.header } } }
  | _ => s

/-- CONFIGURATION_REQUEST (15 R408): retry status until the configuration space is ready; then it is served. -/
def execConfigurationRequest (q : CfgPacket) (s : State) : Host.Outcome State Fault Refusal :=
  if !s.powered then .next { s with reply := .silent }
  else if !s.power.configReady then .next { s with reply := .crs }
  else
    match q.req with
    | .read x => .next { s with reply := match s.cfgRead q.fn.val x with
        | some v => .value v 4
        | none => .configOk }
    | .write x v => .next { (s.cfgWrite q.fn.val x v) with reply := .configOk }

/-! ### MSI-X (R316) -/

/-- A vector is unmasked: its pending message is sent. -/
def State.unmaskVector (s : State) (k : Nat × Nat) : State :=
  let a := s.access
  let pend := a.vecPending.contains k && s.hostOpen k.1
  { s with access := { a with
    vecOpen := if a.vecOpen.contains k then a.vecOpen else a.vecOpen ++ [k]
    vecPending := if pend then a.vecPending.filter (fun x => decide (x ≠ k)) else a.vecPending
    sent := if pend then [k] else [] } }

/-- The dwords of an MSI-X table entry (R292): address, data, and vector control with the mask in bit 0. -/
def State.msixDword (s : State) (k : Nat × Nat) (i : Nat) : Nat :=
  let x := SMap.get {} s.access.msix (2048 * k.1 + k.2)
  match i with
  | 0 => x.addr.toNat % 2 ^ 32
  | 1 => x.addr.toNat / 2 ^ 32
  | 2 => x.data.toNat
  | _ => boolNat (!(s.access.vecOpen.contains k))

/-- The 64 pending bits of the word that holds a vector's. -/
def State.pbaWord (s : State) (k : Nat × Nat) : Nat :=
  (List.range 64).foldl (fun n i => n + (if s.access.vecPending.contains (k.1, k.2 / 64 * 64 + i) then 2 ^ i else 0)) 0

/-- MSIX_UNMASK (R292, R316): host software unmasks or masks a vector, or writes or reads its table entry or its pending bits. -/
def execMsixUnmask (f : Fin 64) (x : MsixPacket) (s : State) : Host.Outcome State Fault Refusal :=
  let k := (f.val, x.vector.toNat)
  let a := s.access
  match x.access with
  | .unmask => .next (s.unmaskVector k)
  | .mask => .next { s with access := { a with vecOpen := a.vecOpen.filter (fun x => decide (x ≠ k)) } }
  | .message addr data => .next { s with access := { a with msix := SMap.set {} a.msix (2048 * k.1 + k.2) ⟨addr, data⟩ } }
  | .read i => .next { s with reply := .value (s.msixDword k i.val) 4 }
  | .pba => .next { s with reply := .value (s.pbaWord k) 8 }

end Sys2Proof.Machine
end

