-- ==== Sys2Proof/Machine/Sideband.lean ====
section
/-! DEFINITION. The sideband and SPDM (16 R445 to R448, R452 to R456; 19 R508). -/

namespace Sys2Proof.Machine

def State.answer (s : State) (r : Reply) : State := { s with reply := r }

/-- A sideband response; a part whose M-die does not run answers nothing. -/
def State.sbAnswer (s : State) (status : Nat) (body : List Byte) : State := s.answer (.sideband status body)

/-! ### Sideband sessions (R445, R446) -/

/-- SB_CHALLENGE: a challenge for the slot, its salt, and the number of iterations. The salt of an empty slot is free. -/
def State.sbChallengeOp (s : State) (kslot : Nat) : State :=
  let r := s.newChallenge
  let salt := match SMap.get none s.sec.slots kslot with
    | some k => k.salt
    | none => (List.range 16).map (fun i => Config.freeByte 301 s.freeCtr i)
  ({ r.2 with sec := { r.2.sec with sbChallenges := SMap.set none r.2.sec.sbChallenges kslot (some r.1) } }).sbAnswer 0
    (r.1 ++ salt ++ le32 200000)

/-- SB_CHALLENGE (R445). -/
def execSbChallenge (kslot : BitVec 8) (s : State) : Host.Outcome State Fault Refusal :=
  .next (if s.mdieUp then s.sbChallengeOp kslot.toNat else s.answer .silent)

/-- SB_OPEN's checks in the order of R441; where no handle is free the status is not stated, and is free. -/
def State.sbOpenOp (s : State) (kslot role : Nat) (mac : List Byte) : State :=
  match SMap.get none s.sec.sbChallenges kslot with
  | none => s.sbAnswer stChallengeStale []
  | some ch =>
    let s1 := { s with sec := { s.sec with sbChallenges := SMap.set none s.sec.sbChallenges kslot none } }
    if s1.sec.locked.contains kslot then s1.sbAnswer stAuthLocked []
    else
      match SMap.get none s1.sec.slots kslot with
      | none => s1.sbAnswer stKeySlotBad []
      | some k =>
        if k.role ≠ role ∨ role ≠ 2 ∨ k.kfl % 2 = 0 then s1.sbAnswer stKeySlotBad []
        else if hmacSha512 k.key (macMessage ch 0xFF role kslot 0) = mac then
          let s2 := s1.authPassed kslot
          match [1, 2, 3, 4].find? (fun h => (SMap.get none s2.sec.sbSessions h).isNone) with
          | some h =>
            ({ s2 with sec := { s2.sec with sbSessions := SMap.set none s2.sec.sbSessions h (some kslot) } }).sbAnswer 0 [BitVec.ofNat 8 h]
          | none => s2.tickFree.sbAnswer (1 + Config.freeNat 61 s2.freeCtr 0 % 255) []
        else (s1.authFailed kslot).sbAnswer stAuthFail []

/-- SB_OPEN (R445, R446). -/
def execSbOpen (kslot role : BitVec 8) (mac : List Byte) (s : State) : Host.Outcome State Fault Refusal :=
  .next (if s.mdieUp then s.sbOpenOp kslot.toNat role.toNat mac else s.answer .silent)

/-- Whether a sideband session holds a handle. -/
def State.sbOpen (s : State) (handle : Nat) : Bool := (SMap.get none s.sec.sbSessions handle).isSome

def State.sbEnd (s : State) (handle : Nat) : State :=
  { s with sec := { s.sec with sbSessions := SMap.set none s.sec.sbSessions handle none } }

/-- SB_CLOSE (R446). -/
def execSbClose (handle : BitVec 8) (s : State) : Host.Outcome State Fault Refusal :=
  .next (if !s.mdieUp then s.answer .silent
    else if s.sbOpen handle.toNat then (s.sbEnd handle.toNat).sbAnswer 0 [] else s.sbAnswer stNoSession [])

/-- SB_IDLE_TIMEOUT (R446). -/
def execSbIdleTimeout (handle : BitVec 8) (s : State) : Host.Outcome State Fault Refusal := .next (s.sbEnd handle.toNat)

/-! ### Sideband register access (R447) -/

/-- Registers that the sideband shows without a session: NVI status and the difference report. -/
def sbOpenRegister (off : Nat) : Bool :=
  (decide (0x40100 ≤ off) && decide (off ≤ 0x40130)) || (decide (0xA0800 ≤ off) && decide (off < 0xA0980))

/-- The values of consecutive registers. The sideband reads as a requester of its own, one for each handle. -/
def State.sbValues : Nat → State → Nat → Nat → State × List Byte
  | 0, s, _, _ => (s, [])
  | n + 1, s, handle, off =>
    let r := s.read4 (0x10000 + handle) 0 off
    let t := State.sbValues n r.1 handle (off + 4)
    (t.1, le32 r.2.toNat ++ t.2)

def State.sbReadOp (s : State) (handle off count : Nat) : State :=
  if !(s.sbOpen handle) && !(decide (handle = 0) && (List.range count).all (fun i => sbOpenRegister (off + 4 * i))) then
    s.sbAnswer stNoSession []
  else if count = 0 ∨ 16 < count ∨ off % 4 ≠ 0 ∨ 2 ^ 25 < off + 4 * count then s.sbAnswer stArgRange []
  else
    let r := State.sbValues count s handle off
    r.1.sbAnswer 0 r.2

/-- SB_READ (R447). -/
def execSbRead (handle : BitVec 8) (off : BitVec 32) (count : BitVec 8) (s : State) : Host.Outcome State Fault Refusal :=
  .next (if s.mdieUp then s.sbReadOp handle.toNat off.toNat count.toNat else s.answer .silent)

def State.sbWriteOp (s : State) (handle off value : Nat) : State :=
  if !(s.sbOpen handle) then s.sbAnswer stNoSession []
  else if off = 0x60004 ∨ off = 0x40020 ∨ off = 0x70008 then ((s.actWo off value {}).sbAnswer 0 [])
  else s.sbAnswer stRoleDenied []

/-- SB_WRITE (R447). -/
def execSbWrite (handle : BitVec 8) (off value : BitVec 32) (s : State) : Host.Outcome State Fault Refusal :=
  .next (if s.mdieUp then s.sbWriteOp handle.toNat off.toNat value.toNat else s.answer .silent)

/-! ### MCTP and SMBus (R447; 19 R508) -/

/-- MCTP_CONTROL_MESSAGE (R447): answered without a session; the answer's contents are free. -/
def execMctpControlMessage (m : MctpControl) (s : State) : Host.Outcome State Fault Refusal :=
  .next (if s.mdieUp then
      s.tickFree.answer (.mctp (m.command :: (List.range (Config.freeNat 62 s.freeCtr 0 % 64)).map (fun i => Config.freeByte 302 s.freeCtr i)))
    else s.answer .silent)

/-- SMB_ALERT_N is asserted while a record of severity deferred or higher waits in the error queue. -/
def State.alertAsserted (s : State) : Bool := s.errs.queue.any (fun r => decide (r.sev ≠ 0))

/-- ALERT_RESPONSE_ADDRESS (19 R508): the M-die answers with its address, 0x62. -/
def execAlertResponseAddress (s : State) : Host.Outcome State Fault Refusal :=
  .next (s.answer (if s.mdieUp && s.alertAsserted then .alert 0x62 else .silent))

/-! ### SPDM (R454 to R456)
PRESUMED (log entry 46): response codes and the placing of the fields that R454 and R455 name are those of the DMTF SPDM 1.3 standard. -/

/-- Whether the part answers SPDM on a port. -/
def State.spdmPort (s : State) (p : SpdmPort) : Bool :=
  match p with
  | .doe _ => s.hostPath
  | .mctp => s.mdieUp && s.flag secSpdmMctp

def State.spdm (s : State) (p : SpdmPort) (code : Nat) (body : List Byte) : State :=
  if s.spdmPort p then s.answer (.spdm code body) else s.answer .silent

/-- ERROR with an error code. -/
def State.spdmError (s : State) (p : SpdmPort) (why : Nat) : State := s.spdm p 0x7F [BitVec.ofNat 8 why, 0]

/-- GET_VERSION (R454): 1.3 only. -/
def execGetVersion (port : SpdmPort) (s : State) : Host.Outcome State Fault Refusal :=
  .next (s.spdm port 0x04 ([0, 1] ++ le16 0x1300))

/-- GET_CAPABILITIES (R454): CTExponent 15; CERT_CAP, CHAL_CAP, MEAS_CAP with signature, MEAS_FRESH_CAP. -/
def execGetCapabilities (port : SpdmPort) (s : State) : Host.Outcome State Fault Refusal :=
  .next (s.spdm port 0x61 ([0, 15, 0, 0] ++ le32 0x36))

/-- NEGOTIATE_ALGORITHMS (R454): SHA-512 measurements, RSASSA-PSS 4096, SHA-512. -/
def execNegotiateAlgorithms (port : SpdmPort) (s : State) : Host.Outcome State Fault Refusal :=
  .next (s.spdm port 0x63 (le32 0x08 ++ le32 0x40 ++ le32 0x04))

/-- GET_DIGESTS (R453, R454): slot 0. -/
def execGetDigests (port : SpdmPort) (s : State) : Host.Outcome State Fault Refusal :=
  .next (s.spdm port 0x01 ([0, 1] ++ sha512 Config.certChain))

/-- GET_CERTIFICATE (R453, R454): a portion of the chain of slot 0, and how much follows. -/
def execGetCertificate (port : SpdmPort) (slot : BitVec 4) (offset length : BitVec 16) (s : State) :
    Host.Outcome State Fault Refusal :=
  let chain := Config.certChain
  if slot ≠ 0 ∨ chain.length ≤ offset.toNat then .next (s.spdmError port 0x01)
  else
    let n := min length.toNat (chain.length - offset.toNat)
    .next (s.spdm port 0x02 (le16 n ++ le16 (chain.length - offset.toNat - n) ++ sliceBytes chain offset.toNat n))

/-- Whether the RSA engine is free: seals sign first (R456). -/
def State.rsaFree (s : State) : Bool := s.audit.signing.isNone && s.audit.waiting.isEmpty

/-- A request that the busy engine cannot answer in time: ResponseNotReady. -/
def State.notReadyYet (s : State) (p : SpdmPort) : State :=
  if s.spdmPort p then (s.bump secSpdmNotReady 1).spdmError p 0x42 else s.answer .silent

/-- A signature of the identity key: free bytes. -/
def State.signature (s : State) : List Byte := (List.range 512).map (fun i => Config.freeByte 303 s.freeCtr i)

/-- CHALLENGE (R454): the chain's digest, a nonce, and a signature. -/
def execChallenge (port : SpdmPort) (slot : BitVec 4) (_nonce : List Byte) (s : State) : Host.Outcome State Fault Refusal :=
  if slot ≠ 0 then .next (s.spdmError port 0x01)
  else if !s.rsaFree then .next (s.notReadyYet port)
  else
    let mine := (List.range 32).map (fun i => Config.freeByte 304 s.freeCtr i)
    .next (s.tickFree.spdm port 0x03 (sha512 Config.certChain ++ mine ++ s.signature))

/-- The microcode digest of a unit: the record that it runs, else the base microcode (15 R431). -/
def State.ucodeDigest (s : State) (unit : Nat) : List Byte :=
  match s.nv.ucode.find? (fun r => decide (fieldAt r.value 0 1 = unit)) with
  | some r => sha512 (r.value.drop 16)
  | none => Config.partDigest (2 + unit)

/-- The effective repair map (15 R421): a later entry for the same KIND, INST and SUB replaces an earlier one. -/
def State.repairMap (s : State) : List Byte :=
  let es := s.repairs.foldl (fun (acc : List (Nat × Nat × Nat × Nat)) e =>
    acc.filter (fun x => !(decide (x.1 = e.1) && decide (x.2.1 = e.2.1) && decide (x.2.2.1 = e.2.2.1))) ++ [e]) []
  [if s.nv.gradeB then 1 else 0, BitVec.ofNat 8 s.gradeCores] ++ zeros 6 ++ (Config.partDigest 0).take 8
    ++ es.flatMap (fun (e : Nat × Nat × Nat × Nat) => repairValue e.1 e.2.1 e.2.2.1 e.2.2.2)

/-- Type and content of a measurement block (R455). -/
def State.measurement (s : State) (i : Nat) : Option (Nat × List Byte) :=
  if i = 1 then some (0, Config.partDigest 1)
  else if i = 2 then some (1, s.fwDigest)
  else if 3 ≤ i ∧ i ≤ 7 then some (1, s.ucodeDigest (i - 2))
  else if i = 8 then some (3, s.nvDigest)
  else if i = 9 then some (3, Config.partDigest 8)
  else if i = 10 then some (2, match s.sec.owner with
    | some o => o.okeydig
    | none => zeros 64)
  else if i = 11 then some (3, sha512 s.keyList)
  else if i = 12 then some (2, sha512 s.repairMap)
  else if i = 13 then some (0x83, le64 (s.pair audBootLo audBootHi) ++ le64 s.lastTurn ++ fitBytes 64 s.audit.last)
  else if i = 14 then some (0x83, le32 (s.fld errEpoch) ++ [if s.nv.gradeB then 1 else 0] ++ le32 (s.fld nviMinSvn) ++ zeros 7)
  else none

/-- A block in the DMTF measurement format. -/
def State.measurementBlock (s : State) (i : Nat) : List Byte :=
  match s.measurement i with
  | some (t, v) => [BitVec.ofNat 8 i, 1] ++ le16 (v.length + 3) ++ [BitVec.ofNat 8 t] ++ le16 v.length ++ v
  | none => []

/-- The blocks that an index asks for: 0 none, 0xFF all. -/
def measurementIndices (index : Nat) : List Nat :=
  if index = 0xFF then (List.range 14).map (fun i => i + 1) else if index = 0 then [] else [index]

/-- GET_MEASUREMENTS (R455): blocks, and a signature where one is asked for. -/
def execGetMeasurements (port : SpdmPort) (index : BitVec 8) (sign : Bool) (_nonce : List Byte) (s : State) :
    Host.Outcome State Fault Refusal :=
  let is := measurementIndices index.toNat
  if is.any (fun i => decide (14 < i)) then .next (s.spdmError port 0x01)
  else if sign && !s.rsaFree then .next (s.notReadyYet port)
  else
    let blocks := is.flatMap s.measurementBlock
    let count := if index.toNat = 0 then 14 else is.length
    let tail := if sign then (List.range 32).map (fun i => Config.freeByte 304 s.freeCtr i) ++ s.signature else []
    .next (s.tickFree.spdm port 0x60 ([BitVec.ofNat 8 count] ++ natToBytes 3 blocks.length ++ blocks ++ tail))

end Sys2Proof.Machine
end

