-- ==== Sys2Proof/Machine/Maintenance.lean ====
section
/-! DEFINITION. The maintenance window and re-planning (17 R460 to R469; 08 R212; 15 R418; 19 R500): when a window falls due, what the
measurements of one window change, and retirement by restart. -/

namespace Sys2Proof.Machine

/-! ### One re-planning (R460, R464, R465, R467) -/

/-- Steps by which an offset rises for a margin of `m` mV, held at OFFMAX. -/
def State.raised (s : State) (old : Nat) (m : Int) : Nat :=
  let need : Int := s.fld witRaiseMv - m
  if need ≤ 0 then old else max old (min (s.fld witOffMax) (old + ceilDiv need.toNat 5))

/-- The margins that a window has measured. -/
def State.takeMargins (s : State) (r : ReplanIn) : State :=
  r.coreMargins.foldl (fun t e =>
    let c := e.1.val
    let m0 := e.2.getD 0 0
    let t1 := { t with witness := { t.witness with margins := SMap.set [] t.witness.margins c e.2 } }
    (t1.setFld (witMargin c) (BitVec.ofInt 8 m0).toNat).addFit c ((m0 - 5 * t.fld (witOff 0)) * 65536)) s

/-- The smallest margin at a point among the cores in service. -/
def State.pointMargin (s : State) (p : Nat) : Option Int :=
  s.inService.foldl (fun a c =>
    match (SMap.get [] s.witness.margins c)[p]?, a with
    | some m, some b => some (min m b)
    | some m, none => some m
    | none, _ => a) none

/-- Core offsets after the raises of step 3. -/
def State.newOffsets (s : State) : List Nat :=
  (List.range 6).map (fun p => match s.pointMargin p with
    | some m => s.raised (s.fld (witOff p)) m
    | none => s.fld (witOff p))

/-- Die offsets after the raises of step 3. -/
def State.newDieOffsets (s : State) (m : List Int) : List Nat :=
  (List.range 4).map (fun d => match m[d]? with
    | some x => s.raised (s.fld (witDieOff d)) x
    | none => s.fld (witDieOff d))

/-- Logs one OFFSET_RAISED for every offset that rises. -/
def State.logRaises (s : State) (old new : List Nat) (unit : Nat → Nat) : State :=
  (old.zip (new.zip (List.range new.length))).foldl (fun t e =>
    if e.1 < e.2.1 then (t.bump witOffsetRaises 1).log .offsetRaised { unit := unit e.2.2, detail := e.2.1 } else t) s

/-- Cores to retire: too small a margin at P0 by the last test with its offset at OFFMAX (R463, R465), or a row without a spare. -/
def State.toRetire (s : State) (r : ReplanIn) : List Nat :=
  let weak := (s.witness.margins.filter (fun e => decide (e.2.getD 0 20 < 20) && decide (s.fld witOffMax ≤ s.fld (witOff 0)))).map
    (fun e => e.1)
  ((weak ++ r.rowsOut.map (fun c => c.val)).eraseDups).filter (fun c => decide (s.coreOut c = 0) && !(s.witness.retiring.contains c))

/-- What the die canaries say. -/
def State.judgeDies (s : State) (m : List Int) : State :=
  (m.take 4).zip (List.range 4) |>.foldl (fun t e =>
    let t1 := t.addFit (fitDie e.2) ((e.1 - 5 * t.fld (witDieOff e.2)) * 65536)
    if e.1 < 20 ∧ t.fld witOffMax ≤ t.fld (witDieOff e.2) then t1.log .dieMargin { unit := dieUnit e.2 } else t1) s

/-- What the lane eyes say: a weak lane is to be retired to its group's spare, of which the record comes first (15 R422). -/
def State.judgeLanes (s : State) (l : List (Fin 104 × Int × Nat)) : State :=
  l.foldl (fun (t : State) (e : Fin 104 × Int × Nat) =>
    let lane : Nat := e.1.val
    let worst : Int := e.2.1
    let t1 := t.addFit (fitLane lane) (worst * (65536 : Int))
    if worst < (20 : Int) ∨ e.2.2 < 20 then
      match t1.portWith lane with
      | some p =>
        let sp := portSpare p
        let free := t1.spareFree lane sp && t1.witness.weakLanes.all (fun l => decide ((t1.portWith l).map portSpare ≠ some sp))
        if free then { t1.repair 7 lane 0 sp with witness := { t1.witness with weakLanes := t1.witness.weakLanes ++ [lane] } }
        else t1.log .laneMargin { inst := lane }
      | none => t1.log .laneMargin { inst := lane }
    else t1) s

/-- What the channel eyes say. -/
def State.judgeChannels (s : State) (l : List (Fin 256 × Int)) : State :=
  l.foldl (fun t e =>
    let t1 := t.addFit (fitChannel e.1.val) (e.2 * 65536)
    if e.2 < 30 then t1.log .hbmMargin { inst := e.1.val } else t1) s

/-- The median of a list. -/
def median (l : List Nat) : Nat :=
  let sorted := l.foldl (fun acc x => acc.takeWhile (fun y => decide (y ≤ x)) ++ [x] ++ acc.dropWhile (fun y => decide (y ≤ x))) []
  sorted.getD (l.length / 2) 0

/-- THETA from the day's estimates: it takes effect at the next head. -/
def State.judgeTheta (s : State) : State :=
  if s.thermal.thetas.isEmpty then s
  else
    let theta := min 65535 (median s.thermal.thetas * 256 / max 1 Config.factoryTheta)
    let s1 := { s with thermal := { s.thermal with thetas := [] } }
    let s2 := { s1 with witness := { s1.witness with pendingTheta := some theta } }
    let s3 := s2.addFit fitTheta (theta * 256)
    if 384 < theta then s3.log .timHigh {} else s3

/-- The value of a WITNESS record (R467). -/
def State.witnessValue (s : State) (offs dies : List Nat) (theta : Nat) (rl : List Nat) : List Byte :=
  let signed (x : Int) : List Byte := le64 (BitVec.ofInt 64 x).toNat
  le64 s.turn.number ++ le64 s.witness.hours ++ offs.map (fun x => BitVec.ofNat 8 x) ++ dies.map (fun x => BitVec.ofNat 8 x) ++ le16 theta
    ++ rl.flatMap le16 ++ zeros 24
    ++ (List.range 510).flatMap (fun i =>
      let f := s.fit i
      le64 f.n ++ signed f.sx ++ signed f.sy ++ signed f.sxx ++ signed f.sxy)

/-- RL[i] and RL_DAYS, with LIFE_LOW. -/
def State.showLife (s : State) (rl : List Nat) : State :=
  let days := rl.foldl min 65535
  let s1 := ((List.range 6).foldl (fun t i => t.setFld (witRl i) (rl.getD i 0)) s).setFld witRlDays days
  if days < 365 then s1.log .lifeLow {} else s1

/-- Whether two corrected errors meet one row. -/
def sameRow (e f : Nat × Nat × Nat × Nat) : Bool := decide (e.1 = f.1) && decide (e.2.1 = f.2.1) && decide (e.2.2.1 = f.2.2.1)

/-- Rows that have logged 4 corrected errors within one day (08 R212): KIND, core, row. -/
def State.weakRows (s : State) : List (Nat × Nat × Nat) :=
  let l := s.witness.rowErrs
  ((l.filter (fun e => decide (4 ≤ (l.filter (fun f => sameRow e f && decide (e.2.2.2 ≤ f.2.2.2)
    && decide (f.2.2.2 < e.2.2.2 + dayTicks))).length))).map (fun e => (e.1, e.2.1, e.2.2.1))).eraseDups

/-- Spare rows that a row of a KIND shares (17 R466): 8 in each bank of core memory, 16 in a Chuck, 4 in a table memory. -/
def spareRowsOf (kind : Nat) : Nat := if kind = 2 then 8 else if kind = 3 then 16 else 4

/-- A weak row goes to the next spare row; the answer says whether there was one. -/
def State.spareRow (s : State) (kind c row : Nat) : State × Bool :=
  let near (x : Nat) : Bool := decide (kind ≠ 2) || decide (x / 256 = row / 256)
  let used := (s.repairs.filter (fun r => decide (r.1 = kind) && decide (r.2.1 = c) && near r.2.2.1)).length
    + (s.nv.queue.filter (fun x => decide (x.type = rtRepair) && decide (fieldAt x.value 0 1 = kind) && decide (fieldAt x.value 1 2 = c)
      && near (fieldAt x.value 3 2))).length
  if used < spareRowsOf kind then (s.repair kind c row used, true) else (s, false)

/-- The weak rows of the day are replaced, and forgotten; the answer names the cores whose memory has no spare row. -/
def State.spareRows (s : State) : State × List Nat :=
  let weak := s.weakRows
  let r := weak.foldl (fun (a : State × List Nat) e =>
    let x := a.1.spareRow e.1 e.2.1 e.2.2
    (x.1, if x.2 then a.2 else insertOnce e.2.1 a.2)) (s, [])
  ({ r.1 with witness := { r.1.witness with
    rowErrs := r.1.witness.rowErrs.filter (fun e => !(weak.contains (e.1, e.2.1, e.2.2.1)) && decide (s.turn.clock < e.2.2.2 + dayTicks)) } }, r.2)

/-- Firmware reads the counts of the stacks' on-die ECC (09 R254): how many corrections they have made since is free. -/
def State.readOnDie (s : State) : State :=
  (List.range 8).foldl (fun t k => { t with hbm := t.hbm.setStack k { t.hbm.stack k with
    onDie := (t.hbm.stack k).onDie + Config.freeNat 47 s.freeCtr k } }) s.tickFree

/-- Steps 3 and 4: margins, trends, offsets, retirements, repairs, and the WITNESS record. -/
def State.replan (s : State) (r : ReplanIn) : State :=
  let s1 := ((s.readOnDie.takeMargins r).judgeDies r.dieMargins).judgeLanes r.lanes
  let s2 := ((s1.judgeChannels r.channels).addFit fitHoldup (s1.fld nviHuCap * 65536)).judgeTheta
  let s3 := r.phases.foldl (fun t e =>
    ({ t with witness := { t.witness with marginPhases := t.witness.marginPhases ++ [(e.1.val, e.2.val)] } }).log .phaseMargin
      { inst := e.1.val, detail := e.2.val }) s2
  let offs := s3.newOffsets
  let dies := s3.newDieOffsets r.dieMargins
  let s4 := (s3.logRaises ((List.range 6).map (fun p => s3.fld (witOff p))) offs (fun _ => 0)).logRaises
    ((List.range 4).map (fun d => s3.fld (witDieOff d))) dies dieUnit
  let rows := s4.spareRows
  let noRow := rows.2.filter (fun c => decide (s4.coreOut c = 0) && !(s4.witness.retiring.contains c) && !((s4.toRetire r).contains c))
  let out := s4.toRetire r ++ noRow
  let s5 := r.rowRepairs.foldl (fun t e => t.repair (e.1.val + 2) e.2.1.val e.2.2.1.toNat e.2.2.2.toNat) rows.1
  let s6 := out.foldl (fun t c => t.repair 1 c 0 0) { s5 with witness := { s5.witness with retiring := s5.witness.retiring ++ out } }
  let rl := s6.remaining
  let s7 := (s6.showLife rl).bump witReplans 1
  let theta := s7.witness.pendingTheta.getD (s7.fld witTheta)
  let w := s7.nvStore rtWitness (s7.witnessValue offs dies theta rl)
  ({ w.1 with witness := { w.1.witness with pendingOffs := some (offs, dies), waitSid := some w.2 } }).noteRisk

/-- REPLAN (R464): once the window has measured every core. -/
def execReplan (r : ReplanIn) (s : State) : Host.Outcome State Fault Refusal :=
  match s.witness.window with
  | some w => if w.measured && s.witness.pendingOffs.isNone && s.isReady then .next (s.replan r) else .next s
  | none => .next s

/-- MAINT_WINDOW_OPEN (R462): REPLAN_H hours have passed since the last window, and the next falls due; one that is still due is late. -/
def execMaintWindowOpen (s : State) : Host.Outcome State Fault Refusal :=
  if s.isReady then
    let s1 := if s.witness.due then s.log .replanLate {} else s
    .next { s1 with witness := { s1.witness with due := true, hours := s1.witness.hours + s1.fld witReplanH } }
  else .next s

/-- RETIRE_WAIT_EXPIRE (R465): chains that are still pinned to a retiring core restart. -/
def execRetireWaitExpire (s : State) : Host.Outcome State Fault Refusal :=
  if s.isReady && s.witness.pendingOffs.isNone && !s.witness.retiring.isEmpty
      && decide (s.witness.retireFrom + s.fld witRetireWait ≤ s.turn.ord) then
    .next (s.works.foldl (fun t w =>
      if w.result.isNone && decide (w.st = .accepted ∨ w.st = .running) && w.chain.pins.any s.witness.retiring.contains then t.restartChain w
      else t) s)
  else .next s

/-- NV_STORE_DONE (15 R418, R426): a chunk is on both flashes; the next chunk starts, or the record counts. -/
def execNvStoreDone (s : State) : Host.Outcome State Fault Refusal := .next s.chunkDone

end Sys2Proof.Machine
end

