-- ==== Sys2Proof/Machine/ProfileWords.lean ====
section
/-! DEFINITION. The Profile words (05): each command gives its word to the core's sequencer. -/

namespace Sys2Proof.Machine

/-- FN (05 R142 to R144). -/
def execFn (c : Fin 144) (w : ProfWord) (s : State) : Host.Outcome State Fault Refusal :=
  s.wordCmd c.val (.fn w) "FN"

/-- SHAPE (05 R141). -/
def execShape (c : Fin 144) (w : ProfWord) (s : State) : Host.Outcome State Fault Refusal :=
  s.wordCmd c.val (.shape w) "SHAPE"

/-- GATE (05 R141). -/
def execGate (c : Fin 144) (w : ProfWord) (s : State) : Host.Outcome State Fault Refusal :=
  s.wordCmd c.val (.gate w) "GATE"

/-- SMAX_STEP (05 R147 to R150). -/
def execSmaxStep (c : Fin 144) (w : ProfWord) (s : State) : Host.Outcome State Fault Refusal :=
  s.wordCmd c.val (.smaxStep w) "SMAX_STEP"

/-- NORM_STATS (05 R151). -/
def execNormStats (c : Fin 144) (w : ProfWord) (s : State) : Host.Outcome State Fault Refusal :=
  s.wordCmd c.val (.normStats w) "NORM_STATS"

/-- NORM_APPLY (05 R152). -/
def execNormApply (c : Fin 144) (w : ProfWord) (s : State) : Host.Outcome State Fault Refusal :=
  s.wordCmd c.val (.normApply w) "NORM_APPLY"

/-- TBL_LOAD (05 R137, R140). -/
def execTblLoad (c : Fin 144) (w : TblWord) (s : State) : Host.Outcome State Fault Refusal :=
  s.wordCmd c.val (.tblLoad w) "TBL_LOAD"

/-- DERIV (05 R141). -/
def execDeriv (c : Fin 144) (w : ProfWord) (s : State) : Host.Outcome State Fault Refusal :=
  s.wordCmd c.val (.deriv w) "DERIV"

/-- ELEM (05 R145). -/
def execElem (c : Fin 144) (w : ProfWord) (s : State) : Host.Outcome State Fault Refusal :=
  s.wordCmd c.val (.elem w) "ELEM"

/-- SEL (05 R146). -/
def execSel (c : Fin 144) (w : ProfWord) (s : State) : Host.Outcome State Fault Refusal :=
  s.wordCmd c.val (.sel w) "SEL"

end Sys2Proof.Machine
end

