-- ==== Sys2Proof/Machine/ReduceWords.lean ====
section
/-! DEFINITION. The reduction words (04 R115, R120): each command gives its word to the core's sequencer. -/

namespace Sys2Proof.Machine

/-- RED_MAX (04 R115 to R119). -/
def execRedMax (c : Fin 144) (w : RedWord) (s : State) : Host.Outcome State Fault Refusal :=
  s.wordCmd c.val (.redMax w) "RED_MAX"

/-- RED_MIN (04 R115 to R119). -/
def execRedMin (c : Fin 144) (w : RedWord) (s : State) : Host.Outcome State Fault Refusal :=
  s.wordCmd c.val (.redMin w) "RED_MIN"

/-- RED_TOPK (04 R115 to R119). -/
def execRedTopk (c : Fin 144) (w : RedWord) (s : State) : Host.Outcome State Fault Refusal :=
  s.wordCmd c.val (.redTopk w) "RED_TOPK"

/-- TREE_STEP (04 R120 to R125). -/
def execTreeStep (c : Fin 144) (w : TreeWord) (s : State) : Host.Outcome State Fault Refusal :=
  s.wordCmd c.val (.treeStep w) "TREE_STEP"

end Sys2Proof.Machine
end

