-- ==== Sys2Proof/Machine/RemoteWords.lean ====
section
/-! DEFINITION. The remote words (08 R231 to R236): each command gives its word to the core's sequencer. -/

namespace Sys2Proof.Machine

/-- PUT (08 R231, R233, R235). -/
def execPut (c : Fin 144) (w : RemoteWord) (s : State) : Host.Outcome State Fault Refusal :=
  s.wordCmd c.val (.put w) "PUT"

/-- GET (08 R231, R233). -/
def execGet (c : Fin 144) (w : RemoteWord) (s : State) : Host.Outcome State Fault Refusal :=
  s.wordCmd c.val (.get w) "GET"

/-- QADD (08 R231, R233). -/
def execQadd (c : Fin 144) (w : RemoteWord) (s : State) : Host.Outcome State Fault Refusal :=
  s.wordCmd c.val (.qadd w) "QADD"

/-- SIGNAL (08 R231, R232). -/
def execSignal (c : Fin 144) (w : SignalWord) (s : State) : Host.Outcome State Fault Refusal :=
  s.wordCmd c.val (.signal w) "SIGNAL"

/-- WAIT (08 R232). -/
def execWait (c : Fin 144) (w : WaitWord) (s : State) : Host.Outcome State Fault Refusal :=
  s.wordCmd c.val (.wait w) "WAIT"

/-- FENCE (08 R233). -/
def execFence (c : Fin 144) (w : PlainWord) (s : State) : Host.Outcome State Fault Refusal :=
  s.wordCmd c.val (.fence w) "FENCE"

end Sys2Proof.Machine
end

