-- ==== Sys2Proof/Machine/SequencerWords.lean ====
section
/-! DEFINITION. The words that run in the sequencer (02 R51, R53, R56; 08 R222, R224; 12 R336): each command gives its word to the core's sequencer. -/

namespace Sys2Proof.Machine

/-- SWAP with DEF 1 (08 R224). -/
def execSwapDef (c : Fin 144) (w : SwapDefWord) (s : State) : Host.Outcome State Fault Refusal :=
  s.wordCmd c.val (.swapDef w) "SWAP_DEF"

/-- SWAP with DEF 0 (08 R224). -/
def execSwap (c : Fin 144) (w : SwapWord) (s : State) : Host.Outcome State Fault Refusal :=
  s.wordCmd c.val (.swap w) "SWAP"

/-- BAR_LOCAL (02 R51). -/
def execBarLocal (c : Fin 144) (w : BarWord) (s : State) : Host.Outcome State Fault Refusal :=
  s.wordCmd c.val (.barLocal w) "BAR_LOCAL"

/-- CREDIT_SET (08 R222). -/
def execCreditSet (c : Fin 144) (w : CreditWord) (s : State) : Host.Outcome State Fault Refusal :=
  s.wordCmd c.val (.creditSet w) "CREDIT_SET"

/-- NOP (02 R51). -/
def execNop (c : Fin 144) (w : PlainWord) (s : State) : Host.Outcome State Fault Refusal :=
  s.wordCmd c.val (.nop w) "NOP"

/-- LOOP (02 R53, R54). -/
def execLoop (c : Fin 144) (w : LoopWord) (s : State) : Host.Outcome State Fault Refusal :=
  s.wordCmd c.val (.loop w) "LOOP"

/-- ENDLOOP (02 R53, R54). -/
def execEndLoop (c : Fin 144) (w : PlainWord) (s : State) : Host.Outcome State Fault Refusal :=
  s.wordCmd c.val (.endLoop w) "ENDLOOP"

/-- MARK (12 R336). -/
def execMark (c : Fin 144) (w : MarkWord) (s : State) : Host.Outcome State Fault Refusal :=
  s.wordCmd c.val (.mark w) "MARK"

/-- SLICE_END (02 R56). -/
def execSliceEnd (c : Fin 144) (w : PlainWord) (s : State) : Host.Outcome State Fault Refusal :=
  s.wordCmd c.val (.sliceEnd w) "SLICE_END"

end Sys2Proof.Machine
end

