-- ==== Sys2Proof/Machine/StreamWords.lean ====
section
/-! DEFINITION. The stream words (08 R214, R219, R226): each command gives its word to the core's sequencer. -/

namespace Sys2Proof.Machine

/-- STREAM_DEF (08 R214, R220). -/
def execStreamDef (c : Fin 144) (w : StreamDefWord) (s : State) : Host.Outcome State Fault Refusal :=
  s.wordCmd c.val (.streamDef w) "STREAM_DEF"

/-- STREAM_START (08 R216, R219): the pass begins once the engine's previous pass has retired. -/
def execStreamStart (c : Fin 144) (w : StreamWord) (s : State) : Host.Outcome State Fault Refusal :=
  s.wordCmd c.val (.streamStart w) "STREAM_START"

/-- STREAM_REARM (08 R226, R227). -/
def execStreamRearm (c : Fin 144) (w : RearmWord) (s : State) : Host.Outcome State Fault Refusal :=
  s.wordCmd c.val (.streamRearm w) "STREAM_REARM"

/-- STREAM_STOP (08 R219): `n` requests are in flight and may still retire. -/
def execStreamStop (c : Fin 144) (w : StreamWord) (inFlight : Nat) (s : State) : Host.Outcome State Fault Refusal :=
  (s.updCore c.val (fun k => k.setEngine w.unit.toNat { k.engine w.unit.toNat with inFlight := inFlight })).wordCmd c.val
    (.streamStop w) "STREAM_STOP"

end Sys2Proof.Machine
end

