-- ==== Sys2Proof/Machine/Dispatch.lean ====
section
/-! DEFINITION. The dispatcher: one arm per command, in the order of the opcode table, each one call of the command's
meaning. -/

namespace Sys2Proof.Machine

def exec (i : Instr) (s : State) : Host.Outcome State Fault Refusal :=
  match i with
  | .mma c w residue => Sys2Proof.Machine.execMma c w residue s
  | .mmaT c w residue => Sys2Proof.Machine.execMmaT c w residue s
  | .conv c w residue => Sys2Proof.Machine.execConv c w residue s
  | .gradPair c w residue => Sys2Proof.Machine.execGradPair c w residue s
  | .lutCfg c w => Sys2Proof.Machine.execLutCfg c w s
  | .arrCfg c w => Sys2Proof.Machine.execArrCfg c w s
  | .qzero c w => Sys2Proof.Machine.execQzero c w s
  | .qstore c w => Sys2Proof.Machine.execQstore c w s
  | .qimgSt c w => Sys2Proof.Machine.execQimgSt c w s
  | .qimgLd c w => Sys2Proof.Machine.execQimgLd c w s
  | .redMax c w => Sys2Proof.Machine.execRedMax c w s
  | .redMin c w => Sys2Proof.Machine.execRedMin c w s
  | .redTopk c w => Sys2Proof.Machine.execRedTopk c w s
  | .treeStep c w => Sys2Proof.Machine.execTreeStep c w s
  | .fn c w => Sys2Proof.Machine.execFn c w s
  | .shape c w => Sys2Proof.Machine.execShape c w s
  | .gate c w => Sys2Proof.Machine.execGate c w s
  | .smaxStep c w => Sys2Proof.Machine.execSmaxStep c w s
  | .normStats c w => Sys2Proof.Machine.execNormStats c w s
  | .normApply c w => Sys2Proof.Machine.execNormApply c w s
  | .tblLoad c w => Sys2Proof.Machine.execTblLoad c w s
  | .deriv c w => Sys2Proof.Machine.execDeriv c w s
  | .elem c w => Sys2Proof.Machine.execElem c w s
  | .sel c w => Sys2Proof.Machine.execSel c w s
  | .streamDef c w => Sys2Proof.Machine.execStreamDef c w s
  | .streamStart c w => Sys2Proof.Machine.execStreamStart c w s
  | .streamRearm c w => Sys2Proof.Machine.execStreamRearm c w s
  | .streamStop c w inFlight => Sys2Proof.Machine.execStreamStop c w inFlight s
  | .put c w => Sys2Proof.Machine.execPut c w s
  | .get c w => Sys2Proof.Machine.execGet c w s
  | .qadd c w => Sys2Proof.Machine.execQadd c w s
  | .signal c w => Sys2Proof.Machine.execSignal c w s
  | .wait c w => Sys2Proof.Machine.execWait c w s
  | .fence c w => Sys2Proof.Machine.execFence c w s
  | .swapDef c w => Sys2Proof.Machine.execSwapDef c w s
  | .swap c w => Sys2Proof.Machine.execSwap c w s
  | .barLocal c w => Sys2Proof.Machine.execBarLocal c w s
  | .creditSet c w => Sys2Proof.Machine.execCreditSet c w s
  | .calTapOpen c w => Sys2Proof.Machine.execCalTapOpen c w s
  | .calTapPush c w => Sys2Proof.Machine.execCalTapPush c w s
  | .calTapClose c w => Sys2Proof.Machine.execCalTapClose c w s
  | .scaleAdapt c w => Sys2Proof.Machine.execScaleAdapt c w s
  | .quant c w => Sys2Proof.Machine.execQuant c w s
  | .hadamard c w => Sys2Proof.Machine.execHadamard c w s
  | .smooth c w => Sys2Proof.Machine.execSmooth c w s
  | .reqLoad c w => Sys2Proof.Machine.execReqLoad c w s
  | .nop c w => Sys2Proof.Machine.execNop c w s
  | .loop c w => Sys2Proof.Machine.execLoop c w s
  | .endLoop c w => Sys2Proof.Machine.execEndLoop c w s
  | .mark c w => Sys2Proof.Machine.execMark c w s
  | .sliceEnd c w => Sys2Proof.Machine.execSliceEnd c w s
  | .sliceStart p => Sys2Proof.Machine.execSliceStart p s
  | .arrayOpDone c arr => Sys2Proof.Machine.execArrayOpDone c arr s
  | .remoteLanding srcs => Sys2Proof.Machine.execRemoteLanding srcs s
  | .waitComplete c cycle => Sys2Proof.Machine.execWaitComplete c cycle s
  | .streamRetire c engine cycle => Sys2Proof.Machine.execStreamRetire c engine cycle s
  | .deadlockBreak p => Sys2Proof.Machine.execDeadlockBreak p s
  | .progEcc c => Sys2Proof.Machine.execProgEcc c s
  | .cmemCe c addr => Sys2Proof.Machine.execCmemCe c addr s
  | .cmemEcc c addr => Sys2Proof.Machine.execCmemEcc c addr s
  | .chuckCe c unit => Sys2Proof.Machine.execChuckCe c unit s
  | .chuckEcc c unit => Sys2Proof.Machine.execChuckEcc c unit s
  | .profEcc c corrected => Sys2Proof.Machine.execProfEcc c corrected s
  | .hbmCe stack pch sector => Sys2Proof.Machine.execHbmCe stack pch sector s
  | .hbmUe stack lch sector p => Sys2Proof.Machine.execHbmUe stack lch sector p s
  | .patrolScrub stack lch corrected uncorrectable => Sys2Proof.Machine.execPatrolScrub stack lch corrected uncorrectable s
  | .hbmSpare stack lch readable => Sys2Proof.Machine.execHbmSpare stack lch readable s
  | .channelCopyDone stack => Sys2Proof.Machine.execChannelCopyDone stack s
  | .stackLost stack => Sys2Proof.Machine.execStackLost stack s
  | .journalMoveDone => Sys2Proof.Machine.execJournalMoveDone s
  | .coreFailed c => Sys2Proof.Machine.execCoreFailed c s
  | .hstFailover afterStep4 => Sys2Proof.Machine.execHstFailover afterStep4 s
  | .mpTakeover => Sys2Proof.Machine.execMpTakeover s
  | .nvDegraded flash => Sys2Proof.Machine.execNvDegraded flash s
  | .turnHead h => Sys2Proof.Machine.execTurnHead h s
  | .turnTail t => Sys2Proof.Machine.execTurnTail t s
  | .sealSigned => Sys2Proof.Machine.execSealSigned s
  | .voltageRaise => Sys2Proof.Machine.execVoltageRaise s
  | .thermalModelUpdate t => Sys2Proof.Machine.execThermalModelUpdate t s
  | .tsensor sensor => Sys2Proof.Machine.execTsensor sensor s
  | .inputStaged ring seq => Sys2Proof.Machine.execInputStaged ring seq s
  | .copyBackDone ring seq => Sys2Proof.Machine.execCopyBackDone ring seq s
  | .hostDma ring seq write how addr => Sys2Proof.Machine.execHostDma ring seq write how addr s
  | .brakeTrip => Sys2Proof.Machine.execBrakeTrip s
  | .brakeHot sensor => Sys2Proof.Machine.execBrakeHot sensor s
  | .brakeRelease => Sys2Proof.Machine.execBrakeRelease s
  | .thermtrip => Sys2Proof.Machine.execThermtrip s
  | .thetaStep riseMk stepW => Sys2Proof.Machine.execThetaStep riseMk stepW s
  | .powerUp b => Sys2Proof.Machine.execPowerUp b s
  | .deviceReady => Sys2Proof.Machine.execDeviceReady s
  | .vinLoss => Sys2Proof.Machine.execVinLoss s
  | .vinLow => Sys2Proof.Machine.execVinLow s
  | .vinHigh => Sys2Proof.Machine.execVinHigh s
  | .vinHighEnd => Sys2Proof.Machine.execVinHighEnd s
  | .vinOvp => Sys2Proof.Machine.execVinOvp s
  | .phaseFault tile rail => Sys2Proof.Machine.execPhaseFault tile rail s
  | .holdupMeasure dropMv stepMv volt => Sys2Proof.Machine.execHoldupMeasure dropMv stepMv volt s
  | .sysclkLost => Sys2Proof.Machine.execSysclkLost s
  | .refclkLnkLoss east => Sys2Proof.Machine.execRefclkLnkLoss east s
  | .refclkPcieLoss => Sys2Proof.Machine.execRefclkPcieLoss s
  | .ppsInPulse => Sys2Proof.Machine.execPpsInPulse s
  | .perstAssert => Sys2Proof.Machine.execPerstAssert s
  | .perstDeassert b => Sys2Proof.Machine.execPerstDeassert b s
  | .pinTransition pin asserted tick => Sys2Proof.Machine.execPinTransition pin asserted tick s
  | .pinUnstable pin held tick => Sys2Proof.Machine.execPinUnstable pin held tick s
  | .pinUnstableClear pin => Sys2Proof.Machine.execPinUnstableClear pin s
  | .pinStuck pin tick => Sys2Proof.Machine.execPinStuck pin tick s
  | .turnSyncPulse sinceLast err => Sys2Proof.Machine.execTurnSyncPulse sinceLast err s
  | .syncLost => Sys2Proof.Machine.execSyncLost s
  | .resync err => Sys2Proof.Machine.execResync err s
  | .backupMasterTakeover => Sys2Proof.Machine.execBackupMasterTakeover s
  | .pcieHotReset => Sys2Proof.Machine.execPcieHotReset s
  | .pcieLinkDown => Sys2Proof.Machine.execPcieLinkDown s
  | .pfFlr => Sys2Proof.Machine.execPfFlr s
  | .vfFlr v => Sys2Proof.Machine.execVfFlr v s
  | .d3hotEntry f => Sys2Proof.Machine.execD3hotEntry f s
  | .d0Return f => Sys2Proof.Machine.execD0Return f s
  | .linkNarrow width gen => Sys2Proof.Machine.execLinkNarrow width gen s
  | .errResetWarm rid => Sys2Proof.Machine.execErrResetWarm rid s
  | .errResetCold rid b => Sys2Proof.Machine.execErrResetCold rid b s
  | .regWrite rid f off v whole => Sys2Proof.Machine.execRegWrite rid f off v whole s
  | .guardedWriteStage rid f off v => Sys2Proof.Machine.execGuardedWriteStage rid f off v s
  | .guardedWriteCommit rid f off v => Sys2Proof.Machine.execGuardedWriteCommit rid f off v s
  | .guardExpire rid f off v => Sys2Proof.Machine.execGuardExpire rid f off v s
  | .setAliasWrite rid f off v => Sys2Proof.Machine.execSetAliasWrite rid f off v s
  | .clearAliasWrite rid f off v => Sys2Proof.Machine.execClearAliasWrite rid f off v s
  | .toggleAliasWrite rid f off v => Sys2Proof.Machine.execToggleAliasWrite rid f off v s
  | .w1cWrite rid f off v => Sys2Proof.Machine.execW1cWrite rid f off v s
  | .loReadLatch rid f off => Sys2Proof.Machine.execLoReadLatch rid f off s
  | .hifEnableSet rid f => Sys2Proof.Machine.execHifEnableSet rid f s
  | .hifEnableClear rid f => Sys2Proof.Machine.execHifEnableClear rid f s
  | .dbmodeWrite rid v => Sys2Proof.Machine.execDbmodeWrite rid v s
  | .sealNow rid => Sys2Proof.Machine.execSealNow rid s
  | .measure rid dropMv stepMv volt => Sys2Proof.Machine.execMeasure rid dropMv stepMv volt s
  | .windowNow rid => Sys2Proof.Machine.execWindowNow rid s
  | .cntFreeze rid c on => Sys2Proof.Machine.execCntFreeze rid c on s
  | .run ring d => Sys2Proof.Machine.execRun ring d s
  | .ringEnable ring d => Sys2Proof.Machine.execRingEnable ring d s
  | .ringDisable ring d => Sys2Proof.Machine.execRingDisable ring d s
  | .ringResume ring d => Sys2Proof.Machine.execRingResume ring d s
  | .planLoad ring d => Sys2Proof.Machine.execPlanLoad ring d s
  | .planUnload ring d => Sys2Proof.Machine.execPlanUnload ring d s
  | .wsetLoad ring d => Sys2Proof.Machine.execWsetLoad ring d s
  | .epochStage ring d => Sys2Proof.Machine.execEpochStage ring d s
  | .partitionReset ring d => Sys2Proof.Machine.execPartitionReset ring d s
  | .slotWrite ring d => Sys2Proof.Machine.execSlotWrite ring d s
  | .slotActivate ring d => Sys2Proof.Machine.execSlotActivate ring d s
  | .activateTakeover => Sys2Proof.Machine.execActivateTakeover s
  | .activateFinal => Sys2Proof.Machine.execActivateFinal s
  | .fwRejected => Sys2Proof.Machine.execFwRejected s
  | .sessionChallenge ring d => Sys2Proof.Machine.execSessionChallenge ring d s
  | .sessionOpen ring d => Sys2Proof.Machine.execSessionOpen ring d s
  | .sessionClose ring d => Sys2Proof.Machine.execSessionClose ring d s
  | .challengeExpire group => Sys2Proof.Machine.execChallengeExpire group s
  | .lockoutExpire kslot => Sys2Proof.Machine.execLockoutExpire kslot s
  | .keyProvision ring d => Sys2Proof.Machine.execKeyProvision ring d s
  | .keyList ring d => Sys2Proof.Machine.execKeyList ring d s
  | .sealRequest ring d => Sys2Proof.Machine.execSealRequest ring d s
  | .takeOwnership ring d => Sys2Proof.Machine.execTakeOwnership ring d s
  | .sbChallenge kslot => Sys2Proof.Machine.execSbChallenge kslot s
  | .sbOpen kslot role mac => Sys2Proof.Machine.execSbOpen kslot role mac s
  | .sbRead handle off count => Sys2Proof.Machine.execSbRead handle off count s
  | .sbWrite handle off value => Sys2Proof.Machine.execSbWrite handle off value s
  | .sbClose handle => Sys2Proof.Machine.execSbClose handle s
  | .sbIdleTimeout handle => Sys2Proof.Machine.execSbIdleTimeout handle s
  | .getVersion port => Sys2Proof.Machine.execGetVersion port s
  | .getCapabilities port => Sys2Proof.Machine.execGetCapabilities port s
  | .negotiateAlgorithms port => Sys2Proof.Machine.execNegotiateAlgorithms port s
  | .getDigests port => Sys2Proof.Machine.execGetDigests port s
  | .getCertificate port slot offset length => Sys2Proof.Machine.execGetCertificate port slot offset length s
  | .challenge port slot nonce => Sys2Proof.Machine.execChallenge port slot nonce s
  | .getMeasurements port index sign nonce => Sys2Proof.Machine.execGetMeasurements port index sign nonce s
  | .data p f => Sys2Proof.Machine.execData p f s
  | .release p f => Sys2Proof.Machine.execRelease p f s
  | .e2eAck p f => Sys2Proof.Machine.execE2eAck p f s
  | .linkAck p f => Sys2Proof.Machine.execLinkAck p f s
  | .sync p f err => Sys2Proof.Machine.execSync p f err s
  | .peer p f => Sys2Proof.Machine.execPeer p f s
  | .notice p f => Sys2Proof.Machine.execNotice p f s
  | .idle p f => Sys2Proof.Machine.execIdle p f s
  | .e2eTimeout dst => Sys2Proof.Machine.execE2eTimeout dst s
  | .portDownNotice p => Sys2Proof.Machine.execPortDownNotice p s
  | .laneSpared lane => Sys2Proof.Machine.execLaneSpared lane s
  | .routeLost dst => Sys2Proof.Machine.execRouteLost dst s
  | .linkOrphan src index => Sys2Proof.Machine.execLinkOrphan src index s
  | .linkTrainRetry lane result => Sys2Proof.Machine.execLinkTrainRetry lane result s
  | .maintWindowOpen => Sys2Proof.Machine.execMaintWindowOpen s
  | .replan r => Sys2Proof.Machine.execReplan r s
  | .retireWaitExpire => Sys2Proof.Machine.execRetireWaitExpire s
  | .ppsInLoss => Sys2Proof.Machine.execPpsInLoss s
  | .nvStoreDone => Sys2Proof.Machine.execNvStoreDone s
  | .stagingCopyFilled ring seq => Sys2Proof.Machine.execStagingCopyFilled ring seq s
  | .wordResultsDelivered c unit => Sys2Proof.Machine.execWordResultsDelivered c unit s
  | .configurationRequest q => Sys2Proof.Machine.execConfigurationRequest q s
  | .pcieLinkUp width gen => Sys2Proof.Machine.execPcieLinkUp width gen s
  | .regRead rid f off size => Sys2Proof.Machine.execRegRead rid f off size s
  | .mctpControlMessage m => Sys2Proof.Machine.execMctpControlMessage m s
  | .alertResponseAddress => Sys2Proof.Machine.execAlertResponseAddress s
  | .msixUnmask f x => Sys2Proof.Machine.execMsixUnmask f x s
  | .pllLossOfLock pll => Sys2Proof.Machine.execPllLossOfLock pll s

end Sys2Proof.Machine
end

