-- ==== Sys2Proof/Safety.lean ====
section
/-! DEFINITION. What counts as a safe run, and the terms in which statements speak of a core that can take a word. -/

namespace Sys2Proof.Machine

/-- A step goes on: it neither faults nor refuses. -/
def goesOn (o : Host.Outcome State Fault Refusal) : Prop := ∃ t, o = .next t

/-- A record is held for ring 1: in the error queue, or in its overflow (13 R363, R365). -/
def State.recorded (s : State) (r : ErrRec) : Prop := r ∈ s.errs.queue ∨ r ∈ s.errs.overflow

/-- A record of a cause about an instance is held for ring 1, under the turn `turn`. -/
def State.tells (t : State) (turn : Nat) (c : Cause) (inst : Nat) : Prop :=
  ∃ r, t.recorded r ∧ r.turn = turn ∧ r.sev = c.sev ∧ r.cause = c.code ∧ r.inst = inst

/-- A corrected error has been told: its record is held, merged into one that is held, or counted as dropped. -/
def State.notes (t s : State) (c : Cause) (inst : Nat) : Prop :=
  t.tells s.turn.number c inst ∨ t.errs.dropped = s.errs.dropped + 1

/-- Placed slice `i` has aborted with a cause: nothing of it is staged, and no effect of its cores is on its way. -/
def State.aborted (t : State) (i cause : Nat) : Prop :=
  ∃ q, t.placedAt i = some q ∧ q.st = .aborted cause ∧ q.overlay = [] ∧ q.out = [] ∧ ∀ l ∈ t.mesh, l.src ∉ q.cores

/-- Everything of a state as before but its registers, error records, audit records, NV image and counter of free values. -/
structure State.sameBody (t s : State) : Prop where
  access : t.access = s.access
  cores : t.cores = s.cores
  mesh : t.mesh = s.mesh
  hbm : t.hbm = s.hbm
  host : t.host = s.host
  plans : t.plans = s.plans
  rings : t.rings = s.rings
  works : t.works = s.works
  wsets : t.wsets = s.wsets
  turn : t.turn = s.turn
  epochs : t.epochs = s.epochs
  sec : t.sec = s.sec
  links : t.links = s.links
  power : t.power = s.power
  thermal : t.thermal = s.thermal
  witness : t.witness = s.witness
  pending : t.pending = s.pending

/-- The brake is engaged in `t`; where `s` had it released, it is counted, the turn is braked, and every slice that runs is charged
ND_BRAKE and goes on. -/
structure State.brakeEngaged (t s : State) : Prop where
  brake : t.flag tlsBrake = true
  count : t.fld tlsBrakeCount = (s.fld tlsBrakeCount + (if s.flag tlsBrake then 0 else 1)) % 2 ^ tlsBrakeCount.width
  braked : s.flag tlsBrake = false → t.turn.braked = true
  charged : s.flag tlsBrake = false → ∀ i p, s.placedAt i = some p → p.st = .running →
    ∃ q, t.placedAt i = some q ∧ q.st = .running ∧ 0 ∈ q.nd
  cores : t.cores = s.cores
  works : t.works = s.works
  hbm : t.hbm = s.hbm
  host : t.host = s.host

/-- A state whose functions have their configuration state and their MSI-X tables as after a reset. -/
def State.unconfigured (s : State) : State := { s with access := { s.access with vfEnable := false, atomicEn := [], msix := [] } }

/-- The rails of the dies are off: no core, memory, plan, ring or work keeps anything; host memory stays. -/
structure State.unpowered (t s : State) : Prop where
  cores : ∀ c, (t.core c).mem = [] ∧ (t.core c).chuck = []
  hbm : t.hbm.bytes = []
  mesh : t.mesh = []
  plans : t.plans = []
  rings : t.rings = []
  works : t.works = []
  host : t.host = s.host

/-- A flit that arrives on port `p` passes the hop level as type `ft`: the port works, the CRC and LSEQ are right, the type is known and no
reserved bit is set (14 R379, R380). -/
structure State.hops (s : State) (ft p : Nat) (f : Flit) : Prop where
  lanes : (s.port p).lanes ≠ []
  down : (s.port p).down = false
  state : 5 ≤ (s.port p).state
  crc : flitCrcOk f = true
  lseq : f.lseq.toNat % 4096 = (s.port p).rxSeq
  ftype : f.ftype.toNat = ft
  reserved : flitReserved f = false

/-- A flit of a pair that is for this chip and next in ESEQ order, with nothing held ahead, and room for it (14 R385, R386). -/
structure State.pairs (s : State) (f : Flit) : Prop where
  dst : f.dst.toNat = s.links.topo.self
  eseq : f.eseq.toNat = (s.pairIn f.src.toNat).expect
  ahead : (s.pairIn f.src.toNat).ahead = []
  room : s.inboundFull f = false

/-- The type, port and flit of a flit command. -/
def flitCmd (i : Instr) : Option (Nat × Nat × Flit) :=
  match i with
  | .data p f => some (ftData, p.val, f)
  | .release p f => some (ftRelease, p.val, f)
  | .e2eAck p f => some (ftE2eAck, p.val, f)
  | .linkAck p f => some (ftLinkAck, p.val, f)
  | .sync p f _ => some (ftSync, p.val, f)
  | .peer p f => some (ftPeer, p.val, f)
  | .notice p f => some (ftNotice, p.val, f)
  | .idle p f => some (0, p.val, f)
  | _ => none

/-- The part in a cold reset: no session open, no guarded value held, core memories and Chucks clear, nothing on the mesh. -/
structure State.coldHeld (t : State) : Prop where
  state : t.power.state = .cold
  cores : ∀ c, (t.core c).mem = [] ∧ (t.core c).chuck = [] ∧ (t.core c).ctx.work = none
  sessions : t.sec.sessions = [] ∧ t.sec.sbSessions = []
  mesh : t.mesh = []
  guards : t.access.guards = []

/-- The part after a cold reset: with PERST_N deasserted it stands at BOOT_STAGE 4. -/
structure State.coldStarted (t : State) : Prop extends State.coldHeld t where
  stage : t.power.perst = false → t.fld nviBootStage = 4

/-- The part after a warm reset (13 R350): cores, Chucks and core memories clear, guarded values and the turn in progress gone, every
ENABLE clear, BOOT_STAGE 5; HBM, host memory, plans, rings, sessions and the NV image as they were, and work it interrupts on this chip
starts again. -/
structure State.warmStarted (t s : State) : Prop where
  state : t.power.state = (if s.power.state = .ready then .warm else s.power.state)
  ready : t.flag nviReady = false
  stage : t.fld nviBootStage = 5
  enables : ∀ f, f < 64 → t.hif f hifEnable = 0
  cores : ∀ c, (t.core c).mem = [] ∧ (t.core c).chuck = [] ∧ (t.core c).ctx.work = none
  mesh : t.mesh = []
  guards : t.access.guards = []
  placed : t.turn.placed = []
  works : ∀ w ∈ s.works, w.interrupted = true → s.multiChip w = false → w.restart ∈ t.works
  hbm : t.hbm = s.hbm
  host : t.host = s.host
  plans : t.plans = s.plans
  rings : t.rings = s.rings
  sec : t.sec = s.sec
  nv : t.nv = s.nv

/-! ### Descriptors -/

/-- Ring `r` takes a descriptor whose SEQ is `seq`: the engine fetches, the function is active, the ring is enabled and free of error, and
the sequence number is the next one. -/
structure State.samples (s : State) (r : Nat) (x : Ring) (seq : Nat) : Prop where
  ring : s.ring r = some x
  fetch : s.fetchOpen = true
  active : s.fnActive x.fn = true
  sampled : x.sampled = true
  next : seq = x.acc + 1
  fresh : s.findWork r seq = none

/-- The state once a descriptor has been journalled (11 R306). -/
def State.accepted (s : State) (r : Nat) (x : Ring) (desc : List Byte) : State := s.journal r x (s.workOf r x desc)

/-- An admin descriptor that is taken, and passes the checks of admin descriptors (11 R315; 16 R435). -/
structure State.runsAdmin (s : State) (r : Nat) (x : Ring) (op : Nat) (d : AdminDesc) : Prop extends State.samples s r x d.seq.toNat where
  admin : s.isAdminRing r = true
  passes : (s.accepted r x (adminBytes op d)).adminCheck (s.workOf r x (adminBytes op d)) = none

/-- The ring, OP and fields of an admin descriptor command. -/
def adminCmd (i : Instr) : Option (Nat × Nat × AdminDesc) :=
  match i with
  | .ringEnable r d => some (r.val, 0x10, d)
  | .ringDisable r d => some (r.val, 0x11, d)
  | .ringResume r d => some (r.val, 0x12, d)
  | .planLoad r d => some (r.val, 0x20, d)
  | .planUnload r d => some (r.val, 0x21, d)
  | .wsetLoad r d => some (r.val, 0x30, d)
  | .epochStage r d => some (r.val, 0x40, d)
  | .partitionReset r d => some (r.val, 0x41, d)
  | .slotWrite r d => some (r.val, 0x48, d)
  | .slotActivate r d => some (r.val, 0x49, d)
  | .sessionChallenge r d => some (r.val, 0x50, d)
  | .sessionOpen r d => some (r.val, 0x51, d)
  | .sessionClose r d => some (r.val, 0x52, d)
  | .keyProvision r d => some (r.val, 0x53, d)
  | .takeOwnership r d => some (r.val, 0x54, d)
  | .sealRequest r d => some (r.val, 0x56, d)
  | .keyList r d => some (r.val, 0x57, d)
  | _ => none

/-- The descriptor of a work completes with a status. -/
def State.finished (t : State) (r seq st : Nat) : Prop := ∃ w, t.findWork r seq = some w ∧ w.result = some st

/-- The descriptor of a work waits for what `a` says. -/
def State.awaits (t : State) (r seq : Nat) (a : AdminWait) : Prop := ∃ w, t.findWork r seq = some w ∧ w.result = none ∧ w.admin = a

/-! ### Cores that can take a word -/

/-- A core with nothing queued, and no unit blocked or stalled. A pass of a stream engine may be open. -/
structure Core.calm (k : Core) : Prop where
  waiting : ∀ u, (k.unit u).waiting = []
  blocked : ∀ u, (k.unit u).blocked = none
  stall : ∀ u, (k.unit u).stall = 0

/-- A core that waits for its next word. -/
structure Core.quiet (k : Core) : Prop extends Core.calm k where
  held : k.seq.held = []
  ending : k.seq.ending = none

/-- The core once word `w`, the only one that waits, has dispatched. -/
def State.atDispatch (s : State) (c : Nat) (w : OpWord) : Core :=
  match (s.setCore c { (s.core c) with seq := { (s.core c).seq with held := [w] } }).dispatch c w with
  | some t => { (t.core c) with seq := { (t.core c).seq with held := [] } }
  | none => s.core c

/-- The core as word `w` finds it when it begins: dispatched, the mapping of the cycle's end in force, and the counter of its free values
advanced. -/
def State.atBegin (s : State) (c : Nat) (w : OpWord) : Core := (s.atDispatch c w).ahead

/-- Word `w` as its unit's queue holds it. -/
def State.asDispatched (s : State) (c : Nat) (w : OpWord) : Dispatched :=
  ⟨w, (s.core c).seq.counters, (s.atDispatch c w).seq.cycle⟩

/-- Words that act on the core alone, in a unit, with one beginning. -/
def onCoreWord : OpWord → Bool
  | .mma _ => true | .mmaT _ => true | .conv _ => true | .gradPair _ => true
  | .qzero _ => true | .qstore _ => true | .qimgSt _ => true | .qimgLd _ => true
  | .redMax _ => true | .redMin _ => true | .redTopk _ => true
  | .fn _ => true | .shape _ => true | .gate _ => true | .smaxStep _ => true | .normStats _ => true | .normApply _ => true
  | .tblLoad _ => true | .deriv _ => true | .elem _ => true | .sel _ => true
  | .calTapOpen _ => true | .calTapPush _ => true | .calTapClose _ => true | .scaleAdapt _ => true | .quant _ => true
  | .reqLoad _ => true
  | _ => false

/-- The parts of a core that a word's own effect reaches. -/
structure Core.effect (k k1 : Core) : Prop where
  mem : k.mem = k1.mem
  chuck : k.chuck = k1.chuck
  slots : k.slots = k1.slots
  requant : k.requant = k1.requant
  arrA : k.arrA = k1.arrA
  arrB : k.arrB = k1.arrB
  accSetA : k.accSetA = k1.accSetA
  accSetB : k.accSetB = k1.accSetB
  cal : k.cal = k1.cal
  flights : k.flights = k1.flights
  summary : k.summary = k1.summary
  counts : k.counts = k1.counts
  freeCtr : k.freeCtr = k1.freeCtr

/-- What no word of a unit reaches but through its engine. -/
structure Core.beyond (k k0 : Core) : Prop where
  swaps : k.swaps = k0.swaps
  counters : k.counters = k0.counters
  ctx : k.ctx = k0.ctx
  body : k.body = k0.body
  xchip : k.xchip = k0.xchip
  loops : k.seq.loops = k0.seq.loops
  marks : k.seq.marks = k0.seq.marks
  ended : k.seq.ended = k0.seq.ended

/-- What no word of the core alone reaches. -/
structure Core.outside (k k0 : Core) : Prop extends Core.beyond k k0 where
  engines : k.engines = k0.engines

/-- Word `w` can begin on core `c`: the core is quiet, load validation lets the word through, no credit edge holds it back, and it waits
for no SWAP that could still dispatch before it begins (08 R225). -/
structure Begins (s : State) (c : Nat) (w : OpWord) : Prop where
  quiet : (s.core c).quiet
  ok : wordOk w = true
  reads : ∀ v ∈ unitsOf w, (s.atBegin c w).readStall v (Core.readsOf c (s.atBegin c w) w) = none
  prompt : (s.core c).swapping = false
    ∨ ∀ v ∈ unitsOf w, ((s.atDispatch c w).unit v).freeAt ≤ (s.atDispatch c w).seq.cycle

/-- Core `c` is ready for word `w`, by its state and the word alone: it is quiet, its slice has no credit edges and no swap pairs, and
load validation lets the word through. -/
structure Ready (s : State) (c : Nat) (w : OpWord) : Prop where
  quiet : (s.core c).quiet
  ok : wordOk w = true
  edges : (s.core c).ctx.edges = []
  still : (s.core c).swapping = false

/-- Word `w` can take effect on core `c`, in unit `u`: it can begin, its own checks pass, and its effect on the core it finds is `k1`. -/
structure Runs (s : State) (c : Nat) (w : OpWord) (u : UnitId) (k1 : Core) : Prop extends Begins s c w where
  unit : (unitsOf w).head? = some u
  effect : Core.pureWord c (s.atBegin c w) u w = .ok k1
  writes : (s.atBegin c w).writeFree u (newRanges (s.atBegin c w) k1) = true

/-- Core `c` is ready for word `w`, no codebook in use holds a NaR, and the descriptor, table or block that the word names is a valid one
(01 R28; 03 R97; 04 R116; 05 R133, R140, R149; 06 R163, R170, R182; 07 R196). -/
def ReadySound (s : State) (c : Nat) (w : OpWord) : Prop := Ready s c w ∧ (s.atBegin c w).faultOf c w = none

/-- A word of the core alone completes with its own effect, and with nothing else. -/
def completes (s : State) (c : Nat) (w : OpWord) (o : Host.Outcome State Fault Refusal) : Prop :=
  ∃ k2, o = .next (s.setCore c k2) ∧ k2.effect ((s.atBegin c w).perform c 0 w) ∧ k2.outside (s.core c) ∧ k2.quiet

/-- A word has taken effect once: on what it reaches as `k1` says, and on nothing else of the core or the state. -/
def tookEffect (s : State) (c : Nat) (k1 : Core) (o : Host.Outcome State Fault Refusal) : Prop :=
  ∃ k2, o = .next (s.setCore c k2) ∧ k2.effect k1 ∧ k2.outside (s.core c) ∧ k2.quiet

/-- A stream word of engine `e` has taken effect on a core that it finds as `k1`: the engine is `g`, every other engine as before. -/
def tookStream (s : State) (c e : Nat) (k1 : Core) (g : Engine) (o : Host.Outcome State Fault Refusal) : Prop :=
  ∃ k2, o = .next (s.setCore c k2) ∧ k2.effect k1 ∧ k2.beyond (s.core c) ∧ k2.quiet ∧ k2.engine e = g
    ∧ ∀ i, i ≠ e → k2.engine i = (s.core c).engine i

/-- A word of the remote-operation port has begun on a core that it finds as `k1`: `ls` are on their way, and the port waits for `b`. -/
def tookRemote (s : State) (c : Nat) (k1 : Core) (ls : List Landing) (b : Option Blocked) (o : Host.Outcome State Fault Refusal) : Prop :=
  ∃ k2, o = .next { (s.setCore c k2) with mesh := s.mesh ++ ls } ∧ k2.effect k1 ∧ k2.outside (s.core c)
    ∧ k2.seq.held = [] ∧ (∀ v, (k2.unit v).waiting = [] ∧ (k2.unit v).blocked = if v = unitRemote then b else none)

/-- A core whose sequencer has dispatched one word in cycle `t`. -/
def Core.stepped (k : Core) (t n : Nat) (l : List UnitId) : Core :=
  { k with seq := { k.seq with cycle := t, slots := n, units := l, pos := k.seq.pos + 1 } }

end Sys2Proof.Machine
end

