-- ==== Sys2Proof/WellFormed.lean ====
section
/-! DEFINITION. Which commands are well formed: an operation word must pass the checks of load validation that a word shows by
itself (02 R50, R53), since no other word reaches a core. Every other command's operands are bounded by their types. -/

namespace Sys2Proof

/-- The operation word that a word command gives to its core. -/
def Instr.word : Instr → Option OpWord
  | .mma _ w _ => some (.mma w)
  | .mmaT _ w _ => some (.mmaT w)
  | .conv _ w _ => some (.conv w)
  | .gradPair _ w _ => some (.gradPair w)
  | .lutCfg _ w => some (.lutCfg w)
  | .arrCfg _ w => some (.arrCfg w)
  | .qzero _ w => some (.qzero w)
  | .qstore _ w => some (.qstore w)
  | .qimgSt _ w => some (.qimgSt w)
  | .qimgLd _ w => some (.qimgLd w)
  | .redMax _ w => some (.redMax w)
  | .redMin _ w => some (.redMin w)
  | .redTopk _ w => some (.redTopk w)
  | .treeStep _ w => some (.treeStep w)
  | .fn _ w => some (.fn w)
  | .shape _ w => some (.shape w)
  | .gate _ w => some (.gate w)
  | .smaxStep _ w => some (.smaxStep w)
  | .normStats _ w => some (.normStats w)
  | .normApply _ w => some (.normApply w)
  | .tblLoad _ w => some (.tblLoad w)
  | .deriv _ w => some (.deriv w)
  | .elem _ w => some (.elem w)
  | .sel _ w => some (.sel w)
  | .streamDef _ w => some (.streamDef w)
  | .streamStart _ w => some (.streamStart w)
  | .streamRearm _ w => some (.streamRearm w)
  | .streamStop _ w _ => some (.streamStop w)
  | .put _ w => some (.put w)
  | .get _ w => some (.get w)
  | .qadd _ w => some (.qadd w)
  | .signal _ w => some (.signal w)
  | .wait _ w => some (.wait w)
  | .fence _ w => some (.fence w)
  | .swapDef _ w => some (.swapDef w)
  | .swap _ w => some (.swap w)
  | .barLocal _ w => some (.barLocal w)
  | .creditSet _ w => some (.creditSet w)
  | .calTapOpen _ w => some (.calTapOpen w)
  | .calTapPush _ w => some (.calTapPush w)
  | .calTapClose _ w => some (.calTapClose w)
  | .scaleAdapt _ w => some (.scaleAdapt w)
  | .quant _ w => some (.quant w)
  | .hadamard _ w => some (.hadamard w)
  | .smooth _ w => some (.smooth w)
  | .reqLoad _ w => some (.reqLoad w)
  | .nop _ w => some (.nop w)
  | .loop _ w => some (.loop w)
  | .endLoop _ w => some (.endLoop w)
  | .mark _ w => some (.mark w)
  | .sliceEnd _ w => some (.sliceEnd w)
  | _ => none

/-- Whether a command is well formed. -/
def Instr.wf (i : Instr) : Bool :=
  match i.word with
  | some w => Machine.wordOk w
  | none => true

end Sys2Proof
end

