-- ==== Sys2Proof/Certificates/Slice0/Obligations.lean ====
section
/-! DEFINITION. The statements for the provers. -/

open Sys2Proof Sys2Proof.Machine

/-! ### Words of the array units, the Chuck, the Profile unit and the Caliper -/

/-- MMA, MMA_T, CONV and GRAD_PAIR take effect once on a quiet core, as their meanings say, and change nothing else; on a core that is
ready for them, with no NaR in a codebook in use and a valid descriptor, they complete.
What of it is the model's choice, and not the spec's: log entry 8. -/
def Obligations.ArrayWordsTakeEffect : Prop :=
  ∀ (s : State) (c : Fin 144) (u : UnitId) (k1 : Core),
    (∀ w, Runs s c.val (.mma w) u k1 → tookEffect s c.val k1 (exec (.mma c w none) s))
    ∧ (∀ w, Runs s c.val (.mmaT w) u k1 → tookEffect s c.val k1 (exec (.mmaT c w none) s))
    ∧ (∀ w, Runs s c.val (.conv w) u k1 → tookEffect s c.val k1 (exec (.conv c w none) s))
    ∧ (∀ w, Runs s c.val (.gradPair w) u k1 → tookEffect s c.val k1 (exec (.gradPair c w none) s))
    ∧ (∀ w, ReadySound s c.val (.mma w) → completes s c.val (.mma w) (exec (.mma c w none) s))
    ∧ (∀ w, ReadySound s c.val (.mmaT w) → completes s c.val (.mmaT w) (exec (.mmaT c w none) s))
    ∧ (∀ w, ReadySound s c.val (.conv w) → completes s c.val (.conv w) (exec (.conv c w none) s))
    ∧ (∀ w, ReadySound s c.val (.gradPair w) → completes s c.val (.gradPair w) (exec (.gradPair c w none) s))

/-- The words of the Chuck's queue take effect once on a quiet core, and change nothing else; on a core that is ready for them, with a
valid descriptor, channel entry and codebook, they complete.
What of it is the model's choice, and not the spec's: log entry 8. -/
def Obligations.ChuckWordsTakeEffect : Prop :=
  ∀ (s : State) (c : Fin 144) (u : UnitId) (k1 : Core),
    (∀ w, Runs s c.val (.qzero w) u k1 → tookEffect s c.val k1 (exec (.qzero c w) s))
    ∧ (∀ w, Runs s c.val (.qstore w) u k1 → tookEffect s c.val k1 (exec (.qstore c w) s))
    ∧ (∀ w, Runs s c.val (.qimgSt w) u k1 → tookEffect s c.val k1 (exec (.qimgSt c w) s))
    ∧ (∀ w, Runs s c.val (.qimgLd w) u k1 → tookEffect s c.val k1 (exec (.qimgLd c w) s))
    ∧ (∀ w, Runs s c.val (.redMax w) u k1 → tookEffect s c.val k1 (exec (.redMax c w) s))
    ∧ (∀ w, Runs s c.val (.redMin w) u k1 → tookEffect s c.val k1 (exec (.redMin c w) s))
    ∧ (∀ w, Runs s c.val (.redTopk w) u k1 → tookEffect s c.val k1 (exec (.redTopk c w) s))
    ∧ (∀ w, Runs s c.val (.quant w) u k1 → tookEffect s c.val k1 (exec (.quant c w) s))
    ∧ (∀ w, Runs s c.val (.reqLoad w) u k1 → tookEffect s c.val k1 (exec (.reqLoad c w) s))
    ∧ (∀ w, Ready s c.val (.qzero w) → completes s c.val (.qzero w) (exec (.qzero c w) s))
    ∧ (∀ w, Ready s c.val (.qstore w) → completes s c.val (.qstore w) (exec (.qstore c w) s))
    ∧ (∀ w, Ready s c.val (.qimgSt w) → completes s c.val (.qimgSt w) (exec (.qimgSt c w) s))
    ∧ (∀ w, Ready s c.val (.qimgLd w) → completes s c.val (.qimgLd w) (exec (.qimgLd c w) s))
    ∧ (∀ w, ReadySound s c.val (.redMax w) → completes s c.val (.redMax w) (exec (.redMax c w) s))
    ∧ (∀ w, ReadySound s c.val (.redMin w) → completes s c.val (.redMin w) (exec (.redMin c w) s))
    ∧ (∀ w, ReadySound s c.val (.redTopk w) → completes s c.val (.redTopk w) (exec (.redTopk c w) s))
    ∧ (∀ w, ReadySound s c.val (.quant w) → completes s c.val (.quant w) (exec (.quant c w) s))
    ∧ (∀ w, ReadySound s c.val (.reqLoad w) → completes s c.val (.reqLoad w) (exec (.reqLoad c w) s))

/-- The words of the Profile unit take effect once on a quiet core, and change nothing else; on a core that is ready for them, with a
valid descriptor, table and codebook, they complete.
What of it is the model's choice, and not the spec's: log entries 8, 12. -/
def Obligations.ProfileWordsTakeEffect : Prop :=
  ∀ (s : State) (c : Fin 144) (u : UnitId) (k1 : Core),
    (∀ w, Runs s c.val (.fn w) u k1 → tookEffect s c.val k1 (exec (.fn c w) s))
    ∧ (∀ w, Runs s c.val (.shape w) u k1 → tookEffect s c.val k1 (exec (.shape c w) s))
    ∧ (∀ w, Runs s c.val (.gate w) u k1 → tookEffect s c.val k1 (exec (.gate c w) s))
    ∧ (∀ w, Runs s c.val (.smaxStep w) u k1 → tookEffect s c.val k1 (exec (.smaxStep c w) s))
    ∧ (∀ w, Runs s c.val (.normStats w) u k1 → tookEffect s c.val k1 (exec (.normStats c w) s))
    ∧ (∀ w, Runs s c.val (.normApply w) u k1 → tookEffect s c.val k1 (exec (.normApply c w) s))
    ∧ (∀ w, Runs s c.val (.tblLoad w) u k1 → tookEffect s c.val k1 (exec (.tblLoad c w) s))
    ∧ (∀ w, Runs s c.val (.deriv w) u k1 → tookEffect s c.val k1 (exec (.deriv c w) s))
    ∧ (∀ w, Runs s c.val (.elem w) u k1 → tookEffect s c.val k1 (exec (.elem c w) s))
    ∧ (∀ w, Runs s c.val (.sel w) u k1 → tookEffect s c.val k1 (exec (.sel c w) s))
    ∧ (∀ w, ReadySound s c.val (.fn w) → completes s c.val (.fn w) (exec (.fn c w) s))
    ∧ (∀ w, ReadySound s c.val (.shape w) → completes s c.val (.shape w) (exec (.shape c w) s))
    ∧ (∀ w, ReadySound s c.val (.gate w) → completes s c.val (.gate w) (exec (.gate c w) s))
    ∧ (∀ w, ReadySound s c.val (.smaxStep w) → completes s c.val (.smaxStep w) (exec (.smaxStep c w) s))
    ∧ (∀ w, ReadySound s c.val (.normStats w) → completes s c.val (.normStats w) (exec (.normStats c w) s))
    ∧ (∀ w, ReadySound s c.val (.normApply w) → completes s c.val (.normApply w) (exec (.normApply c w) s))
    ∧ (∀ w, ReadySound s c.val (.tblLoad w) → completes s c.val (.tblLoad w) (exec (.tblLoad c w) s))
    ∧ (∀ w, ReadySound s c.val (.deriv w) → completes s c.val (.deriv w) (exec (.deriv c w) s))
    ∧ (∀ w, ReadySound s c.val (.elem w) → completes s c.val (.elem w) (exec (.elem c w) s))
    ∧ (∀ w, ReadySound s c.val (.sel w) → completes s c.val (.sel w) (exec (.sel c w) s))

/-- The words of the Caliper take effect once on a quiet core, and change nothing else; on a core that is ready for them, with a valid
history block and entry, they complete.
What of it is the model's choice, and not the spec's: log entry 8. -/
def Obligations.CaliperWordsTakeEffect : Prop :=
  ∀ (s : State) (c : Fin 144) (u : UnitId) (k1 : Core),
    (∀ w, Runs s c.val (.calTapOpen w) u k1 → tookEffect s c.val k1 (exec (.calTapOpen c w) s))
    ∧ (∀ w, Runs s c.val (.calTapPush w) u k1 → tookEffect s c.val k1 (exec (.calTapPush c w) s))
    ∧ (∀ w, Runs s c.val (.calTapClose w) u k1 → tookEffect s c.val k1 (exec (.calTapClose c w) s))
    ∧ (∀ w, Runs s c.val (.scaleAdapt w) u k1 → tookEffect s c.val k1 (exec (.scaleAdapt c w) s))
    ∧ (∀ w, Ready s c.val (.calTapOpen w) → completes s c.val (.calTapOpen w) (exec (.calTapOpen c w) s))
    ∧ (∀ w, ReadySound s c.val (.calTapPush w) → completes s c.val (.calTapPush w) (exec (.calTapPush c w) s))
    ∧ (∀ w, Ready s c.val (.calTapClose w) → completes s c.val (.calTapClose w) (exec (.calTapClose c w) s))
    ∧ (∀ w, ReadySound s c.val (.scaleAdapt w) → completes s c.val (.scaleAdapt w) (exec (.scaleAdapt c w) s))

/-- ARR_CFG, HADAMARD, SMOOTH and LUT_CFG configure the arrays that UNIT names, and no other, and change nothing else, on every core
on which they can begin; a core that is ready for a word is one. -/
def Obligations.ArrayConfigurations : Prop :=
  ∀ (s : State) (c : Fin 144) (f : ArrCfg → ArrCfg) (w : OpWord) (unit : BitVec 4) (o : Host.Outcome State Fault Refusal),
    Begins s c.val w ∨ Ready s c.val w →
    ((∃ x, w = .arrCfg x ∧ unit = x.unit ∧ o = exec (.arrCfg c x) s ∧ f = fun a => a.withFormats x)
      ∨ (∃ x, w = .hadamard x ∧ unit = x.unit ∧ o = exec (.hadamard c x) s
          ∧ f = fun a => { a with rotOn := x.en == 1, rotBlk := x.blk, rotFmt := x.srcfmt })
      ∨ (∃ x, w = .smooth x ∧ unit = x.unit ∧ o = exec (.smooth c x) s
          ∧ f = fun a => { a with smoothOn := x.en == 1, smoothBase := x.svBase, smoothFmt := x.srcfmt })
      ∨ (∃ x, w = .lutCfg x ∧ unit = x.unit ∧ o = exec (.lutCfg c x) s ∧ (s.core c.val).flights = []
          ∧ f = fun a => { a with codebook := (s.atBegin c.val (.lutCfg x)).codebookAt c.val 0 (addr64 x.cbBase) })) →
    ∃ k2, o = .next (s.setCore c.val k2)
      ∧ k2.arrA = (if unit.toNat ≠ 1 then f (s.core c.val).arrA else (s.core c.val).arrA)
      ∧ k2.arrB = (if unit.toNat ≠ 0 then f (s.core c.val).arrB else (s.core c.val).arrB)
      ∧ k2.mem = (s.core c.val).mem ∧ k2.chuck = (s.core c.val).chuck ∧ k2.slots = (s.core c.val).slots
      ∧ k2.requant = (s.core c.val).requant ∧ k2.cal = (s.core c.val).cal ∧ k2.accSetA = (s.core c.val).accSetA
      ∧ k2.accSetB = (s.core c.val).accSetB ∧ k2.summary = (s.core c.val).summary ∧ k2.flights = (s.core c.val).flights
      ∧ k2.outside (s.core c.val) ∧ k2.quiet

/-! ### Words that run in the sequencer -/

/-- NOP, SWAP_DEF, SWAP, CREDIT_SET, MARK and BAR_LOCAL on a quiet core: what each changes is all that changes, the sequencer's position
and cycle apart. LOOP opens a loop with counter 0; ENDLOOP goes back while iterations remain, with the counter one higher, and else
closes the innermost loop. Neither takes a dispatch cycle, and neither changes anything else. -/
def Obligations.SequencerWords : Prop :=
  (∀ (s : State) (c : Fin 144), (s.core c.val).quiet →
     (∀ w, wordOk (.nop w) = true → ∃ t n l, exec (.nop c w) s = .next (s.setCore c.val ((s.core c.val).stepped t n l)))
     ∧ (∀ w, wordOk (.barLocal w) = true → (∀ u ∈ barUnits w, s.unitIdle c.val u = true) →
         ∃ t n l, exec (.barLocal c w) s = .next (s.setCore c.val ((s.core c.val).stepped t n l)))
     ∧ (∀ w, wordOk (.swapDef w) = true → ∃ t n l, exec (.swapDef c w) s = .next (s.setCore c.val
         { ((s.core c.val).stepped t n l) with 
           swaps := SMap.set none (s.core c.val).swaps w.pair.toNat (some ⟨64 * w.wBase.toNat, 64 * w.hsize.toNat, false⟩) }))
     ∧ (∀ w p, wordOk (.swap w) = true → SMap.get none (s.core c.val).swaps w.pair.toNat = some p →
         ∃ t n l, exec (.swap c w) s = .next (s.setCore c.val
           { ((s.core c.val).stepped t n l) with
             swaps := SMap.set none (s.core c.val).swaps w.pair.toNat (some { p with flipped := !p.flipped }) }))
     ∧ (∀ w, wordOk (.creditSet w) = true → ∃ t n l, exec (.creditSet c w) s = .next (s.setCore c.val
         (((s.core c.val).stepped t n l).creditSet w.edge.toNat w.filled.toNat)))
     ∧ (∀ w, wordOk (.mark w) = true → s.flag audTraceLevel = true →
         ∃ t n l, exec (.mark c w) s = .next (if (s.core c.val).seq.marks.length < 16 then
             s.setCore c.val { ((s.core c.val).stepped t n l) with
               seq := { ((s.core c.val).stepped t n l).seq with
                 marks := (s.core c.val).seq.marks ++ [⟨w.value, (s.core c.val).ctx.logical, t⟩] } }
           else (s.setCore c.val ((s.core c.val).stepped t n l)).bump audMarkDrop 1)))
  ∧ (∀ (s : State) (c : Fin 144), (s.core c.val).quiet →
       (∀ w, wordOk (.loop w) = true → (s.core c.val).seq.loops.length < 4 →
         exec (.loop c w) s = .next (s.setCore c.val { (s.core c.val) with seq := { (s.core c.val).seq with
           loops := (w.trip.toNat, 0, (s.core c.val).seq.pos + 1) :: (s.core c.val).seq.loops
           pos := (s.core c.val).seq.pos + 1 } }))
       ∧ (∀ w trip n first rest, wordOk (.endLoop w) = true → (s.core c.val).seq.loops = (trip, n, first) :: rest →
         exec (.endLoop c w) s = .next (s.setCore c.val { (s.core c.val) with seq :=
           if n + 1 < trip then { (s.core c.val).seq with loops := (trip, n + 1, first) :: rest, pos := first }
           else { (s.core c.val).seq with loops := rest, pos := (s.core c.val).seq.pos + 1 } })))

/-- SLICE_END ends the slice of a core that runs one by itself and whose units are all idle: the placed slice has ended. -/
def Obligations.SliceEndEndsTheSlice : Prop :=
  ∀ (s : State) (c : Fin 144) (w : PlainWord) (i : Nat) (p : Placed),
    (s.core c.val).quiet → wordOk (.sliceEnd w) = true → (∀ u, s.unitIdle c.val u = true) → (s.core c.val).seq.ended = none →
    (s.core c.val).ctx.work = some i → s.placedAt i = some p → p.cores = [c.val] → p.st = .running →
    ∃ t cyc p', exec (.sliceEnd c w) s = .next t ∧ t.placedAt i = some p' ∧ p'.st = .ended cyc
      ∧ p'.flags = (s.core c.val).summary.toNat ∧ p'.marks = (s.core c.val).seq.marks
      ∧ (t.core c.val).mem = (s.core c.val).mem ∧ (∀ d, d ≠ c.val → t.core d = s.core d)
      ∧ t.regs = s.regs ∧ t.works = s.works ∧ t.hbm = s.hbm ∧ t.mesh = s.mesh

/-! ### Stream, remote and tree words -/

/-- STREAM_DEF loads a valid descriptor, STREAM_START opens a pass over the loop counters and swap mapping in force, STREAM_REARM
holds the bases for the next turn head, STREAM_STOP disarms the engine and ends its pass, at once or after the requests in flight; each
leaves every other engine as it was. A stopped descriptor that an earlier slice left is gone. Each word completes on a core that is ready
for it: STREAM_DEF with an idle engine and a valid descriptor, STREAM_START with an idle engine that holds a descriptor, STREAM_REARM
with an armed engine, STREAM_STOP always.
What of it is the model's choice, and not the spec's: log entry 16. -/
def Obligations.StreamWords : Prop :=
  ∀ (s : State) (c : Fin 144),
    (∀ w, let k := s.atBegin c.val (.streamDef w)
      let b := k.rdBytes c.val (unitStream w.unit.toNat) (addr64 w.sdBase) 128
      Begins s c.val (.streamDef w) → ((s.core c.val).engine w.unit.toNat).pass = none → k.streamInvalid w.unit.toNat b = false →
      tookStream s c.val w.unit.toNat k { desc := some (streamDescOf b), armed := (streamDescOf b).persist } (exec (.streamDef c w) s))
    ∧ (∀ w d, let g := (s.core c.val).engine w.unit.toNat
      Begins s c.val (.streamStart w) → g.pass = none → g.desc = some d →
      tookStream s c.val w.unit.toNat (s.atBegin c.val (.streamStart w))
        { g with pass := some { desc := d, loops := (s.core c.val).seq.counters, swaps := (s.atBegin c.val (.streamStart w)).swaps, done := 0 } }
        (exec (.streamStart c w) s))
    ∧ (∀ w, let k := s.atBegin c.val (.streamRearm w)
      let g := (s.core c.val).engine w.unit.toNat
      let b := k.rdBytes c.val (unitStream w.unit.toNat) (addr64 w.raBase) 16
      Begins s c.val (.streamRearm w) → g.armed = true →
      tookStream s c.val w.unit.toNat
        { k with counts := { k.counts with rearmReplaced := k.counts.rearmReplaced + if g.pending.isSome then 1 else 0 } }
        { g with pending := some (fieldAt b 0 8, fieldAt b 8 8) } (exec (.streamRearm c w) s))
    ∧ (∀ w n, let g := (s.core c.val).engine w.unit.toNat
      Begins s c.val (.streamStop w) →
      tookStream s c.val w.unit.toNat (s.atBegin c.val (.streamStop w))
        { g with
          armed := false
          desc := if g.carried then none else g.desc
          inFlight := n
          pass := if n = 0 then none else g.pass.map (fun p => { p with limit := some n }) } (exec (.streamStop c w n) s))
    ∧ (∀ w, let k := s.atBegin c.val (.streamDef w)
      let b := k.rdBytes c.val (unitStream w.unit.toNat) (addr64 w.sdBase) 128
      Ready s c.val (.streamDef w) → ((s.core c.val).engine w.unit.toNat).pass = none → k.streamInvalid w.unit.toNat b = false →
      ∃ k2, exec (.streamDef c w) s = .next (s.setCore c.val k2)
        ∧ k2.engine w.unit.toNat = { desc := some (streamDescOf b), armed := (streamDescOf b).persist })
    ∧ (∀ w d, Ready s c.val (.streamStart w) → ((s.core c.val).engine w.unit.toNat).pass = none →
      ((s.core c.val).engine w.unit.toNat).desc = some d → ∃ k2, exec (.streamStart c w) s = .next (s.setCore c.val k2)
        ∧ (k2.engine w.unit.toNat).pass = some
            { desc := d, loops := (s.core c.val).seq.counters, swaps := (s.atBegin c.val (.streamStart w)).swaps, done := 0 })
    ∧ (∀ w, let b := (s.atBegin c.val (.streamRearm w)).rdBytes c.val (unitStream w.unit.toNat) (addr64 w.raBase) 16
      Ready s c.val (.streamRearm w) → ((s.core c.val).engine w.unit.toNat).armed = true →
      ∃ k2, exec (.streamRearm c w) s = .next (s.setCore c.val k2)
        ∧ (k2.engine w.unit.toNat).pending = some (fieldAt b 0 8, fieldAt b 8 8))
    ∧ (∀ w n, Ready s c.val (.streamStop w) → ∃ k2, exec (.streamStop c w n) s = .next (s.setCore c.val k2)
        ∧ (k2.engine w.unit.toNat).armed = false)

/-- PUT, GET, QADD and SIGNAL on one chip send their effect on its way and change nothing else; GET's port then waits for the data.
A PUT or SIGNAL to another chip of the slice goes to the link die. On a core that is ready for it, each word completes where
its descriptor is valid and its range lies in the memory of a logical core of the slice.
What of it is the model's choice, and not the spec's: log entry 17. -/
def Obligations.RemoteWordsSend : Prop :=
  ∀ (s : State) (c : Fin 144),
    (∀ w, let k := s.atBegin c.val (.put w)
      let b := k.rdBytes c.val unitRemote (addr64 w.rdBase) 32
      let r := remoteDescOf b
      let la := r.la (s.core c.val).seq.counters
      let ga := r.ga k (s.core c.val).seq.counters
      let data := k.rdBytes c.val unitRemote la r.bytes
      Begins s c.val (.put w) → r.invalid b false k.ctx.params.length = false → la + r.bytes ≤ coreMemBytes →
      (∀ l, ga / 2 ^ 52 = k.ctx.chip →
        (∃ a, s.resolve c.val ga r.bytes true = .own a ∧ l = ⟨c.val, k.ctx.logical, c.val, .bytes a data⟩)
          ∨ (∃ q a, s.resolve c.val ga r.bytes true = .core q a ∧ l = ⟨c.val, k.ctx.logical, q, .bytes a data⟩)
          ∨ (∃ key, s.resolve c.val ga r.bytes true = .ext key ∧ l = ⟨c.val, k.ctx.logical, c.val, .hbm key data⟩) →
        tookRemote s c.val k [l] none (exec (.put c w) s))
      ∧ (ga / 2 ^ 52 ≠ k.ctx.chip → crossOk k.ctx ga r.bytes = true → ∃ k2, exec (.put c w) s = .next (State.setCore
          ((s.setCore c.val k).crossChip c.val ⟨ga / 2 ^ 52, false, 0, ga / 2 ^ 44 % 256, ga % 2 ^ 44, r.bytes, 0, data⟩) c.val k2)
          ∧ k2.effect k ∧ k2.outside (s.core c.val) ∧ k2.quiet))
    ∧ (∀ w data, let k := s.atBegin c.val (.get w)
      let b := k.rdBytes c.val unitRemote (addr64 w.rdBase) 32
      let r := remoteDescOf b
      let la := r.la (s.core c.val).seq.counters
      let ga := r.ga k (s.core c.val).seq.counters
      Begins s c.val (.get w) → r.invalid b false k.ctx.params.length = false → la + r.bytes ≤ coreMemBytes →
      k.writeFree unitRemote [(la, r.bytes)] = true →
      ((∃ a, s.resolve c.val ga r.bytes false = .own a ∧ data = k.rdBytes c.val unitRemote a r.bytes)
        ∨ (∃ q a, s.resolve c.val ga r.bytes false = .core q a ∧ q ≠ c.val
            ∧ data = (List.range r.bytes).map (fun j => Mem.readByte (s.core q).mem (swapFront (s.core q).swaps (a + j)))) →
        tookRemote s c.val k [⟨c.val, k.ctx.logical, c.val, .got la data⟩] (some .getData) (exec (.get c w) s))
      ∧ (∀ key, s.resolve c.val ga r.bytes false = .ext key → data = s.readExts c.val key r.bytes →
        tookRemote (s.touchExt c.val key r.bytes) c.val
          (k.hbmStall c.val 0 (if k.ctx.elastic then Config.freeNat (7000 + c.val) k.freeCtr 0 else 0) (s.flag tlsBrake))
          [⟨c.val, k.ctx.logical, c.val, .got la data⟩] (some .getData) (exec (.get c w) s)))
    ∧ (∀ w, let k := s.atBegin c.val (.qadd w)
      let b := k.rdBytes c.val unitRemote (addr64 w.rdBase) 32
      let r := remoteDescOf b
      let la := r.la (s.core c.val).seq.counters
      let ga := r.ga k (s.core c.val).seq.counters
      let qw := QW.ofCode (BitVec.ofNat 2 r.qw)
      Begins s c.val (.qadd w) → r.invalid b true k.ctx.params.length = false → la + r.bytes ≤ coreMemBytes →
      ga / 2 ^ 52 = k.ctx.chip → ga / 2 ^ 44 % 256 < k.ctx.width → ga % 2 ^ 44 % 16 = 0 → ga % 2 ^ 44 + r.bytes ≤ 16 * chuckUnits →
      tookRemote s c.val k [⟨c.val, k.ctx.logical, k.ctx.coreOf.getD (ga / 2 ^ 44 % 256) c.val, .images qw (ga % 2 ^ 44 / 16)
        ((List.range (r.bytes / (16 * qw.units))).map (fun i =>
          k.rdNat c.val unitRemote (la + i * 16 * qw.units) (16 * qw.units)))⟩] none (exec (.qadd c w) s))
    ∧ (∀ w chip tgt, let k := s.atBegin c.val (.signal w)
      Begins s c.val (.signal w) → w.tparam.toNat ≤ k.ctx.params.length →
      (w.tparam = 0 → chip = w.chip.toNat ∧ tgt = w.tgt.toNat) →
      (w.tparam ≠ 0 → chip = bitField (paramOf k w.tparam.toNat) 52 12 ∧ tgt = bitField (paramOf k w.tparam.toNat) 44 8) →
      chip < k.ctx.chips → tgt < k.ctx.width → tgt < 0x80 →
      (chip = k.ctx.chip → tookRemote s c.val k
        [⟨c.val, k.ctx.logical, k.ctx.coreOf.getD tgt c.val, .signal (ctrOf k.ctx tgt w.ctr.toNat) w.inc.toNat⟩] none
        (exec (.signal c w) s))
      ∧ (chip ≠ k.ctx.chip → ∃ k2, exec (.signal c w) s = .next (State.setCore
          ((s.setCore c.val k).crossChip c.val ⟨chip, true, 0, tgt, w.ctr.toNat, w.inc.toNat, 0, []⟩) c.val k2)
          ∧ k2.effect k ∧ k2.outside (s.core c.val) ∧ k2.quiet))
    ∧ (∀ w data, let k := s.atBegin c.val (.get w)
      let b := k.rdBytes c.val unitRemote (addr64 w.rdBase) 32
      let r := remoteDescOf b
      let la := r.la (s.core c.val).seq.counters
      let ga := r.ga k (s.core c.val).seq.counters
      let j := ga / 2 ^ 44 % 256
      let phys := (s.core c.val).ctx.coreOf.getD j c.val
      Ready s c.val (.get w) → r.invalid b false (s.core c.val).ctx.params.length = false → la + r.bytes ≤ coreMemBytes →
      ga / 2 ^ 52 = (s.core c.val).ctx.chip → j < 0x80 → j < (s.core c.val).ctx.width → ga % 2 ^ 44 + r.bytes ≤ coreMemBytes →
      data = (if phys = c.val then k.rdBytes c.val unitRemote (ga % 2 ^ 44) r.bytes
        else (List.range r.bytes).map (fun i => Mem.readByte (s.core phys).mem (swapFront (s.core phys).swaps (ga % 2 ^ 44 + i)))) →
      ∃ k2, exec (.get c w) s = .next { (s.setCore c.val k2) with mesh := s.mesh ++ [⟨c.val, (s.core c.val).ctx.logical, c.val, .got la data⟩] }
        ∧ (k2.unit unitRemote).blocked = some .getData)
    ∧ (∀ w, let k := s.atBegin c.val (.put w)
      let b := k.rdBytes c.val unitRemote (addr64 w.rdBase) 32
      let r := remoteDescOf b
      let la := r.la (s.core c.val).seq.counters
      let ga := r.ga k (s.core c.val).seq.counters
      let j := ga / 2 ^ 44 % 256
      Ready s c.val (.put w) → r.invalid b false (s.core c.val).ctx.params.length = false → la + r.bytes ≤ coreMemBytes →
      ga / 2 ^ 52 = (s.core c.val).ctx.chip → j < 0x80 → j < (s.core c.val).ctx.width → ga % 2 ^ 44 + r.bytes ≤ coreMemBytes →
      ∃ k2, exec (.put c w) s = .next { (s.setCore c.val k2) with mesh := s.mesh ++ [⟨c.val, (s.core c.val).ctx.logical,
        (s.core c.val).ctx.coreOf.getD j c.val, .bytes (ga % 2 ^ 44) (k.rdBytes c.val unitRemote la r.bytes)⟩] })
    ∧ (∀ w, let k := s.atBegin c.val (.qadd w)
      let b := k.rdBytes c.val unitRemote (addr64 w.rdBase) 32
      let r := remoteDescOf b
      let la := r.la (s.core c.val).seq.counters
      let ga := r.ga k (s.core c.val).seq.counters
      let j := ga / 2 ^ 44 % 256
      let qw := QW.ofCode (BitVec.ofNat 2 r.qw)
      Ready s c.val (.qadd w) → r.invalid b true (s.core c.val).ctx.params.length = false → la + r.bytes ≤ coreMemBytes →
      ga / 2 ^ 52 = (s.core c.val).ctx.chip → j < (s.core c.val).ctx.width → ga % 2 ^ 44 % 16 = 0 → 
      ga % 2 ^ 44 + r.bytes ≤ 16 * chuckUnits →
      ∃ k2, exec (.qadd c w) s = .next { (s.setCore c.val k2) with mesh := s.mesh ++ [⟨c.val, (s.core c.val).ctx.logical,
        (s.core c.val).ctx.coreOf.getD j c.val, .images qw (ga % 2 ^ 44 / 16) ((List.range (r.bytes / (16 * qw.units))).map (fun i =>
          k.rdNat c.val unitRemote (la + i * 16 * qw.units) (16 * qw.units)))⟩] })
    ∧ (∀ w, Ready s c.val (.signal w) → w.tparam = 0 → w.chip.toNat = (s.core c.val).ctx.chip →
      (s.core c.val).ctx.chip < (s.core c.val).ctx.chips → w.tgt.toNat < (s.core c.val).ctx.width → 
      ∃ k2, exec (.signal c w) s = .next { (s.setCore c.val k2) with mesh := s.mesh ++ [⟨c.val, (s.core c.val).ctx.logical,
        (s.core c.val).ctx.coreOf.getD w.tgt.toNat c.val, .signal (ctrOf (s.core c.val).ctx w.tgt.toNat w.ctr.toNat) w.inc.toNat⟩] })

/-- WAIT takes its count from its counter where the counter has reached it, and else waits; FENCE completes where nothing of the core
is on its way, and else waits. On a core that is ready for it, WAIT completes where the counter has reached its count, FENCE where
nothing of the core is on its way. -/
def Obligations.WaitAndFence : Prop :=
  ∀ (s : State) (c : Fin 144),
    (∀ w, Begins s c.val (.wait w) → 
      (w.count.toNat ≤ (s.core c.val).counter w.ctr.toNat → ∃ k2, exec (.wait c w) s = .next (s.setCore c.val k2)
        ∧ k2.effect (s.atBegin c.val (.wait w)) ∧ k2.engines = (s.core c.val).engines ∧ k2.quiet
        ∧ k2.counter w.ctr.toNat = (s.core c.val).counter w.ctr.toNat - w.count.toNat
        ∧ ∀ i, i ≠ w.ctr.toNat → k2.counter i = (s.core c.val).counter i)
      ∧ ((s.core c.val).counter w.ctr.toNat < w.count.toNat →
        tookRemote s c.val (s.atBegin c.val (.wait w)) [] (some (.waitCounter w.ctr.toNat w.count.toNat)) (exec (.wait c w) s)))
    ∧ (∀ w, Begins s c.val (.fence w) →
      tookRemote s c.val (s.atBegin c.val (.fence w)) [] (if s.inFlight c.val then some .fence else none) (exec (.fence c w) s))
    ∧ (∀ w, Ready s c.val (.wait w) → w.count.toNat ≤ (s.core c.val).counter w.ctr.toNat →
      ∃ k2, exec (.wait c w) s = .next (s.setCore c.val k2) ∧ k2.quiet
        ∧ k2.counter w.ctr.toNat = (s.core c.val).counter w.ctr.toNat - w.count.toNat)
    ∧ (∀ w, Ready s c.val (.fence w) → s.inFlight c.val = false → ∃ k2, exec (.fence c w) s = .next (s.setCore c.val k2) ∧ k2.quiet)

/-- TREE_STEP: an idle core does nothing; a sender on the chip sends its payload, then the increment; a receiver whose counter has
reached its increment combines what landed, and else waits. Each completes on a core that is ready for it.
What of it is the model's choice, and not the spec's: log entry 18. -/
def Obligations.TreeStep : Prop :=
  ∀ (s : State) (c : Fin 144) (w : TreeWord),
    let k := s.atBegin c.val (.treeStep w)
    let n := if w.chip = 1 then k.ctx.chip else k.ctx.logical
    let width := if w.chip = 1 then k.ctx.chips else k.ctx.width
    let need := if w.arrival = 1 then k.ctx.chips - 1 else 1
    Begins s c.val (.treeStep w) ∨ Ready s c.val (.treeStep w) →
    (treeRole w n width = .idle → tookRemote s c.val k [] none (exec (.treeStep c w) s))
    ∧ (∀ dest, treeRole w n width = .sender dest →
        (if w.arrival = 1 then arrivalLand k w n else addr64 w.land) + treeBytes k w ≤ coreMemBytes →
        let p := Core.treeSend c.val k w (decide (n = 0))
        let land := if w.arrival = 1 then arrivalLand k w n else addr64 w.land
        (w.chip ≠ 1 → tookRemote s c.val p.2
          [⟨c.val, k.ctx.logical, k.ctx.coreOf.getD dest c.val, .bytes land p.1⟩,
           ⟨c.val, k.ctx.logical, k.ctx.coreOf.getD dest c.val, .signal (ctrOf k.ctx dest w.ctr.toNat) 1⟩] none (exec (.treeStep c w) s))
        ∧ (w.chip = 1 → ∃ k1 k2, exec (.treeStep c w) s = .next (State.setCore
            (((s.setCore c.val k1).crossChip c.val ⟨dest, false, 0, k.ctx.logical, land, p.1.length, 0, p.1⟩).crossChip c.val
              ⟨dest, true, 0, k.ctx.logical, w.ctr.toNat, 1, 0, []⟩) c.val k2)
            ∧ k1.ctx = k.ctx ∧ k2.effect p.2 ∧ k2.outside (s.core c.val) ∧ k2.quiet))
    ∧ (∀ src, treeRole w n width = .receiver src →
        (k.counter w.ctr.toNat < need → ∃ k2, exec (.treeStep c w) s = .next (s.setCore c.val k2)
          ∧ k2.effect k ∧ k2.outside (s.core c.val)
          ∧ (k2.unit unitRemote).blocked = some (.treeReceive w.ctr.toNat w) ∧ (k2.unit unitChuck).blocked = some (.treeReceive w.ctr.toNat w))
        ∧ (need ≤ k.counter w.ctr.toNat →
          let p := Core.treeReceive c.val (k.setCounter w.ctr.toNat (k.counter w.ctr.toNat - need)) w
          ∃ k2, exec (.treeStep c w) s = .next (State.setCore (if p.2 = true then (match k.ctx.work with
              | some i => s.ndPlaced i 2
              | none => s.bump (audNd 2) 1) else s) c.val k2)
            ∧ k2.effect p.1
            ∧ k2.engines = (s.core c.val).engines ∧ k2.swaps = (s.core c.val).swaps ∧ k2.quiet
            ∧ k2.counter w.ctr.toNat = k.counter w.ctr.toNat - need))

/-! ### Events of the cores -/

/-- SLICE_START starts a placed slice on its cores, once the window is open and the cores are free: every core's arrays, Chuck, table
slots, swap pairs and flags are fresh, its memory keeps its bytes, and no other core changes. -/
def Obligations.SliceStartStarts : Prop :=
  ∀ (s : State) (i : Fin 4096) (q : Placed) (w : Work) (im : Image),
    s.placedAt i.val = some q → s.findWork q.ring q.seq = some w → s.imageOf w q.slice = some im →
    q.st = .placed → s.turn.phase = .window → s.turn.stretched = false → (∀ c ∈ q.cores, s.coreBusy c = false) → q.cores.Nodup →
    ∃ t q', exec (.sliceStart i) s = .next t ∧ t.placedAt i.val = some q' ∧ q'.st = .running ∧ q'.cores = q.cores
      ∧ (∀ j c, q.cores[j]? = some c → 
          (t.core c).ctx = sliceCtx i.val j q w im (s.seedOf w + 2 ^ 2048 * q.slice) ∧ (t.core c).chuck = [] ∧ (t.core c).slots = [] ∧ (t.core c).requant = []
          ∧ (t.core c).arrA = {} ∧ (t.core c).arrB = {} ∧ (t.core c).swaps = [] ∧ (t.core c).summary = 0 ∧ (t.core c).seq = {}
          ∧ (t.core c).units = [] ∧ (t.core c).flights = [] ∧ (t.core c).mem = (s.core c).mem
          ∧ (t.core c).counters = SMap.get [] w.chain.counters (sliceCtx i.val j q w im).logical
          ∧ (t.core c).body = (if q.fold2 then im.body2 else im.body)
          ∧ (t.core c).engines = ((s.core c).engines.filter (fun e => e.2.armed)).map (fun e => (e.1, { e.2 with carried := true })))
      ∧ (∀ c, c ∉ q.cores → t.core c = s.core c)
      ∧ t.works = s.works ∧ t.hbm = s.hbm ∧ t.mesh = s.mesh ∧ t.host = s.host

/-- ARRAY_OP_DONE and WORD_RESULTS_DELIVERED deliver what is left of a unit's oldest operation, and change nothing else of a quiet core.
What of it is the model's choice, and not the spec's: log entry 8. -/
def Obligations.ResultsAreDelivered : Prop :=
  ∀ (s : State) (c : Fin 144) (u : UnitId) (o : Host.Outcome State Fault Refusal),
    (s.core c.val).quiet → ((s.core c.val).unit u).doneOp < ((s.core c.val).unit u).nextOp →
    (∃ a : Fin 2, u = a.val ∧ o = exec (.arrayOpDone c a) s) ∨ (∃ v : Fin 3, u = v.val + 2 ∧ o = exec (.wordResultsDelivered c v) s) →
    ∃ k2, o = .next (s.setCore c.val k2) ∧ k2.quiet ∧ k2.outside (s.core c.val) ∧ k2.mem = (s.core c.val).mem
      ∧ k2.chuck = (s.core c.val).chuck ∧ k2.summary = (s.core c.val).summary
      ∧ (k2.unit u).doneOp = ((s.core c.val).unit u).doneOp + 1
      ∧ (∀ f, f ∈ k2.flights ↔ f ∈ (s.core c.val).flights ∧ ¬ (f.owner = u ∧ f.op = ((s.core c.val).unit u).doneOp))

/-- REMOTE_LANDING lands the oldest effect of a core and nothing else: bytes in the target's memory, an increment in its counter, images
in its Chuck, bytes in HBM, or the bytes that its own GET waits for.
What of it is the model's choice, and not the spec's: log entry 17. -/
def Obligations.RemoteEffectsLand : Prop :=
  ∀ (s : State) (c : Fin 144) (l : Landing) (rest : List Landing),
    popLanding c.val s.mesh = some (l, rest) →
    (∀ a data, l.kind = .bytes a data → (s.core c.val).quiet → (s.core l.dst).swaps = [] →
      ∃ k2, exec (.remoteLanding [c]) s = .next (({ s with mesh := rest } : State).setCore l.dst k2)
        ∧ (∀ j, j < data.length → Mem.readByte k2.mem (a + j) = data.getD j 0)
        ∧ (∀ b, b < a ∨ a + data.length ≤ b → Mem.readByte k2.mem b = Mem.readByte (s.core l.dst).mem b)
        ∧ k2 = { (s.core l.dst) with mem := k2.mem, wrote := k2.wrote })
    ∧ (∀ ctr inc, l.kind = .signal ctr inc → (s.core c.val).quiet → (s.core l.dst).counter ctr + inc < 2 ^ 32 →
      exec (.remoteLanding [c]) s = .next (({ s with mesh := rest } : State).setCore l.dst
        ((s.core l.dst).setCounter ctr ((s.core l.dst).counter ctr + inc))))
    ∧ (∀ ctr inc, l.kind = .signal ctr inc → (s.core c.val).quiet → 2 ^ 32 ≤ (s.core l.dst).counter ctr + inc →
      ∃ t, exec (.remoteLanding [c]) s = .next t ∧ t.tells s.turn.number .ctrOvf l.dst)
    ∧ (∀ qw u imgs, l.kind = .images qw u imgs → (s.core c.val).quiet → l.dst ≠ c.val →
      exec (.remoteLanding [c]) s = .next (({ s with mesh := rest } : State).setCore l.dst
        ((s.core l.dst).applyImages l.dst unitRemote qw u false imgs)))
    ∧ (∀ key data, l.kind = .hbm key data → (s.core c.val).quiet →
      exec (.remoteLanding [c]) s = .next (({ s with mesh := rest } : State).writeExt l.src key data))
    ∧ (∀ a data, l.kind = .got a data → l.dst = c.val → (s.core c.val).swaps = [] → (s.core c.val).seq.held = [] →
      (s.core c.val).seq.ending = none → (∀ u, ((s.core c.val).unit u).waiting = []) →
      (∀ u, u ≠ unitRemote → ((s.core c.val).unit u).blocked = none) →
      ∃ k2, exec (.remoteLanding [c]) s = .next (({ s with mesh := rest } : State).setCore c.val k2)
        ∧ (∀ j, j < data.length → Mem.readByte k2.mem (a + j) = data.getD j 0)
        ∧ (∀ b, b < a ∨ a + data.length ≤ b → Mem.readByte k2.mem b = Mem.readByte (s.core c.val).mem b)
        ∧ (∀ u, (k2.unit u).blocked = none) ∧ k2 = { (s.core c.val) with mem := k2.mem, units := k2.units, wrote := k2.wrote, edges := k2.edges })

/-- WAIT_COMPLETE takes a waiting WAIT's count from its counter once the counter has reached it, and frees the port; a counter below the
threshold changes nothing. WAIT_COMPLETE lets a receiving TREE_STEP combine what landed once its counter has reached its increment. -/
def Obligations.WaitsComplete : Prop :=
  (∀ (s : State) (c : Fin 144) (cycle ctr n : Nat),
     ((s.core c.val).unit unitRemote).blocked = some (.waitCounter ctr n) →
     (n ≤ (s.core c.val).counter ctr → (s.core c.val).seq.held = [] → (s.core c.val).seq.ending = none →
       (∀ u, ((s.core c.val).unit u).waiting = []) → (∀ u, u ≠ unitRemote → ((s.core c.val).unit u).blocked = none) →
       ∃ k2, exec (.waitComplete c cycle) s = .next (s.setCore c.val k2)
         ∧ k2.counter ctr = (s.core c.val).counter ctr - n ∧ (∀ i, i ≠ ctr → k2.counter i = (s.core c.val).counter i)
         ∧ (∀ u, (k2.unit u).blocked = none) ∧ k2.mem = (s.core c.val).mem ∧ k2.chuck = (s.core c.val).chuck
         ∧ k2.engines = (s.core c.val).engines ∧ k2.ctx = (s.core c.val).ctx)
     ∧ ((s.core c.val).counter ctr < n → exec (.waitComplete c cycle) s = .next s))
  ∧ (∀ (s : State) (c : Fin 144) (cycle ctr : Nat) (w : TreeWord),
       let need := if w.arrival = 1 then (s.core c.val).ctx.chips - 1 else 1
       let p := Core.treeReceive c.val ((s.core c.val).setCounter ctr ((s.core c.val).counter ctr - need)) w
       ((s.core c.val).unit unitRemote).blocked = some (.treeReceive ctr w) →
       (need ≤ (s.core c.val).counter ctr → (s.core c.val).seq.held = [] → (s.core c.val).seq.ending = none →
         (∀ u, ((s.core c.val).unit u).waiting = []) →
         (∀ u, u ≠ unitRemote → u ≠ unitChuck → ((s.core c.val).unit u).blocked = none) →
         ∃ k2, exec (.waitComplete c cycle) s = .next (State.setCore (if p.2 = true then (match (s.core c.val).ctx.work with
               | some i => s.ndPlaced i 2
               | none => s.bump (audNd 2) 1) else s) c.val k2)
           ∧ k2.mem = p.1.mem ∧ k2.chuck = p.1.chuck ∧ k2.counter ctr = (s.core c.val).counter ctr - need
           ∧ (∀ u, (k2.unit u).blocked = none) ∧ k2.engines = (s.core c.val).engines ∧ k2.ctx = (s.core c.val).ctx)
       ∧ ((s.core c.val).counter ctr < need → exec (.waitComplete c cycle) s = .next s))

/-- STREAM_RETIRE retires the next request of a pass, with its writes and chunk changes; a request that a chunk holds back, or an
engine without a pass, moves nothing; an illegal address ends the slice's work.
What of it is the model's choice, and not the spec's: log entry 13. -/
def Obligations.StreamRequestsRetire : Prop :=
  ∀ (s : State) (c : Fin 144) (e : Fin 16) (cycle : Nat),
    (((s.core c.val).engine e.val).pass = none → exec (.streamRetire c e cycle) s = .next s)
    ∧ (∀ p, ((s.core c.val).engine e.val).pass = some p →
      (∀ s1 fin, s.retireRequest c.val e.val p = .moved s1 fin → (s1.core c.val).quiet → 
        ∃ k2, exec (.streamRetire c e cycle) s = .next (s1.setCore c.val k2) ∧ k2.mem = (s1.core c.val).mem
          ∧ k2.engines = (s1.core c.val).engines ∧ k2.edges = (s1.core c.val).edges ∧ k2.summary = (s1.core c.val).summary
          ∧ k2.outside (s1.core c.val) ∧ k2.quiet)
      ∧ (∀ q, s.retireRequest c.val e.val p = .stalled q →
        ∃ k2, exec (.streamRetire c e cycle) s = .next (s.setCore c.val k2) ∧ k2 = { (s.core c.val) with units := k2.units })
      ∧ (s.retireRequest c.val e.val p = .invalid → ∃ t, exec (.streamRetire c e cycle) s = .next t
        ∧ t.tells s.turn.number .streamDesc c.val))

/-- A request of a pass over a core's own memory, formats equal and no credit edge, copies the source bytes to the destination and
writes nothing else (model's frame of 08 R216 to R218). -/
def Obligations.StreamRequestsCopy : Prop :=
  ∀ (s : State) (c e : Nat) (p : Pass) (s1 : State) (fin : Bool),
    let k := s.core c
    let n := streamBytes (Fmt.ofCode p.desc.sfmt) (p.desc.request p.done)
    s.retireRequest c e p = .moved s1 fin → p.desc.sfmt = p.desc.dfmt → p.desc.outEdge = 0xFFFF → p.desc.inEdge = 0xFFFF →
    p.desc.back = false → p.swaps = [] → k.flights = [] →
    (∀ j, j < n → s.resolve c (p.srcByte k p.done j) 1 false = .own (p.srcByte k p.done j % 2 ^ 44)
      ∧ s.resolve c (p.dstByte k p.done j) 1 true = .own (p.dstByte k p.done j % 2 ^ 44)) →
    (∀ i j, i < n → j < n → p.dstByte k p.done i % 2 ^ 44 = p.dstByte k p.done j % 2 ^ 44 → i = j) →
    (∀ j, j < n → Mem.readByte (s1.core c).mem (p.dstByte k p.done j % 2 ^ 44)
        = Mem.readByte k.mem (p.srcByte k p.done j % 2 ^ 44))
    ∧ (∀ a, (∀ j, j < n → a ≠ p.dstByte k p.done j % 2 ^ 44) → Mem.readByte (s1.core c).mem a = Mem.readByte k.mem a)
    ∧ (∀ d, d ≠ c → s1.core d = s.core d) ∧ s1.hbm = s.hbm

/-- DEADLOCK_BREAK marks a running elastic slice with a stalled unit, which the turn tail aborts, and changes nothing else. -/
def Obligations.DeadlockBreakMarks : Prop :=
  ∀ (s : State) (i : Fin 4096) (q : Placed) (im : Image), s.placedAt i.val = some q → s.placedImage q = some im →
    exec (.deadlockBreak i) s = .next (if im.elastic = true ∧ q.st = .running ∧ s.unitStalled q.cores = true then
      s.updPlaced i.val (fun y => { y with deadlock := true }) else s)

/-- A corrected error of core memory, the Chuck or the Profile unit is counted on its core and on its row, and the first two are
recorded; nothing else of any core changes. HBM_CE counts a corrected error on its channel and tells of it; a patrol scrub counts every corrected sector;
neither changes anything else. -/
def Obligations.CorrectedErrorsCount : Prop :=
  (∀ (s : State) (c : Fin 144),
     (∀ a, ∃ t, exec (.cmemCe c a) s = .next t ∧ t.notes s .cmemCe c.val ∧ t.hbm = s.hbm ∧ t.works = s.works ∧ t.turn = s.turn
       ∧ t.cores = (s.setCore c.val { (s.core c.val) with
           counts := { (s.core c.val).counts with cmemCe := (s.core c.val).counts.cmemCe + 1 } }).cores
       ∧ t.witness.rowErrs = s.witness.rowErrs ++ [(2, c.val, memRow a.toNat, s.turn.clock)])
     ∧ (∀ a, ∃ t, exec (.chuckCe c a) s = .next t ∧ t.notes s .chuckCe c.val ∧ t.hbm = s.hbm ∧ t.works = s.works ∧ t.turn = s.turn
       ∧ t.cores = (s.setCore c.val { (s.core c.val) with
           counts := { (s.core c.val).counts with chuckCe := (s.core c.val).counts.chuckCe + 1 } }).cores
       ∧ t.witness.rowErrs = s.witness.rowErrs ++ [(3, c.val, Config.chuckRow a.toNat % 65536, s.turn.clock)])
     ∧ (∃ t row, exec (.profEcc c true) s = .next t ∧ t.errs = s.errs ∧ t.regs = s.regs ∧ t.hbm = s.hbm ∧ t.works = s.works
       ∧ t.turn = s.turn ∧ t.witness.rowErrs = s.witness.rowErrs ++ [(4, c.val, row, s.turn.clock)]
       ∧ t.cores = (s.setCore c.val { (s.core c.val) with
           counts := { (s.core c.val).counts with profCe := (s.core c.val).counts.profCe + 1 } }).cores))
  ∧ (∀ (s : State) (stack : Fin 8),
       (∀ (pch : Fin 32) (sector : Nat), ∃ t, exec (.hbmCe stack pch sector) s = .next t ∧ t.sameBody s ∧ t.nv = s.nv
         ∧ t.fld (hbmCeCount stack.val pch.val) = (s.fld (hbmCeCount stack.val pch.val) + 1) % 2 ^ (hbmCeCount stack.val pch.val).width
         ∧ t.notes s .hbmCe (32 * stack.val + pch.val))
       ∧ (∀ (lch : Fin 31) (xs : List Nat), let pch := s.hbm.physical stack.val lch.val
         pch < 32 →
         ∃ t, exec (.patrolScrub stack lch xs []) s = .next t ∧ t.sameBody s ∧ t.nv = s.nv
           ∧ t.fld (hbmCeCount stack.val pch) = (s.fld (hbmCeCount stack.val pch) + xs.length) % 2 ^ (hbmCeCount stack.val pch).width))

/-- An uncorrectable error of a program store, core memory, the Chuck or the Profile unit is recorded, and the slice that the core runs
aborts; a core that runs none only records it, and no memory of any core changes. -/
def Obligations.UncorrectableCoreErrorsAbort : Prop :=
  ∀ (s : State) (c : Fin 144) (cause : Cause) (o : Host.Outcome State Fault Refusal),
    (cause = .progEcc ∧ o = exec (.progEcc c) s) ∨ (∃ a, cause = .cmemEcc ∧ o = exec (.cmemEcc c a) s)
      ∨ (∃ a, cause = .chuckEcc ∧ o = exec (.chuckEcc c a) s) ∨ (cause = .profEcc ∧ o = exec (.profEcc c false) s) →
    ∃ t, o = .next t ∧ t.tells s.turn.number cause c.val ∧ (∀ d, (t.core d).mem = (s.core d).mem) ∧ t.hbm = s.hbm
      ∧ ((s.core c.val).ctx.work = none → t.cores = s.cores ∧ t.turn = s.turn)
      ∧ (∀ i p, (s.core c.val).ctx.work = some i → s.placedAt i = some p → p.active = true → t.aborted i 1
        ∧ ∀ w ∈ t.works, w.ring = p.ring → w.seq = p.seq → w.rank.rerun = true)

/-! ### HBM, engines, processors and flashes -/

/-- An uncorrectable sector outside the mirrored class, read by an active slice, is recorded and listed, its bytes are lost, and the slice
aborts; in the mirrored class with both copies it is rebuilt and the slice aborts all the same. A patrol scrub lists the sector, which
the next head treats as lost, and aborts nothing. (The first uncorrectable sector of a channel within 7 days; a second one brings the
spare in.)
What of it is the model's choice, and not the spec's: log entry 23. -/
def Obligations.UncorrectableSectorsAreLost : Prop :=
  ∀ (s : State) (stack : Fin 8) (lch : Fin 31) (sector : Nat) (key : Nat),
    let soff := channelOff lch.val (sector * 64)
    s.hbm.keyOf stack.val soff = some key → sector < 2 ^ 25 → s.hbm.journalHit stack.val soff = false →
    (∀ e ∈ s.hbm.ues, e.stack = stack.val → e.lch ≠ lch.val) →
    (∀ (i : Fin 4096) (p : Placed), s.placedAt i.val = some p → p.active = true → 
      (∀ e ∈ s.hbm.ueTurn, e.1 = stack.val → e.2 = lch.val) →
      ∃ t, exec (.hbmUe stack lch sector i) s = .next t ∧ t.aborted i.val 1
        ∧ t.tells s.turn.number .hbmUe (32 * stack.val + s.hbm.physical stack.val lch.val)
        ∧ t.hbm.ueTurn = s.hbm.ueTurn ++ [(stack.val, lch.val)]
        ∧ (isMirrored key = false → stackKey stack.val soff ∈ t.hbm.badSectors ∧ ⟨key / 2 ^ 44, key, 64⟩ ∈ t.hbm.lost)
        ∧ (isMirrored key = true → s.hbm.hasOther stack.val = true → t.hbm.badSectors = s.hbm.badSectors ∧ t.hbm.lost = s.hbm.lost))
    ∧ (isMirrored key = false → ∃ t, exec (.patrolScrub stack lch [] [sector]) s = .next t
        ∧ t.tells s.turn.number .hbmUeScrub (32 * stack.val + s.hbm.physical stack.val lch.val)
        ∧ stackKey stack.val soff ∈ t.hbm.badSectors ∧ some key ∈ t.hbm.scrubbed ∧ t.hbm.lost = s.hbm.lost
        ∧ t.turn = s.turn ∧ t.works = s.works ∧ t.cores = s.cores)

/-- HBM_SPARE starts the copy onto a free spare while the channel can be read, and else brings the spare in at once, with nothing of what
the channel held; where that takes the last copy of the journal it is device-fatal. For the channel that is being copied, a readable one
changes nothing. CHANNEL_COPY_DONE notes the end of a copy. A first lost stack is declared lost, told of, and every active slice that
accessed it aborts; a stack already lost changes nothing, and a second loss is device-fatal. The end of a journal move is noted.
What of it is the model's choice, and not the spec's: log entry 23. -/
def Obligations.ChannelsAndStacks : Prop :=
  (∀ (s : State) (stack : Fin 8),
     (∀ (lch : Fin 31) (readable : Bool), (s.hbm.stack stack.val).spareFor = 31 → (s.hbm.stack stack.val).copying = none →
       readable = true ∨ s.hbm.journalMove = false ∨ s.hbm.hasOther stack.val = true →
       ∃ t, exec (.hbmSpare stack lch readable) s = .next t ∧ t.tells s.turn.number .hbmSpare (32 * stack.val + lch.val)
         ∧ (readable = true → t.hbm = s.hbm.setStack stack.val { s.hbm.stack stack.val with copying := some lch.val })
         ∧ (readable = false → t.hbm.stack stack.val = { s.hbm.stack stack.val with spareFor := lch.val, copyDone := false }
             ∧ t.hbm.lostCh = s.hbm.lostCh ++ [⟨stack.val, lch.val, []⟩]
             ∧ t.hbm.bytes = s.hbm.bytes.filter (fun e => !(s.hbm.inChannel stack.val lch.val e.1)))
         ∧ t.works = s.works ∧ t.cores = s.cores ∧ t.turn = s.turn)
     ∧ (∀ lch : Fin 31, (s.hbm.stack stack.val).spareFor = 31 → (s.hbm.stack stack.val).copying = none →
       s.hbm.journalMove = true → s.hbm.hasOther stack.val = false → ∃ t, exec (.hbmSpare stack lch false) s = .next t ∧ t.coldStarted)
     ∧ (∀ lch : Fin 31, (s.hbm.stack stack.val).copying = some lch.val → exec (.hbmSpare stack lch true) s = .next s)
     ∧ exec (.channelCopyDone stack) s = .next (if (s.hbm.stack stack.val).copying.isSome then
         { s with hbm := s.hbm.setStack stack.val { s.hbm.stack stack.val with copyDone := true } } else s))
  ∧ (∀ (s : State) (stack : Fin 8),
       ((s.hbm.stack stack.val).lost = true → exec (.stackLost stack) s = .next s)
       ∧ ((s.hbm.stack stack.val).lost = false → s.hbm.anyLost = false →
         ∃ t, exec (.stackLost stack) s = .next t ∧ (t.hbm.stack stack.val).lost = true ∧ t.hbm.newlyLost = s.hbm.newlyLost ++ [stack.val]
           ∧ t.tells s.turn.number .stackLost (32 * stack.val) ∧ t.hbm.bytes = s.hbm.bytes ∧ (∀ c, (t.core c).mem = (s.core c).mem)
           ∧ ∀ i p, s.placedAt i = some p → p.active = true → stack.val ∈ p.touched → t.aborted i 5)
       ∧ ((s.hbm.stack stack.val).lost = false → s.hbm.anyLost = true →
         ∃ t, exec (.stackLost stack) s = .next t ∧ t.coldStarted)
       ∧ exec .journalMoveDone s = .next { s with hbm := { s.hbm with journalMove := false } })

/-- CORE_FAILED takes a core out of service, tells of it, and aborts the active slices placed on it; a core out of service changes
nothing. The first failure of the Headstock engine or of the management processor brings the standby in and is told of and counted;
a second is device-fatal. A failed flash leaves the other in service.
What of it is the model's choice, and not the spec's: log entry 39. -/
def Obligations.CoresAndStandbysFail : Prop :=
  (∀ (s : State) (c : Fin 144),
     (s.coreOut c.val ≠ 0 → exec (.coreFailed c) s = .next s)
     ∧ (s.coreOut c.val = 0 → ∃ t, exec (.coreFailed c) s = .next t ∧ t.coreOut c.val = 1 ∧ c.val ∉ t.inService
         ∧ (∀ d, d ≠ c.val → t.coreOut d = s.coreOut d) ∧ t.tells s.turn.number .coreFailed c.val
         ∧ (∀ d, (t.core d).mem = (s.core d).mem)
         ∧ ∀ i p, s.placedAt i = some p → p.active = true → c.val ∈ p.cores → t.aborted i 4))
  ∧ (∀ (s : State),
       (∀ afterStep4, s.power.hstDead = false → ∃ t, exec (.hstFailover afterStep4) s = .next t ∧ t.power = { s.power with hstDead := true }
         ∧ t.tells s.turn.number .hstFailover 0 ∧ t.fld hstFailovers = (s.fld hstFailovers + 1) % 2 ^ hstFailovers.width
         ∧ t.turn = (if afterStep4 then s.turn else { s.turn with noSlices := true })
         ∧ t.cores = s.cores ∧ t.works = s.works ∧ t.hbm = s.hbm)
       ∧ (∀ afterStep4, s.power.hstDead = true → ∃ t, exec (.hstFailover afterStep4) s = .next t ∧ t.coldStarted)
       ∧ (s.power.mpDead = false → s.nv.activation = none → ∃ t, exec .mpTakeover s = .next t
         ∧ t.power = { s.power with mpDead := true } ∧ t.tells s.turn.number .mpTakeover 0
         ∧ t.fld errMpTakeovers = (s.fld errMpTakeovers + 1) % 2 ^ errMpTakeovers.width
         ∧ t.audit.reasons = s.audit.reasons ++ [3] ∧ t.cores = s.cores ∧ t.works = s.works ∧ t.hbm = s.hbm ∧ t.turn = s.turn)
       ∧ (s.power.mpDead = true → ∃ t, exec .mpTakeover s = .next t ∧ t.coldStarted)
       ∧ (∀ flash : Fin 2, ∃ t, exec (.nvDegraded flash) s = .next t ∧ t.sameBody s ∧ t.tells s.turn.number .nvDegraded 0
         ∧ t.flag errNvOne = true
         ∧ (flash = 0 → t.nv.flash0 = { s.nv.flash0 with ok := false } ∧ t.nv.flash1 = s.nv.flash1 ∧ t.flag nviFlash0Ok = false)
         ∧ (flash = 1 → t.nv.flash1 = { s.nv.flash1 with ok := false } ∧ t.nv.flash0 = s.nv.flash0 ∧ t.flag nviFlash1Ok = false)))

/-! ### Turns -/

/-- TURN_HEAD applies the stores of host software; where the part is ready, no turn is open and no replay runs, it opens the window and
writes the turn record of the turn it has set up; in a replay that has diverged, and elsewhere, it changes host memory alone.
What of it is the model's choice, and not the spec's: log entry 50. -/
def Obligations.TurnHeadOpensTheWindow : Prop :=
  ∀ (s : State) (h : HeadIn), let host := (h.stores.foldl (fun m w => Mem.writeBytes m w.addr w.bytes) s.host)
    (s.power.state = .ready → s.turn.phase ≠ .window → s.flag audReplayActive = false →
      ∃ t, exec (.turnHead h) s = .next t ∧ t.turn.phase = .window ∧ t.turn.partNow = [] ∧ t.audit.tr = t.turnRecord)
    ∧ (s.power.state = .ready → s.turn.phase ≠ .window → s.flag audReplayActive = true → s.flag audDiverged = true →
      exec (.turnHead h) s = .next { s with host := host })
    ∧ (s.power.state ≠ .ready ∨ s.turn.phase = .window → exec (.turnHead h) s = .next { s with host := host })

/-- TURN_TAIL of an open turn that does not stretch ends the turn and publishes the budget: its terms, KAPPA between 256 and 320, and
E_NEXT at most E_CEIL and E_IN. A certified slice that still runs at the end of the turn's first interval stretches the turn: the
tail becomes a second interval, and nothing commits; TURN_TAIL outside an open turn changes nothing. VOLTAGE_RAISE sets the voltage
of a faster next point, Witness offset included, and nothing else; where the next point is not faster it changes nothing.
What of it is the model's choice, and not the spec's: log entries 25, 26. -/
def Obligations.TurnTailEndsTheTurn : Prop :=
  (∀ (s : State) (x : TailIn), s.power.state = .ready → s.turn.phase = .window → s.stretches = false ∨ s.turn.stretched = true →
     ∃ t, exec (.turnTail x) s = .next t ∧ t.turn.phase = .done
       ∧ t.fld clkCoreMhz = x.coreMhz.toNat
       ∧ t.fld tlsKappa = kappaOf t.turn.kappaHist ∧ 256 ≤ t.fld tlsKappa ∧ t.fld tlsKappa ≤ 320 ∧ t.turn.kappaHist.length ≤ 64
       ∧ t.turn.fixHist.length ≤ 16 ∧ t.turn.fixHist.getLast? = some x.fixUj
       ∧ t.fld tlsEFix = min (sumNat t.turn.fixHist / t.turn.fixHist.length) 0xFFFFFFFF
       ∧ t.fld tlsECeil = min (t.fld tlsCeilW * t.turn.ticks / 100) 0xFFFFFFFF
       ∧ t.fld tlsEIn = min ((if t.fld tlsIncapW = 0 then x.vinMv * 36 else min (x.vinMv * 36) (1000 * t.fld tlsIncapW))
           * t.turn.ticks / 100000) 0xFFFFFFFF
       ∧ t.fld tlsENext ≤ t.fld tlsECeil ∧ t.fld tlsENext ≤ t.fld tlsEIn)
  ∧ (∀ (s : State) (x : TailIn),
       (s.power.state = .ready → s.turn.phase = .window → s.stretches = true → s.turn.stretched = false →
         ∃ t, exec (.turnTail x) s = .next t ∧ t.turn.stretched = true ∧ t.turn.phase = .window
           ∧ t.fld hstTurnOverrun = (s.fld hstTurnOverrun + 1) % 2 ^ hstTurnOverrun.width
           ∧ t.turn.placed.map (fun p => p.st) = s.turn.placed.map (fun p => p.st)
           ∧ t.works = s.works ∧ t.cores = s.cores ∧ t.hbm = s.hbm ∧ t.host = s.host)
       ∧ (s.power.state ≠ .ready ∨ s.turn.phase ≠ .window → exec (.turnTail x) s = .next s))
  ∧ (∀ (s : State), exec .voltageRaise s = .next
       (if s.power.state = .ready ∧ s.turn.phase = .window ∧ s.turn.nextPoint < s.turn.point then
         { s with turn := { s.turn with
           raised := true
           vddMv := [880, 830, 780, 730, 670, 620].getD s.turn.nextPoint 880 + 5 * s.fld (witOff s.turn.nextPoint) } }
       else s))

/-! ### Host requests, staging and seals -/

/-- INPUT_STAGED stages an accepted work's inputs, its function taken up by the ring engine: their digest is held, and a re-staged input that differs ends the work.
STAGING_COPY_FILLED fills the copies of an accepted work that no earlier work holds back, from the committed region; COPY_BACK_DONE
writes every copy of a committed work over its region and drops the copies.
What of it is the model's choice, and not the spec's: log entry 32. -/
def Obligations.InputsAreStaged : Prop :=
  (∀ (s : State) (ring : Fin 65536) (seq : BitVec 64) (w : Work) (plan : Plan),
     s.findWork ring.val seq.toNat = some w → s.planOf w = some plan → w.isRun = true → w.result = none → w.staged = false →
     w.st = .accepted → s.hostOpen w.fn = true → s.access.up.contains w.fn = true →
     (w.idig = none ∨ w.idig = some (s.inputDigest w plan) → ∃ t w', exec (.inputStaged ring seq) s = .next t
       ∧ t.findWork ring.val seq.toNat = some w' ∧ w'.staged = true ∧ w'.idig = some (s.inputDigest w plan) ∧ w'.st = .accepted
       ∧ w'.hostIn = (Work.inputRegions plan).foldl (fun m r =>
           Mem.writeBytes m (r.key % 2 ^ 44) (s.hostBytes (w.argAddr r.arg + r.argOff) r.bytes)) []
       ∧ t.host = s.host ∧ t.hbm = s.hbm ∧ t.cores = s.cores ∧ t.turn = s.turn)
     ∧ (∀ d, w.idig = some d → d ≠ s.inputDigest w plan → ∃ t w', exec (.inputStaged ring seq) s = .next t
       ∧ t.findWork ring.val seq.toNat = some w' ∧ w'.result = some stInputChanged ∧ w'.copies = []
       ∧ t.tells s.turn.number .inputChanged 0 ∧ t.host = s.host ∧ t.hbm = s.hbm))
  ∧ (∀ (s : State) (ring : Fin 65536) (seq : BitVec 64) (w : Work), s.findWork ring.val seq.toNat = some w →
       (w.result = none → w.st = .accepted → ∃ t w', exec (.stagingCopyFilled ring seq) s = .next t
         ∧ t.findWork ring.val seq.toNat = some w'
         ∧ w'.copies = w.copies.map (fun c => if c.filled || !(s.copyFree w c) then c else s.filledCopy c)
         ∧ t.hbm = s.hbm ∧ t.cores = s.cores ∧ t.regs = s.regs ∧ t.host = s.host)
       ∧ (w.st = .committed → w.copiedBack = false → ∃ t w', exec (.copyBackDone ring seq) s = .next t
         ∧ t.findWork ring.val seq.toNat = some w' ∧ w'.copies = [] ∧ w'.copiedBack = true
         ∧ t.hbm = (w.copies.filter (fun c => !c.inCore)).foldl (fun h c => Hbm.unlose (h.store c.base
             ((List.range c.bytes).map (fun i => Mem.readByte c.data (c.base + i)))) c.base c.bytes) s.hbm
         ∧ t.cores = s.cores ∧ t.regs = s.regs ∧ t.host = s.host ∧ t.turn = s.turn))

/-- HOST_DMA: a failed read while staging ends the work without running, a failed write of outputs ends it with status HOST_DMA; both are
told of.
What of it is the model's choice, and not the spec's: log entry 33. -/
def Obligations.FailedHostRequestsEndWork : Prop :=
  ∀ (s : State) (ring : Fin 65536) (seq : BitVec 64) (write : Bool) (how : BadCompletion) (addr : BitVec 64) (w : Work),
    s.findWork ring.val seq.toNat = some w →
    (write = false → w.isRun = true → w.result = none → w.staged = false → w.st = .accepted → s.access.up.contains w.fn = true →
      ∃ t w', exec (.hostDma ring seq write how addr) s = .next t ∧ t.findWork ring.val seq.toNat = some w'
        ∧ w'.result = some stHostDma ∧ w'.copies = [] ∧ t.tells s.turn.number .hostDma 0 ∧ t.host = s.host ∧ t.hbm = s.hbm
        ∧ t.cores = s.cores)
    ∧ (write = true → w.st = .committed → w.result = some stOk →
      ∃ t w', exec (.hostDma ring seq write how addr) s = .next t ∧ t.findWork ring.val seq.toNat = some w'
        ∧ w'.result = some stHostDma ∧ t.tells s.turn.number .hostDma 0 ∧ t.hbm = s.hbm ∧ t.cores = s.cores)

/-- SEAL_SIGNED completes the seal in progress: its records join the audit queue with 512 bytes of signature, and the next one is signed.
What of it is the model's choice, and not the spec's: log entry 36. -/
def Obligations.SealsComplete : Prop :=
  ∀ (s : State),
    (s.audit.signing = none → exec .sealSigned s = .next s)
    ∧ (∀ job, s.audit.signing = some job → ∃ t sig, exec .sealSigned s = .next t ∧ t.sameBody s ∧ t.nv = s.nv ∧ t.errs = s.errs
      ∧ sig.length = 512 ∧ t.audit.auditQ = s.audit.auditQ ++ recParts job.turn 0x20 (job.body ++ sig)
      ∧ t.audit.signing = s.audit.waiting.head? ∧ t.audit.waiting = s.audit.waiting.drop 1
      ∧ t.flag audSigning = (!s.audit.waiting.isEmpty) ∧ t.pair audSealtLo audSealtHi = job.turn % 2 ^ 64)

/-! ### Brake, temperature, VIN, phases and clocks -/

/-- Overcurrent and an unmasked hot sensor engage the brake and show their cause; a part without power, and a masked sensor, change
nothing. BRAKE_RELEASE clears the current and temperature causes and releases the brake unless VIN holds it; while PWRBRK_N is
asserted nothing changes.
What of it is the model's choice, and not the spec's: log entry 51. -/
def Obligations.BrakeEvents : Prop :=
  (∀ (s : State),
     (s.powered = true → ∃ t, exec .brakeTrip s = .next t ∧ t.brakeEngaged s ∧ t.flag tlsCur = true ∧ t.flag tlsHot = s.flag tlsHot)
     ∧ (s.powered = false → exec .brakeTrip s = .next s)
     ∧ (∀ k : Fin 600, s.powered = true → k.val ∉ s.thermal.masked →
       ∃ t, exec (.brakeHot k) s = .next t ∧ t.brakeEngaged s ∧ t.flag tlsHot = true ∧ t.flag tlsCur = s.flag tlsCur)
     ∧ (∀ k : Fin 600, s.powered = false ∨ k.val ∈ s.thermal.masked → exec (.brakeHot k) s = .next s))
  ∧ (∀ (s : State),
       (s.flag tlsPin = true → exec .brakeRelease s = .next s)
       ∧ (s.flag tlsPin = false → ∃ t, exec .brakeRelease s = .next t ∧ t.sameBody s ∧ t.flag tlsCur = false ∧ t.flag tlsHot = false
         ∧ t.flag tlsPin = false ∧ t.flag tlsBrake = (s.flag tlsBrake && s.power.brakeVin) ∧ t.nv = s.nv ∧ t.errs = s.errs))

/-- THERMAL_MODEL_UPDATE takes the sensors and steps every node's model; TSENSOR masks a sensor once and tells of it; THETA_STEP keeps
the estimate of a power step of 100 W or more. THERMTRIP of a powered part: the record, THERMTRIP_N, and only the always-on and
management domains keep their rails.
What of it is the model's choice, and not the spec's: log entries 24, 51. -/
def Obligations.ThermalEvents : Prop :=
  (∀ (s : State), s.power.state ≠ .off →
     (∀ x : ThermalIn, ∃ t, exec (.thermalModelUpdate x) s = .next t ∧ t = { s with thermal := t.thermal }
       ∧ t.thermal.masked = s.thermal.masked ∧ t.thermal.thetas = s.thermal.thetas
       ∧ (∀ k, k < 600 → SMap.get 0 t.thermal.sensors k = x.sensors.getD k (SMap.get 0 s.thermal.sensors k))
       ∧ (∀ i, i < 152 → SMap.get 0 t.thermal.temps i = Config.thermalStep i (SMap.get 0 s.thermal.temps i) (x.powerMw.getD i 0)
           ((List.range 152).map (fun j => SMap.get 0 s.thermal.temps j))
           ((nodeSensors i).map { s.thermal with sensors := t.thermal.sensors }.reading) (s.fld witTheta)))
     ∧ (∀ k : Fin 600, (k.val ∉ s.thermal.masked → ∃ t, exec (.tsensor k) s = .next t ∧ t.thermal.masked = s.thermal.masked ++ [k.val]
         ∧ t.tells s.turn.number .tsensor 0 ∧ t.turn = s.turn ∧ t.works = s.works ∧ t.cores = s.cores)
       ∧ (k.val ∈ s.thermal.masked → exec (.tsensor k) s = .next s))
     ∧ (∀ rise step, s.power.state ≠ .tripped → exec (.thetaStep rise step) s = .next (if 100 ≤ step then
         { s with thermal := { s.thermal with thetas := s.thermal.thetas ++ [rise * 1000 / step] } } else s)))
  ∧ (∀ (s : State),
       (s.powered = false → exec .thermtrip s = .next s)
       ∧ (s.powered = true → ∃ t, exec .thermtrip s = .next t ∧ t.power.state = .tripped ∧ t.power.thermtripN = true
         ∧ t.fld devDomains = 3 ∧ t.flag nviReady = false ∧ t.flag tlsBrake = false ∧ t.tells s.turn.number .thermtrip 0
         ∧ t.unpowered s ∧ t.sec = { s.sec with pendingOwner := none } ∧ t.nv = s.nv ∧ t.thermal.sensors = s.thermal.sensors))

/-- POWER_UP with VIN in its range brings the part up: to the end of self-test, or to step 4 while PERST_N is asserted. DEVICE_READY makes it
ready, with the boot counted and the audit chain at its genesis record, or holds it back with a code.
What of it is the model's choice, and not the spec's: log entries 5, 6. -/
def Obligations.PartComesUp : Prop :=
  ∀ (s : State),
    (∀ b : BringUpIn, s.power.state = .off → 46000 ≤ b.vinMv → b.vinMv ≤ 56000 →
      ∃ t, exec (.powerUp b) s = .next t ∧ t.power.state = .starting ∧ t.power.perst = s.power.perst ∧ t.host = s.host
        ∧ (s.power.perst = false → t.fld nviBootStage = 4))
    ∧ (∀ b : BringUpIn, s.power.state ≠ .off ∨ b.vinMv < 46000 ∨ 56000 < b.vinMv → exec (.powerUp b) s = .next s)
    ∧ (s.powered = true → s.power.state ≠ .ready → s.power.perst = false →
      (s.nrCode = 0 → ∃ t, exec .deviceReady s = .next t ∧ t.power.state = .ready ∧ t.flag nviReady = true ∧ t.fld nviBootStage = 7
        ∧ t.fld nviNrCode = 0 ∧ t.audit.sealNo = 0 ∧ t.turn.phase = .none ∧ t.turn.placed = []
        ∧ t.pair audBootLo audBootHi = (s.pair audBootLo audBootHi + 1) % 2 ^ 64 ∧ t.host = s.host)
      ∧ (s.nrCode ≠ 0 → ∃ t, exec .deviceReady s = .next t ∧ t.power.state = .notReady ∧ t.fld nviBootStage = 8
        ∧ t.fld nviNrCode = s.nrCode ∧ t.cores = s.cores ∧ t.hbm = s.hbm ∧ t.host = s.host))
    ∧ (s.powered = false ∨ s.power.state = .ready ∨ s.power.perst = true → exec .deviceReady s = .next s)

/-- PERST_N asserted on a powered part is a cold reset held at step 4; deasserted, the part trains, and after a thermal trip it restarts only
where every sensor reads below 95 degrees.
What of it is the model's choice, and not the spec's: log entry 51. -/
def Obligations.PerstResetsThePart : Prop :=
  ∀ (s : State),
    (s.power.perst = true → exec .perstAssert s = .next s)
    ∧ (s.power.perst = false → s.powered = true → ∃ t, exec .perstAssert s = .next t ∧ t.coldHeld ∧ t.power.perst = true
        ∧ t.host = s.host)
    ∧ (s.power.perst = false → s.powered = false → exec .perstAssert s = .next { s with
        power := { s.power with perst := true, configReady := false }
        access := { s.access with vfEnable := false, atomicEn := [], msix := [], aer := [] }
        sec := { s.sec with sessions := [], sbSessions := [], sbChallenges := [], challenges := [] } })
    ∧ (∀ b : BringUpIn, s.power.perst = false → exec (.perstDeassert b) s = .next s)
    ∧ (∀ b : BringUpIn, s.power.perst = true → s.powered = true → ∃ t, exec (.perstDeassert b) s = .next t
        ∧ t.power.perst = false ∧ t.power.state = s.power.state ∧ t.fld nviBootStage = 4 ∧ t.host = s.host)
    ∧ (∀ b : BringUpIn, s.power.perst = true → s.power.state = .tripped → s.thermal.cool = true → ∃ t, exec (.perstDeassert b) s = .next t
        ∧ t.power.perst = false ∧ t.power.state = .starting ∧ t.power.thermtripN = false ∧ t.fld nviBootStage = 4)
    ∧ (∀ b : BringUpIn, s.power.perst = true → s.power.state = .off ∨ (s.power.state = .tripped ∧ s.thermal.cool = false) →
        exec (.perstDeassert b) s = .next { s with power := { s.power with perst := false, configReady := false } })

/-- VIN below 40 V, or above 60 V, takes the rails; the causes of VIN between are told of, and high VIN holds the brake until it ends.
PHASE_FAULT removes a phase of a share that has a spare left, which joins at the next head, and else runs the share a phase short
and tells of it. HOLDUP_MEASURE shows what the bank measures.
What of it is the model's choice, and not the spec's: log entries 51, 52. -/
def Obligations.PowerInputs : Prop :=
  (∀ (s : State),
     (s.power.state ≠ .off → ∃ t, exec .vinLoss s = .next t ∧ t.power.state = .off ∧ t.unpowered s ∧ t.sec.sessions = []
         ∧ t.power.perst = s.power.perst ∧ ∀ r ∈ s.errs.queue, r.sev ≠ 0 → t.recorded r)
     ∧ (s.power.state = .off → exec .vinLoss s = .next s ∧ exec .vinLow s = .next s ∧ exec .vinOvp s = .next s)
     ∧ (s.power.state ≠ .off → ∃ t, exec .vinLow s = .next t ∧ t.sameBody s ∧ t.tells s.turn.number .vinLow 0)
     ∧ (s.power.state ≠ .off → ∃ t, exec .vinOvp s = .next t ∧ t.power.state = .off ∧ t.unpowered s ∧ t.sec.sessions = []
         ∧ t.tells s.turn.number .vinOvp 0)
     ∧ (s.powered = true → s.power.brakeVin = false → ∃ t, exec .vinHigh s = .next t ∧ t.brakeEngaged s ∧ t.power.brakeVin = true
         ∧ t.tells s.turn.number .vinHigh 0)
     ∧ (s.power.brakeVin = true → exec .vinHigh s = .next s)
     ∧ (s.power.brakeVin = true → ∃ t, exec .vinHighEnd s = .next t ∧ t.power = { s.power with brakeVin := false }
         ∧ t.flag tlsBrake = (s.flag tlsBrake && (s.flag tlsCur || s.flag tlsPin || s.flag tlsHot))
         ∧ t.turn = s.turn ∧ t.works = s.works ∧ t.cores = s.cores)
     ∧ (s.power.brakeVin = false → exec .vinHighEnd s = .next s))
  ∧ (∀ (s : State),
       (∀ (tile : Fin 4) (rail : Fin 9), let k := 16 * tile.val + rail.val
         let x := SMap.get {} s.power.shares k
         s.powered = true → hasShare tile.val rail.val = true →
         (x.used + x.removed < 2 → exec (.phaseFault tile rail) s = .next { s with power := { s.power with
           shares := SMap.set {} s.power.shares k { x with removed := x.removed + 1 } } })
         ∧ (2 ≤ x.used + x.removed → ∃ t, exec (.phaseFault tile rail) s = .next t
           ∧ t.power = { s.power with short := s.power.short ++ [(tile.val, rail.val)] } ∧ t.tells s.turn.number .phaseShort tile.val
           ∧ t.turn = s.turn ∧ t.works = s.works ∧ t.cores = s.cores))
       ∧ (∀ (drop step : Nat) (volt : BitVec 16), s.power.state ≠ .off → ∃ t, exec (.holdupMeasure drop step volt) s = .next t
         ∧ t.sameBody s ∧ t.fld nviHuVolt = volt.toNat ∧ t.fld nviHuEsr = min 65535 (5 * step)
         ∧ t.fld nviHuCap = min 65535 (if drop = 0 then 65535 else 4000000 / drop)))

/-- Losses of clocks: SYSCLK switches to the oscillator once and is told of, the link reference takes every port of its die down, the PCIe
reference is a warm reset of a running part; PPS and the PLLs show in their bits.
What of it is the model's choice, and not the spec's: log entry 51. -/
def Obligations.ClockEvents : Prop :=
  ∀ (s : State),
    (s.power.state ≠ .off → s.power.intOsc = false → ∃ t, exec .sysclkLost s = .next t ∧ t.power = { s.power with intOsc := true }
      ∧ t.flag clkSysLock = false ∧ t.tells s.turn.number .sysclkLost 0 ∧ t.turn = s.turn ∧ t.works = s.works ∧ t.cores = s.cores)
    ∧ (s.power.intOsc = true → exec .sysclkLost s = .next s)
    ∧ (∀ east : Bool, s.powered = true → ∃ t, exec (.refclkLnkLoss east) s = .next t
      ∧ t.flag (clkLnkLock (if east then 0 else 1)) = false
      ∧ (∀ i, i < 12 → (t.port (if east then i else 12 + i)).up = false)
      ∧ (∀ i, i < 12 → t.port (if east then 12 + i else i) = s.port (if east then 12 + i else i))
      ∧ t.works = s.works ∧ t.cores = s.cores ∧ t.turn = s.turn)
    ∧ (s.powered = true → ∃ t, exec .refclkPcieLoss s = .next t ∧ t.power.state = (if s.power.state = .ready then .warm else s.power.state)
      ∧ (s.power.state = .ready ∨ s.power.state = .notReady → t.mesh = [] ∧ t.access.guards = [] ∧ t.flag nviReady = false
          ∧ t.fld nviBootStage = 5)
      ∧ (s.power.state ≠ .ready → s.power.state ≠ .notReady → t.sameBody s.unconfigured))
    ∧ (s.powered = false → (∀ east, exec (.refclkLnkLoss east) s = .next s) ∧ exec .refclkPcieLoss s = .next s)
    ∧ exec .ppsInPulse s = .next (if s.power.state ≠ .off then s.setFlag clkPpsValid true else s)
    ∧ exec .ppsInLoss s = .next (s.setFlag clkPpsValid false)
    ∧ (∀ pll, s.power.state ≠ .off → ∃ t, exec (.pllLossOfLock pll) s = .next t ∧ t.sameBody s ∧ t.flag (pllBit pll) = false
      ∧ t.fld clkLoss = (s.fld clkLoss + 1) % 2 ^ clkLoss.width ∧ t.nv = s.nv ∧ t.errs = s.errs)

/-! ### Pins -/

/-- A transition that has passed the glitch filter is counted and shows in RAW; while the input is not UNSTABLE it reaches LEVEL, and
PWRBRK_N's level is a cause of the brake. PIN_UNSTABLE holds the last stable level of an input that the rate limit watches, and
tells of it; PIN_UNSTABLE_CLEAR lets LEVEL follow the input again; PIN_STUCK tells of an input that stays asserted, sets STUCK
and writes a trace event, and the input is still honoured: level and brake stay as they are. STUCK clears when the input deasserts. -/
def Obligations.PinEvents : Prop :=
  (∀ (s : State) (pin : PinId) (asserted : Bool) (tick : Nat), let n := pinCode pin
     ∃ t, exec (.pinTransition pin asserted tick) s = .next t
       ∧ t.flag (pinRaw n) = asserted
       ∧ (s.power.state ≠ .off → t.fld (pinEvents n) = (s.fld (pinEvents n) + 1) % 2 ^ (pinEvents n).width)
       ∧ (s.power.state = .off ∨ s.flag (pinUnstableF n) = false → t.flag (pinLevel n) = asserted
           ∧ (asserted = false → t.flag (pinStuckF n) = false)
           ∧ (pin = .pwrbrk → t.flag tlsPin = asserted ∧ (asserted = true → s.powered = true → t.brakeEngaged s)))
       ∧ (s.power.state ≠ .off → s.flag (pinUnstableF n) = true → t.flag (pinLevel n) = s.flag (pinLevel n))
       ∧ t.works = s.works ∧ t.cores = s.cores ∧ t.hbm = s.hbm)
  ∧ (∀ (s : State) (pin : PinId), let n := pinCode pin
       (∀ held tick, s.power.state ≠ .off → s.flag (pinRateEn n) = true → s.flag (pinUnstableF n) = false → pin ≠ .turnSync →
         ∃ t, exec (.pinUnstable pin held tick) s = .next t ∧ t.flag (pinUnstableF n) = true ∧ t.flag (pinLevel n) = held
           ∧ t.flag (pinRaw n) = s.flag (pinRaw n) ∧ t.tells s.turn.number .pinUnstable 0 ∧ t.works = s.works ∧ t.cores = s.cores)
       ∧ (∀ held tick, pin = .turnSync ∨ s.flag (pinUnstableF n) = true → exec (.pinUnstable pin held tick) s = .next s)
       ∧ (s.flag (pinUnstableF n) = true → ∃ t, exec (.pinUnstableClear pin) s = .next t ∧ t.flag (pinUnstableF n) = false
           ∧ t.flag (pinLevel n) = s.flag (pinRaw n) ∧ t.works = s.works ∧ t.cores = s.cores)
       ∧ (s.flag (pinUnstableF n) = false → exec (.pinUnstableClear pin) s = .next s)
       ∧ (∀ tick, s.power.state ≠ .off → s.flag (pinStuckS n) = true → s.flag (pinLevel n) = true → s.flag (pinStuckF n) = false →
         ∃ t, exec (.pinStuck pin tick) s = .next t ∧ t.sameBody s ∧ t.flag (pinStuckF n) = true ∧ t.flag (pinLevel n) = true
           ∧ t.tells s.turn.number .pinStuck 0 ∧ t.flag tlsPin = s.flag tlsPin ∧ t.flag tlsBrake = s.flag tlsBrake
           ∧ (s.flag audTraceEn = true → ∃ e ∈ t.audit.turnTrace, e.rtype = 0x08 ∧ e.payload.take 2 = [BitVec.ofNat 8 n, 3]))
       ∧ (∀ tick, s.flag (pinLevel n) = false ∨ s.flag (pinStuckF n) = true → exec (.pinStuck pin tick) s = .next s))

/-! ### Links -/

/-- Every flit type at the hop level: a port that does not work takes nothing; a wrong CRC is answered once and passes nothing on; a wrong
type or a reserved bit is counted and passes nothing on.
What of it is the model's choice, and not the spec's: log entry 47. -/
def Obligations.FlitsAtTheHop : Prop :=
  ∀ (s : State) (i : Instr) (ft p : Nat) (f : Flit), flitCmd i = some (ft, p, f) →
    ((s.port p).lanes = [] ∨ (s.port p).down = true ∨ (s.port p).state < 5 → exec i s = .next s)
    ∧ ((s.port p).lanes ≠ [] → (s.port p).down = false → 5 ≤ (s.port p).state → flitCrcOk f = false →
      ∃ t, exec i s = .next t ∧ (t.port p).rxSeq = (s.port p).rxSeq ∧ (t.port p).nakSent = true
        ∧ t = { s with links := { s.links with ports := t.links.ports } })
    ∧ ((s.port p).lanes ≠ [] → (s.port p).down = false → 5 ≤ (s.port p).state → flitCrcOk f = true →
      f.lseq.toNat % 4096 = (s.port p).rxSeq → f.ftype.toNat ≠ ft ∨ flitReserved f = true →
      ∃ t, exec i s = .next t ∧ (t.port p).rxSeq = ((s.port p).rxSeq + 1) % 4096
        ∧ t.fld lnkFlitBad = (s.fld lnkFlitBad + 1) % 2 ^ lnkFlitBad.width
        ∧ t = { s with links := { s.links with ports := t.links.ports }, regs := t.regs })

/-- DATA, RELEASE and NOTICE in order, for this chip: the pair's ESEQ advances, and a whole word, a release or another chip's reset takes
effect.
What of it is the model's choice, and not the spec's: log entries 47, 48. -/
def Obligations.RoutedFlitsPassUp : Prop :=
  ∀ (s : State) (p : Fin 24) (f : Flit), s.pairs f → let x := s.pairIn f.src.toNat
    (∀ w, s.hops ftData p.val f → f.fflags.getLsbD 0 = true → f.fflags.getLsbD 1 = true → parseWord f.src.toNat f.payload = some w →
      ∃ t, exec (.data p f) s = .next t ∧ (t.port p.val).rxSeq = ((s.port p.val).rxSeq + 1) % 4096
        ∧ (t.pairIn f.src.toNat).expect = (x.expect + 1) % 2 ^ 32
        ∧ (t.pairIn f.src.toNat).words = x.words ++ [{ w with data := if w.isSignal then [] else (f.payload.drop 48).take w.len }]
        ∧ t.works = s.works ∧ t.cores = s.cores ∧ t.hbm = s.hbm ∧ t.turn = s.turn)
    ∧ (s.hops ftRelease p.val f → fieldAt f.payload 8 2 ≤ 16 → fieldAt f.payload 10 2 = 0 → fieldAt f.payload 0xEC 4 = 0 →
      (∀ i, i < fieldAt f.payload 8 2 → fieldAt f.payload (13 + 14 * i) 1 = 0) → ∃ t r, exec (.release p f) s = .next t ∧ (t.pairIn f.src.toNat).expect = (x.expect + 1) % 2 ^ 32
        ∧ (t.pairIn f.src.toNat).releases = x.releases ++ [r] ∧ t.works = s.works ∧ t.cores = s.cores ∧ t.hbm = s.hbm)
    ∧ (s.hops ftNotice p.val f → fieldAt f.payload 2 1 = 0 →
      ∃ t, exec (.notice p f) s = .next t ∧ t.tells s.turn.number .peerReset 0
        ∧ (∀ w ∈ s.works, w.interrupted = true → s.multiChip w = true → s.groupHas w (fieldAt f.payload 0 2) = true →
            ∃ v ∈ t.works, v.ring = w.ring ∧ v.seq = w.seq ∧ v.result = some stTargetReset)
        ∧ t.hbm = s.hbm ∧ t.host = s.host)

/-- E2E_ACK frees what it covers of its pair, LINK_ACK counts a replay where it asks for one, IDLE advances LSEQ alone, PEER finds the peer
and makes a training port active.
What of it is the model's choice, and not the spec's: log entries 47, 48. -/
def Obligations.LinkControlFlits : Prop :=
  ∀ (s : State) (p : Fin 24) (f : Flit),
    (s.hops ftE2eAck p.val f → f.dst.toNat = s.links.topo.self → ∃ t, exec (.e2eAck p f) s = .next t
      ∧ (t.pairOut f.src.toNat).held = (s.pairOut f.src.toNat).held.filter (fun g =>
          decide (2 ^ 31 ≤ (f.eseq.toNat + 2 ^ 32 - g.eseq.toNat) % 2 ^ 32))
      ∧ t = { s with links := t.links })
    ∧ (s.hops ftLinkAck p.val f → ∃ t, exec (.linkAck p f) s = .next t ∧ (t.port p.val).rxSeq = ((s.port p.val).rxSeq + 1) % 4096
      ∧ (fieldAt f.payload 0 1 ≠ 1 → t = { s with links := t.links })
      ∧ (fieldAt f.payload 0 1 = 1 → (∃ g ∈ (s.port p.val).retry, g.lseq.toNat = fieldAt f.payload 1 2) →
          t.fld lnkReplay = (s.fld lnkReplay + 1) % 2 ^ lnkReplay.width) ∧ t.works = s.works ∧ t.cores = s.cores)
    ∧ (s.hops 0 p.val f → exec (.idle p f) s = .next (s.setPort p.val { s.port p.val with
        rxSeq := ((s.port p.val).rxSeq + 1) % 4096, nakSent := false }))
    ∧ (s.hops ftPeer p.val f → ∃ t, exec (.peer p f) s = .next t
      ∧ (t.port p.val).found = some (fieldAt f.payload 0 2, fieldAt f.payload 2 1, decide (sliceBytes f.payload 11 32 = s.sysdig))
      ∧ (t.port p.val).state = (if (s.port p.val).state = 5 then 6 else (s.port p.val).state)
      ∧ t = { s with links := t.links })

/-- Turn alignment: a SYNC flit of the master or the backup sets the system turn; a TURN_SYNC pulse that is not too early sets the
phase error, its correction held within the limit; SYNC_LOST, RESYNC and the backup's takeover follow their counts.
What of it is the model's choice, and not the spec's: log entry 48. -/
def Obligations.TurnAlignment : Prop :=
  ∀ (s : State),
    (∀ (p : Fin 24) (f : Flit) (err : Int), s.hops ftSync p.val f →
      fieldAt f.payload 12 2 = s.links.topo.master ∨ fieldAt f.payload 12 2 = s.links.topo.backup →
      s.links.sync.master ≠ s.links.topo.backup ∨ fieldAt f.payload 12 2 = s.links.topo.backup →
      ∃ t, exec (.sync p f err) s = .next t ∧ t.links.sync.masterSturn = fieldAt f.payload 0 8
        ∧ t.links.sync.master = fieldAt f.payload 12 2 ∧ t.flag lnkMaster = decide (fieldAt f.payload 12 2 = s.links.topo.self)
        ∧ t.works = s.works ∧ t.cores = s.cores ∧ t.turn = s.turn)
    ∧ (∀ (since : Nat) (err : Int), s.power.state = .ready → s.follows = true → s.hbm.layout.syncMode = 1 →
      (s.flag (pinRateEn 2) = false ∨ s.fld hstTurnTicks - 2 * s.syncLimit ≤ since →
        ∃ t, exec (.turnSyncPulse since err) s = .next t ∧ t.links.sync.seen = true
          ∧ t.links.sync.correction = (if s.flag lnkSyncLost then 0 else max (-(s.syncLimit : Int)) (min s.syncLimit err))
          ∧ t = { s with links := t.links, regs := t.regs })
      ∧ (s.flag (pinRateEn 2) = true → since < s.fld hstTurnTicks - 2 * s.syncLimit → exec (.turnSyncPulse since err) s = .next s))
    ∧ (s.power.state = .ready → s.follows = true → s.flag lnkSyncLost = false → 3 ≤ s.links.sync.missed ∨ 3 ≤ s.links.sync.overLim →
      ∃ t, exec .syncLost s = .next t ∧ t.flag lnkSyncLost = true ∧ t.tells s.turn.number .syncLost 0 ∧ t.links.sync.correction = 0
        ∧ t.works = s.works ∧ t.cores = s.cores ∧ t.turn = s.turn)
    ∧ (∀ err, s.power.state = .ready → s.flag lnkSyncLost = true → 3 ≤ s.links.sync.good → err < s.fld hstTurnTicks →
      exec (.resync err) s = .next { s with links := { s.links with sync := { s.links.sync with realign := some err } } })
    ∧ (s.power.state = .ready → s.flag lnkSyncLost = true → s.links.topo.backup = s.links.topo.self →
      s.links.sync.master ≠ s.links.topo.self → 10 ≤ s.links.sync.lostTurns →
      ∃ t, exec .backupMasterTakeover s = .next t ∧ t.flag lnkMaster = true ∧ t.flag lnkSyncLost = false
        ∧ t.links = { s.links with sync := { s.links.sync with master := s.links.topo.self, lostTurns := 0 } }
        ∧ t.works = s.works ∧ t.cores = s.cores ∧ t.turn = s.turn)

/-- Lanes and ports: an active lane goes to a free spare, or its port narrows or goes down; a lane that trains joins its port; a
neighbour whose ports are all down counts as reset. Timers of the links: the oldest unacknowledged flit of a pair is sent again;
words held for a lost route are abandoned; an orphaned word is discarded; each is counted, and the last two are told of.
What of it is the model's choice, and not the spec's: log entry 48. -/
def Obligations.LanesPortsAndTimers : Prop :=
  (∀ (s : State),
     (∀ (lane : Fin 104) (p : Nat), s.portWith lane.val = some p →
       ∃ t, exec (.laneSpared lane) s = .next t ∧ lane.val ∈ t.links.deadLanes
         ∧ (SMap.get none s.links.spares (portSpare p) = none → lane.val ≠ spareLane (portSpare p) → spareLane (portSpare p) ∉ s.links.deadLanes →
             SMap.get none t.links.spares (portSpare p) = some lane.val ∧ t.tells s.turn.number .laneSpared lane.val
             ∧ (t.port p).lanes = (s.port p).lanes.filter (fun l => decide (l ≠ lane.val)) ++ [spareLane (portSpare p)])
         ∧ (SMap.get none s.links.spares (portSpare p) ≠ none →
             (t.port p).lanes = (s.port p).lanes.filter (fun l => decide (l ≠ lane.val))
             ∧ (if (t.port p).lanes = [] then t.tells s.turn.number .portDown lane.val else t.tells s.turn.number .portNarrow lane.val))
         ∧ t.works = s.works ∧ t.cores = s.cores ∧ t.turn = s.turn)
     ∧ (∀ (lane : Fin 104) (p : Nat), lanePort lane.val = some p → s.powered = true → lane.val ∉ (s.port p).lanes →
       lane.val ∉ s.links.deadLanes → (s.port p).lanes.length < 4 →
       ∃ t, exec (.linkTrainRetry lane .active) s = .next t ∧ (t.port p).lanes = (s.port p).lanes ++ [lane.val] ∧ (t.port p).down = false
         ∧ ((s.port p).lanes = [] → (t.port p).state = 5) ∧ t = { s with links := t.links })
     ∧ (∀ lane : Fin 104, exec (.linkTrainRetry lane .failed) s = .next s)
     ∧ (∀ p : Fin 24, let e := s.links.topo.ports.getD p.val (0, 0, 0)
       e.2.2 ≠ 0 → s.upOf (s.links.topo.portsTo e.1) = [] →
       ∃ t, exec (.portDownNotice p) s = .next t ∧ t.tells s.turn.number .peerReset 0 ∧ t.hbm = s.hbm ∧ t.host = s.host))
  ∧ (∀ (s : State) (d : BitVec 12),
       (∀ f rest, (s.pairOut d.toNat).held = f :: rest → ∃ t, exec (.e2eTimeout d) s = .next t
         ∧ (t.pairOut d.toNat).retries = (s.pairOut d.toNat).retries + 1 ∧ (t.pairOut d.toNat).held = f :: rest
         ∧ t.fld lnkE2eRetx = (s.fld lnkE2eRetx + 1) % 2 ^ lnkE2eRetx.width ∧ t = { s with links := t.links, regs := t.regs })
       ∧ ((s.pairOut d.toNat).held = [] → exec (.e2eTimeout d) s = .next s ∧ exec (.routeLost d) s = .next s)
       ∧ ((s.pairOut d.toNat).held ≠ [] → s.routePort s.links.topo.self d.toNat = none → ∃ t, exec (.routeLost d) s = .next t
         ∧ (t.pairOut d.toNat).held = [] ∧ t.fld lnkRouteLoss = (s.fld lnkRouteLoss + 1) % 2 ^ lnkRouteLoss.width
         ∧ t.tells s.turn.number .routeLost 0 ∧ t.cores = s.cores ∧ t.turn = s.turn ∧ t.hbm = s.hbm)
       ∧ (∀ index w m, (s.pairIn d.toNat).words[index]? = some w → w.due = some m → m + s.fld lnkLinkHold ≤ s.sturn →
         ∃ t, exec (.linkOrphan d index) s = .next t ∧ (t.pairIn d.toNat).words = (s.pairIn d.toNat).words.eraseIdx index
           ∧ t.fld lnkOrphan = (s.fld lnkOrphan + 1) % 2 ^ lnkOrphan.width ∧ t.tells s.turn.number .linkOrphan 0
           ∧ t.works = s.works ∧ t.cores = s.cores ∧ t.turn = s.turn))

/-! ### The host interface and its registers -/

/-- PCIE_HOT_RESET, PCIE_LINK_DOWN, PF_FLR, VF_FLR of the PF and ERR_RESET.REQ 1 are warm resets of a part that is ready or held back;
ERR_RESET.REQ 2 is a cold reset; VF_FLR of a VF drops its work at once, and the next head disables its rings; no other function's.
What of it is the model's choice, and not the spec's: log entries 39, 41. -/
def Obligations.ResetsOfTheHostInterface : Prop :=
  ∀ (s : State),
    (∀ i, i = .pcieHotReset ∨ i = .pfFlr ∨ i = .vfFlr 0 →
      (s.power.state = .ready ∨ s.power.state = .notReady → ∃ t, exec i s = .next t ∧ t.warmStarted s)
      ∧ (s.power.state ≠ .ready → s.power.state ≠ .notReady → exec i s = .next s.unconfigured))
    ∧ (s.power.state = .ready ∨ s.power.state = .notReady → ∃ t, exec .pcieLinkDown s = .next t ∧ t.warmStarted s
      ∧ t.fld hifLinkWidth = 0 ∧ t.fld hifLinkGen = 0)
    ∧ (s.power.state ≠ .ready → s.power.state ≠ .notReady → ∃ t, exec .pcieLinkDown s = .next t ∧ t.sameBody s.unconfigured
      ∧ t.fld hifLinkWidth = 0 ∧ t.fld hifLinkGen = 0)
    ∧ (∀ rid, s.hostPath = true → s.power.state = .ready ∨ s.power.state = .notReady →
      ∃ t, exec (.errResetWarm rid) s = .next t ∧ t.warmStarted s)
    ∧ (∀ rid, s.hostPath = true → s.power.state ≠ .ready → s.power.state ≠ .notReady →
      exec (.errResetWarm rid) s = .next (s.countWrite rid.toNat 0))
    ∧ (∀ rid b, s.hostPath = true → ∃ t, exec (.errResetCold rid b) s = .next t ∧ t.coldStarted)
    ∧ (∀ rid b, s.hostPath = false → exec (.errResetWarm rid) s = .next s ∧ exec (.errResetCold rid b) s = .next s)
    ∧ (∀ v : Fin 64, v ≠ 0 → SMap.wf none s.rings = true → ∃ t, exec (.vfFlr v) s = .next t
      ∧ t.rings = s.rings ∧ (∀ r x, s.ring r = some x → x.fn = v.val → t.finishFlr.ring r = none)
      ∧ (∀ w ∈ t.works, ∀ x, s.ring w.ring = some x → x.fn ≠ v.val)
      ∧ t.hif v.val hifEnable = 0 ∧ v.val ∉ t.access.up ∧ v.val ∉ t.access.starting ∧ (∀ g ∈ t.access.guards, g.fn ≠ v.val)
      ∧ t.plans = s.plans ∧ t.sec = s.sec ∧ t.host = s.host)

/-- The link comes up or retrains narrower at a width and generation of 11 R289; D3hot holds a function's requests back and D0 lets them
go; a configuration request is answered, or asked again until the space is ready; an unmasked vector sends what is pending, a masked one
sends nothing, and a vector's message is held.
What of it is the model's choice, and not the spec's: log entry 42. -/
def Obligations.HostLinkEvents : Prop :=
  ∀ (s : State),
    (∀ width gen, (s.hostPath = true → linkShape width.toNat gen.toNat = true → ∃ t, exec (.pcieLinkUp width gen) s = .next t ∧ t.sameBody s ∧ t.fld hifLinkWidth = width.toNat
        ∧ t.fld hifLinkGen = gen.toNat ∧ t.nv = s.nv ∧ t.errs = s.errs)
      ∧ (s.hostPath = false ∨ linkShape width.toNat gen.toNat = false → exec (.pcieLinkUp width gen) s = .next s))
    ∧ (∀ width gen, (s.hostPath = true → width.toNat < s.fld hifLinkWidth → linkShape width.toNat gen.toNat = true → ∃ t, exec (.linkNarrow width gen) s = .next t ∧ t.sameBody s
        ∧ t.fld hifLinkWidth = width.toNat ∧ t.fld hifLinkGen = gen.toNat ∧ t.nv = s.nv ∧ t.errs = s.errs)
      ∧ (s.hostPath = false ∨ s.fld hifLinkWidth ≤ width.toNat ∨ linkShape width.toNat gen.toNat = false →
        exec (.linkNarrow width gen) s = .next s))
    ∧ (∀ f : Fin 64, ∃ t, exec (.d3hotEntry f) s = .next t ∧ t.hostOpen f.val = false ∧ (∀ g, g ≠ f.val → g ∈ s.access.d3hot → g ∈ t.access.d3hot)
      ∧ t = { s with access := { s.access with d3hot := t.access.d3hot } })
    ∧ (∀ f : Fin 64, ∃ t, exec (.d0Return f) s = .next t ∧ (∀ g, g ∈ t.access.d3hot ↔ g ∈ s.access.d3hot ∧ g ≠ f.val)
      ∧ t = { s with access := { s.access with d3hot := t.access.d3hot } })
    ∧ (∀ (f : Fin 64) (q : CfgReq), (s.powered = false → exec (.configurationRequest ⟨f, q⟩) s = .next { s with reply := .silent })
      ∧ (s.powered = true → s.power.configReady = false → exec (.configurationRequest ⟨f, q⟩) s = .next { s with reply := .crs })
      ∧ (s.powered = true → s.power.configReady = true → ∃ t, exec (.configurationRequest ⟨f, q⟩) s = .next t
        ∧ t = { s with access := t.access, reply := t.reply }
        ∧ (∀ x, q = .read x → t.access = s.access ∧ t.reply = (match s.cfgRead f.val x with
            | some v => .value v 4
            | none => .configOk))
        ∧ (∀ x v, q = .write x v → t.reply = .configOk)))
    ∧ (∀ (f : Fin 64) (vec : BitVec 11), let k := (f.val, vec.toNat)
      (∃ t, exec (.msixUnmask f ⟨vec, .unmask⟩) s = .next t ∧ k ∈ t.access.vecOpen ∧ (∀ j, j ∈ s.access.vecOpen → j ∈ t.access.vecOpen)
        ∧ (k ∈ s.access.vecPending → s.hostOpen f.val = true → t.access.sent = [k] ∧ k ∉ t.access.vecPending)
        ∧ (k ∉ s.access.vecPending ∨ s.hostOpen f.val = false → t.access.sent = [] ∧ t.access.vecPending = s.access.vecPending)
        ∧ t = { s with access := { s.access with
            vecOpen := t.access.vecOpen, vecPending := t.access.vecPending, sent := t.access.sent } })
      ∧ (∃ t, exec (.msixUnmask f ⟨vec, .mask⟩) s = .next t ∧ k ∉ t.access.vecOpen ∧ (∀ j, j ≠ k → (j ∈ t.access.vecOpen ↔ j ∈ s.access.vecOpen))
        ∧ t = { s with access := { s.access with vecOpen := t.access.vecOpen } })
      ∧ (∀ addr data, ∃ t, exec (.msixUnmask f ⟨vec, .message addr data⟩) s = .next t
        ∧ SMap.get {} t.access.msix (2048 * f.val + vec.toNat) = ⟨addr, data⟩
        ∧ t = { s with access := { s.access with msix := t.access.msix } })
      ∧ (∀ i, exec (.msixUnmask f ⟨vec, .read i⟩) s = .next { s with reply := .value (s.msixDword k i.val) 4 })
      ∧ exec (.msixUnmask f ⟨vec, .pba⟩) s = .next { s with reply := .value (s.pbaWord k) 8 })

/-- Register reads: a part that host requests do not reach is silent; a read of a wrong size, alignment or place is unsupported; the
complement port and the offsets between windows read as 0; a register of a domain without power reads as ones and sets DOMAIN_OFF; every
other reads as its value. A read of an _LO register latches its _HI register for that requester and no other: a read of a latched register
gives the latched value, and leaves it latched. An 8-byte read gives both registers at once. -/
def Obligations.RegisterReads : Prop :=
  ∀ (s : State) (rid : BitVec 16) (f : Fin 64) (off : BitVec 25),
    let o := off.toNat
    let key := (regTarget f.val o).1
    let win := (regTarget f.val o).2
    (∀ size, s.hostPath = false → exec (.regRead rid f off size) s = .next { s with reply := .silent })
    ∧ (∀ size, s.hostPath = true → inBar f.val o = false ∨ (size.toNat ≠ 4 ∧ size.toNat ≠ 8) ∨ o % size.toNat ≠ 0 →
      exec (.regRead rid f off size) s = .next { s with reply := .unsupported })
    ∧ (s.hostPath = true → inBar f.val o = true → o % 4 = 0 →
      (win = .complement ∨ win = .none → exec (.regRead rid f off 4) s = .next { s with reply := .value 0 4 })
      ∧ (win ≠ .complement → win ≠ .none → s.domainOn key = false →
        exec (.regRead rid f off 4) s = .next { (s.setFlag devDomainOff true) with reply := .value 0xFFFFFFFF 4 })
      ∧ (win ≠ .complement → win ≠ .none → s.domainOn key = true → key ∉ loRegs →
        SMap.get none s.access.latches (latchKey rid.toNat f.val key) = none →
        exec (.regRead rid f off 4) s = .next { s with reply := .value (s.regValue rid.toNat f.val key).toNat 4 })
      ∧ (∀ v, win ≠ .complement → win ≠ .none → s.domainOn key = true → key ∉ loRegs →
        SMap.get none s.access.latches (latchKey rid.toNat f.val key) = some v →
        exec (.regRead rid f off 4) s = .next { s with reply := .value v.toNat 4 })
      ∧ (win ≠ .complement → win ≠ .none → s.domainOn key = true → key ∈ loRegs →
        ∃ t, exec (.loReadLatch rid f off) s = .next t ∧ t.reply = .value (s.regValue rid.toNat f.val key).toNat 4
          ∧ t = { s with access := { s.access with latches := t.access.latches }, reply := t.reply }
          ∧ SMap.get none t.access.latches (latchKey rid.toNat f.val (key + 4)) = some (s.regValue rid.toNat f.val (key + 4))
          ∧ ∀ (rid' : BitVec 16) (f' : Fin 64) (off' : BitVec 25), rid' ≠ rid →
            SMap.get none t.access.latches (latchKey rid'.toNat f'.val (regTarget f'.val off'.toNat).1)
              = SMap.get none s.access.latches (latchKey rid'.toNat f'.val (regTarget f'.val off'.toNat).1)))
    ∧ (s.hostPath = true → inBar f.val o = true → o % 8 = 0 → win ≠ .complement → win ≠ .none → s.domainOn key = true →
      s.domainOn (key + 4) = true → exec (.regRead rid f off 8) s = .next { s with
        reply := .value ((s.regValue rid.toNat f.val key).toNat + 2 ^ 32 * (s.regValue rid.toNat f.val (key + 4)).toNat) 8 })

/-- Register writes of a requester that holds no guarded value: a write that is not of 4 aligned bytes is dropped and counted; the SCRATCH
register takes what is written, and through its aliases the bits set, cleared or toggled; writing 1 clears a status bit; a keyed register
keeps its value after ready, and the write is counted; a write to a domain without power, or to a guarded register through an alias, does
nothing but show.
What of it is the model's choice, and not the spec's: log entry 43. -/
def Obligations.RegisterWrites : Prop :=
  ∀ (s : State) (rid : BitVec 16) (f : Fin 64) (off : BitVec 25) (v : BitVec 32),
    let o := off.toNat
    let key := (regTarget f.val o).1
    let win := (regTarget f.val o).2
    s.guardOf rid.toNat f.val = none →
    (∀ whole, s.hostPath = false ∨ inBar f.val o = false → exec (.regWrite rid f off v whole) s = .next s)
    ∧ (∀ whole, s.hostPath = true → inBar f.val o = true → whole = false ∨ o % 4 ≠ 0 → ∃ t, exec (.regWrite rid f off v whole) s = .next t
      ∧ t.sameBody s ∧ t.flag devBadWrite = true ∧ t.fld devBadWrites = (s.fld devBadWrites + 1) % 2 ^ devBadWrites.width
      ∧ ∀ k, k ≠ 0x100 → k ≠ 0x114 → t.reg k = s.reg k)
    ∧ (s.hostPath = true → f = 0 → ∃ t, exec (.regWrite rid f 0x8 v true) s = .next t ∧ t.reg 0x8 = v ∧ t.sameBody s
      ∧ ∀ k, k ≠ 0x8 → t.reg k = s.reg k)
    ∧ (s.hostPath = true → f = 0 → ∃ t, exec (.setAliasWrite rid f 0x4008 v) s = .next t ∧ t.reg 0x8 = s.reg 0x8 ||| v ∧ t.sameBody s
      ∧ ∀ k, k ≠ 0x8 → t.reg k = s.reg k)
    ∧ (s.hostPath = true → f = 0 → ∃ t, exec (.clearAliasWrite rid f 0x8008 v) s = .next t ∧ t.reg 0x8 = s.reg 0x8 &&& ~~~v ∧ t.sameBody s
      ∧ ∀ k, k ≠ 0x8 → t.reg k = s.reg k)
    ∧ (s.hostPath = true → f = 0 → ∃ t, exec (.toggleAliasWrite rid f 0xC008 v) s = .next t ∧ t.reg 0x8 = s.reg 0x8 ^^^ v ∧ t.sameBody s
      ∧ ∀ k, k ≠ 0x8 → t.reg k = s.reg k)
    ∧ (s.hostPath = true → f = 0 → ∃ t, exec (.w1cWrite rid f 0x100 v) s = .next t ∧ t.sameBody s
      ∧ t.flag devDomainOff = (s.flag devDomainOff && !v.getLsbD 0) ∧ t.flag devGuardFail = (s.flag devGuardFail && !v.getLsbD 1)
      ∧ t.flag devBadWrite = (s.flag devBadWrite && !v.getLsbD 2) ∧ ∀ k, k ≠ 0x100 → t.reg k = s.reg k)
    ∧ (s.hostPath = true → f = 0 → s.domainOn 0x2000C = true → s.afterReady = true →
      ∃ t, exec (.regWrite rid f 0x2000C v true) s = .next t ∧ t.sameBody s ∧ t.fld nviKeyDrop = (s.fld nviKeyDrop + 1) % 2 ^ nviKeyDrop.width
        ∧ ∀ k, k ≠ 0x40124 → t.reg k = s.reg k)
    ∧ (s.hostPath = true → f = 0 → s.domainOn 0x2000C = true → s.afterReady = false →
      ∃ t, exec (.regWrite rid f 0x2000C v true) s = .next t ∧ t.sameBody s
        ∧ t.fld (hstWeight 1) = max 1 (bitField v.toNat 0 8) ∧ t.fld (hstWeight 2) = max 1 (bitField v.toNat 8 8)
        ∧ t.fld (hstWeight 3) = max 1 (bitField v.toNat 16 8) ∧ t.fld (hstWeight 4) = max 1 (bitField v.toNat 24 8)
        ∧ ∀ k, k ≠ 0x2000C → t.reg k = s.reg k)
    ∧ (s.hostPath = true → inBar f.val o = true → o % 4 = 0 → win ≠ .none → win ≠ .complement → s.domainOn key = false →
      exec (.regWrite rid f off v true) s = .next ((s.setFlag devDomainOff true).bump devDomainDrops 1))
    ∧ (∀ i, i = .setAliasWrite rid f off v ∨ i = .clearAliasWrite rid f off v ∨ i = .toggleAliasWrite rid f off v →
      s.hostPath = true → inBar f.val o = true → o % 4 = 0 → win = .set ∨ win = .clear ∨ win = .toggle → s.domainOn key = true →
      guardedReg f.val key = true → exec i s = .next (s.guardFail 8 o rid.toNat f.val))

/-- The guarded sequence: a write of a guarded register is held, in place of one held before, and one value is held for each pair of
requester and function, which no other pair's writes touch; the write of its complement at the complement port commits it, where no
check forbids; any other second write, and a complement with nothing held, fail the guard and say why; the sixteenth further write of the
requester discards the held value.
What of it is the model's choice, and not the spec's: log entry 43. -/
def Obligations.GuardedWrites : Prop :=
  ∀ (s : State) (rid : BitVec 16) (f : Fin 64) (off : BitVec 25) (v : BitVec 32),
    let o := off.toNat
    let key := (regTarget f.val o).1
    let win := (regTarget f.val o).2
    s.hostPath = true → inBar f.val o = true → o % 4 = 0 → s.domainOn key = true →
    (win = .normal → guardedReg f.val key = true →
      ∃ t, exec (.guardedWriteStage rid f off v) s = .next t ∧ t.guardOf rid.toNat f.val = some ⟨rid.toNat, f.val, o, v, 16⟩
        ∧ (s.guardOf rid.toNat f.val = none → t = { s with access := { s.access with guards := t.access.guards } })
        ∧ (∀ g, s.guardOf rid.toNat f.val = some g → 1 < g.left → t.fld devGuardWhy = 3 ∧ t.fld devGuardOff = g.off % 2 ^ 25))
    ∧ (∀ (r' : Nat) (f' : Fin 64), r' ≠ rid.toNat ∨ f' ≠ f →
      (win = .normal → guardedReg f.val key = true → ∃ t, exec (.guardedWriteStage rid f off v) s = .next t ∧ t.guardOf r' f'.val = s.guardOf r' f'.val)
      ∧ (win = .complement → ∃ t, exec (.guardedWriteCommit rid f off v) s = .next t ∧ t.guardOf r' f'.val = s.guardOf r' f'.val))
    ∧ (∀ g, win = .complement → s.guardOf rid.toNat f.val = some g → let k := (regTarget f.val g.off).1
      let u := s.dropGuard rid.toNat f.val
      (o = g.off + 0x2000 → v = ~~~g.value →
        (u.commitFault f.val k g.value.toNat = none → ∃ t, exec (.guardedWriteCommit rid f off v) s = .next t
          ∧ t.guardOf rid.toNat f.val = none ∧ t.regs = (u.putGuarded f.val k g.value.toNat).regs
          ∧ t.hbm = s.hbm ∧ t.works = s.works ∧ t.cores = s.cores)
        ∧ (∀ why, u.commitFault f.val k g.value.toNat = some why → why ≠ 0 →
          exec (.guardedWriteCommit rid f off v) s = .next (u.guardFail why g.off rid.toNat f.val))
        ∧ (u.commitFault f.val k g.value.toNat = some 0 → exec (.guardedWriteCommit rid f off v) s = .next (u.bump nviKeyDrop 1)))
      ∧ (o ≠ g.off + 0x2000 ∨ v ≠ ~~~g.value →
        exec (.guardedWriteCommit rid f off v) s = .next (u.guardFail 1 g.off rid.toNat f.val)))
    ∧ (win = .complement → s.guardOf rid.toNat f.val = none →
      exec (.guardedWriteCommit rid f off v) s = .next (s.guardFail 4 o rid.toNat f.val))
    ∧ (∀ why a, why < 16 → ∃ t, t = s.guardFail why a rid.toNat f.val ∧ t.flag devGuardFail = true
      ∧ t.fld devGuardFails = (s.fld devGuardFails + 1) % 2 ^ devGuardFails.width ∧ t.fld devGuardOff = a % 2 ^ 25
      ∧ t.fld devGuardRid = rid.toNat ∧ t.fld devGuardWhy = why ∧ t.fld devGuardFn = f.val ∧ t.sameBody s)
    ∧ (∀ g, f = 0 → s.guardOf rid.toNat f.val = some g →
      (g.left ≤ 1 → ∃ t, exec (.guardExpire rid f 0x8 v) s = .next t ∧ t.guardOf rid.toNat f.val = none ∧ t.fld devGuardWhy = 2
        ∧ t.fld devGuardOff = g.off % 2 ^ 25 ∧ t.reg 0x8 = v)
      ∧ (1 < g.left → ∃ t, exec (.guardExpire rid f 0x8 v) s = .next t ∧ t.reg 0x8 = v
        ∧ t.guardOf rid.toNat f.val = some { g with left := g.left - 1 }))
    ∧ (∀ left, f = 0 → s.domainOn 0x10004 = true → s.guardOf rid.toNat 0 = some ⟨rid.toNat, 0, 0x10004, v, left⟩ →
      (s.dropGuard rid.toNat 0).commitFault 0 0x10004 v.toNat = none → ∃ t, exec (.dbmodeWrite rid v) s = .next t
        ∧ t.fld hifDbmode = bitField v.toNat 0 1 ∧ t.fld hifDevFetch = bitField v.toNat 1 12 ∧ t.access.fallback = []
        ∧ t.guardOf rid.toNat 0 = none)

/-- Registers that act, written by a requester that holds no guarded value: ENABLE starts or stops a function, SEAL_NOW asks for a seal,
MEASURE measures the bank, WINDOW_NOW asks for a window, CNT_FREEZE holds a core's counters.
What of it is the model's choice, and not the spec's: log entries 39, 44. -/
def Obligations.RegisterActions : Prop :=
  ∀ (s : State) (rid : BitVec 16) (f : Fin 64), s.hostPath = true → s.guardOf rid.toNat f.val = none → s.fld devDomains = 0x3FFF →
    (∃ t, exec (.hifEnableSet rid f) s = .next t ∧ t.hif f.val hifEnable = 1
      ∧ (s.hif f.val hifEnable = 0 → f.val ∈ t.access.starting) ∧ (s.hif f.val hifEnable ≠ 0 → t.access = s.access)
      ∧ t = { s with regs := t.regs, access := t.access })
    ∧ (∃ t, exec (.hifEnableClear rid f) s = .next t ∧ t.hif f.val hifEnable = 0 ∧ t = { s with regs := t.regs })
    ∧ (f = 0 → exec (.sealNow rid) s = .next { s with audit := { s.audit with reasons := s.audit.reasons ++ [2] } })
    ∧ (∀ drop step volt, f = 0 → ∃ t, exec (.measure rid drop step volt) s = .next t ∧ t.sameBody s ∧ t.fld nviHuVolt = volt.toNat
      ∧ t.fld nviHuEsr = min 65535 (5 * step) ∧ t.fld nviHuCap = min 65535 (if drop = 0 then 65535 else 4000000 / drop))
    ∧ (f = 0 → exec (.windowNow rid) s = .next { s with witness := { s.witness with request := true } })
    ∧ (∀ (c : Fin 144) (on : Bool), f = 0 → s.coreOut c.val = 0 → ∃ t, exec (.cntFreeze rid c on) s = .next t
      ∧ t.flag (coreCntFreeze c.val) = on ∧ t = { s with regs := t.regs, access := { s.access with frozen := t.access.frozen } }
      ∧ (on = true → s.flag (coreCntFreeze c.val) = false → ∀ i, i < 13 →
          t.coreCounter c.val i = ((s.core c.val).windowCounts.getD i 0).toNat))

/-! ### Descriptors -/

/-- A descriptor with the next sequence number is journalled: ACCEPTED advances, and an admin descriptor that a check refuses completes
with that status alone. A wrong number puts the ring into the error state; a ring that is not sampled takes nothing. RUN reserves its
staging copies, or waits where they do not fit; where a check refuses it, it completes with that status.
What of it is the model's choice, and not the spec's: log entries 27, 29. -/
def Obligations.DescriptorsAreAccepted : Prop :=
  ∀ (s : State) (x : Ring),
    (∀ i r op d, adminCmd i = some (r, op, d) → s.samples r x d.seq.toNat → s.isAdminRing r = true →
      ∃ t y w, exec i s = .next t ∧ t.ring r = some y ∧ y.acc = x.acc + 1 ∧ y.cmp = x.cmp ∧ t.findWork r d.seq.toNat = some w
        ∧ w.desc = adminBytes op d ∧ w.fn = x.fn ∧ w.epoch = s.fld errEpoch ∧ t.turn.nacc = s.turn.nacc + 1
        ∧ ∀ st, (s.accepted r x (adminBytes op d)).adminCheck (s.workOf r x (adminBytes op d)) = some st →
          w.result = some st ∧ t = (s.accepted r x (adminBytes op d)).setResult w st)
    ∧ (∀ i r b, (∃ op d, adminCmd i = some (r, op, d) ∧ b = adminBytes op d) ∨ (∃ (q : Fin 65536) (d : RunDesc), i = .run q d ∧ r = q.val ∧ b = runBytes d) →
      (s.ring r = none → exec i s = .next s)
      ∧ (s.ring r = some x → s.fetchOpen = false ∨ s.fnActive x.fn = false ∨ x.sampled = false → exec i s = .next s)
      ∧ (s.ring r = some x → s.fetchOpen = true → s.fnActive x.fn = true → x.sampled = true → fieldAt b 0 8 ≠ x.acc + 1 →
        ∃ t, exec i s = .next t ∧ t.ring r = some { x with err := some .seq } ∧ t.works = s.works ∧ t.host = s.host
          ∧ t.tells s.turn.number .ringSeq 0))
    ∧ (∀ (r : Fin 65536) (d : RunDesc), s.samples r.val x d.seq.toNat → s.isAdminRing r.val = false →
      let w := s.workOf r.val x (runBytes d)
      (∀ st, s.runCheck w = some st → ∃ t v, exec (.run r d) s = .next t ∧ t.findWork r.val d.seq.toNat = some v ∧ v.result = some st
        ∧ v.copies = [] ∧ t.ring r.val = some { x with acc := x.acc + 1 } ∧ t.turn.nacc = s.turn.nacc + 1 ∧ t.hbm = s.hbm ∧ t.cores = s.cores)
      ∧ (∀ plan, s.runCheck w = none → s.planOf w = some plan → s.stageFits plan w.sbase = true →
        ∃ t v, exec (.run r d) s = .next t ∧ t.findWork r.val d.seq.toNat = some v ∧ v.result = none ∧ v.st = .accepted
          ∧ v.copies = plan.copies w.sbase ∧ v.rank.accTurn = s.turn.ord ∧ v.staged = (Work.inputRegions plan).isEmpty
          ∧ t.ring r.val = some { x with acc := x.acc + 1 } ∧ t.turn.nacc = s.turn.nacc + 1 ∧ t.hbm = s.hbm ∧ t.cores = s.cores)
      ∧ (∀ plan, s.runCheck w = none → s.planOf w = some plan → s.stageFits plan w.sbase = false →
        ∃ t, exec (.run r d) s = .next t ∧ t.ring r.val = some { x with backlog := true } ∧ t.works = s.works ∧ t.host = s.host
          ∧ t.hif x.fn hifStageFull = (s.hif x.fn hifStageFull + 1) % 2 ^ hifStageFull.width))

/-- RING_ENABLE enables the rings of its range that their context entries allow; RING_DISABLE waits, and what stops disabled ranges at
the next head stops its range; RING_RESUME ends a ring's error state. PLAN_LOAD adds a plan that validates and fits, completes with what
refuses it otherwise, and waits while accepted work names the plan that its ID has;
PLAN_UNLOAD marks the plan and waits; WSET_LOAD places the set's bytes in HBM, where they are present.
What of it is the model's choice, and not the spec's: log entries 27 to 30. -/
def Obligations.RingAndPlanDescriptors : Prop :=
  (∀ (s : State) (r : Fin 65536) (x : Ring) (d : AdminDesc),
     let q := d.seq.toNat
     let a := d.a.toNat
     let b := d.b.toNat
     (s.runsAdmin r.val x 0x10 d → let e := (s.accepted r.val x (adminBytes 0x10 d)).enableRange a b
       ∃ t, exec (.ringEnable r d) s = .next t ∧ t.finished r.val q e.1 ∧ t.rings = e.2.2.rings ∧ t.host = e.2.2.host)
     ∧ (∀ n, s.ring n = none → ¬(4 ≤ n ∧ n ≤ 63) → let f := s.ringOwner n
       let entry := s.hostBytes (s.ctxAddr f n) 64
       let c := readCtx entry
       (ctxReserved entry = false → ctxValid f n ((s.rings.filter (fun e => match e.2 with
           | some y => y.ctx.scan
           | none => false)).length) c = true →
         (s.enableRing n).1 = stOk
         ∧ (s.enableRing n).2.ring n = some { fn := f, ctx := c, acc := c.seqBase - 1, cmp := c.seqBase - 1 }
         ∧ (∀ m, m ≠ n → (s.enableRing n).2.ring m = s.ring m)
         ∧ (s.rstAddr f n + 16 ≤ 2 ^ 64 → (s.enableRing n).2.hostRead (s.rstAddr f n) 8 = (c.seqBase - 1) % 2 ^ 64))
       ∧ (ctxReserved entry = true → (s.enableRing n).1 = stRsvdNonzero ∧ (s.enableRing n).2 = s))
     ∧ (s.runsAdmin r.val x 0x11 d → ∃ t, exec (.ringDisable r d) s = .next t ∧ t.awaits r.val q (.ringDisable a b)
       ∧ t.rings = (s.accepted r.val x (adminBytes 0x11 d)).rings
       ∧ ∀ n y, t.ring n = some y → a ≤ n → n < a + b → t.stopDisabled.ring n = some { y with stopped := true })
     ∧ (s.runsAdmin r.val x 0x12 d → let s1 := s.accepted r.val x (adminBytes 0x12 d)
       (s1.ring a = none → ∃ t, exec (.ringResume r d) s = .next t ∧ t.finished r.val q stRingConfig ∧ t.rings = s1.rings)
       ∧ (∀ y, s1.ring a = some y → ∃ t, exec (.ringResume r d) s = .next t ∧ t.finished r.val q stOk
         ∧ t.ring a = some { y with err := none } ∧ ∀ n, n ≠ a → t.ring n = s1.ring n)))
  ∧ (∀ (s : State) (r : Fin 65536) (x : Ring) (d : AdminDesc),
       let q := d.seq.toNat
       let a := d.a.toNat
       let b := d.b.toNat
       let c := d.c.toNat
       (s.runsAdmin r.val x 0x20 d → let s1 := s.accepted r.val x (adminBytes 0x20 d)
         let others := s1.plans.filter (fun (p : Plan) => !(decide (p.fn = x.fn) && decide (p.id = a)))
         let waits := (s1.findPlan x.fn a).isSome && s1.planNamed x.fn a
         (waits = true → ∃ t, exec (.planLoad r d) s = .next t ∧ t.awaits r.val q .planLoad ∧ t.plans = s.plans)
         ∧ (∀ st n, waits = false → s1.loadPlan x.fn a b c = .rejected st n → ∃ t, exec (.planLoad r d) s = .next t
           ∧ t.finished r.val q st ∧ t.fld hstPlanReject = (s.fld hstPlanReject + n) % 2 ^ hstPlanReject.width ∧ t.plans = s.plans)
         ∧ (∀ p, waits = false → s1.loadPlan x.fn a b c = .loaded p → let free := decide (({ s1 with plans := others } : State).ringAreaUsed
               + p.images.foldl (fun n im => n + im.storeBytes) 0 ≤ s.hbm.layout.ringArea)
           (free = true → ∃ t, exec (.planLoad r d) s = .next t ∧ t.finished r.val q stOk ∧ t.plans = others ++ [p])
           ∧ (free = false → ∃ t, exec (.planLoad r d) s = .next t ∧ t.finished r.val q stPlanStoreFull
             ∧ t.plans = s.plans)))
       ∧ (s.runsAdmin r.val x 0x21 d →
         (s.findPlan x.fn a = none → ∃ t, exec (.planUnload r d) s = .next t ∧ t.finished r.val q stPlanUnknown ∧ t.plans = s.plans)
         ∧ (∀ p, s.findPlan x.fn a = some p → ∃ t, exec (.planUnload r d) s = .next t ∧ t.awaits r.val q (.planUnload a)
           ∧ t.findPlan x.fn a = some { p with unloading := true }
           ∧ ∀ f n, f ≠ x.fn ∨ n ≠ a → t.findPlan f n = s.findPlan f n))
       ∧ (s.runsAdmin r.val x 0x30 d → let s1 := s.accepted r.val x (adminBytes 0x30 d)
         let key := d.d.toNat % 2 ^ 52
         let bs := s1.hostBytes b c
         ∃ t, exec (.wsetLoad r d) s = .next t ∧ t.finished r.val q stOk ∧ t.hbm = (s.hbm.store key bs).unlose key c
           ∧ (a, key, c) ∈ t.wsets ∧ t.cores = s.cores))

/-- EPOCH_STAGE queues the steps of a valid list; PARTITION_RESET, SESSION_CLOSE and SEAL_REQUEST note what the next head or tail does;
KEY_LIST gives its bytes; SLOT_WRITE fills the slot that does not run, and SLOT_ACTIVATE starts an activation of a valid one.
What of it is the model's choice, and not the spec's: log entries 27, 34, 37. -/
def Obligations.EpochAndSlotDescriptors : Prop :=
  ∀ (s : State) (r : Fin 65536) (x : Ring) (d : AdminDesc),
    let q := d.seq.toNat
    let a := d.a.toNat
    let b := d.b.toNat
    let c := d.c.toNat
    (s.runsAdmin r.val x 0x40 d → let s1 := s.accepted r.val x (adminBytes 0x40 d)
      let list := s1.hostBytes b c
      let steps := (epochList list).foldl (fun n e => max n e.1) 0 + 1
      (s1.epochListOk list = true → ∃ t, exec (.epochStage r d) s = .next t ∧ t.awaits r.val q (.epoch steps)
        ∧ t.epochs.length = s.epochs.length + steps ∧ t.hbm = s.hbm ∧ t.cores = s.cores)
      ∧ (s1.epochListOk list = false → ∃ t, exec (.epochStage r d) s = .next t ∧ t.finished r.val q stEpochInvalid ∧ t.epochs = s.epochs))
    ∧ (s.runsAdmin r.val x 0x41 d → ∃ t, exec (.partitionReset r d) s = .next t ∧ t.awaits r.val q (.partition a)
      ∧ t.epochs = s.epochs ∧ t.cores = s.cores ∧ t.hbm = s.hbm)
    ∧ (s.runsAdmin r.val x 0x52 d →
      (SMap.get none s.sec.sessions a = none → ∃ t, exec (.sessionClose r d) s = .next t ∧ t.finished r.val q stNoSession
        ∧ t.epochs = s.epochs)
      ∧ (∀ y, SMap.get none s.sec.sessions a = some y → ∃ t e, exec (.sessionClose r d) s = .next t ∧ t.awaits r.val q (.epoch 1)
        ∧ t.epochs = s.epochs ++ [e] ∧ e.step = .unbind a ∧ t.sec = s.sec))
    ∧ (s.runsAdmin r.val x 0x56 d → ∃ t, exec (.sealRequest r d) s = .next t ∧ t.finished r.val q stOk
      ∧ t.audit.reasons = s.audit.reasons ++ [2])
    ∧ (s.runsAdmin r.val x 0x57 d → ∃ t w, exec (.keyList r d) s = .next t ∧ t.findWork r.val q = some w ∧ w.result = some stOk
      ∧ (∀ i, i < 2048 → SMap.get none w.hostOut (b + i) = s.keyList[i]?) ∧ s.keyList.length = 2048 ∧ t.sec = s.sec)
    ∧ (s.runsAdmin r.val x 0x48 d → let s1 := s.accepted r.val x (adminBytes 0x48 d)
      (s.nv.activation ≠ none → ∃ t, exec (.slotWrite r d) s = .next t ∧ t.finished r.val q stSlotBusy ∧ t.nv = s.nv)
      ∧ (s.nv.activation = none → s.nv.flash0.ok = true ∨ s.nv.flash1.ok = true →
        ∃ t, exec (.slotWrite r d) s = .next t ∧ t.finished r.val q (s1.writeSlot b c).1 ∧ t.slot (1 - s.idleSlot) = s.slot (1 - s.idleSlot)
          ∧ ((s1.writeSlot b c).1 = stOk → (t.slot s.idleSlot).state = 0x7F
            ∧ t.flag (if s.idleSlot = 0 then nviSlotAValid else nviSlotBValid) = true
            ∧ ∃ recs, parseRecs (c / 80 + 2) 0 (s1.hostBytes b c) [] = some recs ∧ (t.slot s.idleSlot).recs = recs.map (fun e => e.1)
              ∧ codeSigned s.sec.owner recs = true)
          ∧ ((s1.writeSlot b c).1 ≠ stOk → (s1.writeSlot b c).1 = stSlotInvalid ∧ t.slot s.idleSlot = {}
            ∧ t.flag (if s.idleSlot = 0 then nviSlotAValid else nviSlotBValid) = false)))
    ∧ (s.runsAdmin r.val x 0x49 d → let y := s.slot a
      (s.nv.activation ≠ none → ∃ t, exec (.slotActivate r d) s = .next t ∧ t.finished r.val q stSlotBusy ∧ t.nv = s.nv)
      ∧ (s.nv.activation = none → y.state ≠ 0x7F ∨ s.slotValid y (if a = 0 then s.nv.slotSigA else s.nv.slotSigB) = false →
        ∃ t, exec (.slotActivate r d) s = .next t ∧ t.finished r.val q stSlotInvalid ∧ t.nv = s.nv)
      ∧ (s.nv.activation = none → y.state = 0x7F → s.slotValid y (if a = 0 then s.nv.slotSigA else s.nv.slotSigB) = true →
        ∃ t, exec (.slotActivate r d) s = .next t ∧ t.awaits r.val q .activation ∧ t.flag nviPending = true
          ∧ t.nv = { s.nv with activation := some ⟨a, r.val, q, none, [], false, 0⟩ }))

/-- SESSION_CHALLENGE issues a challenge; SESSION_OPEN with the right MAC queues the binding behind the store of its record and clears the
slot's failures, and with a wrong one counts and tells of it; KEY_PROVISION stores a key slot that passes; TAKE_OWNERSHIP stores the owner
of an unowned part under presence. Challenges and lockouts expire.
What of it is the model's choice, and not the spec's: log entries 27, 34, 35. -/
def Obligations.SessionDescriptors : Prop :=
  ∀ (s : State) (r : Fin 65536) (x : Ring) (d : AdminDesc),
    let q := d.seq.toNat
    let a := d.a.toNat
    let b := d.b.toNat
    (s.runsAdmin r.val x 0x50 d → ∃ t w ch, exec (.sessionChallenge r d) s = .next t ∧ t.findWork r.val q = some w ∧ w.result = some stOk
      ∧ ch.length = 32 ∧ SMap.get none t.sec.challenges a = some ch ∧ ∀ i, i < 32 → SMap.get none w.hostOut (b + i) = ch[i]?)
    ∧ (s.runsAdmin r.val x 0x51 d → let resp := (s.accepted r.val x (adminBytes 0x51 d)).hostBytes b 80
      let kslot := fieldAt resp 0 1
      let role := fieldAt resp 1 1
      fieldAt resp 2 2 = 0 → (∀ y ∈ sliceBytes resp 6 10, y = 0) → fieldAt resp 4 2 = a →
      (SMap.get none s.sec.challenges a = none → ∃ t, exec (.sessionOpen r d) s = .next t ∧ t.finished r.val q stChallengeStale
        ∧ t.sec = s.sec)
      ∧ (∀ ch, SMap.get none s.sec.challenges a = some ch →
        (kslot ∈ s.sec.locked → ∃ t, exec (.sessionOpen r d) s = .next t ∧ t.finished r.val q stAuthLocked
          ∧ SMap.get none t.sec.challenges a = none ∧ t.epochs = s.epochs)
        ∧ (∀ k, kslot ∉ s.sec.locked → SMap.get none s.sec.slots kslot = some k →
          k.role = role → k.kfl % 2 = 0 → s.slotCovers k a = true → s.ringOwner (16 * a) = x.fn →
          (hmacSha512 k.key (macMessage ch x.fn role kslot a) = sliceBytes resp 16 64 →
            ∃ t e, exec (.sessionOpen r d) s = .next t ∧ t.awaits r.val q (.epoch 1) ∧ t.epochs = s.epochs ++ [e]
              ∧ e.step = .bind a kslot role x.fn ch ∧ SMap.get none t.sec.challenges a = none
              ∧ (∃ n ∈ t.nv.queue, n.type = rtEpoch ∧ n.sid ∈ e.needs)
              ∧ SMap.get 0 t.sec.fails kslot = 0 ∧ SMap.get 0 t.sec.lockouts kslot = 0 ∧ t.sec.sessions = s.sec.sessions)
          ∧ (hmacSha512 k.key (macMessage ch x.fn role kslot a) ≠ sliceBytes resp 16 64 →
            ∃ t, exec (.sessionOpen r d) s = .next t ∧ t.finished r.val q stAuthFail ∧ t.tells s.turn.number .authFail 0
              ∧ SMap.get none t.sec.challenges a = none ∧ SMap.get 0 t.sec.fails kslot = SMap.get 0 s.sec.fails kslot + 1
              ∧ (s.fld secAuthTries ≤ SMap.get 0 s.sec.fails kslot + 1 → kslot ∈ t.sec.locked ∧ t.tells s.turn.number .authLocked 0)
              ∧ t.epochs = s.epochs ∧ t.sec.sessions = s.sec.sessions))))
    ∧ (∀ y, s.runsAdmin r.val x 0x53 d → s.sessionOf (r.val / 16) = some y → let req := (s.accepted r.val x (adminBytes 0x53 d)).hostBytes b 64
      let kslot := fieldAt req 0 1
      (keyRequestReserved req = true → ∃ t, exec (.keyProvision r d) s = .next t ∧ t.finished r.val q stRsvdNonzero ∧ t.nv = s.nv)
      ∧ (keyRequestReserved req = false → keyRequestBad req = true ∨ (fieldAt req 1 1 ≠ 1 ∧ s.otherOwner kslot = false)
          ∨ (fieldAt req 1 1 ≠ 0 ∧ aesKeyUnwrap (s.sessionKw y) (sliceBytes req 0x18 40) = none) →
        ∃ t, exec (.keyProvision r d) s = .next t ∧ t.finished r.val q stKeySlotBad ∧ t.nv = s.nv)
      ∧ (∀ key, keyRequestReserved req = false → keyRequestBad req = false → fieldAt req 1 1 = 1 ∨ s.otherOwner kslot = true →
          (if fieldAt req 1 1 = 0 then some (zeros 32) else aesKeyUnwrap (s.sessionKw y) (sliceBytes req 0x18 40)) = some key →
        ∃ t, exec (.keyProvision r d) s = .next t ∧ t.awaits r.val q (.key kslot) ∧ t.sec = s.sec
          ∧ ∃ e ∈ t.nv.queue, e.type = rtRoleKey ∧ e.value = req.take 0x18 ++ aesKeyWrap (kek "IKB7-RKW") key))
    ∧ (s.runsAdmin r.val x 0x54 d → let blk := (s.accepted r.val x (adminBytes 0x54 d)).hostBytes b 588
      (s.owned = true ∨ s.sec.pendingOwner ≠ none → ∃ t, exec (.takeOwnership r d) s = .next t ∧ t.finished r.val q stOwned ∧ t.sec = s.sec)
      ∧ (s.owned = false → s.sec.pendingOwner = none → s.flag (pinLevel 4) = false ∨ s.flag (pinUnstableF 4) = true →
        ∃ t, exec (.takeOwnership r d) s = .next t ∧ t.finished r.val q stPresenceRequired ∧ t.sec = s.sec)
      ∧ (s.owned = false → s.sec.pendingOwner = none → s.flag (pinLevel 4) = true → s.flag (pinUnstableF 4) = false →
          fieldAt blk 512 4 = 65537 → fieldAt blk 516 4 / 2 = 0 → (∀ y ∈ sliceBytes blk 0x228 36, y = 0) →
        ∃ t e k, exec (.takeOwnership r d) s = .next t ∧ t.awaits r.val q (.epoch 1) ∧ t.epochs = s.epochs ++ [e] ∧ e.step = .owner
          ∧ t.sec = { s.sec with pendingOwner := some (ownerOf (ownerValue blk), k) } ∧ k.role = 1 ∧ k.key = sliceBytes blk 0x208 32
          ∧ (∃ n ∈ t.nv.queue, n.type = rtOwner ∧ n.value = ownerValue blk)))
    ∧ (∀ g : Fin 4096, ∃ t, exec (.challengeExpire g) s = .next t ∧ SMap.get none t.sec.challenges g.val = none
      ∧ (∀ h, h ≠ g.val → SMap.get none t.sec.challenges h = SMap.get none s.sec.challenges h)
      ∧ t = { s with sec := { s.sec with challenges := t.sec.challenges } })
    ∧ (∀ k : Fin 256, ∃ t, exec (.lockoutExpire k) s = .next t ∧ (∀ j, j ∈ t.sec.locked ↔ j ∈ s.sec.locked ∧ j ≠ k.val)
      ∧ t = { s with sec := { s.sec with locked := t.sec.locked } })

/-- An activation: once the standby is ready, its takeover waits as an epoch step; at the head that applies the step the slot's keys apply,
but for those that wait for a cold reset, and a seal with REASON 3 follows; after 10,000 turns the slot becomes ACTIVE and MIN_SVN rises to
its SVN; a rejected activation marks the slot REJECTED, and after its takeover the management processor is taken over and an epoch step
puts the old keys back.
What of it is the model's choice, and not the spec's: log entry 37. -/
def Obligations.Activations : Prop :=
  ∀ (s : State),
    (s.nv.activation = none → exec .activateTakeover s = .next s ∧ exec .activateFinal s = .next s ∧ exec .fwRejected s = .next s)
    ∧ (∀ a, s.nv.activation = some a →
      (a.ready = true ∨ s.power.state ≠ .ready → exec .activateTakeover s = .next s)
      ∧ (a.ready = false → s.power.state = .ready → exec .activateTakeover s = .next { s with
          nv := { s.nv with activation := some { a with ready := true } }
          epochs := s.epochs ++ [⟨[], .slot, a.ring, a.seq, false, false⟩] })
      ∧ (∀ x, s.epochs = [x] → x.step = .slot → x.needs = [] → s.chunkPages ≠ 0 → ∃ old, let t := s.applyEpochs
        t.epochs = [] ∧ t.fld errEpoch = (s.fld errEpoch + 1) % 2 ^ errEpoch.width ∧ t.audit.reasons = s.audit.reasons ++ [3]
        ∧ t.nv.activation = some { a with takeover := some s.turn.ord, oldKeys := old, epoch := t.fld errEpoch }
        ∧ (∀ k f, k < 250 → keyFieldOf k = some f → t.fld f = if f.late then s.fld f else slotKeyVal (s.slot a.slot) k % 2 ^ f.width)
        ∧ t.cores = s.cores ∧ t.hbm = s.hbm)
      ∧ (∀ m, a.takeover = some m → s.turn.ord < m + 9999 → exec .activateFinal s = .next s)
      ∧ (a.takeover = none → exec .activateFinal s = .next s)
      ∧ (∀ m, a.takeover = some m → m + 9999 ≤ s.turn.ord → s.nv.flash0.ok = true ∨ s.nv.flash1.ok = true → a.slot < 2 →
        ∃ t, exec .activateFinal s = .next t ∧ t.nv.activation = none
          ∧ t.slot a.slot = { s.slot a.slot with state := 0x3F, epoch := a.epoch } ∧ t.flag nviPending = false
          ∧ t.fld nviActiveSlot = a.slot ∧ t.flag nviNoUser = false ∧ s.fld nviMinSvn ≤ t.fld nviMinSvn
          ∧ (∀ f ∈ slotFirmware (s.slot a.slot), codeSvn f ≤ t.fld nviMinSvn)
          ∧ (∀ w, t.findWork a.ring a.seq = some w → w.admin = .none ∧ w.result = some stOk) ∧ t.cores = s.cores ∧ t.hbm = s.hbm)
      ∧ (s.nv.flash0.ok = true ∨ s.nv.flash1.ok = true → ∃ t, exec .fwRejected s = .next t ∧ t.nv.activation = none
          ∧ t.slot a.slot = { s.slot a.slot with state := 0x1F } ∧ t.flag nviPending = false ∧ t.tells s.turn.number .fwRejected 0
          ∧ (∀ w, t.findWork a.ring a.seq = some w → w.admin = .none ∧ w.result = some stFwRejected)
          ∧ t.fld errEpoch = s.fld errEpoch ∧ t.cores = s.cores ∧ t.hbm = s.hbm
          ∧ (a.takeover = none → t.epochs = s.epochs.filter (fun e => decide (e.step ≠ .slot)) ∧ t.audit.reasons = s.audit.reasons)
          ∧ (a.takeover ≠ none → t.tells s.turn.number .mpTakeover 0 ∧ t.audit.reasons = s.audit.reasons ++ [3]
            ∧ ∃ es, t.epochs = s.epochs.filter (fun e => decide (e.step ≠ .slot)) ++ [⟨[], .regs es, a.ring, a.seq, false, false⟩])))

/-! ### Sideband, SPDM and maintenance -/

/-- The sideband: a part whose M-die does not run is silent. A challenge comes with the slot's salt; an Operator slot with the sideband flag
opens a session with the right MAC; a session reads registers and writes three of them, and ends.
What of it is the model's choice, and not the spec's: log entry 45. -/
def Obligations.SidebandCommands : Prop :=
  ∀ (s : State),
    (s.power.state = .off → ∀ i, (∃ k, i = .sbChallenge k) ∨ (∃ k r m, i = .sbOpen k r m) ∨ (∃ h o n, i = .sbRead h o n)
        ∨ (∃ h o v, i = .sbWrite h o v) ∨ (∃ h, i = .sbClose h) ∨ (∃ m, i = .mctpControlMessage m) ∨ i = .alertResponseAddress →
      exec i s = .next { s with reply := .silent })
    ∧ (s.power.state ≠ .off →
      (∀ (ks : BitVec 8) (k : KeySlot), SMap.get none s.sec.slots ks.toNat = some k → ∃ t ch, exec (.sbChallenge ks) s = .next t
        ∧ t.reply = .sideband 0 (ch ++ k.salt ++ le32 200000) ∧ ch.length = 32 ∧ SMap.get none t.sec.sbChallenges ks.toNat = some ch
        ∧ t = { s with sec := { s.sec with sbChallenges := t.sec.sbChallenges }, reply := t.reply, freeCtr := t.freeCtr })
      ∧ (∀ (ks role : BitVec 8) mac, SMap.get none s.sec.sbChallenges ks.toNat = none →
        exec (.sbOpen ks role mac) s = .next { s with reply := .sideband stChallengeStale [] })
      ∧ (∀ (ks : BitVec 8) mac ch k, SMap.get none s.sec.sbChallenges ks.toNat = some ch → ks.toNat ∉ s.sec.locked →
          SMap.get none s.sec.slots ks.toNat = some k → k.role = 2 → k.kfl % 2 = 1 →
        (hmacSha512 k.key (macMessage ch 0xFF 2 ks.toNat 0) = mac → ∀ h, [1, 2, 3, 4].find? (fun h => (SMap.get none s.sec.sbSessions h).isNone) = some h →
          ∃ t, exec (.sbOpen ks 2 mac) s = .next t ∧ t.reply = .sideband 0 [BitVec.ofNat 8 h]
            ∧ SMap.get none t.sec.sbSessions h = some ks.toNat ∧ SMap.get none t.sec.sbChallenges ks.toNat = none
            ∧ SMap.get 0 t.sec.fails ks.toNat = 0 ∧ t = { s with sec := t.sec, reply := t.reply })
        ∧ (hmacSha512 k.key (macMessage ch 0xFF 2 ks.toNat 0) ≠ mac → ∃ t, exec (.sbOpen ks 2 mac) s = .next t
            ∧ t.reply = .sideband stAuthFail [] ∧ t.tells s.turn.number .authFail 0 ∧ t.sec.sbSessions = s.sec.sbSessions
            ∧ SMap.get none t.sec.sbChallenges ks.toNat = none ∧ SMap.get 0 t.sec.fails ks.toNat = SMap.get 0 s.sec.fails ks.toNat + 1))
      ∧ (∀ (h : BitVec 8) (o : BitVec 32), s.sbOpen h.toNat = true ∨ (h = 0 ∧ sbOpenRegister o.toNat = true) → o.toNat % 4 = 0 → o.toNat + 4 ≤ 2 ^ 25 →
        let x := s.read4 (0x10000 + h.toNat) 0 o.toNat
        exec (.sbRead h o 1) s = .next { x.1 with reply := .sideband 0 (le32 x.2.toNat) })
      ∧ (∀ (h : BitVec 8) (o : BitVec 32) (n : BitVec 8), s.sbOpen h.toNat = false → h ≠ 0 →
        exec (.sbRead h o n) s = .next { s with reply := .sideband stNoSession [] })
      ∧ (∀ (h : BitVec 8) (o v : BitVec 32),
        (s.sbOpen h.toNat = false → exec (.sbWrite h o v) s = .next { s with reply := .sideband stNoSession [] })
        ∧ (s.sbOpen h.toNat = true → o ≠ 0x60004 → o ≠ 0x40020 → o ≠ 0x70008 →
          exec (.sbWrite h o v) s = .next { s with reply := .sideband stRoleDenied [] })
        ∧ (s.sbOpen h.toNat = true → s.power.state = .ready → ∃ t, exec (.sbWrite h 0x60004 1) s = .next t ∧ t.warmStarted s
          ∧ t.reply = .sideband 0 [])
        ∧ (s.sbOpen h.toNat = true → exec (.sbWrite h 0x70008 1) s = .next { s with
            audit := { s.audit with reasons := s.audit.reasons ++ [2] }, reply := .sideband 0 [] }))
      ∧ (∀ h : BitVec 8, (s.sbOpen h.toNat = true → ∃ t, exec (.sbClose h) s = .next t ∧ t.reply = .sideband 0 []
          ∧ t = { s with sec := { s.sec with sbSessions := t.sec.sbSessions }, reply := t.reply } ∧ t.sbOpen h.toNat = false
          ∧ ∀ j, j ≠ h.toNat → t.sbOpen j = s.sbOpen j)
        ∧ (s.sbOpen h.toNat = false → exec (.sbClose h) s = .next { s with reply := .sideband stNoSession [] }))
      ∧ (∀ m : MctpControl, ∃ t body, exec (.mctpControlMessage m) s = .next t ∧ t.reply = .mctp (m.command :: body)
        ∧ t = { s with reply := t.reply, freeCtr := t.freeCtr })
      ∧ exec .alertResponseAddress s = .next { s with reply := if s.errs.queue.any (fun r => decide (r.sev ≠ 0)) then .alert 0x62 else .silent })
    ∧ (∀ h : BitVec 8, ∃ t, exec (.sbIdleTimeout h) s = .next t ∧ t.sbOpen h.toNat = false ∧ (∀ j, j ≠ h.toNat → t.sbOpen j = s.sbOpen j)
      ∧ t = { s with sec := { s.sec with sbSessions := t.sec.sbSessions } })

/-- SPDM: a port that is closed is silent; the other requests get the responses that the profile fixes, a certificate portion and what
follows, a signature of 512 bytes once the RSA engine is free, and ResponseNotReady while it is not.
What of it is the model's choice, and not the spec's: log entry 46. -/
def Obligations.SpdmAnswers : Prop :=
  ∀ (s : State) (p : SpdmPort),
    (s.spdmPort p = false → ∀ i, i = .getVersion p ∨ i = .getCapabilities p ∨ i = .negotiateAlgorithms p ∨ i = .getDigests p
        ∨ (∃ sl o n, i = .getCertificate p sl o n) ∨ (∃ sl n, i = .challenge p sl n) ∨ (∃ x g n, i = .getMeasurements p x g n) →
      ∃ t, exec i s = .next t ∧ t.reply = .silent ∧ t = { s with reply := t.reply, freeCtr := t.freeCtr })
    ∧ (s.spdmPort p = true →
      exec (.getVersion p) s = .next { s with reply := .spdm 0x04 [0, 1, 0x00, 0x13] }
      ∧ exec (.getCapabilities p) s = .next { s with reply := .spdm 0x61 [0, 15, 0, 0, 0x36, 0, 0, 0] }
      ∧ exec (.negotiateAlgorithms p) s = .next { s with reply := .spdm 0x63 [8, 0, 0, 0, 0x40, 0, 0, 0, 4, 0, 0, 0] }
      ∧ exec (.getDigests p) s = .next { s with reply := .spdm 0x01 (0 :: 1 :: sha512 Config.certChain) }
      ∧ (∀ (o n : BitVec 16), o.toNat < Config.certChain.length → let m := min n.toNat (Config.certChain.length - o.toNat)
        exec (.getCertificate p 0 o n) s = .next { s with
          reply := .spdm 0x02 (le16 m ++ le16 (Config.certChain.length - o.toNat - m) ++ sliceBytes Config.certChain o.toNat m) })
      ∧ (∀ (sl : BitVec 4) (o n : BitVec 16), sl ≠ 0 ∨ Config.certChain.length ≤ o.toNat →
        exec (.getCertificate p sl o n) s = .next { s with reply := .spdm 0x7F [1, 0] })
      ∧ (∀ (sl : BitVec 4) nonce, sl ≠ 0 → exec (.challenge p sl nonce) s = .next { s with reply := .spdm 0x7F [1, 0] })
      ∧ (∀ nonce, s.audit.signing = none → s.audit.waiting = [] → ∃ t mine sig, exec (.challenge p 0 nonce) s = .next t
        ∧ t.reply = .spdm 0x03 (sha512 Config.certChain ++ mine ++ sig) ∧ mine.length = 32 ∧ sig.length = 512
        ∧ t = { s with reply := t.reply, freeCtr := t.freeCtr })
      ∧ (∀ nonce, s.audit.signing ≠ none ∨ s.audit.waiting ≠ [] → exec (.challenge p 0 nonce) s
        = .next { (s.bump secSpdmNotReady 1) with reply := .spdm 0x7F [0x42, 0] })
      ∧ (∀ (x : BitVec 8) nonce, 1 ≤ x.toNat → x.toNat ≤ 14 → ∃ t, exec (.getMeasurements p x false nonce) s = .next t
        ∧ t.reply = .spdm 0x60 ([1] ++ natToBytes 3 (s.measurementBlock x.toNat).length ++ s.measurementBlock x.toNat)
        ∧ t = { s with reply := t.reply, freeCtr := t.freeCtr })
      ∧ (∀ nonce, ∃ t, exec (.getMeasurements p 0 false nonce) s = .next t ∧ t.reply = .spdm 0x60 [14, 0, 0, 0]
        ∧ t = { s with reply := t.reply, freeCtr := t.freeCtr })
      ∧ (∀ (x : BitVec 8) sign nonce, 14 < x.toNat → x ≠ 0xFF → exec (.getMeasurements p x sign nonce) s = .next { s with
          reply := .spdm 0x7F [1, 0] })
      ∧ (∀ (x : BitVec 8) nonce, x.toNat ≤ 14 ∨ x = 0xFF → s.audit.signing ≠ none ∨ s.audit.waiting ≠ [] →
        exec (.getMeasurements p x true nonce) s = .next { (s.bump secSpdmNotReady 1) with reply := .spdm 0x7F [0x42, 0] }))

/-- Maintenance: a window falls due, and a late one is told of; a re-planning sets offsets that never fall, and waits for its record; work
pinned to a retiring core starts again when its wait ends; a chunk of a store that ends lets the next start, and the last makes the record
count.
What of it is the model's choice, and not the spec's: log entry 53. -/
def Obligations.MaintenanceEvents : Prop :=
  ∀ (s : State),
    (s.power.state = .ready → ∃ t, exec .maintWindowOpen s = .next t
      ∧ t.witness = { s.witness with due := true, hours := s.witness.hours + s.fld witReplanH }
      ∧ (s.witness.due = true → t.tells s.turn.number .replanLate 0) ∧ t.works = s.works ∧ t.cores = s.cores ∧ t.turn = s.turn)
    ∧ (s.power.state ≠ .ready → exec .maintWindowOpen s = .next s ∧ exec .retireWaitExpire s = .next s ∧ ∀ r, exec (.replan r) s = .next s)
    ∧ (∀ r w, s.witness.window = some w → w.measured = true → s.witness.pendingOffs = none → s.power.state = .ready →
      ∃ t dies, exec (.replan r) s = .next t ∧ t.witness.pendingOffs = some ((s.takeMargins r).newOffsets, dies)
        ∧ t.witness.waitSid.isSome = true
        ∧ (∀ p, p < 6 → s.fld (witOff p) ≤ (s.takeMargins r).newOffsets.getD p 0
          ∧ (s.takeMargins r).newOffsets.getD p 0 ≤ max (s.fld (witOff p)) (s.fld witOffMax)
          ∧ t.fld (witOff p) = s.fld (witOff p))
        ∧ dies.length = 4 ∧ (∀ d, d < 4 → s.fld (witDieOff d) ≤ dies.getD d 0)
        ∧ (∀ c, c ∈ s.witness.retiring → c ∈ t.witness.retiring)
        ∧ (∀ c : Fin 144, c ∈ r.rowsOut → s.coreOut c.val = 0 → c.val ∈ t.witness.retiring)
        ∧ t.fld witReplans = (s.fld witReplans + 1) % 2 ^ witReplans.width ∧ t.works = s.works ∧ t.cores = s.cores)
    ∧ (∀ r, s.witness.window = none → exec (.replan r) s = .next s)
    ∧ (s.power.state = .ready → s.witness.pendingOffs = none → s.witness.retiring ≠ [] →
        s.witness.retireFrom + s.fld witRetireWait ≤ s.turn.ord → ∃ t, exec .retireWaitExpire s = .next t
      ∧ (∀ w ∈ s.works, w.result = none → w.st = .accepted ∨ w.st = .running → (∃ c ∈ w.chain.pins, c ∈ s.witness.retiring) →
          ∃ v ∈ t.works, v.ring = w.ring ∧ v.seq = w.seq ∧ v.st = .accepted ∧ v.chain.pins = [])
      ∧ t.hbm = s.hbm ∧ t.host = s.host ∧ t.witness = s.witness)
    ∧ (s.witness.retiring = [] ∨ s.turn.ord < s.witness.retireFrom + s.fld witRetireWait → exec .retireWaitExpire s = .next s)
    ∧ (s.nv.queue = [] → exec .nvStoreDone s = .next s)
    ∧ (∀ q rest, s.nv.queue = q :: rest → q.chunk = 0 → exec .nvStoreDone s = .next s)
    ∧ (∀ q rest, s.nv.queue = q :: rest → q.chunk ≠ 0 → q.chunk < q.pages → ∃ t e, exec .nvStoreDone s = .next t ∧ t.sameBody s
      ∧ t.nv.queue = e :: rest ∧ e.sid = q.sid ∧ e.pages = q.pages - q.chunk ∧ t.nv.flash0 = s.nv.flash0 ∧ t.nv.flash1 = s.nv.flash1
      ∧ t.nv.written = s.nv.written)
    ∧ (∀ q rest, s.nv.queue = q :: rest → q.chunk ≠ 0 → q.pages ≤ q.chunk →
        logBytes s.nvLog + recBytes ⟨q.type, s.nv.nextSeq, q.value⟩ ≤ 14 * 2 ^ 20 → ∃ t, exec .nvStoreDone s = .next t ∧ t.sameBody s
      ∧ t.nv.queue.length = rest.length ∧ t.nv.written = s.nv.written ++ [q.sid]
      ∧ t.fld nviStores = (s.fld nviStores + 1) % 2 ^ nviStores.width
      ∧ (s.nv.flash0.ok = true → t.nv.flash0.log = s.nv.flash0.log ++ [⟨q.type, s.nv.nextSeq, q.value⟩])
      ∧ (s.nv.flash1.ok = true → t.nv.flash1.log = s.nv.flash1.log ++ [⟨q.type, s.nv.nextSeq, q.value⟩]))

/-! ### The block as a whole -/

/-- A step runs the command at the front of the queue with the queue's rest; on an empty queue the block idles (a choice of the model:
log entry 1). -/
def Obligations.StepRunsTheFront : Prop :=
  ∀ (s : State), (∀ i q, step { s with pending := i :: q } = exec i { s with pending := q }) ∧ (s.pending = [] → step s = .next s)

/-- Every well-formed command goes on, in every state; an operation word that load validation rejects is refused by name, and nothing else
is.
What of it is the model's choice, and not the spec's: log entry 4. -/
def Obligations.CommandsGoOn : Prop :=
  ∀ (i : Instr) (s : State), (i.wf = true → goesOn (exec i s)) ∧ (i.wf = false → ∃ m, exec i s = .refused (.illFormed m))

/-- Every operation word that load validation lets through is stored in 128 bits and read back as itself, with every operand. -/
def Obligations.OperationWordsRoundTrip : Prop :=
  ∀ (w : OpWord), wordOk w = true → encodeOpWord w < 2 ^ 128 ∧ decodeOpWord (encodeOpWord w) = some w

/-- Whatever a step does, host memory keeps its canonical form: equal host memories are equal data.
What of it is the model's choice, and not the spec's: log entry 21. -/
def Obligations.HostMemoryStaysCanonical : Prop :=
  ∀ (s t : State), Mem.wf s.host = true → step s = .next t → Mem.wf t.host = true

/-- After reset, before VIN: host memory, cores, HBM, works, rings and the queue hold nothing, the part is off and not ready, and every
keyed register field reads as its default.
What of it is the model's choice, and not the spec's: log entries 5, 6. -/
def Obligations.ResetState : Prop :=
  Mem.wf State.reset.host = true ∧ State.reset.pending = [] ∧ State.reset.power.state = .off ∧ State.reset.works = [] ∧ State.reset.rings = []
    ∧ State.reset.mesh = [] ∧ State.reset.hbm.bytes = [] ∧ (∀ c, (State.reset.core c).mem = [] ∧ (State.reset.core c).chuck = [])
    ∧ State.reset.flag nviReady = false
    ∧ (∀ f ∈ keyedFields, State.reset.fld f = f.dflt)

/-- Quire entries: additions that stay in range are exact whatever their order, NaR stays, overflow saturates to the largest value of the same
sign and sets the overflow tag, saturation to one side absorbs, and images and values correspond one to one: NaR is the pattern with only
the sign bit set, zero is all zeros, and the largest values of both signs have equal magnitude. -/
def Obligations.QuireEntries : Prop :=
  ∀ (w : QW),
    (∀ (e : QEntry) (v : Int) (xs : List Int), e.val = .num v →
      (∀ n, n ≤ xs.length → -(w.qmax : Int) < v + (xs.take n).foldl (· + ·) 0 ∧ v + (xs.take n).foldl (· + ·) 0 < w.qmax) →
      xs.foldl (fun q x => quireAdd w q (.fin x)) e = { e with val := .num (v + xs.foldl (· + ·) 0) })
    ∧ (∀ (e : QEntry) (as : List Addend), e.val = .nar → as.foldl (quireAdd w) e = e)
    ∧ (∀ (e : QEntry) (x : Int), e.val = .num w.qmax → quireAdd w e (.fin x) = e ∧ (quireAdd w e .satN).val = .nar
      ∧ (quireAdd w e .satN).ovf = true ∧ (quireAdd w e .satP).val = .num w.qmax)
    ∧ (∀ (e : QEntry) (v x : Int), e.val = .num v → -(w.qmax : Int) < v → v < w.qmax → (w.qmax : Int) < v + x →
      quireAdd w e (.fin x) = { e with val := .num w.qmax, ovf := true })
    ∧ (∀ (e : QEntry) (v x : Int), e.val = .num v → -(w.qmax : Int) < v → v < w.qmax → v + x < -(w.qmax : Int) →
      quireAdd w e (.fin x) = { e with val := .num (-(w.qmax : Int)), ovf := true })
    ∧ (∀ p, p < 2 ^ w.width → quireImage w (quireOfImage w p) = p)
    ∧ (∀ v : Int, -(w.qmax : Int) ≤ v → v ≤ w.qmax → quireImage w (.num v) < 2 ^ w.width ∧ quireOfImage w (quireImage w (.num v)) = .num v)
    ∧ quireImage w .nar = 2 ^ (w.width - 1) ∧ quireOfImage w (quireImage w .nar) = .nar
    ∧ quireImage w (.num 0) = 0 ∧ quireImage w (.num w.qmax) = 2 ^ (w.width - 1) - 1
    ∧ quireImage w (.num (-(w.qmax : Int))) = 2 ^ (w.width - 1) + 1
end

