-- ==== Sys2Proof/Laws/Map.lean ====
section
/-! SUPPORT. Reads after writes of sparse tables, and that every write keeps the canonical form; the same for byte memories. -/

namespace Sys2Proof.Machine

section
variable {α : Type}

@[simp] theorem SMap.get_nil (d : α) (k : Nat) : SMap.get d [] k = d := rfl

theorem SMap.get_without_ne (d : α) (k : Nat) {j : Nat} (hj : j ≠ k) :
    ∀ m : SMap α, SMap.get d (SMap.without k m) j = SMap.get d m j
  | [] => rfl
  | (i, u) :: rest => by
    simp only [SMap.without]
    split
    · next hk =>
      have : j ≠ i := by omega
      simp only [SMap.get, if_neg this]
      exact SMap.get_without_ne d k hj rest
    · simp only [SMap.get]; rw [SMap.get_without_ne d k hj rest]

theorem SMap.not_mem_without (k : Nat) : ∀ (m : SMap α), ∀ e ∈ SMap.without k m, e.1 ≠ k
  | [], _, he => by simp [SMap.without] at he
  | (i, u) :: rest, e, he => by
    simp only [SMap.without] at he
    split at he
    · exact SMap.not_mem_without k rest e he
    · next hk =>
      rcases List.mem_cons.mp he with h | h
      · subst h; exact fun h => hk h.symm
      · exact SMap.not_mem_without k rest e h

theorem SMap.get_of_absent (d : α) (k : Nat) : ∀ m : SMap α, (∀ e ∈ m, e.1 ≠ k) → SMap.get d m k = d
  | [], _ => rfl
  | (i, u) :: rest, h => by
    have hi : k ≠ i := fun e => h (i, u) (by simp) e.symm
    simp only [SMap.get, if_neg hi]
    exact SMap.get_of_absent d k rest (fun e he => h e (by simp [he]))

theorem SMap.get_put_ne (d : α) (k : Nat) (v : α) {j : Nat} (hj : j ≠ k) :
    ∀ m : SMap α, SMap.get d (SMap.put m k v) j = SMap.get d m j
  | [] => by simp [SMap.put, SMap.get, hj]
  | (i, u) :: rest => by
    simp only [SMap.put]
    split
    · simp [SMap.get, hj]
    · simp only [SMap.get]; rw [SMap.get_put_ne d k v hj rest]

theorem SMap.get_put_self (d : α) (k : Nat) (v : α) :
    ∀ m : SMap α, (∀ e ∈ m, e.1 ≠ k) → SMap.get d (SMap.put m k v) k = v
  | [], _ => by simp [SMap.put, SMap.get]
  | (i, u) :: rest, h => by
    have hi : k ≠ i := fun e => h (i, u) (by simp) e.symm
    simp only [SMap.put]
    split
    · simp [SMap.get]
    · simp only [SMap.get, if_neg hi]
      exact SMap.get_put_self d k v rest (fun e he => h e (by simp [he]))

/-- What a table holds after a write. -/
theorem SMap.get_set [DecidableEq α] (d : α) (m : SMap α) (k : Nat) (v : α) (j : Nat) :
    SMap.get d (SMap.set d m k v) j = if j = k then v else SMap.get d m j := by
  simp only [SMap.set]
  by_cases hj : j = k
  · subst hj
    split
    · next hv => rw [if_pos rfl, hv]; exact SMap.get_of_absent d j _ (SMap.not_mem_without j m)
    · rw [if_pos rfl]; exact SMap.get_put_self d j v _ (SMap.not_mem_without j m)
  · rw [if_neg hj]
    split
    · exact SMap.get_without_ne d k hj m
    · rw [SMap.get_put_ne d k v hj]; exact SMap.get_without_ne d k hj m

@[simp] theorem SMap.get_set_self [DecidableEq α] (d : α) (m : SMap α) (k : Nat) (v : α) :
    SMap.get d (SMap.set d m k v) k = v := by rw [SMap.get_set]; simp

theorem SMap.get_set_ne [DecidableEq α] (d : α) (m : SMap α) (k : Nat) (v : α) {j : Nat} (hj : j ≠ k) :
    SMap.get d (SMap.set d m k v) j = SMap.get d m j := by rw [SMap.get_set]; simp [hj]

theorem SMap.get_upd [DecidableEq α] (d : α) (m : SMap α) (k : Nat) (f : α → α) (j : Nat) :
    SMap.get d (SMap.upd d m k f) j = if j = k then f (SMap.get d m k) else SMap.get d m j := SMap.get_set d m k _ j

/-- What a table holds after a run of writes. -/
theorem SMap.get_setList [DecidableEq α] (d : α) (vs : List α) :
    ∀ (m : SMap α) (k j : Nat),
      SMap.get d (SMap.setList d m k vs) j = if k ≤ j then (vs[j - k]?).getD (SMap.get d m j) else SMap.get d m j := by
  induction vs with
  | nil => intro m k j; simp [SMap.setList]
  | cons v vs ih =>
    intro m k j
    simp only [SMap.setList]
    rw [ih (SMap.set d m k v) (k + 1) j, SMap.get_set]
    by_cases h1 : k + 1 ≤ j
    · have h2 : k ≤ j := by omega
      have h3 : j ≠ k := by omega
      have h4 : j - k = (j - (k + 1)) + 1 := by omega
      simp [h1, h2, h3, h4]
    · by_cases h2 : j = k
      · subst h2; simp
      · have h3 : ¬ k ≤ j := by omega
        simp [h1, h2, h3]

/-! ### The canonical form -/

theorem SMap.wfFrom_mono [DecidableEq α] {d : α} {lo lo' : Nat} (hle : lo' ≤ lo) {m : SMap α}
    (h : SMap.wfFrom d lo m = true) : SMap.wfFrom d lo' m = true := by
  cases m with
  | nil => rfl
  | cons e rest =>
    simp only [SMap.wfFrom, Bool.and_eq_true, decide_eq_true_eq] at h ⊢
    exact ⟨⟨by omega, h.1.2⟩, h.2⟩

theorem SMap.get_of_below [DecidableEq α] {d : α} :
    ∀ {lo : Nat} {m : SMap α}, SMap.wfFrom d lo m = true → ∀ {k : Nat}, k < lo → SMap.get d m k = d
  | _, [], _, _, _ => rfl
  | lo, (j, v) :: rest, h, k, hk => by
    simp only [SMap.wfFrom, Bool.and_eq_true, decide_eq_true_eq] at h
    have h1 : k ≠ j := by omega
    simp only [SMap.get, if_neg h1]
    exact SMap.get_of_below h.2 (by omega)

theorem SMap.wfFrom_filter [DecidableEq α] {d : α} (p : Nat × α → Bool) :
    ∀ {lo : Nat} {m : SMap α}, SMap.wfFrom d lo m = true → SMap.wfFrom d lo (m.filter p) = true
  | _, [], _ => rfl
  | lo, (j, v) :: rest, h => by
    simp only [SMap.wfFrom, Bool.and_eq_true, decide_eq_true_eq] at h
    simp only [List.filter_cons]
    split
    · simp only [SMap.wfFrom, Bool.and_eq_true, decide_eq_true_eq]
      exact ⟨h.1, SMap.wfFrom_filter p h.2⟩
    · exact SMap.wfFrom_mono (by omega) (SMap.wfFrom_filter p h.2)

theorem SMap.wfFrom_put [DecidableEq α] {d : α} {k : Nat} {v : α} (hv : v ≠ d) :
    ∀ {lo : Nat} {m : SMap α}, lo ≤ k → SMap.wfFrom d lo m = true → (∀ e ∈ m, e.1 ≠ k) →
      SMap.wfFrom d lo (SMap.put m k v) = true
  | lo, [], hk, _, _ => by simp [SMap.put, SMap.wfFrom, hk, hv]
  | lo, (j, u) :: rest, hk, h, hn => by
    have hj : j ≠ k := hn (j, u) (by simp)
    simp only [SMap.wfFrom, Bool.and_eq_true, decide_eq_true_eq] at h
    simp only [SMap.put]
    split
    · next hlt =>
      simp only [SMap.wfFrom, Bool.and_eq_true, decide_eq_true_eq]
      exact ⟨⟨hk, hv⟩, ⟨by omega, h.1.2⟩, h.2⟩
    · next hlt =>
      simp only [SMap.wfFrom, Bool.and_eq_true, decide_eq_true_eq]
      exact ⟨h.1, SMap.wfFrom_put hv (by omega) h.2 (fun e he => hn e (by simp [he]))⟩

theorem SMap.wfFrom_without [DecidableEq α] {d : α} (k : Nat) :
    ∀ {lo : Nat} {m : SMap α}, SMap.wfFrom d lo m = true → SMap.wfFrom d lo (SMap.without k m) = true
  | _, [], _ => rfl
  | lo, (j, v) :: rest, h => by
    simp only [SMap.wfFrom, Bool.and_eq_true, decide_eq_true_eq] at h
    simp only [SMap.without]
    split
    · exact SMap.wfFrom_mono (by omega) (SMap.wfFrom_without k h.2)
    · simp only [SMap.wfFrom, Bool.and_eq_true, decide_eq_true_eq]
      exact ⟨h.1, SMap.wfFrom_without k h.2⟩

theorem SMap.wf_nil [DecidableEq α] (d : α) : SMap.wf d ([] : SMap α) = true := rfl

/-- A write keeps the canonical form. -/
theorem SMap.wf_set [DecidableEq α] {d : α} {m : SMap α} (h : SMap.wf d m = true) (k : Nat) (v : α) :
    SMap.wf d (SMap.set d m k v) = true := by
  simp only [SMap.set]
  split
  · exact SMap.wfFrom_without k h
  · next hv => exact SMap.wfFrom_put hv (Nat.zero_le k) (SMap.wfFrom_without k h) (SMap.not_mem_without k m)

theorem SMap.wf_upd [DecidableEq α] {d : α} {m : SMap α} (h : SMap.wf d m = true) (k : Nat) (f : α → α) :
    SMap.wf d (SMap.upd d m k f) = true := SMap.wf_set h k _

theorem SMap.wf_setList [DecidableEq α] {d : α} (vs : List α) :
    ∀ {m : SMap α} (k : Nat), SMap.wf d m = true → SMap.wf d (SMap.setList d m k vs) = true := by
  induction vs with
  | nil => exact fun _ h => h
  | cons v vs ih => exact fun k h => ih (k + 1) (SMap.wf_set h k v)

theorem SMap.wf_filter [DecidableEq α] {d : α} {m : SMap α} (h : SMap.wf d m = true) (p : Nat × α → Bool) :
    SMap.wf d (m.filter p) = true := SMap.wfFrom_filter p h

theorem SMap.wf_keep [DecidableEq α] {d : α} {m : SMap α} (h : SMap.wf d m = true) (p : Nat → Bool) :
    SMap.wf d (SMap.keep p m) = true := SMap.wf_filter h _

/-- Two tables in canonical form that read alike are equal. -/
theorem SMap.ext_from [DecidableEq α] {d : α} :
    ∀ {lo lo' : Nat} {m m' : SMap α}, SMap.wfFrom d lo m = true → SMap.wfFrom d lo' m' = true →
      (∀ k, SMap.get d m k = SMap.get d m' k) → m = m'
  | _, _, [], [], _, _, _ => rfl
  | _, _, [], (j, v) :: rest, _, h, e => by
    have := e j
    simp only [SMap.wfFrom, Bool.and_eq_true, decide_eq_true_eq] at h
    simp [SMap.get] at this
    exact absurd this.symm h.1.2
  | _, _, (j, v) :: rest, [], h, _, e => by
    have := e j
    simp only [SMap.wfFrom, Bool.and_eq_true, decide_eq_true_eq] at h
    simp [SMap.get] at this
    exact absurd this h.1.2
  | _, _, (i, u) :: rest, (j, v) :: rest', h, h', e => by
    simp only [SMap.wfFrom, Bool.and_eq_true, decide_eq_true_eq] at h h'
    have hij : i = j := by
      rcases Nat.lt_trichotomy i j with hlt | heq | hgt
      · have := e i
        have hne : i ≠ j := by omega
        simp only [SMap.get, if_true, if_neg hne, SMap.get_of_below h'.2 (show i < j + 1 by omega)] at this
        exact absurd this h.1.2
      · exact heq
      · have := e j
        have hne : j ≠ i := by omega
        simp only [SMap.get, if_true, if_neg hne, SMap.get_of_below h.2 (show j < i + 1 by omega)] at this
        exact absurd this.symm h'.1.2
    subst hij
    have huv : u = v := by have := e i; simpa [SMap.get] using this
    subst huv
    have hrest : rest = rest' := by
      refine SMap.ext_from h.2 h'.2 (fun k => ?_)
      by_cases hk : k ≤ i
      · rw [SMap.get_of_below h.2 (by omega), SMap.get_of_below h'.2 (by omega)]
      · have := e k
        have h1 : k ≠ i := by omega
        simpa [SMap.get, h1] using this
    rw [hrest]

theorem SMap.ext [DecidableEq α] {d : α} {m m' : SMap α} (h : SMap.wf d m = true) (h' : SMap.wf d m' = true)
    (e : ∀ k, SMap.get d m k = SMap.get d m' k) : m = m' := SMap.ext_from h h' e

end

/-! ### Byte memories -/

theorem Mem.wf_writeByte {m : Mem} (h : m.wf = true) (a : Nat) (b : Byte) : (m.writeByte a b).wf = true := SMap.wf_set h a b

theorem Mem.wf_writeBytes {m : Mem} (h : m.wf = true) (a : Nat) (bs : List Byte) : (m.writeBytes a bs).wf = true :=
  SMap.wf_setList bs a h

theorem Mem.wf_writeNat {m : Mem} (h : m.wf = true) (a n x : Nat) : (m.writeNat a n x).wf = true := Mem.wf_writeBytes h a _

theorem Mem.readByte_writeByte (m : Mem) (a : Nat) (b : Byte) (j : Nat) :
    (m.writeByte a b).readByte j = if j = a then b else m.readByte j := SMap.get_set 0 m a b j

theorem Mem.readByte_writeBytes (m : Mem) (a : Nat) (bs : List Byte) (j : Nat) :
    (m.writeBytes a bs).readByte j = if a ≤ j then (bs[j - a]?).getD (m.readByte j) else m.readByte j :=
  SMap.get_setList 0 bs m a j

@[simp] theorem natToBytes_length (n x : Nat) : (natToBytes n x).length = n := by
  induction n generalizing x with
  | zero => rfl
  | succ n ih => simp [natToBytes, ih]

/-- A number written in little-endian order is read back modulo its width. -/
theorem bytesToNat_natToBytes (n x : Nat) : bytesToNat (natToBytes n x) = x % 256 ^ n := by
  induction n generalizing x with
  | zero => simp [natToBytes, bytesToNat, Nat.mod_one]
  | succ n ih =>
    have h : x % 256 ^ (n + 1) = x % 256 + 256 * (x / 256 % 256 ^ n) := by
      rw [Nat.pow_succ, Nat.mul_comm (256 ^ n) 256]; exact Nat.mod_mul
    rw [h, natToBytes, bytesToNat, ih, BitVec.toNat_ofNat]

theorem SMap.getList_length {α : Type} (d : α) (m : SMap α) (k n : Nat) : (SMap.getList d m k n).length = n := by
  induction n generalizing k with
  | zero => rfl
  | succ n ih => simp [SMap.getList, ih]

end Sys2Proof.Machine
end

