-- ==== Sys2Proof/Laws/State.lean ====
section
/-! SUPPORT. What each update of the state leaves alone: one lemma per field per update. -/

namespace Sys2Proof.Machine

section
variable (s : State)


/-! ### setReg -/

@[simp] theorem State.setReg_access (k : Nat) (v : BitVec 32) : (s.setReg k v).access = s.access := rfl
@[simp] theorem State.setReg_reply (k : Nat) (v : BitVec 32) : (s.setReg k v).reply = s.reply := rfl
@[simp] theorem State.setReg_cores (k : Nat) (v : BitVec 32) : (s.setReg k v).cores = s.cores := rfl
@[simp] theorem State.setReg_mesh (k : Nat) (v : BitVec 32) : (s.setReg k v).mesh = s.mesh := rfl
@[simp] theorem State.setReg_hbm (k : Nat) (v : BitVec 32) : (s.setReg k v).hbm = s.hbm := rfl
@[simp] theorem State.setReg_host (k : Nat) (v : BitVec 32) : (s.setReg k v).host = s.host := rfl
@[simp] theorem State.setReg_plans (k : Nat) (v : BitVec 32) : (s.setReg k v).plans = s.plans := rfl
@[simp] theorem State.setReg_rings (k : Nat) (v : BitVec 32) : (s.setReg k v).rings = s.rings := rfl
@[simp] theorem State.setReg_works (k : Nat) (v : BitVec 32) : (s.setReg k v).works = s.works := rfl
@[simp] theorem State.setReg_wsets (k : Nat) (v : BitVec 32) : (s.setReg k v).wsets = s.wsets := rfl
@[simp] theorem State.setReg_turn (k : Nat) (v : BitVec 32) : (s.setReg k v).turn = s.turn := rfl
@[simp] theorem State.setReg_epochs (k : Nat) (v : BitVec 32) : (s.setReg k v).epochs = s.epochs := rfl
@[simp] theorem State.setReg_errs (k : Nat) (v : BitVec 32) : (s.setReg k v).errs = s.errs := rfl
@[simp] theorem State.setReg_audit (k : Nat) (v : BitVec 32) : (s.setReg k v).audit = s.audit := rfl
@[simp] theorem State.setReg_nv (k : Nat) (v : BitVec 32) : (s.setReg k v).nv = s.nv := rfl
@[simp] theorem State.setReg_sec (k : Nat) (v : BitVec 32) : (s.setReg k v).sec = s.sec := rfl
@[simp] theorem State.setReg_links (k : Nat) (v : BitVec 32) : (s.setReg k v).links = s.links := rfl
@[simp] theorem State.setReg_power (k : Nat) (v : BitVec 32) : (s.setReg k v).power = s.power := rfl
@[simp] theorem State.setReg_thermal (k : Nat) (v : BitVec 32) : (s.setReg k v).thermal = s.thermal := rfl
@[simp] theorem State.setReg_witness (k : Nat) (v : BitVec 32) : (s.setReg k v).witness = s.witness := rfl
@[simp] theorem State.setReg_pending (k : Nat) (v : BitVec 32) : (s.setReg k v).pending = s.pending := rfl
@[simp] theorem State.setReg_freeCtr (k : Nat) (v : BitVec 32) : (s.setReg k v).freeCtr = s.freeCtr := rfl

/-! ### setFld -/

@[simp] theorem State.setFld_access (f : RegField) (x : Nat) : (s.setFld f x).access = s.access := rfl
@[simp] theorem State.setFld_reply (f : RegField) (x : Nat) : (s.setFld f x).reply = s.reply := rfl
@[simp] theorem State.setFld_cores (f : RegField) (x : Nat) : (s.setFld f x).cores = s.cores := rfl
@[simp] theorem State.setFld_mesh (f : RegField) (x : Nat) : (s.setFld f x).mesh = s.mesh := rfl
@[simp] theorem State.setFld_hbm (f : RegField) (x : Nat) : (s.setFld f x).hbm = s.hbm := rfl
@[simp] theorem State.setFld_host (f : RegField) (x : Nat) : (s.setFld f x).host = s.host := rfl
@[simp] theorem State.setFld_plans (f : RegField) (x : Nat) : (s.setFld f x).plans = s.plans := rfl
@[simp] theorem State.setFld_rings (f : RegField) (x : Nat) : (s.setFld f x).rings = s.rings := rfl
@[simp] theorem State.setFld_works (f : RegField) (x : Nat) : (s.setFld f x).works = s.works := rfl
@[simp] theorem State.setFld_wsets (f : RegField) (x : Nat) : (s.setFld f x).wsets = s.wsets := rfl
@[simp] theorem State.setFld_turn (f : RegField) (x : Nat) : (s.setFld f x).turn = s.turn := rfl
@[simp] theorem State.setFld_epochs (f : RegField) (x : Nat) : (s.setFld f x).epochs = s.epochs := rfl
@[simp] theorem State.setFld_errs (f : RegField) (x : Nat) : (s.setFld f x).errs = s.errs := rfl
@[simp] theorem State.setFld_audit (f : RegField) (x : Nat) : (s.setFld f x).audit = s.audit := rfl
@[simp] theorem State.setFld_nv (f : RegField) (x : Nat) : (s.setFld f x).nv = s.nv := rfl
@[simp] theorem State.setFld_sec (f : RegField) (x : Nat) : (s.setFld f x).sec = s.sec := rfl
@[simp] theorem State.setFld_links (f : RegField) (x : Nat) : (s.setFld f x).links = s.links := rfl
@[simp] theorem State.setFld_power (f : RegField) (x : Nat) : (s.setFld f x).power = s.power := rfl
@[simp] theorem State.setFld_thermal (f : RegField) (x : Nat) : (s.setFld f x).thermal = s.thermal := rfl
@[simp] theorem State.setFld_witness (f : RegField) (x : Nat) : (s.setFld f x).witness = s.witness := rfl
@[simp] theorem State.setFld_pending (f : RegField) (x : Nat) : (s.setFld f x).pending = s.pending := rfl
@[simp] theorem State.setFld_freeCtr (f : RegField) (x : Nat) : (s.setFld f x).freeCtr = s.freeCtr := rfl

/-! ### setFlag -/

@[simp] theorem State.setFlag_access (f : RegField) (b : Bool) : (s.setFlag f b).access = s.access := rfl
@[simp] theorem State.setFlag_reply (f : RegField) (b : Bool) : (s.setFlag f b).reply = s.reply := rfl
@[simp] theorem State.setFlag_cores (f : RegField) (b : Bool) : (s.setFlag f b).cores = s.cores := rfl
@[simp] theorem State.setFlag_mesh (f : RegField) (b : Bool) : (s.setFlag f b).mesh = s.mesh := rfl
@[simp] theorem State.setFlag_hbm (f : RegField) (b : Bool) : (s.setFlag f b).hbm = s.hbm := rfl
@[simp] theorem State.setFlag_host (f : RegField) (b : Bool) : (s.setFlag f b).host = s.host := rfl
@[simp] theorem State.setFlag_plans (f : RegField) (b : Bool) : (s.setFlag f b).plans = s.plans := rfl
@[simp] theorem State.setFlag_rings (f : RegField) (b : Bool) : (s.setFlag f b).rings = s.rings := rfl
@[simp] theorem State.setFlag_works (f : RegField) (b : Bool) : (s.setFlag f b).works = s.works := rfl
@[simp] theorem State.setFlag_wsets (f : RegField) (b : Bool) : (s.setFlag f b).wsets = s.wsets := rfl
@[simp] theorem State.setFlag_turn (f : RegField) (b : Bool) : (s.setFlag f b).turn = s.turn := rfl
@[simp] theorem State.setFlag_epochs (f : RegField) (b : Bool) : (s.setFlag f b).epochs = s.epochs := rfl
@[simp] theorem State.setFlag_errs (f : RegField) (b : Bool) : (s.setFlag f b).errs = s.errs := rfl
@[simp] theorem State.setFlag_audit (f : RegField) (b : Bool) : (s.setFlag f b).audit = s.audit := rfl
@[simp] theorem State.setFlag_nv (f : RegField) (b : Bool) : (s.setFlag f b).nv = s.nv := rfl
@[simp] theorem State.setFlag_sec (f : RegField) (b : Bool) : (s.setFlag f b).sec = s.sec := rfl
@[simp] theorem State.setFlag_links (f : RegField) (b : Bool) : (s.setFlag f b).links = s.links := rfl
@[simp] theorem State.setFlag_power (f : RegField) (b : Bool) : (s.setFlag f b).power = s.power := rfl
@[simp] theorem State.setFlag_thermal (f : RegField) (b : Bool) : (s.setFlag f b).thermal = s.thermal := rfl
@[simp] theorem State.setFlag_witness (f : RegField) (b : Bool) : (s.setFlag f b).witness = s.witness := rfl
@[simp] theorem State.setFlag_pending (f : RegField) (b : Bool) : (s.setFlag f b).pending = s.pending := rfl
@[simp] theorem State.setFlag_freeCtr (f : RegField) (b : Bool) : (s.setFlag f b).freeCtr = s.freeCtr := rfl

/-! ### bump -/

@[simp] theorem State.bump_access (f : RegField) (n : Nat) : (s.bump f n).access = s.access := rfl
@[simp] theorem State.bump_reply (f : RegField) (n : Nat) : (s.bump f n).reply = s.reply := rfl
@[simp] theorem State.bump_cores (f : RegField) (n : Nat) : (s.bump f n).cores = s.cores := rfl
@[simp] theorem State.bump_mesh (f : RegField) (n : Nat) : (s.bump f n).mesh = s.mesh := rfl
@[simp] theorem State.bump_hbm (f : RegField) (n : Nat) : (s.bump f n).hbm = s.hbm := rfl
@[simp] theorem State.bump_host (f : RegField) (n : Nat) : (s.bump f n).host = s.host := rfl
@[simp] theorem State.bump_plans (f : RegField) (n : Nat) : (s.bump f n).plans = s.plans := rfl
@[simp] theorem State.bump_rings (f : RegField) (n : Nat) : (s.bump f n).rings = s.rings := rfl
@[simp] theorem State.bump_works (f : RegField) (n : Nat) : (s.bump f n).works = s.works := rfl
@[simp] theorem State.bump_wsets (f : RegField) (n : Nat) : (s.bump f n).wsets = s.wsets := rfl
@[simp] theorem State.bump_turn (f : RegField) (n : Nat) : (s.bump f n).turn = s.turn := rfl
@[simp] theorem State.bump_epochs (f : RegField) (n : Nat) : (s.bump f n).epochs = s.epochs := rfl
@[simp] theorem State.bump_errs (f : RegField) (n : Nat) : (s.bump f n).errs = s.errs := rfl
@[simp] theorem State.bump_audit (f : RegField) (n : Nat) : (s.bump f n).audit = s.audit := rfl
@[simp] theorem State.bump_nv (f : RegField) (n : Nat) : (s.bump f n).nv = s.nv := rfl
@[simp] theorem State.bump_sec (f : RegField) (n : Nat) : (s.bump f n).sec = s.sec := rfl
@[simp] theorem State.bump_links (f : RegField) (n : Nat) : (s.bump f n).links = s.links := rfl
@[simp] theorem State.bump_power (f : RegField) (n : Nat) : (s.bump f n).power = s.power := rfl
@[simp] theorem State.bump_thermal (f : RegField) (n : Nat) : (s.bump f n).thermal = s.thermal := rfl
@[simp] theorem State.bump_witness (f : RegField) (n : Nat) : (s.bump f n).witness = s.witness := rfl
@[simp] theorem State.bump_pending (f : RegField) (n : Nat) : (s.bump f n).pending = s.pending := rfl
@[simp] theorem State.bump_freeCtr (f : RegField) (n : Nat) : (s.bump f n).freeCtr = s.freeCtr := rfl

/-! ### setHif -/

@[simp] theorem State.setHif_access (n : Nat) (g : RegField) (x : Nat) : (s.setHif n g x).access = s.access := rfl
@[simp] theorem State.setHif_reply (n : Nat) (g : RegField) (x : Nat) : (s.setHif n g x).reply = s.reply := rfl
@[simp] theorem State.setHif_cores (n : Nat) (g : RegField) (x : Nat) : (s.setHif n g x).cores = s.cores := rfl
@[simp] theorem State.setHif_mesh (n : Nat) (g : RegField) (x : Nat) : (s.setHif n g x).mesh = s.mesh := rfl
@[simp] theorem State.setHif_hbm (n : Nat) (g : RegField) (x : Nat) : (s.setHif n g x).hbm = s.hbm := rfl
@[simp] theorem State.setHif_host (n : Nat) (g : RegField) (x : Nat) : (s.setHif n g x).host = s.host := rfl
@[simp] theorem State.setHif_plans (n : Nat) (g : RegField) (x : Nat) : (s.setHif n g x).plans = s.plans := rfl
@[simp] theorem State.setHif_rings (n : Nat) (g : RegField) (x : Nat) : (s.setHif n g x).rings = s.rings := rfl
@[simp] theorem State.setHif_works (n : Nat) (g : RegField) (x : Nat) : (s.setHif n g x).works = s.works := rfl
@[simp] theorem State.setHif_wsets (n : Nat) (g : RegField) (x : Nat) : (s.setHif n g x).wsets = s.wsets := rfl
@[simp] theorem State.setHif_turn (n : Nat) (g : RegField) (x : Nat) : (s.setHif n g x).turn = s.turn := rfl
@[simp] theorem State.setHif_epochs (n : Nat) (g : RegField) (x : Nat) : (s.setHif n g x).epochs = s.epochs := rfl
@[simp] theorem State.setHif_errs (n : Nat) (g : RegField) (x : Nat) : (s.setHif n g x).errs = s.errs := rfl
@[simp] theorem State.setHif_audit (n : Nat) (g : RegField) (x : Nat) : (s.setHif n g x).audit = s.audit := rfl
@[simp] theorem State.setHif_nv (n : Nat) (g : RegField) (x : Nat) : (s.setHif n g x).nv = s.nv := rfl
@[simp] theorem State.setHif_sec (n : Nat) (g : RegField) (x : Nat) : (s.setHif n g x).sec = s.sec := rfl
@[simp] theorem State.setHif_links (n : Nat) (g : RegField) (x : Nat) : (s.setHif n g x).links = s.links := rfl
@[simp] theorem State.setHif_power (n : Nat) (g : RegField) (x : Nat) : (s.setHif n g x).power = s.power := rfl
@[simp] theorem State.setHif_thermal (n : Nat) (g : RegField) (x : Nat) : (s.setHif n g x).thermal = s.thermal := rfl
@[simp] theorem State.setHif_witness (n : Nat) (g : RegField) (x : Nat) : (s.setHif n g x).witness = s.witness := rfl
@[simp] theorem State.setHif_pending (n : Nat) (g : RegField) (x : Nat) : (s.setHif n g x).pending = s.pending := rfl
@[simp] theorem State.setHif_freeCtr (n : Nat) (g : RegField) (x : Nat) : (s.setHif n g x).freeCtr = s.freeCtr := rfl

/-! ### bumpHif -/

@[simp] theorem State.bumpHif_access (n : Nat) (g : RegField) : (s.bumpHif n g).access = s.access := rfl
@[simp] theorem State.bumpHif_reply (n : Nat) (g : RegField) : (s.bumpHif n g).reply = s.reply := rfl
@[simp] theorem State.bumpHif_cores (n : Nat) (g : RegField) : (s.bumpHif n g).cores = s.cores := rfl
@[simp] theorem State.bumpHif_mesh (n : Nat) (g : RegField) : (s.bumpHif n g).mesh = s.mesh := rfl
@[simp] theorem State.bumpHif_hbm (n : Nat) (g : RegField) : (s.bumpHif n g).hbm = s.hbm := rfl
@[simp] theorem State.bumpHif_host (n : Nat) (g : RegField) : (s.bumpHif n g).host = s.host := rfl
@[simp] theorem State.bumpHif_plans (n : Nat) (g : RegField) : (s.bumpHif n g).plans = s.plans := rfl
@[simp] theorem State.bumpHif_rings (n : Nat) (g : RegField) : (s.bumpHif n g).rings = s.rings := rfl
@[simp] theorem State.bumpHif_works (n : Nat) (g : RegField) : (s.bumpHif n g).works = s.works := rfl
@[simp] theorem State.bumpHif_wsets (n : Nat) (g : RegField) : (s.bumpHif n g).wsets = s.wsets := rfl
@[simp] theorem State.bumpHif_turn (n : Nat) (g : RegField) : (s.bumpHif n g).turn = s.turn := rfl
@[simp] theorem State.bumpHif_epochs (n : Nat) (g : RegField) : (s.bumpHif n g).epochs = s.epochs := rfl
@[simp] theorem State.bumpHif_errs (n : Nat) (g : RegField) : (s.bumpHif n g).errs = s.errs := rfl
@[simp] theorem State.bumpHif_audit (n : Nat) (g : RegField) : (s.bumpHif n g).audit = s.audit := rfl
@[simp] theorem State.bumpHif_nv (n : Nat) (g : RegField) : (s.bumpHif n g).nv = s.nv := rfl
@[simp] theorem State.bumpHif_sec (n : Nat) (g : RegField) : (s.bumpHif n g).sec = s.sec := rfl
@[simp] theorem State.bumpHif_links (n : Nat) (g : RegField) : (s.bumpHif n g).links = s.links := rfl
@[simp] theorem State.bumpHif_power (n : Nat) (g : RegField) : (s.bumpHif n g).power = s.power := rfl
@[simp] theorem State.bumpHif_thermal (n : Nat) (g : RegField) : (s.bumpHif n g).thermal = s.thermal := rfl
@[simp] theorem State.bumpHif_witness (n : Nat) (g : RegField) : (s.bumpHif n g).witness = s.witness := rfl
@[simp] theorem State.bumpHif_pending (n : Nat) (g : RegField) : (s.bumpHif n g).pending = s.pending := rfl
@[simp] theorem State.bumpHif_freeCtr (n : Nat) (g : RegField) : (s.bumpHif n g).freeCtr = s.freeCtr := rfl

/-! ### setPair -/

@[simp] theorem State.setPair_access (lo hi : RegField) (x : Nat) : (s.setPair lo hi x).access = s.access := rfl
@[simp] theorem State.setPair_reply (lo hi : RegField) (x : Nat) : (s.setPair lo hi x).reply = s.reply := rfl
@[simp] theorem State.setPair_cores (lo hi : RegField) (x : Nat) : (s.setPair lo hi x).cores = s.cores := rfl
@[simp] theorem State.setPair_mesh (lo hi : RegField) (x : Nat) : (s.setPair lo hi x).mesh = s.mesh := rfl
@[simp] theorem State.setPair_hbm (lo hi : RegField) (x : Nat) : (s.setPair lo hi x).hbm = s.hbm := rfl
@[simp] theorem State.setPair_host (lo hi : RegField) (x : Nat) : (s.setPair lo hi x).host = s.host := rfl
@[simp] theorem State.setPair_plans (lo hi : RegField) (x : Nat) : (s.setPair lo hi x).plans = s.plans := rfl
@[simp] theorem State.setPair_rings (lo hi : RegField) (x : Nat) : (s.setPair lo hi x).rings = s.rings := rfl
@[simp] theorem State.setPair_works (lo hi : RegField) (x : Nat) : (s.setPair lo hi x).works = s.works := rfl
@[simp] theorem State.setPair_wsets (lo hi : RegField) (x : Nat) : (s.setPair lo hi x).wsets = s.wsets := rfl
@[simp] theorem State.setPair_turn (lo hi : RegField) (x : Nat) : (s.setPair lo hi x).turn = s.turn := rfl
@[simp] theorem State.setPair_epochs (lo hi : RegField) (x : Nat) : (s.setPair lo hi x).epochs = s.epochs := rfl
@[simp] theorem State.setPair_errs (lo hi : RegField) (x : Nat) : (s.setPair lo hi x).errs = s.errs := rfl
@[simp] theorem State.setPair_audit (lo hi : RegField) (x : Nat) : (s.setPair lo hi x).audit = s.audit := rfl
@[simp] theorem State.setPair_nv (lo hi : RegField) (x : Nat) : (s.setPair lo hi x).nv = s.nv := rfl
@[simp] theorem State.setPair_sec (lo hi : RegField) (x : Nat) : (s.setPair lo hi x).sec = s.sec := rfl
@[simp] theorem State.setPair_links (lo hi : RegField) (x : Nat) : (s.setPair lo hi x).links = s.links := rfl
@[simp] theorem State.setPair_power (lo hi : RegField) (x : Nat) : (s.setPair lo hi x).power = s.power := rfl
@[simp] theorem State.setPair_thermal (lo hi : RegField) (x : Nat) : (s.setPair lo hi x).thermal = s.thermal := rfl
@[simp] theorem State.setPair_witness (lo hi : RegField) (x : Nat) : (s.setPair lo hi x).witness = s.witness := rfl
@[simp] theorem State.setPair_pending (lo hi : RegField) (x : Nat) : (s.setPair lo hi x).pending = s.pending := rfl
@[simp] theorem State.setPair_freeCtr (lo hi : RegField) (x : Nat) : (s.setPair lo hi x).freeCtr = s.freeCtr := rfl

/-! ### tickFree -/

@[simp] theorem State.tickFree_regs : (s.tickFree).regs = s.regs := rfl
@[simp] theorem State.tickFree_access : (s.tickFree).access = s.access := rfl
@[simp] theorem State.tickFree_reply : (s.tickFree).reply = s.reply := rfl
@[simp] theorem State.tickFree_cores : (s.tickFree).cores = s.cores := rfl
@[simp] theorem State.tickFree_mesh : (s.tickFree).mesh = s.mesh := rfl
@[simp] theorem State.tickFree_hbm : (s.tickFree).hbm = s.hbm := rfl
@[simp] theorem State.tickFree_host : (s.tickFree).host = s.host := rfl
@[simp] theorem State.tickFree_plans : (s.tickFree).plans = s.plans := rfl
@[simp] theorem State.tickFree_rings : (s.tickFree).rings = s.rings := rfl
@[simp] theorem State.tickFree_works : (s.tickFree).works = s.works := rfl
@[simp] theorem State.tickFree_wsets : (s.tickFree).wsets = s.wsets := rfl
@[simp] theorem State.tickFree_turn : (s.tickFree).turn = s.turn := rfl
@[simp] theorem State.tickFree_epochs : (s.tickFree).epochs = s.epochs := rfl
@[simp] theorem State.tickFree_errs : (s.tickFree).errs = s.errs := rfl
@[simp] theorem State.tickFree_audit : (s.tickFree).audit = s.audit := rfl
@[simp] theorem State.tickFree_nv : (s.tickFree).nv = s.nv := rfl
@[simp] theorem State.tickFree_sec : (s.tickFree).sec = s.sec := rfl
@[simp] theorem State.tickFree_links : (s.tickFree).links = s.links := rfl
@[simp] theorem State.tickFree_power : (s.tickFree).power = s.power := rfl
@[simp] theorem State.tickFree_thermal : (s.tickFree).thermal = s.thermal := rfl
@[simp] theorem State.tickFree_witness : (s.tickFree).witness = s.witness := rfl
@[simp] theorem State.tickFree_pending : (s.tickFree).pending = s.pending := rfl

/-! ### setCore -/

@[simp] theorem State.setCore_regs (c : Nat) (x : Core) : (s.setCore c x).regs = s.regs := rfl
@[simp] theorem State.setCore_access (c : Nat) (x : Core) : (s.setCore c x).access = s.access := rfl
@[simp] theorem State.setCore_reply (c : Nat) (x : Core) : (s.setCore c x).reply = s.reply := rfl
@[simp] theorem State.setCore_mesh (c : Nat) (x : Core) : (s.setCore c x).mesh = s.mesh := rfl
@[simp] theorem State.setCore_hbm (c : Nat) (x : Core) : (s.setCore c x).hbm = s.hbm := rfl
@[simp] theorem State.setCore_host (c : Nat) (x : Core) : (s.setCore c x).host = s.host := rfl
@[simp] theorem State.setCore_plans (c : Nat) (x : Core) : (s.setCore c x).plans = s.plans := rfl
@[simp] theorem State.setCore_rings (c : Nat) (x : Core) : (s.setCore c x).rings = s.rings := rfl
@[simp] theorem State.setCore_works (c : Nat) (x : Core) : (s.setCore c x).works = s.works := rfl
@[simp] theorem State.setCore_wsets (c : Nat) (x : Core) : (s.setCore c x).wsets = s.wsets := rfl
@[simp] theorem State.setCore_turn (c : Nat) (x : Core) : (s.setCore c x).turn = s.turn := rfl
@[simp] theorem State.setCore_epochs (c : Nat) (x : Core) : (s.setCore c x).epochs = s.epochs := rfl
@[simp] theorem State.setCore_errs (c : Nat) (x : Core) : (s.setCore c x).errs = s.errs := rfl
@[simp] theorem State.setCore_audit (c : Nat) (x : Core) : (s.setCore c x).audit = s.audit := rfl
@[simp] theorem State.setCore_nv (c : Nat) (x : Core) : (s.setCore c x).nv = s.nv := rfl
@[simp] theorem State.setCore_sec (c : Nat) (x : Core) : (s.setCore c x).sec = s.sec := rfl
@[simp] theorem State.setCore_links (c : Nat) (x : Core) : (s.setCore c x).links = s.links := rfl
@[simp] theorem State.setCore_power (c : Nat) (x : Core) : (s.setCore c x).power = s.power := rfl
@[simp] theorem State.setCore_thermal (c : Nat) (x : Core) : (s.setCore c x).thermal = s.thermal := rfl
@[simp] theorem State.setCore_witness (c : Nat) (x : Core) : (s.setCore c x).witness = s.witness := rfl
@[simp] theorem State.setCore_pending (c : Nat) (x : Core) : (s.setCore c x).pending = s.pending := rfl
@[simp] theorem State.setCore_freeCtr (c : Nat) (x : Core) : (s.setCore c x).freeCtr = s.freeCtr := rfl

/-! ### updCore -/

@[simp] theorem State.updCore_regs (c : Nat) (f : Core → Core) : (s.updCore c f).regs = s.regs := rfl
@[simp] theorem State.updCore_access (c : Nat) (f : Core → Core) : (s.updCore c f).access = s.access := rfl
@[simp] theorem State.updCore_reply (c : Nat) (f : Core → Core) : (s.updCore c f).reply = s.reply := rfl
@[simp] theorem State.updCore_mesh (c : Nat) (f : Core → Core) : (s.updCore c f).mesh = s.mesh := rfl
@[simp] theorem State.updCore_hbm (c : Nat) (f : Core → Core) : (s.updCore c f).hbm = s.hbm := rfl
@[simp] theorem State.updCore_host (c : Nat) (f : Core → Core) : (s.updCore c f).host = s.host := rfl
@[simp] theorem State.updCore_plans (c : Nat) (f : Core → Core) : (s.updCore c f).plans = s.plans := rfl
@[simp] theorem State.updCore_rings (c : Nat) (f : Core → Core) : (s.updCore c f).rings = s.rings := rfl
@[simp] theorem State.updCore_works (c : Nat) (f : Core → Core) : (s.updCore c f).works = s.works := rfl
@[simp] theorem State.updCore_wsets (c : Nat) (f : Core → Core) : (s.updCore c f).wsets = s.wsets := rfl
@[simp] theorem State.updCore_turn (c : Nat) (f : Core → Core) : (s.updCore c f).turn = s.turn := rfl
@[simp] theorem State.updCore_epochs (c : Nat) (f : Core → Core) : (s.updCore c f).epochs = s.epochs := rfl
@[simp] theorem State.updCore_errs (c : Nat) (f : Core → Core) : (s.updCore c f).errs = s.errs := rfl
@[simp] theorem State.updCore_audit (c : Nat) (f : Core → Core) : (s.updCore c f).audit = s.audit := rfl
@[simp] theorem State.updCore_nv (c : Nat) (f : Core → Core) : (s.updCore c f).nv = s.nv := rfl
@[simp] theorem State.updCore_sec (c : Nat) (f : Core → Core) : (s.updCore c f).sec = s.sec := rfl
@[simp] theorem State.updCore_links (c : Nat) (f : Core → Core) : (s.updCore c f).links = s.links := rfl
@[simp] theorem State.updCore_power (c : Nat) (f : Core → Core) : (s.updCore c f).power = s.power := rfl
@[simp] theorem State.updCore_thermal (c : Nat) (f : Core → Core) : (s.updCore c f).thermal = s.thermal := rfl
@[simp] theorem State.updCore_witness (c : Nat) (f : Core → Core) : (s.updCore c f).witness = s.witness := rfl
@[simp] theorem State.updCore_pending (c : Nat) (f : Core → Core) : (s.updCore c f).pending = s.pending := rfl
@[simp] theorem State.updCore_freeCtr (c : Nat) (f : Core → Core) : (s.updCore c f).freeCtr = s.freeCtr := rfl

/-! ### updWork -/

@[simp] theorem State.updWork_regs (r q : Nat) (f : Work → Work) : (s.updWork r q f).regs = s.regs := rfl
@[simp] theorem State.updWork_access (r q : Nat) (f : Work → Work) : (s.updWork r q f).access = s.access := rfl
@[simp] theorem State.updWork_reply (r q : Nat) (f : Work → Work) : (s.updWork r q f).reply = s.reply := rfl
@[simp] theorem State.updWork_cores (r q : Nat) (f : Work → Work) : (s.updWork r q f).cores = s.cores := rfl
@[simp] theorem State.updWork_mesh (r q : Nat) (f : Work → Work) : (s.updWork r q f).mesh = s.mesh := rfl
@[simp] theorem State.updWork_hbm (r q : Nat) (f : Work → Work) : (s.updWork r q f).hbm = s.hbm := rfl
@[simp] theorem State.updWork_host (r q : Nat) (f : Work → Work) : (s.updWork r q f).host = s.host := rfl
@[simp] theorem State.updWork_plans (r q : Nat) (f : Work → Work) : (s.updWork r q f).plans = s.plans := rfl
@[simp] theorem State.updWork_rings (r q : Nat) (f : Work → Work) : (s.updWork r q f).rings = s.rings := rfl
@[simp] theorem State.updWork_wsets (r q : Nat) (f : Work → Work) : (s.updWork r q f).wsets = s.wsets := rfl
@[simp] theorem State.updWork_turn (r q : Nat) (f : Work → Work) : (s.updWork r q f).turn = s.turn := rfl
@[simp] theorem State.updWork_epochs (r q : Nat) (f : Work → Work) : (s.updWork r q f).epochs = s.epochs := rfl
@[simp] theorem State.updWork_errs (r q : Nat) (f : Work → Work) : (s.updWork r q f).errs = s.errs := rfl
@[simp] theorem State.updWork_audit (r q : Nat) (f : Work → Work) : (s.updWork r q f).audit = s.audit := rfl
@[simp] theorem State.updWork_nv (r q : Nat) (f : Work → Work) : (s.updWork r q f).nv = s.nv := rfl
@[simp] theorem State.updWork_sec (r q : Nat) (f : Work → Work) : (s.updWork r q f).sec = s.sec := rfl
@[simp] theorem State.updWork_links (r q : Nat) (f : Work → Work) : (s.updWork r q f).links = s.links := rfl
@[simp] theorem State.updWork_power (r q : Nat) (f : Work → Work) : (s.updWork r q f).power = s.power := rfl
@[simp] theorem State.updWork_thermal (r q : Nat) (f : Work → Work) : (s.updWork r q f).thermal = s.thermal := rfl
@[simp] theorem State.updWork_witness (r q : Nat) (f : Work → Work) : (s.updWork r q f).witness = s.witness := rfl
@[simp] theorem State.updWork_pending (r q : Nat) (f : Work → Work) : (s.updWork r q f).pending = s.pending := rfl
@[simp] theorem State.updWork_freeCtr (r q : Nat) (f : Work → Work) : (s.updWork r q f).freeCtr = s.freeCtr := rfl

/-! ### updPlaced -/

@[simp] theorem State.updPlaced_regs (i : Nat) (f : Placed → Placed) : (s.updPlaced i f).regs = s.regs := rfl
@[simp] theorem State.updPlaced_access (i : Nat) (f : Placed → Placed) : (s.updPlaced i f).access = s.access := rfl
@[simp] theorem State.updPlaced_reply (i : Nat) (f : Placed → Placed) : (s.updPlaced i f).reply = s.reply := rfl
@[simp] theorem State.updPlaced_cores (i : Nat) (f : Placed → Placed) : (s.updPlaced i f).cores = s.cores := rfl
@[simp] theorem State.updPlaced_mesh (i : Nat) (f : Placed → Placed) : (s.updPlaced i f).mesh = s.mesh := rfl
@[simp] theorem State.updPlaced_hbm (i : Nat) (f : Placed → Placed) : (s.updPlaced i f).hbm = s.hbm := rfl
@[simp] theorem State.updPlaced_host (i : Nat) (f : Placed → Placed) : (s.updPlaced i f).host = s.host := rfl
@[simp] theorem State.updPlaced_plans (i : Nat) (f : Placed → Placed) : (s.updPlaced i f).plans = s.plans := rfl
@[simp] theorem State.updPlaced_rings (i : Nat) (f : Placed → Placed) : (s.updPlaced i f).rings = s.rings := rfl
@[simp] theorem State.updPlaced_works (i : Nat) (f : Placed → Placed) : (s.updPlaced i f).works = s.works := rfl
@[simp] theorem State.updPlaced_wsets (i : Nat) (f : Placed → Placed) : (s.updPlaced i f).wsets = s.wsets := rfl
@[simp] theorem State.updPlaced_epochs (i : Nat) (f : Placed → Placed) : (s.updPlaced i f).epochs = s.epochs := rfl
@[simp] theorem State.updPlaced_errs (i : Nat) (f : Placed → Placed) : (s.updPlaced i f).errs = s.errs := rfl
@[simp] theorem State.updPlaced_audit (i : Nat) (f : Placed → Placed) : (s.updPlaced i f).audit = s.audit := rfl
@[simp] theorem State.updPlaced_nv (i : Nat) (f : Placed → Placed) : (s.updPlaced i f).nv = s.nv := rfl
@[simp] theorem State.updPlaced_sec (i : Nat) (f : Placed → Placed) : (s.updPlaced i f).sec = s.sec := rfl
@[simp] theorem State.updPlaced_links (i : Nat) (f : Placed → Placed) : (s.updPlaced i f).links = s.links := rfl
@[simp] theorem State.updPlaced_power (i : Nat) (f : Placed → Placed) : (s.updPlaced i f).power = s.power := rfl
@[simp] theorem State.updPlaced_thermal (i : Nat) (f : Placed → Placed) : (s.updPlaced i f).thermal = s.thermal := rfl
@[simp] theorem State.updPlaced_witness (i : Nat) (f : Placed → Placed) : (s.updPlaced i f).witness = s.witness := rfl
@[simp] theorem State.updPlaced_pending (i : Nat) (f : Placed → Placed) : (s.updPlaced i f).pending = s.pending := rfl
@[simp] theorem State.updPlaced_freeCtr (i : Nat) (f : Placed → Placed) : (s.updPlaced i f).freeCtr = s.freeCtr := rfl

/-! ### sliceWrite -/

@[simp] theorem State.sliceWrite_regs (i k : Nat) (bs : List Byte) : (s.sliceWrite i k bs).regs = s.regs := rfl
@[simp] theorem State.sliceWrite_access (i k : Nat) (bs : List Byte) : (s.sliceWrite i k bs).access = s.access := rfl
@[simp] theorem State.sliceWrite_reply (i k : Nat) (bs : List Byte) : (s.sliceWrite i k bs).reply = s.reply := rfl
@[simp] theorem State.sliceWrite_cores (i k : Nat) (bs : List Byte) : (s.sliceWrite i k bs).cores = s.cores := rfl
@[simp] theorem State.sliceWrite_mesh (i k : Nat) (bs : List Byte) : (s.sliceWrite i k bs).mesh = s.mesh := rfl
@[simp] theorem State.sliceWrite_hbm (i k : Nat) (bs : List Byte) : (s.sliceWrite i k bs).hbm = s.hbm := rfl
@[simp] theorem State.sliceWrite_host (i k : Nat) (bs : List Byte) : (s.sliceWrite i k bs).host = s.host := rfl
@[simp] theorem State.sliceWrite_plans (i k : Nat) (bs : List Byte) : (s.sliceWrite i k bs).plans = s.plans := rfl
@[simp] theorem State.sliceWrite_rings (i k : Nat) (bs : List Byte) : (s.sliceWrite i k bs).rings = s.rings := rfl
@[simp] theorem State.sliceWrite_works (i k : Nat) (bs : List Byte) : (s.sliceWrite i k bs).works = s.works := rfl
@[simp] theorem State.sliceWrite_wsets (i k : Nat) (bs : List Byte) : (s.sliceWrite i k bs).wsets = s.wsets := rfl
@[simp] theorem State.sliceWrite_epochs (i k : Nat) (bs : List Byte) : (s.sliceWrite i k bs).epochs = s.epochs := rfl
@[simp] theorem State.sliceWrite_errs (i k : Nat) (bs : List Byte) : (s.sliceWrite i k bs).errs = s.errs := rfl
@[simp] theorem State.sliceWrite_audit (i k : Nat) (bs : List Byte) : (s.sliceWrite i k bs).audit = s.audit := rfl
@[simp] theorem State.sliceWrite_nv (i k : Nat) (bs : List Byte) : (s.sliceWrite i k bs).nv = s.nv := rfl
@[simp] theorem State.sliceWrite_sec (i k : Nat) (bs : List Byte) : (s.sliceWrite i k bs).sec = s.sec := rfl
@[simp] theorem State.sliceWrite_links (i k : Nat) (bs : List Byte) : (s.sliceWrite i k bs).links = s.links := rfl
@[simp] theorem State.sliceWrite_power (i k : Nat) (bs : List Byte) : (s.sliceWrite i k bs).power = s.power := rfl
@[simp] theorem State.sliceWrite_thermal (i k : Nat) (bs : List Byte) : (s.sliceWrite i k bs).thermal = s.thermal := rfl
@[simp] theorem State.sliceWrite_witness (i k : Nat) (bs : List Byte) : (s.sliceWrite i k bs).witness = s.witness := rfl
@[simp] theorem State.sliceWrite_pending (i k : Nat) (bs : List Byte) : (s.sliceWrite i k bs).pending = s.pending := rfl
@[simp] theorem State.sliceWrite_freeCtr (i k : Nat) (bs : List Byte) : (s.sliceWrite i k bs).freeCtr = s.freeCtr := rfl

/-! ### hbmStore -/

@[simp] theorem State.hbmStore_regs (k : Nat) (bs : List Byte) : (s.hbmStore k bs).regs = s.regs := rfl
@[simp] theorem State.hbmStore_access (k : Nat) (bs : List Byte) : (s.hbmStore k bs).access = s.access := rfl
@[simp] theorem State.hbmStore_reply (k : Nat) (bs : List Byte) : (s.hbmStore k bs).reply = s.reply := rfl
@[simp] theorem State.hbmStore_cores (k : Nat) (bs : List Byte) : (s.hbmStore k bs).cores = s.cores := rfl
@[simp] theorem State.hbmStore_mesh (k : Nat) (bs : List Byte) : (s.hbmStore k bs).mesh = s.mesh := rfl
@[simp] theorem State.hbmStore_host (k : Nat) (bs : List Byte) : (s.hbmStore k bs).host = s.host := rfl
@[simp] theorem State.hbmStore_plans (k : Nat) (bs : List Byte) : (s.hbmStore k bs).plans = s.plans := rfl
@[simp] theorem State.hbmStore_rings (k : Nat) (bs : List Byte) : (s.hbmStore k bs).rings = s.rings := rfl
@[simp] theorem State.hbmStore_works (k : Nat) (bs : List Byte) : (s.hbmStore k bs).works = s.works := rfl
@[simp] theorem State.hbmStore_wsets (k : Nat) (bs : List Byte) : (s.hbmStore k bs).wsets = s.wsets := rfl
@[simp] theorem State.hbmStore_turn (k : Nat) (bs : List Byte) : (s.hbmStore k bs).turn = s.turn := rfl
@[simp] theorem State.hbmStore_epochs (k : Nat) (bs : List Byte) : (s.hbmStore k bs).epochs = s.epochs := rfl
@[simp] theorem State.hbmStore_errs (k : Nat) (bs : List Byte) : (s.hbmStore k bs).errs = s.errs := rfl
@[simp] theorem State.hbmStore_audit (k : Nat) (bs : List Byte) : (s.hbmStore k bs).audit = s.audit := rfl
@[simp] theorem State.hbmStore_nv (k : Nat) (bs : List Byte) : (s.hbmStore k bs).nv = s.nv := rfl
@[simp] theorem State.hbmStore_sec (k : Nat) (bs : List Byte) : (s.hbmStore k bs).sec = s.sec := rfl
@[simp] theorem State.hbmStore_links (k : Nat) (bs : List Byte) : (s.hbmStore k bs).links = s.links := rfl
@[simp] theorem State.hbmStore_power (k : Nat) (bs : List Byte) : (s.hbmStore k bs).power = s.power := rfl
@[simp] theorem State.hbmStore_thermal (k : Nat) (bs : List Byte) : (s.hbmStore k bs).thermal = s.thermal := rfl
@[simp] theorem State.hbmStore_witness (k : Nat) (bs : List Byte) : (s.hbmStore k bs).witness = s.witness := rfl
@[simp] theorem State.hbmStore_pending (k : Nat) (bs : List Byte) : (s.hbmStore k bs).pending = s.pending := rfl
@[simp] theorem State.hbmStore_freeCtr (k : Nat) (bs : List Byte) : (s.hbmStore k bs).freeCtr = s.freeCtr := rfl

/-! ### send -/

@[simp] theorem State.send_regs (l : Landing) : (s.send l).regs = s.regs := rfl
@[simp] theorem State.send_access (l : Landing) : (s.send l).access = s.access := rfl
@[simp] theorem State.send_reply (l : Landing) : (s.send l).reply = s.reply := rfl
@[simp] theorem State.send_cores (l : Landing) : (s.send l).cores = s.cores := rfl
@[simp] theorem State.send_hbm (l : Landing) : (s.send l).hbm = s.hbm := rfl
@[simp] theorem State.send_host (l : Landing) : (s.send l).host = s.host := rfl
@[simp] theorem State.send_plans (l : Landing) : (s.send l).plans = s.plans := rfl
@[simp] theorem State.send_rings (l : Landing) : (s.send l).rings = s.rings := rfl
@[simp] theorem State.send_works (l : Landing) : (s.send l).works = s.works := rfl
@[simp] theorem State.send_wsets (l : Landing) : (s.send l).wsets = s.wsets := rfl
@[simp] theorem State.send_turn (l : Landing) : (s.send l).turn = s.turn := rfl
@[simp] theorem State.send_epochs (l : Landing) : (s.send l).epochs = s.epochs := rfl
@[simp] theorem State.send_errs (l : Landing) : (s.send l).errs = s.errs := rfl
@[simp] theorem State.send_audit (l : Landing) : (s.send l).audit = s.audit := rfl
@[simp] theorem State.send_nv (l : Landing) : (s.send l).nv = s.nv := rfl
@[simp] theorem State.send_sec (l : Landing) : (s.send l).sec = s.sec := rfl
@[simp] theorem State.send_links (l : Landing) : (s.send l).links = s.links := rfl
@[simp] theorem State.send_power (l : Landing) : (s.send l).power = s.power := rfl
@[simp] theorem State.send_thermal (l : Landing) : (s.send l).thermal = s.thermal := rfl
@[simp] theorem State.send_witness (l : Landing) : (s.send l).witness = s.witness := rfl
@[simp] theorem State.send_pending (l : Landing) : (s.send l).pending = s.pending := rfl
@[simp] theorem State.send_freeCtr (l : Landing) : (s.send l).freeCtr = s.freeCtr := rfl

/-! ### What they change -/

@[simp] theorem State.setReg_regs (k : Nat) (v : BitVec 32) : (s.setReg k v).regs = SMap.set 0 s.regs k v := rfl
@[simp] theorem State.setCore_cores (c : Nat) (x : Core) : (s.setCore c x).cores = SMap.set {} s.cores c x := rfl
@[simp] theorem State.tickFree_freeCtr : s.tickFree.freeCtr = s.freeCtr + 1 := rfl
@[simp] theorem State.send_mesh (l : Landing) : (s.send l).mesh = s.mesh ++ [l] := rfl
@[simp] theorem State.updWork_works (r q : Nat) (f : Work → Work) :
    (s.updWork r q f).works = s.works.map (fun w => if w.ring = r ∧ w.seq = q then f w else w) := rfl
@[simp] theorem State.updPlaced_turn (i : Nat) (f : Placed → Placed) :
    (s.updPlaced i f).turn = { s.turn with placed := s.turn.placed.modify i f } := rfl

/-! ### Records and traces -/

@[simp] theorem State.enqueue_access (r : ErrRec) : (s.enqueue r).access = s.access := by
  simp only [State.enqueue]; (repeat' split) <;> rfl
@[simp] theorem State.enqueue_reply (r : ErrRec) : (s.enqueue r).reply = s.reply := by
  simp only [State.enqueue]; (repeat' split) <;> rfl
@[simp] theorem State.enqueue_cores (r : ErrRec) : (s.enqueue r).cores = s.cores := by
  simp only [State.enqueue]; (repeat' split) <;> rfl
@[simp] theorem State.enqueue_mesh (r : ErrRec) : (s.enqueue r).mesh = s.mesh := by
  simp only [State.enqueue]; (repeat' split) <;> rfl
@[simp] theorem State.enqueue_hbm (r : ErrRec) : (s.enqueue r).hbm = s.hbm := by
  simp only [State.enqueue]; (repeat' split) <;> rfl
@[simp] theorem State.enqueue_host (r : ErrRec) : (s.enqueue r).host = s.host := by
  simp only [State.enqueue]; (repeat' split) <;> rfl
@[simp] theorem State.enqueue_plans (r : ErrRec) : (s.enqueue r).plans = s.plans := by
  simp only [State.enqueue]; (repeat' split) <;> rfl
@[simp] theorem State.enqueue_rings (r : ErrRec) : (s.enqueue r).rings = s.rings := by
  simp only [State.enqueue]; (repeat' split) <;> rfl
@[simp] theorem State.enqueue_works (r : ErrRec) : (s.enqueue r).works = s.works := by
  simp only [State.enqueue]; (repeat' split) <;> rfl
@[simp] theorem State.enqueue_wsets (r : ErrRec) : (s.enqueue r).wsets = s.wsets := by
  simp only [State.enqueue]; (repeat' split) <;> rfl
@[simp] theorem State.enqueue_turn (r : ErrRec) : (s.enqueue r).turn = s.turn := by
  simp only [State.enqueue]; (repeat' split) <;> rfl
@[simp] theorem State.enqueue_epochs (r : ErrRec) : (s.enqueue r).epochs = s.epochs := by
  simp only [State.enqueue]; (repeat' split) <;> rfl
@[simp] theorem State.enqueue_audit (r : ErrRec) : (s.enqueue r).audit = s.audit := by
  simp only [State.enqueue]; (repeat' split) <;> rfl
@[simp] theorem State.enqueue_nv (r : ErrRec) : (s.enqueue r).nv = s.nv := by
  simp only [State.enqueue]; (repeat' split) <;> rfl
@[simp] theorem State.enqueue_sec (r : ErrRec) : (s.enqueue r).sec = s.sec := by
  simp only [State.enqueue]; (repeat' split) <;> rfl
@[simp] theorem State.enqueue_links (r : ErrRec) : (s.enqueue r).links = s.links := by
  simp only [State.enqueue]; (repeat' split) <;> rfl
@[simp] theorem State.enqueue_power (r : ErrRec) : (s.enqueue r).power = s.power := by
  simp only [State.enqueue]; (repeat' split) <;> rfl
@[simp] theorem State.enqueue_thermal (r : ErrRec) : (s.enqueue r).thermal = s.thermal := by
  simp only [State.enqueue]; (repeat' split) <;> rfl
@[simp] theorem State.enqueue_witness (r : ErrRec) : (s.enqueue r).witness = s.witness := by
  simp only [State.enqueue]; (repeat' split) <;> rfl
@[simp] theorem State.enqueue_pending (r : ErrRec) : (s.enqueue r).pending = s.pending := by
  simp only [State.enqueue]; (repeat' split) <;> rfl
@[simp] theorem State.enqueue_freeCtr (r : ErrRec) : (s.enqueue r).freeCtr = s.freeCtr := by
  simp only [State.enqueue]; (repeat' split) <;> rfl
@[simp] theorem State.log_access (c : Cause) (r : ErrRec) : (s.log c r).access = s.access := by simp [State.log]
@[simp] theorem State.log_reply (c : Cause) (r : ErrRec) : (s.log c r).reply = s.reply := by simp [State.log]
@[simp] theorem State.log_cores (c : Cause) (r : ErrRec) : (s.log c r).cores = s.cores := by simp [State.log]
@[simp] theorem State.log_mesh (c : Cause) (r : ErrRec) : (s.log c r).mesh = s.mesh := by simp [State.log]
@[simp] theorem State.log_hbm (c : Cause) (r : ErrRec) : (s.log c r).hbm = s.hbm := by simp [State.log]
@[simp] theorem State.log_host (c : Cause) (r : ErrRec) : (s.log c r).host = s.host := by simp [State.log]
@[simp] theorem State.log_plans (c : Cause) (r : ErrRec) : (s.log c r).plans = s.plans := by simp [State.log]
@[simp] theorem State.log_rings (c : Cause) (r : ErrRec) : (s.log c r).rings = s.rings := by simp [State.log]
@[simp] theorem State.log_works (c : Cause) (r : ErrRec) : (s.log c r).works = s.works := by simp [State.log]
@[simp] theorem State.log_wsets (c : Cause) (r : ErrRec) : (s.log c r).wsets = s.wsets := by simp [State.log]
@[simp] theorem State.log_turn (c : Cause) (r : ErrRec) : (s.log c r).turn = s.turn := by simp [State.log]
@[simp] theorem State.log_epochs (c : Cause) (r : ErrRec) : (s.log c r).epochs = s.epochs := by simp [State.log]
@[simp] theorem State.log_audit (c : Cause) (r : ErrRec) : (s.log c r).audit = s.audit := by simp [State.log]
@[simp] theorem State.log_nv (c : Cause) (r : ErrRec) : (s.log c r).nv = s.nv := by simp [State.log]
@[simp] theorem State.log_sec (c : Cause) (r : ErrRec) : (s.log c r).sec = s.sec := by simp [State.log]
@[simp] theorem State.log_links (c : Cause) (r : ErrRec) : (s.log c r).links = s.links := by simp [State.log]
@[simp] theorem State.log_power (c : Cause) (r : ErrRec) : (s.log c r).power = s.power := by simp [State.log]
@[simp] theorem State.log_thermal (c : Cause) (r : ErrRec) : (s.log c r).thermal = s.thermal := by simp [State.log]
@[simp] theorem State.log_witness (c : Cause) (r : ErrRec) : (s.log c r).witness = s.witness := by simp [State.log]
@[simp] theorem State.log_pending (c : Cause) (r : ErrRec) : (s.log c r).pending = s.pending := by simp [State.log]
@[simp] theorem State.log_freeCtr (c : Cause) (r : ErrRec) : (s.log c r).freeCtr = s.freeCtr + 1 := by simp [State.log]
@[simp] theorem State.trace1_regs (n : Nat) (p : List Byte) : (s.trace1 n p).regs = s.regs := by simp only [State.trace1]; split <;> rfl
@[simp] theorem State.trace1_access (n : Nat) (p : List Byte) : (s.trace1 n p).access = s.access := by simp only [State.trace1]; split <;> rfl
@[simp] theorem State.trace1_reply (n : Nat) (p : List Byte) : (s.trace1 n p).reply = s.reply := by simp only [State.trace1]; split <;> rfl
@[simp] theorem State.trace1_cores (n : Nat) (p : List Byte) : (s.trace1 n p).cores = s.cores := by simp only [State.trace1]; split <;> rfl
@[simp] theorem State.trace1_mesh (n : Nat) (p : List Byte) : (s.trace1 n p).mesh = s.mesh := by simp only [State.trace1]; split <;> rfl
@[simp] theorem State.trace1_hbm (n : Nat) (p : List Byte) : (s.trace1 n p).hbm = s.hbm := by simp only [State.trace1]; split <;> rfl
@[simp] theorem State.trace1_host (n : Nat) (p : List Byte) : (s.trace1 n p).host = s.host := by simp only [State.trace1]; split <;> rfl
@[simp] theorem State.trace1_plans (n : Nat) (p : List Byte) : (s.trace1 n p).plans = s.plans := by simp only [State.trace1]; split <;> rfl
@[simp] theorem State.trace1_rings (n : Nat) (p : List Byte) : (s.trace1 n p).rings = s.rings := by simp only [State.trace1]; split <;> rfl
@[simp] theorem State.trace1_works (n : Nat) (p : List Byte) : (s.trace1 n p).works = s.works := by simp only [State.trace1]; split <;> rfl
@[simp] theorem State.trace1_wsets (n : Nat) (p : List Byte) : (s.trace1 n p).wsets = s.wsets := by simp only [State.trace1]; split <;> rfl
@[simp] theorem State.trace1_turn (n : Nat) (p : List Byte) : (s.trace1 n p).turn = s.turn := by simp only [State.trace1]; split <;> rfl
@[simp] theorem State.trace1_epochs (n : Nat) (p : List Byte) : (s.trace1 n p).epochs = s.epochs := by simp only [State.trace1]; split <;> rfl
@[simp] theorem State.trace1_errs (n : Nat) (p : List Byte) : (s.trace1 n p).errs = s.errs := by simp only [State.trace1]; split <;> rfl
@[simp] theorem State.trace1_nv (n : Nat) (p : List Byte) : (s.trace1 n p).nv = s.nv := by simp only [State.trace1]; split <;> rfl
@[simp] theorem State.trace1_sec (n : Nat) (p : List Byte) : (s.trace1 n p).sec = s.sec := by simp only [State.trace1]; split <;> rfl
@[simp] theorem State.trace1_links (n : Nat) (p : List Byte) : (s.trace1 n p).links = s.links := by simp only [State.trace1]; split <;> rfl
@[simp] theorem State.trace1_power (n : Nat) (p : List Byte) : (s.trace1 n p).power = s.power := by simp only [State.trace1]; split <;> rfl
@[simp] theorem State.trace1_thermal (n : Nat) (p : List Byte) : (s.trace1 n p).thermal = s.thermal := by simp only [State.trace1]; split <;> rfl
@[simp] theorem State.trace1_witness (n : Nat) (p : List Byte) : (s.trace1 n p).witness = s.witness := by simp only [State.trace1]; split <;> rfl
@[simp] theorem State.trace1_pending (n : Nat) (p : List Byte) : (s.trace1 n p).pending = s.pending := by simp only [State.trace1]; split <;> rfl
@[simp] theorem State.trace1_freeCtr (n : Nat) (p : List Byte) : (s.trace1 n p).freeCtr = s.freeCtr := by simp only [State.trace1]; split <;> rfl
@[simp] theorem State.traceItem_regs (n : Nat) (p : List Byte) : (s.traceItem n p).regs = s.regs := by simp only [State.traceItem]; split <;> rfl
@[simp] theorem State.traceItem_access (n : Nat) (p : List Byte) : (s.traceItem n p).access = s.access := by simp only [State.traceItem]; split <;> rfl
@[simp] theorem State.traceItem_reply (n : Nat) (p : List Byte) : (s.traceItem n p).reply = s.reply := by simp only [State.traceItem]; split <;> rfl
@[simp] theorem State.traceItem_cores (n : Nat) (p : List Byte) : (s.traceItem n p).cores = s.cores := by simp only [State.traceItem]; split <;> rfl
@[simp] theorem State.traceItem_mesh (n : Nat) (p : List Byte) : (s.traceItem n p).mesh = s.mesh := by simp only [State.traceItem]; split <;> rfl
@[simp] theorem State.traceItem_hbm (n : Nat) (p : List Byte) : (s.traceItem n p).hbm = s.hbm := by simp only [State.traceItem]; split <;> rfl
@[simp] theorem State.traceItem_host (n : Nat) (p : List Byte) : (s.traceItem n p).host = s.host := by simp only [State.traceItem]; split <;> rfl
@[simp] theorem State.traceItem_plans (n : Nat) (p : List Byte) : (s.traceItem n p).plans = s.plans := by simp only [State.traceItem]; split <;> rfl
@[simp] theorem State.traceItem_rings (n : Nat) (p : List Byte) : (s.traceItem n p).rings = s.rings := by simp only [State.traceItem]; split <;> rfl
@[simp] theorem State.traceItem_works (n : Nat) (p : List Byte) : (s.traceItem n p).works = s.works := by simp only [State.traceItem]; split <;> rfl
@[simp] theorem State.traceItem_wsets (n : Nat) (p : List Byte) : (s.traceItem n p).wsets = s.wsets := by simp only [State.traceItem]; split <;> rfl
@[simp] theorem State.traceItem_turn (n : Nat) (p : List Byte) : (s.traceItem n p).turn = s.turn := by simp only [State.traceItem]; split <;> rfl
@[simp] theorem State.traceItem_epochs (n : Nat) (p : List Byte) : (s.traceItem n p).epochs = s.epochs := by simp only [State.traceItem]; split <;> rfl
@[simp] theorem State.traceItem_errs (n : Nat) (p : List Byte) : (s.traceItem n p).errs = s.errs := by simp only [State.traceItem]; split <;> rfl
@[simp] theorem State.traceItem_nv (n : Nat) (p : List Byte) : (s.traceItem n p).nv = s.nv := by simp only [State.traceItem]; split <;> rfl
@[simp] theorem State.traceItem_sec (n : Nat) (p : List Byte) : (s.traceItem n p).sec = s.sec := by simp only [State.traceItem]; split <;> rfl
@[simp] theorem State.traceItem_links (n : Nat) (p : List Byte) : (s.traceItem n p).links = s.links := by simp only [State.traceItem]; split <;> rfl
@[simp] theorem State.traceItem_power (n : Nat) (p : List Byte) : (s.traceItem n p).power = s.power := by simp only [State.traceItem]; split <;> rfl
@[simp] theorem State.traceItem_thermal (n : Nat) (p : List Byte) : (s.traceItem n p).thermal = s.thermal := by simp only [State.traceItem]; split <;> rfl
@[simp] theorem State.traceItem_witness (n : Nat) (p : List Byte) : (s.traceItem n p).witness = s.witness := by simp only [State.traceItem]; split <;> rfl
@[simp] theorem State.traceItem_pending (n : Nat) (p : List Byte) : (s.traceItem n p).pending = s.pending := by simp only [State.traceItem]; split <;> rfl
@[simp] theorem State.traceItem_freeCtr (n : Nat) (p : List Byte) : (s.traceItem n p).freeCtr = s.freeCtr := by simp only [State.traceItem]; split <;> rfl
@[simp] theorem State.event_regs (a b c d e : Nat) : (s.event a b c d e).regs = s.regs := by simp [State.event]
@[simp] theorem State.event_access (a b c d e : Nat) : (s.event a b c d e).access = s.access := by simp [State.event]
@[simp] theorem State.event_reply (a b c d e : Nat) : (s.event a b c d e).reply = s.reply := by simp [State.event]
@[simp] theorem State.event_cores (a b c d e : Nat) : (s.event a b c d e).cores = s.cores := by simp [State.event]
@[simp] theorem State.event_mesh (a b c d e : Nat) : (s.event a b c d e).mesh = s.mesh := by simp [State.event]
@[simp] theorem State.event_hbm (a b c d e : Nat) : (s.event a b c d e).hbm = s.hbm := by simp [State.event]
@[simp] theorem State.event_host (a b c d e : Nat) : (s.event a b c d e).host = s.host := by simp [State.event]
@[simp] theorem State.event_plans (a b c d e : Nat) : (s.event a b c d e).plans = s.plans := by simp [State.event]
@[simp] theorem State.event_rings (a b c d e : Nat) : (s.event a b c d e).rings = s.rings := by simp [State.event]
@[simp] theorem State.event_works (a b c d e : Nat) : (s.event a b c d e).works = s.works := by simp [State.event]
@[simp] theorem State.event_wsets (a b c d e : Nat) : (s.event a b c d e).wsets = s.wsets := by simp [State.event]
@[simp] theorem State.event_turn (a b c d e : Nat) : (s.event a b c d e).turn = s.turn := by simp [State.event]
@[simp] theorem State.event_epochs (a b c d e : Nat) : (s.event a b c d e).epochs = s.epochs := by simp [State.event]
@[simp] theorem State.event_errs (a b c d e : Nat) : (s.event a b c d e).errs = s.errs := by simp [State.event]
@[simp] theorem State.event_nv (a b c d e : Nat) : (s.event a b c d e).nv = s.nv := by simp [State.event]
@[simp] theorem State.event_sec (a b c d e : Nat) : (s.event a b c d e).sec = s.sec := by simp [State.event]
@[simp] theorem State.event_links (a b c d e : Nat) : (s.event a b c d e).links = s.links := by simp [State.event]
@[simp] theorem State.event_power (a b c d e : Nat) : (s.event a b c d e).power = s.power := by simp [State.event]
@[simp] theorem State.event_thermal (a b c d e : Nat) : (s.event a b c d e).thermal = s.thermal := by simp [State.event]
@[simp] theorem State.event_witness (a b c d e : Nat) : (s.event a b c d e).witness = s.witness := by simp [State.event]
@[simp] theorem State.event_pending (a b c d e : Nat) : (s.event a b c d e).pending = s.pending := by simp [State.event]
@[simp] theorem State.event_freeCtr (a b c d e : Nat) : (s.event a b c d e).freeCtr = s.freeCtr + 1 := by simp [State.event]

end

end Sys2Proof.Machine
end

