-- ==== Sys2Proof/Laws/Regs.lean ====
section
/-! SUPPORT. Register fields: a field reads as the value last set in it, and setting it leaves other fields alone. -/

namespace Sys2Proof.Machine

/-- A number cut at a field: what lies above it, the field, and what lies below. -/
theorem split_field (v l w : Nat) : v = v / 2 ^ (l + w) * 2 ^ (l + w) + bitField v l w * 2 ^ l + v % 2 ^ l := by
  have h1 : v / 2 ^ l / 2 ^ w = v / 2 ^ (l + w) := by rw [Nat.div_div_eq_div_mul, ← Nat.pow_add]
  have h2 := Nat.div_add_mod v (2 ^ l)
  have h3 := Nat.div_add_mod (v / 2 ^ l) (2 ^ w)
  rw [h1] at h3
  have h4 : bitField v l w = v / 2 ^ l % 2 ^ w := rfl
  rw [h4]
  have h5 : v / 2 ^ (l + w) * 2 ^ (l + w) = 2 ^ l * (2 ^ w * (v / 2 ^ (l + w))) := by rw [Nat.pow_add]; ring
  calc v = 2 ^ l * (v / 2 ^ l) + v % 2 ^ l := h2.symm
    _ = 2 ^ l * (2 ^ w * (v / 2 ^ (l + w)) + v / 2 ^ l % 2 ^ w) + v % 2 ^ l := by rw [h3]
    _ = v / 2 ^ (l + w) * 2 ^ (l + w) + v / 2 ^ l % 2 ^ w * 2 ^ l + v % 2 ^ l := by rw [h5]; ring

theorem bitField_lt (v l w : Nat) : bitField v l w < 2 ^ w := Nat.mod_lt _ (Nat.two_pow_pos w)

/-- The number that `putField` makes. -/
theorem putField_toNat (v : BitVec 32) {l w : Nat} (h : l + w ≤ 32) (x : Nat) :
    (putField v l w x).toNat = v.toNat / 2 ^ (l + w) * 2 ^ (l + w) + x % 2 ^ w * 2 ^ l + v.toNat % 2 ^ l := by
  have hs := split_field v.toNat l w
  have e : v.toNat - bitField v.toNat l w * 2 ^ l + x % 2 ^ w * 2 ^ l
      = v.toNat / 2 ^ (l + w) * 2 ^ (l + w) + x % 2 ^ w * 2 ^ l + v.toNat % 2 ^ l := by omega
  have hx : x % 2 ^ w < 2 ^ w := Nat.mod_lt _ (Nat.two_pow_pos w)
  have hv : v.toNat < 2 ^ 32 := v.isLt
  have hlow : v.toNat % 2 ^ l < 2 ^ l := Nat.mod_lt _ (Nat.two_pow_pos l)
  have hmid : x % 2 ^ w * 2 ^ l + v.toNat % 2 ^ l < 2 ^ (l + w) := by
    have : x % 2 ^ w * 2 ^ l + 2 ^ l ≤ 2 ^ w * 2 ^ l := by
      have := Nat.mul_le_mul_right (2 ^ l) (Nat.succ_le_of_lt hx)
      rwa [Nat.succ_mul] at this
    have e2 : 2 ^ (l + w) = 2 ^ w * 2 ^ l := by rw [Nat.pow_add]; ring
    omega
  have hhi : v.toNat / 2 ^ (l + w) * 2 ^ (l + w) + 2 ^ (l + w) ≤ 2 ^ 32 := by
    obtain ⟨d, hd⟩ := Nat.exists_eq_add_of_le h
    have hq : v.toNat / 2 ^ (l + w) < 2 ^ d := by
      rw [Nat.div_lt_iff_lt_mul (Nat.two_pow_pos _), ← Nat.pow_add, Nat.add_comm d, ← hd]; exact hv
    have := Nat.mul_le_mul_right (2 ^ (l + w)) (Nat.succ_le_of_lt hq)
    rw [Nat.succ_mul, ← Nat.pow_add, Nat.add_comm d, ← hd] at this
    exact this
  rw [putField, BitVec.toNat_ofNat, e, Nat.mod_eq_of_lt (by omega)]

/-- A field reads as what was put into it. -/
theorem bitField_putField (v : BitVec 32) {l w : Nat} (h : l + w ≤ 32) (x : Nat) :
    bitField (putField v l w x).toNat l w = x % 2 ^ w := by
  rw [putField_toNat v h, bitField]
  have hlow : v.toNat % 2 ^ l < 2 ^ l := Nat.mod_lt _ (Nat.two_pow_pos l)
  have e : v.toNat / 2 ^ (l + w) * 2 ^ (l + w) + x % 2 ^ w * 2 ^ l + v.toNat % 2 ^ l
      = v.toNat % 2 ^ l + 2 ^ l * (x % 2 ^ w + 2 ^ w * (v.toNat / 2 ^ (l + w))) := by rw [Nat.pow_add]; ring
  rw [e, Nat.add_mul_div_left _ _ (Nat.two_pow_pos l), Nat.div_eq_of_lt hlow, Nat.zero_add, Nat.add_mul_mod_self_left,
    Nat.mod_mod]

/-- Fields above or below keep their value. -/
theorem bitField_putField_other (v : BitVec 32) {l w l' w' : Nat} (h : l + w ≤ 32) (x : Nat)
    (hd : l' + w' ≤ l ∨ l + w ≤ l') : bitField (putField v l w x).toNat l' w' = bitField v.toNat l' w' := by
  rw [putField_toNat v h]
  conv_rhs => rw [split_field v.toNat l w]
  have key : ∀ y, y < 2 ^ w → bitField (v.toNat / 2 ^ (l + w) * 2 ^ (l + w) + y * 2 ^ l + v.toNat % 2 ^ l) l' w'
      = if l' + w' ≤ l then bitField (v.toNat % 2 ^ l) l' w' else bitField (v.toNat / 2 ^ (l + w)) (l' - (l + w)) w' := by
    intro y hy
    have hlow : v.toNat % 2 ^ l < 2 ^ l := Nat.mod_lt _ (Nat.two_pow_pos l)
    split
    · next hb =>
      obtain ⟨d, hd'⟩ := Nat.exists_eq_add_of_le hb
      have e : v.toNat / 2 ^ (l + w) * 2 ^ (l + w) + y * 2 ^ l + v.toNat % 2 ^ l
          = v.toNat % 2 ^ l + 2 ^ l' * (2 ^ w' * (2 ^ d * (y + 2 ^ w * (v.toNat / 2 ^ (l + w))))) := by
        have : 2 ^ l = 2 ^ l' * (2 ^ w' * 2 ^ d) := by rw [← Nat.pow_add, ← Nat.pow_add, hd', Nat.add_assoc]
        rw [Nat.pow_add]
        calc _ = v.toNat % 2 ^ l + 2 ^ l * (y + 2 ^ w * (v.toNat / (2 ^ l * 2 ^ w))) := by ring
          _ = _ := by conv_lhs => rw [show (2 : Nat) ^ l * (y + 2 ^ w * (v.toNat / (2 ^ l * 2 ^ w)))
                        = (2 ^ l' * (2 ^ w' * 2 ^ d)) * (y + 2 ^ w * (v.toNat / (2 ^ l * 2 ^ w))) from by rw [← this]]
                      ring
      rw [e, bitField, Nat.add_mul_div_left _ _ (Nat.two_pow_pos l'), Nat.add_mul_mod_self_left, bitField]
    · next hb =>
      have hb' : l + w ≤ l' := by omega
      obtain ⟨d, hd'⟩ := Nat.exists_eq_add_of_le hb'
      have hmid : y * 2 ^ l + v.toNat % 2 ^ l < 2 ^ (l + w) := by
        have : y * 2 ^ l + 2 ^ l ≤ 2 ^ w * 2 ^ l := by
          have := Nat.mul_le_mul_right (2 ^ l) (Nat.succ_le_of_lt hy)
          rwa [Nat.succ_mul] at this
        have e2 : 2 ^ (l + w) = 2 ^ w * 2 ^ l := by rw [Nat.pow_add]; ring
        omega
      have e : (v.toNat / 2 ^ (l + w) * 2 ^ (l + w) + y * 2 ^ l + v.toNat % 2 ^ l) / 2 ^ l'
          = v.toNat / 2 ^ (l + w) / 2 ^ d := by
        rw [hd', Nat.pow_add 2 (l + w) d, ← Nat.div_div_eq_div_mul, Nat.add_assoc, Nat.add_comm,
          Nat.add_mul_div_right _ _ (Nat.two_pow_pos _), Nat.div_eq_of_lt hmid, Nat.zero_add]
      rw [bitField, e, bitField, hd', Nat.add_sub_cancel_left]
  rw [key _ (Nat.mod_lt _ (Nat.two_pow_pos w)), key _ (bitField_lt _ _ _)]

/-- A field fits in its register. -/
abbrev RegField.fits (f : RegField) : Prop := f.lsb + f.width ≤ 32

/-- Fields of different registers, or of different bits of one. -/
abbrev RegField.apart (f g : RegField) : Prop := g.off ≠ f.off ∨ g.lsb + g.width ≤ f.lsb ∨ f.lsb + f.width ≤ g.lsb

/-- A register reads as what was last written to it; the others keep their value. -/
theorem State.reg_setReg (s : State) (k : Nat) (v : BitVec 32) (j : Nat) :
    (s.setReg k v).reg j = if j = k then v else s.reg j := SMap.get_set 0 s.regs k v j

theorem State.fld_setFld (s : State) {f : RegField} (hf : f.fits) (x : Nat) : (s.setFld f x).fld f = x % 2 ^ f.width := by
  rw [State.fld, State.setFld, State.reg_setReg]
  simp only [if_true]
  exact bitField_putField _ hf x

theorem State.fld_setFld_other (s : State) {f g : RegField} (hf : f.fits) (x : Nat) (hd : f.apart g) :
    (s.setFld f x).fld g = s.fld g := by
  rw [State.fld, State.setFld, State.reg_setReg]
  by_cases ho : g.off = f.off
  · rw [if_pos ho, bitField_putField_other _ hf x (by rcases hd with h1 | h1; exact absurd ho h1; exact h1), State.fld, ho]
  · rw [if_neg ho, State.fld]

theorem State.flag_setFlag (s : State) {f : RegField} (hf : f.fits) (hw : f.width = 1) (b : Bool) :
    (s.setFlag f b).flag f = b := by
  rw [State.flag, State.setFlag, State.fld_setFld s hf, hw]
  cases b <;> rfl

theorem State.flag_setFlag_other (s : State) {f g : RegField} (hf : f.fits) (b : Bool) (hd : f.apart g) :
    (s.setFlag f b).flag g = s.flag g := by
  rw [State.flag, State.setFlag, State.fld_setFld_other s hf _ hd, State.flag]

theorem State.fld_setFlag_other (s : State) {f g : RegField} (hf : f.fits) (b : Bool) (hd : f.apart g) :
    (s.setFlag f b).fld g = s.fld g := State.fld_setFld_other s hf _ hd

theorem State.flag_setFld_other (s : State) {f g : RegField} (hf : f.fits) (x : Nat) (hd : f.apart g) :
    (s.setFld f x).flag g = s.flag g := by rw [State.flag, State.fld_setFld_other s hf x hd, State.flag]

theorem State.fld_bump (s : State) {f : RegField} (hf : f.fits) (n : Nat) :
    (s.bump f n).fld f = (s.fld f + n) % 2 ^ f.width := State.fld_setFld s hf _

theorem State.fld_bump_other (s : State) {f g : RegField} (hf : f.fits) (n : Nat) (hd : f.apart g) :
    (s.bump f n).fld g = s.fld g := State.fld_setFld_other s hf _ hd

theorem State.flag_bump_other (s : State) {f g : RegField} (hf : f.fits) (n : Nat) (hd : f.apart g) :
    (s.bump f n).flag g = s.flag g := State.flag_setFld_other s hf _ hd

/-- States with the same registers read alike. -/
theorem State.fld_congr {s t : State} (h : s.regs = t.regs) (f : RegField) : s.fld f = t.fld f := by
  simp only [State.fld, State.reg, h]

theorem State.flag_congr {s t : State} (h : s.regs = t.regs) (f : RegField) : s.flag f = t.flag f := by
  simp only [State.flag, State.fld_congr h]

/-- A record in the error queue touches two counters of the error block only. -/
theorem State.fld_enqueue (s : State) (r : ErrRec) {g : RegField} (h1 : errCeDrop.apart g) (h2 : errNvOverflow.apart g) :
    (s.enqueue r).fld g = s.fld g := by
  simp only [State.enqueue]
  (repeat' split) <;> first | rfl | exact State.fld_bump_other _ (by decide) _ h1 | exact State.fld_bump_other _ (by decide) _ h2

theorem State.fld_log (s : State) (c : Cause) (r : ErrRec) {g : RegField} (h1 : errCeDrop.apart g) (h2 : errNvOverflow.apart g) :
    (s.log c r).fld g = s.fld g := State.fld_enqueue s.tickFree _ h1 h2

theorem State.flag_log (s : State) (c : Cause) (r : ErrRec) {g : RegField} (h1 : errCeDrop.apart g) (h2 : errNvOverflow.apart g) :
    (s.log c r).flag g = s.flag g := by rw [State.flag, State.fld_log s c r h1 h2, State.flag]

end Sys2Proof.Machine
end

