-- ==== Sys2Proof/Laws/Frames.lean ====
section
/-! SUPPORT. What the operations over records, NV stores and bring-up leave alone. -/

namespace Sys2Proof.Machine

/-! ### Registers, records and NV stores -/

theorem State.sameBody.refl (s : State) : s.sameBody s :=
  ⟨rfl, rfl, rfl, rfl, rfl, rfl, rfl, rfl, rfl, rfl, rfl, rfl, rfl, rfl, rfl, rfl, rfl⟩

theorem State.sameBody.trans {a b c : State} (h : c.sameBody b) (g : b.sameBody a) : c.sameBody a := by
  cases h; cases g; constructor <;> simp_all

theorem State.sameBody_foldl {β : Type} (f : State → β → State) (h : ∀ s b, (f s b).sameBody s) :
    ∀ (l : List β) (s : State), (l.foldl f s).sameBody s
  | [], s => .refl s
  | b :: l, s => (State.sameBody_foldl f h l (f s b)).trans (h s b)

theorem State.sameBody_setFld (s : State) (f : RegField) (x : Nat) : (s.setFld f x).sameBody s :=
  ⟨rfl, rfl, rfl, rfl, rfl, rfl, rfl, rfl, rfl, rfl, rfl, rfl, rfl, rfl, rfl, rfl, rfl⟩

theorem State.sameBody_setFlag (s : State) (f : RegField) (x : Bool) : (s.setFlag f x).sameBody s :=
  ⟨rfl, rfl, rfl, rfl, rfl, rfl, rfl, rfl, rfl, rfl, rfl, rfl, rfl, rfl, rfl, rfl, rfl⟩

theorem State.sameBody_bump (s : State) (f : RegField) (x : Nat) : (s.bump f x).sameBody s :=
  ⟨rfl, rfl, rfl, rfl, rfl, rfl, rfl, rfl, rfl, rfl, rfl, rfl, rfl, rfl, rfl, rfl, rfl⟩

theorem State.sameBody_setPair (s : State) (f g : RegField) (x : Nat) : (s.setPair f g x).sameBody s :=
  ⟨rfl, rfl, rfl, rfl, rfl, rfl, rfl, rfl, rfl, rfl, rfl, rfl, rfl, rfl, rfl, rfl, rfl⟩

theorem State.sameBody_enqueue (s : State) (r : ErrRec) : (s.enqueue r).sameBody s := by constructor <;> simp

theorem State.sameBody_log (s : State) (c : Cause) (r : ErrRec) : (s.log c r).sameBody s := by constructor <;> simp

theorem State.sameBody_nv (s : State) (x : Nv) : ({ s with nv := x } : State).sameBody s :=
  ⟨rfl, rfl, rfl, rfl, rfl, rfl, rfl, rfl, rfl, rfl, rfl, rfl, rfl, rfl, rfl, rfl, rfl⟩

theorem State.sameBody_compact (s : State) : s.compact.sameBody s := by
  unfold State.compact; dsimp only; split
  · exact (State.sameBody_bump _ _ _).trans (State.sameBody_nv _ _)
  · exact .refl s

theorem State.sameBody_appendLog (s : State) (t : Nat) (v : List Byte) : (s.appendLog t v).sameBody s :=
  (State.sameBody_compact _).trans (State.sameBody_nv _ _)

theorem State.sameBody_nvPump (s : State) : s.nvPump.sameBody s := by
  unfold State.nvPump; split
  · exact .refl s
  · split
    · exact .refl s
    · dsimp only; split
      · split
        · exact .refl s
        · exact (State.sameBody_bump _ _ _).trans ((State.sameBody_log _ _ _).trans (State.sameBody_nv _ _))
      · exact State.sameBody_nv _ _

theorem State.sameBody_nvNote (s : State) (t : Nat) (v : List Byte) : (s.nvNote t v).sameBody s :=
  (State.sameBody_nvPump _).trans (State.sameBody_nv _ _)

theorem State.sameBody_repair (s : State) (a b c d : Nat) : (s.repair a b c d).sameBody s := State.sameBody_nvNote _ _ _

theorem State.sameBody_showBank (s : State) : s.showBank.sameBody s :=
  (State.sameBody_setFlag _ _ _).trans ((State.sameBody_setFld _ _ _).trans (State.sameBody_setFld _ _ _))

theorem State.sameBody_measureBank (s : State) (a b c : Nat) : (s.measureBank a b c).sameBody s := by
  unfold State.measureBank
  generalize min 65535 (if a = 0 then 65535 else 4000000 / a) = cap
  generalize min 65535 (5 * b) = esr
  have h : ∀ (x : Nat) (y : List Byte), ((((s.setFld nviHuCap cap).setFld nviHuEsr esr).setFld nviHuVolt c).showBank.nvNote x y).sameBody s :=
    fun x y => (State.sameBody_nvNote _ _ _).trans ((State.sameBody_showBank _).trans ((State.sameBody_setFld _ _ _).trans
      ((State.sameBody_setFld _ _ _).trans (State.sameBody_setFld _ _ _))))
  dsimp only
  split
  · exact (State.sameBody_log _ _ _).trans (h _ _)
  · exact h _ _

end Sys2Proof.Machine
end

