-- ==== Sys2Proof/Laws/Sequencer.lean ====
section
/-! SUPPORT. What giving a word to a quiet core does (02 R44, R45): it dispatches at once and begins in its unit. -/

namespace Sys2Proof.Machine

/-! ### Cores of the state -/

theorem SMap.without_put_self {α : Type} (k : Nat) (v : α) :
    ∀ m : SMap α, SMap.without k (SMap.put m k v) = SMap.without k m
  | [] => by simp [SMap.put, SMap.without]
  | (j, u) :: rest => by
    simp only [SMap.put]
    split
    · simp [SMap.without]
    · simp only [SMap.without]; rw [SMap.without_put_self k v rest]

theorem SMap.without_idem {α : Type} (k : Nat) : ∀ m : SMap α, SMap.without k (SMap.without k m) = SMap.without k m
  | [] => rfl
  | (j, u) :: rest => by
    by_cases h : k = j
    · simp only [SMap.without, if_pos h]; exact SMap.without_idem k rest
    · simp only [SMap.without, if_neg h]; rw [SMap.without_idem k rest]

/-- The second of two writes at one key is the one that counts. -/
theorem SMap.set_set {α : Type} [DecidableEq α] (d : α) (m : SMap α) (k : Nat) (u v : α) :
    SMap.set d (SMap.set d m k u) k v = SMap.set d m k v := by
  have h : SMap.without k (SMap.set d m k u) = SMap.without k m := by
    simp only [SMap.set]
    split
    · exact SMap.without_idem k m
    · rw [SMap.without_put_self, SMap.without_idem]
  unfold SMap.set at h ⊢
  rw [h]

theorem State.core_setCore (s : State) (c : Nat) (x : Core) (j : Nat) :
    (s.setCore c x).core j = if j = c then x else s.core j := SMap.get_set _ s.cores c x j

@[simp] theorem State.core_setCore_self (s : State) (c : Nat) (x : Core) : (s.setCore c x).core c = x := by
  rw [State.core_setCore, if_pos rfl]

@[simp] theorem State.setCore_setCore (s : State) (c : Nat) (x y : Core) : (s.setCore c x).setCore c y = s.setCore c y := by
  simp only [State.setCore, SMap.set_set]

theorem State.updCore_setCore (s : State) (c : Nat) (x : Core) (f : Core → Core) :
    (s.setCore c x).updCore c f = s.setCore c (f x) := by simp [State.updCore]

/-! ### Units of a core -/

theorem Core.unit_setUnit (k : Core) (u : UnitId) (x : UnitState) (v : UnitId) :
    (k.setUnit u x).unit v = if v = u then x else k.unit v := SMap.get_set _ k.units u x v

theorem Core.unit_updUnit (k : Core) (u : UnitId) (f : UnitState → UnitState) (v : UnitId) :
    (k.updUnit u f).unit v = if v = u then f (k.unit u) else k.unit v := Core.unit_setUnit k u _ v

/-- Updating units changes nothing else of the core. -/
theorem Core.foldl_updUnit (f : UnitState → UnitState) : ∀ (us : List UnitId) (k : Core),
    ∃ m, us.foldl (fun k' u => k'.updUnit u f) k = { k with units := m }
  | [], k => ⟨k.units, rfl⟩
  | u :: us, k => by
    obtain ⟨m, hm⟩ := Core.foldl_updUnit f us (k.updUnit u f)
    exact ⟨m, hm⟩

theorem Core.unit_foldl_updUnit (f : UnitState → UnitState) : ∀ (us : List UnitId) (k : Core) (v : UnitId), us.Nodup →
    (us.foldl (fun k' u => k'.updUnit u f) k).unit v = if v ∈ us then f (k.unit v) else k.unit v
  | [], k, v, _ => by simp
  | u :: us, k, v, h => by
    rw [List.nodup_cons] at h
    rw [List.foldl_cons, Core.unit_foldl_updUnit f us _ v h.2, Core.unit_updUnit]
    by_cases hv : v = u
    · subst hv; simp [h.1]
    · simp [hv]

theorem exists_max (l : List Nat) (hne : l ≠ []) : ∃ m ∈ l, ∀ x ∈ l, x ≤ m := by
  induction l with
  | nil => exact absurd rfl hne
  | cons a l ih =>
    by_cases hl : l = []
    · subst hl; exact ⟨a, by simp, by simp⟩
    · obtain ⟨m, hm, hb⟩ := ih hl
      by_cases h : m ≤ a
      · exact ⟨a, by simp, fun x hx => by
          rcases List.mem_cons.mp hx with h1 | h1
          · omega
          · have := hb x h1; omega⟩
      · exact ⟨m, by simp [hm], fun x hx => by
          rcases List.mem_cons.mp hx with h1 | h1
          · omega
          · exact hb x h1⟩

/-- A quiet unit's queue always takes a word, at once or once old words have left it. -/
theorem Core.roomFrom_calm {k : Core} (h : k.calm) (u t : Nat) : ∃ t', k.roomFrom u t = some t' := by
  have hb : (if k.passOpen u = true then 1 else 0) ≤ 1 := by split <;> omega
  simp only [Core.roomFrom, h.waiting, h.blocked, List.length_nil, Option.isSome_none, Bool.false_eq_true, if_false, Nat.add_zero,
    Nat.zero_add]
  generalize (if k.passOpen u = true then 1 else 0) = n at hb ⊢
  rw [if_neg (by omega)]
  split
  · exact ⟨t, rfl⟩
  · next hf =>
    split
    · next he =>
      exfalso
      simp only [decide_eq_true_eq, not_le] at hf
      have hne : (k.unit u).ends.filter (fun e => decide (t < e)) ≠ [] := by
        intro h0; rw [h0] at hf; simp at hf; omega
      obtain ⟨m, hm, hb⟩ := exists_max _ hne
      have hm' := List.mem_filter.mp hm
      have hmt : t < m := by simpa using hm'.2
      have : m ∈ (k.unit u).ends.filter (fun e => decide (t ≤ e)
          && decide (((k.unit u).ends.filter (fun e' => decide (e < e'))).length + n ≤ 3)) := by
        refine List.mem_filter.mpr ⟨hm'.1, ?_⟩
        have h0 : (k.unit u).ends.filter (fun e' => decide (m < e')) = [] := by
          rw [List.filter_eq_nil_iff]
          intro x hx
          simp only [decide_eq_true_eq, not_lt]
          by_cases htx : t < x
          · exact hb x (List.mem_filter.mpr ⟨hx, by simpa using htx⟩)
          · omega
        simp [h0]; omega
      rw [he] at this
      simp at this
    · next e es _ => exact ⟨_, rfl⟩

theorem State.dispatchAt_calm {s : State} {c : Nat} (h : (s.core c).calm) (t : Nat) (w : OpWord)
    (hb : ∀ x, w ≠ .barLocal x) : ∃ t', s.dispatchAt c t w = some t' := by
  have go : ∀ (us : List UnitId) (t : Nat), ∃ t', us.foldl (fun o u =>
      match o with
      | none => none
      | some q => (s.core c).roomFrom u q) (some t) = some t' := by
    intro us
    induction us with
    | nil => exact fun t => ⟨t, rfl⟩
    | cons u us ih =>
      intro t
      obtain ⟨t1, h1⟩ := Core.roomFrom_calm h u t
      obtain ⟨t2, h2⟩ := ih t1
      exact ⟨t2, by rw [List.foldl_cons]; simp only [h1]; exact h2⟩
  unfold State.dispatchAt
  split
  · exact absurd rfl (hb _)
  · exact go _ _

/-- A word that is neither LOOP, ENDLOOP nor BAR_LOCAL has a dispatch cycle on a calm core. -/
theorem State.dispatchCycle_calm {s : State} {c : Nat} (h : (s.core c).calm) (w : OpWord) (hb : ∀ x, w ≠ .barLocal x)
    (hl : isLoopWord w = false) : ∃ t, s.dispatchCycle c w = some t := by
  obtain ⟨t1, h1⟩ := State.dispatchAt_calm h ((s.core c).seq.cycle + opDelay w) w hb
  obtain ⟨t, h2⟩ := State.dispatchAt_calm h
    (if (s.core c).seq.clash t1 (unitsOf w) = true then t1 + 1 else t1) w hb
  exact ⟨t, by unfold State.dispatchCycle; simp only [hl, Bool.false_eq_true, if_false, h1, h2]⟩

/-! ### Dispatch -/

theorem unitArrays_nodup (u : Nat) : (unitArrays u).Nodup ∧ ∀ v ∈ unitArrays u, v < 22 := by
  unfold unitArrays; split <;> simp

theorem unitStream_nodup (u : BitVec 4) : [unitStream u.toNat].Nodup ∧ ∀ v ∈ [unitStream u.toNat], v < 22 := by
  refine ⟨by simp, fun v hv => ?_⟩
  have := u.isLt
  rw [List.mem_singleton.mp hv]
  show 6 + u.toNat < 22
  omega

theorem gradUnits_nodup (x : GradWord) : (unitsOf (.gradPair x)).Nodup ∧ ∀ v ∈ unitsOf (.gradPair x), v < 22 := by
  simp only [unitsOf]
  split <;> split <;> simp

theorem units_small : ∀ l ∈ [[], [0, 1], [2], [2, 5], [3], [4], [5]], (l : List UnitId).Nodup ∧ ∀ v ∈ l, v < 22 := by decide

theorem unitsOf_nodup (w : OpWord) : (unitsOf w).Nodup ∧ ∀ v ∈ unitsOf w, v < 22 := by
  cases w
  all_goals first
    | exact unitArrays_nodup _
    | exact unitStream_nodup _
    | exact gradUnits_nodup _
    | exact units_small [] (by decide)
    | exact units_small [0, 1] (by decide)
    | exact units_small [2] (by decide)
    | exact units_small [2, 5] (by decide)
    | exact units_small [3] (by decide)
    | exact units_small [4] (by decide)
    | exact units_small [5] (by decide)

/-- The core `k` once its word has dispatched in cycle `t`. -/
structure Core.gave (k : Core) (w : OpWord) (t : Nat) (k1 : Core) : Prop where
  rest : ∃ n l, k1 = { k with seq := { k.seq with cycle := t, slots := n, units := l, pos := k.seq.pos + 1 }, units := k1.units }
  unit : ∀ v, k1.unit v = if v ∈ unitsOf w then
    { k.unit v with
      waiting := (k.unit v).waiting ++ [⟨w, k.seq.counters, t⟩]
      ends := (k.unit v).ends.filter (fun e => decide (t < e)) } else k.unit v
  none : unitsOf w = [] → k1.units = k.units

/-- A word that is neither LOOP, ENDLOOP nor BAR_LOCAL dispatches at once on a calm core. -/
theorem State.dispatch_calm {s : State} {c : Nat} (h : (s.core c).calm) (w : OpWord) (hb : ∀ x, w ≠ .barLocal x)
    (hl : isLoopWord w = false) :
    ∃ t k1, (s.core c).gave w t k1 ∧ s.dispatch c w = some ((s.setCore c k1).runSeq c t w) := by
  obtain ⟨t, h2⟩ := State.dispatchCycle_calm h w hb hl
  let f : UnitState → UnitState := fun x => { x with
    waiting := x.waiting ++ [⟨w, (s.core c).seq.counters, t⟩]
    ends := x.ends.filter (fun e => decide (t < e)) }
  let n := (if decide (t ≠ (s.core c).seq.cycle) = true then 0 else (s.core c).seq.slots) + 1
  let l := (if decide (t ≠ (s.core c).seq.cycle) = true then [] else (s.core c).seq.units) ++ unitsOf w
  let q1 : Sequencer := { (s.core c).seq with cycle := t, slots := n, units := l, pos := (s.core c).seq.pos + 1 }
  let k1 := (unitsOf w).foldl (fun k' u => k'.updUnit u f) { (s.core c) with seq := q1 }
  obtain ⟨m, hm⟩ := Core.foldl_updUnit f (unitsOf w) { (s.core c) with seq := q1 }
  refine ⟨t, k1, ⟨⟨n, l, ?_⟩, fun v => ?_, fun hu => ?_⟩, ?_⟩
  · show k1 = _
    simp only [k1, hm, q1]
  · exact Core.unit_foldl_updUnit f (unitsOf w) _ v (unitsOf_nodup w).1
  · simp only [k1, hu, List.foldl_nil]
  · unfold State.dispatch
    simp only [hl, Bool.false_eq_true, if_false, h2]
    rfl

/-! ### The beginning of a word -/

/-- A fold whose steps change only the credit edges changes only them. -/
theorem Core.foldl_edges {β : Type} (g : Core → β → Core) (h : ∀ k b, ∃ x, g k b = { k with edges := x }) :
    ∀ (l : List β) (k : Core), ∃ x, l.foldl g k = { k with edges := x }
  | [], k => ⟨k.edges, rfl⟩
  | b :: l, k => by
    obtain ⟨x, hx⟩ := h k b
    obtain ⟨y, hy⟩ := Core.foldl_edges g h l (g k b)
    exact ⟨y, by rw [List.foldl_cons, hy, hx]⟩

theorem Core.consumeBy_edges (k : Core) (u : UnitId) (rs : List Reads) : ∃ x, k.consumeBy u rs = { k with edges := x } := by
  unfold Core.consumeBy
  refine Core.foldl_edges _ (fun k' p => ?_) _ k
  dsimp only
  split
  · refine Core.foldl_edges _ (fun k'' ch => ?_) _ k'
    exact ⟨_, rfl⟩
  · exact ⟨k'.edges, rfl⟩

/-- Consuming the chunks that a word has read changes only the credit edges. -/
theorem Core.consume_edges (k : Core) (us : List UnitId) (rs : List Reads) : ∃ x, k.consumeAll us rs = { k with edges := x } :=
  Core.foldl_edges (fun q' v => q'.consumeBy v rs) (fun q v => Core.consumeBy_edges q v _) us k

/-- What booking a word does to the units. -/
theorem Core.closeOp_units (k : Core) (u : UnitId) : ∃ m, k.closeOp u = { k with units := m } ∧
    ∀ v, ((k.closeOp u).unit v).waiting = (k.unit v).waiting ∧ ((k.closeOp u).unit v).blocked = (k.unit v).blocked
      ∧ ((k.closeOp u).unit v).stall = (k.unit v).stall := by
  unfold Core.closeOp
  dsimp only
  split
  · refine ⟨_, rfl, fun v => ?_⟩
    rw [Core.unit_setUnit]
    split
    · next h => subst h; exact ⟨rfl, rfl, rfl⟩
    · exact ⟨rfl, rfl, rfl⟩
  · exact ⟨k.units, rfl, fun v => ⟨rfl, rfl, rfl⟩⟩

/-- Booking a word on its units takes it from their queues and leaves the other units alone. -/
theorem Core.book_units (tb : Nat) (b : Begun) : ∀ (us : List UnitId) (k : Core), us.Nodup →
    ∃ m, k.book us tb b = { k with units := m } ∧ ∀ v,
      ((k.book us tb b).unit v).waiting = (if v ∈ us then (k.unit v).waiting.drop 1 else (k.unit v).waiting)
      ∧ ((k.book us tb b).unit v).blocked = (if v ∈ us then b.blocked else (k.unit v).blocked)
      ∧ ((k.book us tb b).unit v).stall = (if v ∈ us then 0 else (k.unit v).stall)
  | [], k, _ => ⟨k.units, rfl, fun v => by simp [Core.book]⟩
  | u :: us, k, h => by
    rw [List.nodup_cons] at h
    let occ := if b.short = some u then 1 else b.occ
    let last := if b.short = some u then 0 else b.last
    let f : UnitState → UnitState := fun x => { x with
      ends := if b.keeps || b.blocked.isSome then x.ends else x.ends ++ [tb + occ]
      waiting := x.waiting.drop 1
      blocked := b.blocked
      stall := 0
      freeAt := tb + occ
      idleAt := max x.idleAt (tb + last) }
    obtain ⟨m1, hm1, hv1⟩ := Core.closeOp_units (k.updUnit u f) u
    obtain ⟨m2, hm2, hv2⟩ := Core.book_units tb b us ((k.updUnit u f).closeOp u) h.2
    refine ⟨m2, ?_, fun v => ?_⟩
    · show ((k.updUnit u f).closeOp u).book us tb b = _
      rw [hm2, hm1]; rfl
    · have e : (k.book (u :: us) tb b) = ((k.updUnit u f).closeOp u).book us tb b := rfl
      have a := hv2 v
      have a1 := hv1 v
      rw [e, a.1, a.2.1, a.2.2, a1.1, a1.2.1, a1.2.2, Core.unit_updUnit]
      by_cases hvu : v = u
      · subst hvu; simp [h.1, f]
      · simp [hvu]

theorem State.tryBegin_idle {s : State} {c u : Nat} (now : Nat) (hw : ((s.core c).unit u).waiting = [])
    (hb : ((s.core c).unit u).blocked = none) : s.tryBegin c u now = none := by
  simp only [State.tryBegin, Core.headAt, hw, hb]

/-- The units of a core in turn, where none has anything to begin. -/
theorem State.units_idle {s : State} {c now : Nat} : ∀ (l : List Nat) (b : Bool), (∀ u ∈ l, s.tryBegin c u now = none) →
    l.foldl (State.unitTurn c now) (s, b) = (s, b)
  | [], _, _ => rfl
  | u :: l, b, h => by
    rw [List.foldl_cons, State.unitTurn]
    simp only [h u (by simp)]
    exact State.units_idle l b (fun v hv => h v (by simp [hv]))

/-- The units of a core in turn, where one begins a word and the others have nothing to begin. -/
theorem State.units_one {s s' : State} {c now u : Nat} (hu : u < 22) (hb : s.tryBegin c u now = some s')
    (h1 : ∀ v, v < u → s.tryBegin c v now = none) (h2 : ∀ v, u < v → s'.tryBegin c v now = none) :
    (List.range 22).foldl (State.unitTurn c now) (s, false) = (s', true) := by
  have e : List.range 22 = List.range u ++ u :: (List.range (21 - u)).map (fun i => u + 1 + i) := by
    have h3 : (22 : Nat) = u + (1 + (21 - u)) := by omega
    conv_lhs => rw [h3, List.range_add, List.range_add]
    simp [Nat.add_assoc]
  rw [e, List.foldl_append, State.units_idle (List.range u) false (fun v hv => h1 v (List.mem_range.mp hv)), List.foldl_cons, State.unitTurn]
  simp only [hb]
  refine State.units_idle _ true (fun v hv => ?_)
  obtain ⟨i, _, rfl⟩ := List.mem_map.mp hv
  exact h2 _ (by omega)

/-- What a word of the core alone reads does not depend on the loop counters. -/
theorem Core.readsOf_onCore {w : OpWord} (hk : onCoreWord w = true) (c : Nat) (k : Core) (lp : List Nat) :
    k.readsOf c w lp = k.readsOf c w := by
  cases w <;> first | rfl | exact absurd (show false = true from hk) Bool.false_ne_true

/-- A word of the core alone begins where nothing that it reads or writes keeps it waiting. -/
theorem State.startWord_onCore {s : State} {c u : Nat} {w : OpWord} {lp : List Nat} {t : Nat} {us : List UnitId} {k k1 : Core}
    (hk : onCoreWord w = true) (hus : us = if jointWord w then unitsOf w else [u]) (hk0 : k = (s.core c).ahead)
    (hr : ∀ v ∈ us, k.readStall v (k.readsOf c w) = none) (hp : Core.pureWord c k u w = .ok k1)
    (hf : k.writeFree u (newRanges k k1) = true) :
    ∃ x o l, s.startWord c u ⟨w, lp, t⟩
      = .go { s := s.setCore c { k.took k1 with edges := x, swaps := (s.core c).swaps }, occ := o, last := l } := by
  have hn : us.findSome? (fun v => k.readStall v (k.readsOf c w)) = none := by
    rw [List.findSome?_eq_none_iff]; exact hr
  obtain ⟨x, hx⟩ := Core.consume_edges (k.took k1) us (k.readsOf c w)
  have go : ∀ (o l : Nat), (match (Start.go { s := (s.setCore c k).setCore c (k.took k1), occ := o, last := l }) with
      | .go b => Start.go { b with s := b.s.updCore c (fun q =>
          { (q.consumeAll us (k.readsOf c w)) with swaps := (s.core c).swaps }) }
      | other => other)
      = .go { s := s.setCore c { k.took k1 with edges := x, swaps := (s.core c).swaps }, occ := o, last := l } := by
    intro o l
    simp only [State.setCore_setCore, State.updCore_setCore, hx]
  refine ⟨x, (Core.timing c k w).1, (Core.timing c k w).2, ?_⟩
  rw [← go]
  unfold State.startWord
  dsimp only
  rw [← hk0, Core.readsOf_onCore hk c k lp, ← hus, hn]
  cases w <;> first
    | exact absurd (show false = true from hk) Bool.false_ne_true
    | simp only [hp, hf, if_true]

/-- A round in which nothing can happen. -/
theorem State.pumpRound_idle {s : State} {c now : Nat} (hn : ∀ u, u < 22 → s.tryBegin c u now = none)
    (hh : (s.core c).seq.held = []) (he : (s.core c).seq.ending = none) : s.pumpRound c now = (s, false) := by
  have h := State.units_idle (s := s) (c := c) (now := now) (List.range 22) false (fun u hu => hn u (List.mem_range.mp hu))
  unfold State.pumpRound
  simp only [h, hh, State.tryEnd, he]

/-- A round in which the one held word dispatches. -/
theorem State.pumpRound_dispatch {s s' : State} {c now : Nat} {w : OpWord} (hc : (s.core c).calm)
    (hh : (s.core c).seq.held = [w]) (hd : s.dispatch c w = some s')
    (he : ((s'.core c)).seq.ending = none) :
    s.pumpRound c now = (s'.updCore c (fun k => { k with seq := { k.seq with held := [] } }), true) := by
  have h := State.units_idle (s := s) (c := c) (now := now) (List.range 22) false
    (fun u _ => State.tryBegin_idle now (hc.waiting u) (hc.blocked u))
  unfold State.pumpRound
  simp only [h, hh, hd, State.tryEnd, State.updCore, State.core_setCore_self, he]

/-- What `atDispatch` is for a word that is neither LOOP, ENDLOOP nor BAR_LOCAL, on a quiet core. -/
theorem State.atDispatch_spec {s : State} {c : Nat} (hq : (s.core c).quiet) (w : OpWord) (hb : ∀ x, w ≠ .barLocal x)
    (hl : isLoopWord w = false) :
    ∃ t k1, (s.core c).gave w t k1 ∧ k1.seq.held = [] ∧
      (s.setCore c { (s.core c) with seq := { (s.core c).seq with held := [w] } }).dispatch c w
        = some ((s.setCore c { k1 with seq := { k1.seq with held := [w] } }).runSeq c t w)
      ∧ ((s.setCore c { k1 with seq := { k1.seq with held := [w] } }).runSeq c t w
          = s.setCore c { k1 with seq := { k1.seq with held := [w] } } → s.atDispatch c w = k1) := by
  have hc : ((s.setCore c { (s.core c) with seq := { (s.core c).seq with held := [w] } }).core c).calm := by
    rw [State.core_setCore_self]
    exact ⟨hq.waiting, hq.blocked, hq.stall⟩
  obtain ⟨t, k1, hg, hd⟩ := State.dispatch_calm hc w hb hl
  rw [State.core_setCore_self] at hg
  obtain ⟨⟨n, l, hr⟩, hu, hnone⟩ := hg
  rw [State.setCore_setCore] at hd
  have hk : ({ ({ k1 with seq := { k1.seq with held := [] } } : Core) with
      seq := { ({ k1 with seq := { k1.seq with held := [] } } : Core).seq with held := [w] } } : Core) = k1 := by
    rw [hr]
  refine ⟨t, { k1 with seq := { k1.seq with held := [] } }, ⟨⟨n, l, ?_⟩, hu, hnone⟩, rfl, ?_, fun hrun => ?_⟩
  · have := hq.held
    rw [hr]; simp only [this]
  · rw [hk]; exact hd
  · rw [hk] at hrun
    unfold State.atDispatch
    rw [hd, hrun]
    simp only [State.core_setCore_self]

theorem Core.work_pos (k : Core) : ∃ n, k.work = n + 3 := ⟨k.work - 3, by unfold Core.work; omega⟩

/-- A maximum over values that a bound does not fall below. -/
theorem foldl_max_le (f : UnitId → Nat) : ∀ (l : List UnitId) (t : Nat), (∀ v ∈ l, f v ≤ t) → l.foldl (fun t v => max t (f v)) t = t
  | [], _, _ => rfl
  | v :: l, t, h => by
    rw [List.foldl_cons, Nat.max_eq_left (h v (by simp))]
    exact foldl_max_le f l t (fun x hx => h x (by simp [hx]))

/-- A word given to a quiet core dispatches, and begins where its unit finds it able to. -/
theorem State.issue_begin {s : State} {c u : Nat} {w : OpWord} {rest : List UnitId} {b : Begun} (hq : (s.core c).quiet)
    (hb : ∀ x, w ≠ .barLocal x) (hl : isLoopWord w = false) (hrun : ∀ (s' : State) c t, s'.runSeq c t w = s')
    (hu : unitsOf w = u :: rest) (hj : jointWord w = true ∨ rest = []) (hlt : ∀ v ∈ rest, u < v)
    (hpr : (s.core c).swapping = false
      ∨ ∀ v ∈ u :: rest, ((s.atDispatch c w).unit v).freeAt ≤ (s.atDispatch c w).seq.cycle)
    (hs : (s.setCore c (s.atDispatch c w)).startWord c u (s.asDispatched c w) = .go b)
    (hseq : (b.s.core c).seq = (s.atDispatch c w).seq) (hun : (b.s.core c).units = (s.atDispatch c w).units)
    (hfence : b.blocked = some .fence → b.s.inFlight c = true) :
    ∃ tb, s.issue c w = b.s.updCore c (fun k => k.book (u :: rest) tb b) := by
  obtain ⟨t, k1, ⟨⟨n, l, hr⟩, hunit, _⟩, hheld, hd, hat⟩ := State.atDispatch_spec hq w hb hl
  have hat := hat (hrun _ _ _)
  rw [hrun] at hd
  have hend : k1.seq.ending = none := by rw [hr]; exact hq.ending
  have hcyc : k1.seq.cycle = t := by rw [hr]
  have hnd : (u :: rest).Nodup := hu ▸ (unitsOf_nodup w).1
  have h22 : ∀ v ∈ u :: rest, v < 22 := hu ▸ (unitsOf_nodup w).2
  have hus : (if jointWord w = true then unitsOf w else [u]) = u :: rest := by
    rcases hj with h | h
    · rw [if_pos h, hu]
    · subst h; split
      · exact hu
      · rfl
  set d : Dispatched := ⟨w, (s.core c).seq.counters, t⟩ with hdd
  have hdisp : s.asDispatched c w = d := by simp only [State.asDispatched, hat, hcyc, hdd]
  rw [hat, hdisp] at hs
  rw [hat] at hseq hun hpr
  have hwait : ∀ v, (k1.unit v).waiting = if v ∈ u :: rest then [d] else [] := by
    intro v
    rw [hunit v, hu]
    split
    · simp [hq.waiting]
    · exact hq.waiting v
  have hblk : ∀ v, (k1.unit v).blocked = none := by
    intro v
    rw [hunit v]
    split
    · exact hq.blocked v
    · exact hq.blocked v
  have hstall : ∀ v, (k1.unit v).stall = 0 := by
    intro v
    rw [hunit v]
    split
    · exact hq.stall v
    · exact hq.stall v
  -- the unit begins the word
  have hbeg : ∃ tb, (s.setCore c k1).tryBegin c u 0 = some (b.s.updCore c (fun k => k.book (u :: rest) tb b)) := by
    refine ⟨(u :: rest).foldl (fun t v => max t (k1.unit v).freeAt) d.cycle, ?_⟩
    have hany : (u :: rest).any (fun v => (k1.unit v).blocked.isSome || decide ((k1.unit v).waiting.head? ≠ some d)) = false := by
      rw [List.any_eq_false]
      intro v hv
      simp [hblk v, hwait v, hv]
    have hwu : (k1.unit u).waiting = [d] := by rw [hwait u]; simp
    have hus' : d.needs u = u :: rest := hus
    have hhead : k1.headAt u = some (d, (u :: rest).foldl (fun t v => max t (k1.unit v).freeAt) d.cycle) := by
      unfold Core.headAt
      simp only [hwu, hus', hany, Bool.false_eq_true, if_false]
    have hdef : (s.setCore c k1).defers c ((u :: rest).foldl (fun t v => max t (k1.unit v).freeAt) d.cycle) = false := by
      unfold State.defers
      simp only [State.core_setCore_self, hend, hheld, Option.isNone_none, Bool.and_true]
      rcases hpr with h | h
      · have : k1.swapping = false := by rw [hr]; exact h
        rw [this]; rfl
      · have : (u :: rest).foldl (fun t v => max t (k1.unit v).freeAt) d.cycle = k1.seq.cycle := by
          rw [hcyc]; rw [hcyc] at h
          exact foldl_max_le _ _ _ h
        rw [this]; simp
    unfold State.tryBegin
    simp only [State.core_setCore_self, hblk u, hhead, hstall u, if_true, hdef, Bool.false_eq_true, if_false, hus', hs, true_or]
  obtain ⟨tb, hbeg⟩ := hbeg
  refine ⟨tb, ?_⟩
  set s3 := b.s.updCore c (fun k => k.book (u :: rest) tb b) with hs3
  obtain ⟨m, hm, hbook⟩ := Core.book_units tb b (u :: rest) (b.s.core c) hnd
  have hc3 : s3.core c = (b.s.core c).book (u :: rest) tb b := by rw [hs3, State.updCore, State.core_setCore_self]
  have hunitb : ∀ v, (b.s.core c).unit v = k1.unit v := fun v => by simp only [Core.unit, hun]
  have hw3 : ∀ v, ((s3.core c).unit v).waiting = [] := by
    intro v
    rw [hc3, (hbook v).1, hunitb, hwait v]
    split <;> simp
  have hmesh : s3.inFlight c = b.s.inFlight c := rfl
  have hidle3 : ∀ v, s3.tryBegin c v 0 = none := by
    intro v
    have hb3 : ((s3.core c).unit v).blocked = if v ∈ u :: rest then b.blocked else none := by
      rw [hc3, (hbook v).2.1, hunitb, hblk v]
    unfold State.tryBegin
    simp only [Core.headAt, hw3 v]
    split
    · next hbv =>
      rw [hb3] at hbv
      split at hbv
      · rw [hmesh, hfence hbv]; rfl
      · exact absurd hbv (by simp)
    · rfl
    · rfl
  have hseq3 : (s3.core c).seq = k1.seq := by rw [hc3, hm]; exact hseq
  -- the three rounds
  have hk0 : ((s.setCore c { (s.core c) with seq := { (s.core c).seq with held := [w] } }).core c).calm := by
    rw [State.core_setCore_self]
    exact ⟨hq.waiting, hq.blocked, hq.stall⟩
  have r1 := State.pumpRound_dispatch (now := 0) hk0 (by rw [State.core_setCore_self]) hd (by rw [State.core_setCore_self]; exact hend)
  rw [State.updCore_setCore] at r1
  have hk1 : ({ ({ k1 with seq := { k1.seq with held := [w] } } : Core) with
      seq := { ({ k1 with seq := { k1.seq with held := [w] } } : Core).seq with held := [] } } : Core) = k1 := by
    conv_rhs => rw [hr]
    rw [hr]; simp only [hq.held]
  rw [hk1] at r1
  have r2 : (s.setCore c k1).pumpRound c 0 = (s3, true) := by
    have h := State.units_one (h22 u (by simp)) hbeg
      (fun v hv => State.tryBegin_idle 0 (by
        rw [State.core_setCore_self, hwait v, if_neg]
        intro hm'
        rcases List.mem_cons.mp hm' with h1 | h1
        · subst h1; exact Nat.lt_irrefl _ hv
        · exact Nat.lt_asymm hv (hlt v h1)) (by rw [State.core_setCore_self]; exact hblk v))
      (fun v _ => hidle3 v)
    unfold State.pumpRound
    simp only [h, hseq3, hheld, State.tryEnd, hend]
  have r3 : s3.pumpRound c 0 = (s3, false) :=
    State.pumpRound_idle (fun v _ => hidle3 v) (by rw [hseq3]; exact hheld) (by rw [hseq3]; exact hend)
  have hi : s.issue c w = (s.setCore c { (s.core c) with seq := { (s.core c).seq with held := [w] } }).pump c 0 := by
    unfold State.issue
    show (if (s.core c).seq.ending.isSome = true then s else _) = _
    rw [if_neg (by simp [hq.ending])]
    show (s.setCore c { (s.core c) with seq := { (s.core c).seq with held := (s.core c).seq.held ++ [w] } }).pump c 0 = _
    rw [hq.held]
    rfl
  rw [hi, State.pump]
  obtain ⟨f, hf⟩ := Core.work_pos ((s.setCore c { (s.core c) with seq := { (s.core c).seq with held := [w] } }).core c)
  rw [hf, State.pumpFuel, r1, State.pumpFuel, r2, State.pumpFuel, r3]
  rfl

theorem State.runSeq_unit {w : OpWord} {u : UnitId} {rest : List UnitId} (hu : unitsOf w = u :: rest) (s : State) (c t : Nat) :
    s.runSeq c t w = s := by
  cases w <;> first | rfl | exact absurd (show ([] : List UnitId) = u :: rest from hu) (by simp)

theorem unitsOf_plain {w : OpWord} {u : UnitId} {rest : List UnitId} (hu : unitsOf w = u :: rest) :
    (∀ x, w ≠ .barLocal x) ∧ isLoopWord w = false := by
  refine ⟨fun x hx => ?_, ?_⟩
  · subst hx; exact absurd (show ([] : List UnitId) = u :: rest from hu) (by simp)
  · cases w <;> first | rfl | exact absurd (show ([] : List UnitId) = u :: rest from hu) (by simp)

/-- Dispatch leaves everything of a quiet core but the sequencer's cycle and the queues alone. -/
theorem State.atDispatch_keeps {s : State} {c u : Nat} {w : OpWord} {rest : List UnitId} (hq : (s.core c).quiet)
    (hu : unitsOf w = u :: rest) : ∃ t n l m, s.atDispatch c w = { (s.core c) with
      seq := { (s.core c).seq with cycle := t, slots := n, units := l, pos := (s.core c).seq.pos + 1 }
      units := m } ∧ ∀ v, ((s.atDispatch c w).unit v).blocked = none ∧ ((s.atDispatch c w).unit v).stall = 0
      ∧ ((s.atDispatch c w).unit v).waiting = if v ∈ u :: rest then [s.asDispatched c w] else [] := by
  obtain ⟨hb, hl⟩ := unitsOf_plain hu
  obtain ⟨t, k1, ⟨⟨n, l, hr⟩, hunit, _⟩, _, _, hat⟩ := State.atDispatch_spec hq w hb hl
  have hat := hat (State.runSeq_unit hu _ _ _)
  refine ⟨t, n, l, k1.units, by rw [hat]; exact hr, fun v => ?_⟩
  have hcyc : (s.atDispatch c w).seq.cycle = t := by rw [hat, hr]
  rw [hat, hunit v, hu]
  refine ⟨?_, ?_, ?_⟩
  · split <;> exact hq.blocked v
  · split <;> exact hq.stall v
  · split
    · simp [hq.waiting, State.asDispatched, hcyc]
    · exact hq.waiting v

/-- A word of the core alone, given to a quiet core, takes effect once: on the parts it reaches as `pureWord` says, and on nothing
else. The core is quiet again. -/
theorem State.issue_onCore {s : State} {c u : Nat} {w : OpWord} {rest : List UnitId} {k1 : Core} (hq : (s.core c).quiet)
    (hk : onCoreWord w = true) (hu : unitsOf w = u :: rest) (hj : jointWord w = true ∨ rest = []) (hlt : ∀ v ∈ rest, u < v)
    (hpr : (s.core c).swapping = false
      ∨ ∀ v ∈ u :: rest, ((s.atDispatch c w).unit v).freeAt ≤ (s.atDispatch c w).seq.cycle)
    (hr : ∀ v ∈ u :: rest, (s.atBegin c w).readStall v (Core.readsOf c (s.atBegin c w) w) = none)
    (hp : Core.pureWord c (s.atBegin c w) u w = .ok k1)
    (hf : (s.atBegin c w).writeFree u (newRanges (s.atBegin c w) k1) = true) :
    ∃ k2, s.issue c w = s.setCore c k2 ∧ k2.effect k1 ∧ k2.outside (s.core c) ∧ k2.quiet := by
  obtain ⟨hb, hl⟩ := unitsOf_plain hu
  have hus : u :: rest = if jointWord w then unitsOf w else [u] := by
    rcases hj with h | h
    · rw [if_pos h, hu]
    · subst h; split
      · exact hu.symm
      · rfl
  obtain ⟨t, n, l, m, hkeep, hunits⟩ := State.atDispatch_keeps hq hu
  obtain ⟨x, o, la, hst⟩ := State.startWord_onCore (s := s.setCore c (s.atDispatch c w)) (c := c) (u := u)
    (lp := (s.core c).seq.counters) (t := (s.atDispatch c w).seq.cycle) (k := s.atBegin c w) hk hus
    (by rw [State.core_setCore_self]; rfl) hr hp hf
  rw [State.setCore_setCore] at hst
  obtain ⟨tb, hi⟩ := State.issue_begin hq hb hl (State.runSeq_unit hu) hu hj hlt hpr hst
    (by rw [State.core_setCore_self]; rfl) (by rw [State.core_setCore_self]; rfl) (by intro h; exact absurd h (by simp))
  rw [hi, State.updCore_setCore]
  have hnd : (u :: rest).Nodup := hu ▸ (unitsOf_nodup w).1
  obtain ⟨m2, hm2, hv2⟩ := Core.book_units tb
    { s := s.setCore c { (s.atBegin c w).took k1 with edges := x, swaps := ((s.setCore c (s.atDispatch c w)).core c).swaps }, occ := o, last := la } (u :: rest)
    { (s.atBegin c w).took k1 with edges := x, swaps := ((s.setCore c (s.atDispatch c w)).core c).swaps } hnd
  refine ⟨_, rfl, ?_, ?_, ?_⟩
  · rw [hm2]; exact ⟨rfl, rfl, rfl, rfl, rfl, rfl, rfl, rfl, rfl, rfl, rfl, rfl, rfl⟩
  · rw [hm2]
    simp only [State.atBegin, Core.ahead, Core.took, State.core_setCore_self, hkeep]
    exact ⟨⟨rfl, rfl, rfl, rfl, rfl, rfl, rfl, rfl⟩, rfl⟩
  · have hun : ∀ v, ({ (s.atBegin c w).took k1 with edges := x, swaps := ((s.setCore c (s.atDispatch c w)).core c).swaps } : Core).unit v = (s.atDispatch c w).unit v := fun v => rfl
    refine { waiting := fun v => ?_, blocked := fun v => ?_, stall := fun v => ?_, held := ?_, ending := ?_ }
    · rw [(hv2 v).1, hun, (hunits v).2.2]; split <;> simp
    · rw [(hv2 v).2.1, hun, (hunits v).1]; simp
    · rw [(hv2 v).2.2, hun, (hunits v).2.1]; simp
    · rw [hm2]; simp only [State.atBegin, Core.ahead, Core.took, hkeep]; exact hq.held
    · rw [hm2]; simp only [State.atBegin, Core.ahead, Core.took, hkeep]; exact hq.ending

/-- A word of the sequencer, given to a quiet core, is done once it has dispatched. -/
theorem State.issue_seq {s s' : State} {c : Nat} {w : OpWord} (hq : (s.core c).quiet)
    (hd : (s.setCore c { (s.core c) with seq := { (s.core c).seq with held := [w] } }).dispatch c w = some s')
    (he : (s'.core c).seq.ending = none) (hun : (s'.core c).units = (s.core c).units) :
    s.issue c w = s'.updCore c (fun k => { k with seq := { k.seq with held := [] } }) := by
  have hk0 : ((s.setCore c { (s.core c) with seq := { (s.core c).seq with held := [w] } }).core c).calm := by
    rw [State.core_setCore_self]
    exact ⟨hq.waiting, hq.blocked, hq.stall⟩
  have r1 := State.pumpRound_dispatch (now := 0) hk0 (by rw [State.core_setCore_self]) hd he
  have r2 : (s'.updCore c (fun k => { k with seq := { k.seq with held := [] } })).pumpRound c 0 = ((s'.updCore c (fun k => { k with seq := { k.seq with held := [] } })), false) := by
    have hc : (s'.updCore c (fun k => { k with seq := { k.seq with held := [] } })).core c = { (s'.core c) with seq := { (s'.core c).seq with held := [] } } := by
      rw [State.updCore, State.core_setCore_self]
    refine State.pumpRound_idle (fun u _ => State.tryBegin_idle 0 ?_ ?_) (by rw [hc]) (by rw [hc]; exact he)
    · rw [hc]; show ((s'.core c).unit u).waiting = []
      simp only [Core.unit, hun]; exact hq.waiting u
    · rw [hc]; show ((s'.core c).unit u).blocked = none
      simp only [Core.unit, hun]; exact hq.blocked u
  have hi : s.issue c w = (s.setCore c { (s.core c) with seq := { (s.core c).seq with held := [w] } }).pump c 0 := by
    unfold State.issue
    show (if (s.core c).seq.ending.isSome = true then s else _) = _
    rw [if_neg (by simp [hq.ending])]
    show (s.setCore c { (s.core c) with seq := { (s.core c).seq with held := (s.core c).seq.held ++ [w] } }).pump c 0 = _
    rw [hq.held]
    rfl
  rw [hi, State.pump]
  obtain ⟨f, hf⟩ := Core.work_pos ((s.setCore c { (s.core c) with seq := { (s.core c).seq with held := [w] } }).core c)
  rw [hf, State.pumpFuel, r1, State.pumpFuel, r2]
  rfl

/-- A word that its unit can begin, given to a quiet core, takes effect as its beginning says; its units then wait for what it waits for. -/
theorem State.issue_unit {s : State} {c u : Nat} {w : OpWord} {rest : List UnitId} {b : Begun} (h : Begins s c w)
    (hu : unitsOf w = u :: rest) (hj : jointWord w = true ∨ rest = []) (hlt : ∀ v ∈ rest, u < v)
    (hs : (s.setCore c (s.atDispatch c w)).startWord c u (s.asDispatched c w) = .go b)
    (hseq : (b.s.core c).seq = (s.atDispatch c w).seq) (hun : (b.s.core c).units = (s.atDispatch c w).units)
    (hfence : b.blocked = some .fence → b.s.inFlight c = true) :
    ∃ m, s.issue c w = b.s.setCore c { (b.s.core c) with units := m } ∧ ∀ v,
      (({ (b.s.core c) with units := m } : Core).unit v).waiting = []
      ∧ (({ (b.s.core c) with units := m } : Core).unit v).stall = 0
      ∧ (({ (b.s.core c) with units := m } : Core).unit v).blocked = if v ∈ u :: rest then b.blocked else none := by
  obtain ⟨hb, hl⟩ := unitsOf_plain hu
  obtain ⟨t, n, l, m, hkeep, hunits⟩ := State.atDispatch_keeps h.quiet hu
  obtain ⟨tb, hi⟩ := State.issue_begin h.quiet hb hl (State.runSeq_unit hu) hu hj hlt (hu ▸ h.prompt) hs hseq hun hfence
  have hnd : (u :: rest).Nodup := hu ▸ (unitsOf_nodup w).1
  obtain ⟨m2, hm2, hv2⟩ := Core.book_units tb b (u :: rest) (b.s.core c) hnd
  refine ⟨m2, ?_, fun v => ?_⟩
  · rw [hi, State.updCore, hm2]
  · rw [← hm2, (hv2 v).1, (hv2 v).2.1, (hv2 v).2.2]
    have : ∀ v, (b.s.core c).unit v = (s.atDispatch c w).unit v := fun v => by simp only [Core.unit, hun]
    rw [this, (hunits v).1, (hunits v).2.1, (hunits v).2.2]
    refine ⟨?_, ?_, ?_⟩ <;> split <;> simp_all

/-! ### Cores that are ready -/

theorem Core.readStall_plain {k : Core} (h : k.ctx.edges = []) (u : UnitId) (rs : List Reads) : k.readStall u rs = none := by
  simp [Core.readStall, edgeList, h]

theorem Core.writeFree_plain {k : Core} (h : k.ctx.edges = []) (u : UnitId) (ws : List (Nat × Nat)) : k.writeFree u ws = true := by
  simp [Core.writeFree, edgeList, h]

/-- A word of a unit finds the slice context of a quiet core as it was. -/
theorem State.atBegin_ctx {s : State} {c u : Nat} {w : OpWord} {rest : List UnitId} (hq : (s.core c).quiet)
    (hu : unitsOf w = u :: rest) : (s.atBegin c w).ctx = (s.core c).ctx := by
  obtain ⟨t, n, l, m, hkeep, _⟩ := State.atDispatch_keeps hq hu
  simp only [State.atBegin, Core.ahead, hkeep]

/-- A word for which a core is ready can begin there. -/
theorem Ready.begins {s : State} {c : Nat} {w : OpWord} (h : Ready s c w) : Begins s c w where
  quiet := h.quiet
  ok := h.ok
  reads := fun v hv => by
    cases hu : unitsOf w with
    | nil => rw [hu] at hv; simp at hv
    | cons u rest => exact Core.readStall_plain (by rw [State.atBegin_ctx h.quiet hu]; exact h.edges) _ _
  prompt := .inl h.still

end Sys2Proof.Machine
end

