-- ==== Sys2Proof/Laws/Resets.lean ====
section
/-! SUPPORT. What bring-up and resets keep clear, and what a cold reset leaves. -/

namespace Sys2Proof.Machine

/-- What resets and bring-up rely on staying clear once it is clear. -/
structure State.near (t s : State) : Prop where
  state : t.power.state = s.power.state
  perst : t.power.perst = s.power.perst
  cores : ∀ c, (t.core c).mem = (s.core c).mem ∧ (t.core c).chuck = (s.core c).chuck
    ∧ ((s.core c).ctx.work = none → (t.core c).ctx.work = none)
  sessions : t.sec.sessions = s.sec.sessions ∧ t.sec.sbSessions = s.sec.sbSessions
  mesh : s.mesh = [] → t.mesh = []
  access : t.access = s.access

theorem State.near.held {t s : State} (h : t.near s) (g : s.coldHeld) : t.coldHeld :=
  { state := h.state.trans g.state
    cores := fun c => ⟨(h.cores c).1.trans (g.cores c).1, (h.cores c).2.1.trans (g.cores c).2.1, (h.cores c).2.2 (g.cores c).2.2⟩
    sessions := ⟨h.sessions.1.trans g.sessions.1, h.sessions.2.trans g.sessions.2⟩
    mesh := h.mesh g.mesh
    guards := by rw [h.access]; exact g.guards }

theorem State.near.trans {a b c : State} (h : c.near b) (g : b.near a) : c.near a :=
  { state := h.state.trans g.state
    perst := h.perst.trans g.perst
    cores := fun i => ⟨(h.cores i).1.trans (g.cores i).1, (h.cores i).2.1.trans (g.cores i).2.1, fun x => (h.cores i).2.2 ((g.cores i).2.2 x)⟩
    sessions := ⟨h.sessions.1.trans g.sessions.1, h.sessions.2.trans g.sessions.2⟩
    mesh := fun x => h.mesh (g.mesh x)
    access := h.access.trans g.access }

theorem State.near_foldl {β : Type} (f : State → β → State) (h : ∀ s b, (f s b).near s) :
    ∀ (l : List β) (s : State), (l.foldl f s).near s
  | [], _ => ⟨rfl, rfl, fun _ => ⟨rfl, rfl, id⟩, ⟨rfl, rfl⟩, id, rfl⟩
  | b :: l, s => (State.near_foldl f h l (f s b)).trans (h s b)

/-- Where cores, mesh, access, sessions and the power state are the same, so is what `near` speaks of. -/
theorem State.near_of {t s : State} (hc : t.cores = s.cores) (hm : t.mesh = s.mesh) (ha : t.access = s.access)
    (h1 : t.sec.sessions = s.sec.sessions) (h2 : t.sec.sbSessions = s.sec.sbSessions) (hp : t.power.state = s.power.state)
    (hq : t.power.perst = s.power.perst) : t.near s :=
  { state := hp
    perst := hq
    cores := fun c => by
      have e : t.core c = s.core c := by simp only [State.core, hc]
      rw [e]; exact ⟨rfl, rfl, id⟩
    sessions := ⟨h1, h2⟩
    mesh := fun x => hm.trans x
    access := ha }

theorem State.near_refl (s : State) : s.near s := State.near_of rfl rfl rfl rfl rfl rfl rfl

theorem State.sameBody.near {t s : State} (h : t.sameBody s) : t.near s :=
  State.near_of h.cores h.mesh h.access (by rw [h.sec]) (by rw [h.sec]) (by rw [h.power]) (by rw [h.power])

theorem State.near_updCore (s : State) (c : Nat) (f : Core → Core) (h : ∀ k, (f k).mem = k.mem ∧ (f k).chuck = k.chuck ∧ (k.ctx.work = none → (f k).ctx.work = none)) :
    (s.updCore c f).near s :=
  { state := rfl
    perst := rfl
    cores := fun i => by
      rw [State.updCore, State.core_setCore]
      split
      · next e => subst e; exact h _
      · exact ⟨rfl, rfl, id⟩
    sessions := ⟨rfl, rfl⟩
    mesh := id
    access := rfl }

theorem State.near_event (s : State) (a b c d e : Nat) : (s.event a b c d e).near s := by
  apply State.near_of <;> simp

theorem State.near_abortSlice (s : State) (i cause : Nat) (st : Option Nat) : (s.abortSlice i cause st).near s := by
  unfold State.abortSlice
  split
  · exact State.near_refl s
  · next p _ =>
    split
    · dsimp only
      have h1 : (p.cores.foldl (fun t c => t.updCore c (fun k => if k.ctx.work = some i then k.stop true else k)) s).near s := by
        refine State.near_foldl _ (fun t c => State.near_updCore t c _ (fun k => ?_)) _ _
        split
        · exact ⟨rfl, rfl, fun _ => rfl⟩
        · exact ⟨rfl, rfl, id⟩
      refine (State.near_event _ _ _ _ _ _).trans (State.near.trans ?_ h1)
      exact ⟨rfl, rfl, fun _ => ⟨rfl, rfl, id⟩, ⟨rfl, rfl⟩, fun h => by
        show List.filter _ _ = []
        simp only [State.updPlaced, h]; rfl, rfl⟩
    · exact State.near_refl s

theorem State.near_hbm (s : State) (x : Hbm) : ({ s with hbm := x } : State).near s := State.near_of rfl rfl rfl rfl rfl rfl rfl

theorem State.near_witness (s : State) (x : Witness) : ({ s with witness := x } : State).near s :=
  State.near_of rfl rfl rfl rfl rfl rfl rfl

theorem State.near_updWork (s : State) (r q : Nat) (f : Work → Work) : (s.updWork r q f).near s := State.near_of rfl rfl rfl rfl rfl rfl rfl

theorem State.near_abortWork (s : State) (w : Work) (c : Nat) : (s.abortWork w c).near s := by
  refine State.near_foldl _ (fun t i => ?_) _ _
  split
  · split
    · exact State.near_abortSlice _ _ _ _
    · exact State.near_refl t
  · exact State.near_refl t

theorem State.near_offcutLost (s : State) (w : Work) (l : List Nat) : (s.offcutLost w l).near s := by
  unfold State.offcutLost
  split
  · exact State.near_refl s
  · dsimp only
    refine (State.near_updWork _ _ _ _).trans ?_
    split
    · exact State.near_abortWork _ _ _
    · exact State.near_refl s

theorem State.near_overflowLost (s : State) (w : Work) : (s.overflowLost w).near s := by
  unfold State.overflowLost
  split
  · split
    · exact State.near_offcutLost _ _ _
    · exact State.near_refl s
  · exact State.near_refl s

theorem State.near_poolLost (s : State) : s.poolLost.near s := State.near_foldl _ State.near_overflowLost _ _

theorem State.near_disarm (s : State) (w : Work) (l : List Nat) : (s.disarm w l).near s :=
  by
  refine State.near_foldl (fun t c => t.updCore c (fun k => { k with engines := [] })) (fun t c => ?_) _ _
  exact State.near_updCore t c _ (fun _ => ⟨rfl, rfl, id⟩)

theorem State.near_hostStageLost (s : State) (w : Work) : (s.hostStageLost w).near s := by
  unfold State.hostStageLost
  split
  · exact State.near_refl s
  · split
    · exact State.near_refl s
    · split
      · split
        · exact State.near_refl s
        · split
          · exact (State.near_updWork _ _ _ _).trans (State.sameBody_log _ _ _).near
          · exact State.near_updWork _ _ _ _
      · split
        · exact State.near_refl s
        · exact (State.near_updWork _ _ _ _).trans ((State.near_disarm _ _ _).trans (State.near_abortWork _ _ _))

theorem State.near_stageLost (s : State) (hit : StageCopy → Bool) : (s.stageLost hit).near s := by
  refine State.near_foldl _ (fun t w => ?_) _ _
  split
  · split
    · dsimp only
      refine (State.near_updWork _ _ _ _).trans ((State.near_foldl _ (fun u c => (State.sameBody_log _ _ _).near) _ _).trans
        (State.near_foldl (fun (u : State) (c : StageCopy) => { u with hbm := u.hbm.lose c.base c.bytes })
          (fun u c => State.near_of rfl rfl rfl rfl rfl rfl rfl) _ _))
    · split
      · exact State.near_refl t
      · exact (State.near_updWork _ _ _ _).trans (State.near_abortWork _ _ _)
  · exact State.near_refl t

theorem State.near_applyDegraded (s : State) : s.applyDegraded.near s := by
  unfold State.applyDegraded
  split
  · exact State.near_refl s
  · dsimp only
    exact (State.near_foldl _ State.near_hostStageLost _ _).trans ((State.near_stageLost _ _).trans
      ((State.near_hbm _ _).trans (State.near_poolLost s)))

theorem State.near_sendOn (s : State) (p : Nat) (f : Flit) : (s.sendOn p f).near s := State.near_of rfl rfl rfl rfl rfl rfl rfl

theorem State.near_trainLinks (s : State) (up : List Nat) : (s.trainLinks up).near s := by
  refine (State.near_foldl _ (fun t p => ?_) _ _).trans (State.near_of rfl rfl rfl rfl rfl rfl rfl)
  dsimp only
  split
  · exact State.near_of rfl rfl rfl rfl rfl rfl rfl
  · exact (State.near_sendOn _ _ _).trans (State.near_of rfl rfl rfl rfl rfl rfl rfl)

theorem State.near_trainHbm (s : State) (b : BringUpIn) : (s.trainHbm b).near s := by
  have h : (State.near _ s) := State.near_foldl (fun t k => ({ t with hbm := t.hbm.setStack k { t.hbm.stack k with lost := true } } : State).log .stackLost { inst := 32 * k })
     (fun t k => (State.sameBody_log _ _ _).near.trans (State.near_of rfl rfl rfl rfl rfl rfl rfl)) (((b.stackFails.map (fun k => k.val)).filter (fun k => !(s.hbm.stack k).lost))) s
  unfold State.trainHbm
  dsimp only
  split
  · exact (State.near_applyDegraded _).trans ((State.near_hbm _ _).trans ((State.near_hbm _ _).trans h))
  · exact (State.near_hbm _ _).trans h

theorem State.near_selfTest (s : State) (b : BringUpIn) : (s.selfTest b).near s := by
  refine (State.near_foldl _ (fun t c => ?_) _ _).trans (State.near_foldl _ (fun t r => ?_) _ _)
  · dsimp only
    split
    · exact State.near_refl t
    · exact ((State.sameBody_log _ _ _).trans (State.sameBody_repair _ _ _ _ _)).near.trans (State.near_of rfl rfl rfl rfl rfl rfl rfl)
  · exact ((State.sameBody_log _ _ _).trans (State.sameBody_repair _ _ _ _ _)).near

theorem State.near_train (s : State) (b : BringUpIn) : (s.train b).near s := by
  unfold State.train
  dsimp only
  exact ((State.sameBody_setFld _ _ _).near.trans (State.near_selfTest _ _)).trans ((State.sameBody_measureBank _ _ _ _).near.trans
    ((State.sameBody_setFld _ _ _).near.trans ((State.near_trainHbm _ _).trans (State.near_trainLinks _ _))))

theorem State.near_mirrorFlash (s : State) : s.mirrorFlash.near s := by
  unfold State.mirrorFlash
  dsimp only
  split
  · split
    · exact (State.sameBody_nv _ _).near
    · exact ((State.sameBody_log _ _ _).trans (State.sameBody_nv _ _)).near
  · exact State.near_refl s

theorem State.sameBody_ite {p : Prop} [Decidable p] {a b s : State} (ha : a.sameBody s) (hb : b.sameBody s) : (if p then a else b).sameBody s := by
  split
  · exact ha
  · exact hb

theorem State.sameBody_loadKeys (s : State) : s.loadKeys.sameBody s := by
  refine State.sameBody_foldl _ (fun t k => ?_) _ _
  split
  · exact State.sameBody_setFld _ _ _
  · exact .refl t

theorem State.near_loadSecurity (s : State) (b : BringUpIn) : (s.loadSecurity b).near s := by
  unfold State.loadSecurity
  extract_lets owners good s1 keys owner _ s2
  have h1 : s1.near s := (State.sameBody_foldl _ (fun t _ => State.sameBody_log _ _ _) _ _).near
  have h2 : s2.near s := State.near.trans (b := s1) (State.near_of rfl rfl rfl rfl rfl rfl rfl) h1
  exact ((State.sameBody_setFlag _ _ _).trans (State.sameBody_setFlag _ _ _)).near.trans h2

theorem State.near_loadWitness (s : State) : s.loadWitness.near s := by
  unfold State.loadWitness
  split
  · exact State.near_witness s _
  · extract_lets v s1 s2 s3 signed fits _
    have h1 : s1.sameBody s := State.sameBody_foldl _ (fun t i => State.sameBody_setFld _ _ _) _ _
    have h2 : s2.sameBody s := (State.sameBody_foldl _ (fun t i => State.sameBody_setFld _ _ _) _ _).trans h1
    have h3 : s3.sameBody s := (State.sameBody_foldl _ (fun t i => State.sameBody_setFld _ _ _) _ _).trans
      ((State.sameBody_setFld _ _ _).trans ((State.sameBody_setFld _ _ _).trans h2))
    exact (State.near_witness s3 _).trans h3.near

theorem State.near_loadRepairs (s : State) : s.loadRepairs.near s := by
  refine State.near_foldl _ (fun t r => ?_) _ _
  dsimp only
  repeat' split
  all_goals first | exact State.near_refl t | exact State.near_of rfl rfl rfl rfl rfl rfl rfl

theorem State.near_loadBadSectors (s : State) : s.loadBadSectors.near s := by
  unfold State.loadBadSectors
  split
  · exact State.near_refl s
  · exact State.near_hbm s _

theorem State.sameBody_lockClocks (s : State) : s.lockClocks.sameBody s :=
  (State.sameBody_setFlag _ _ _).trans ((State.sameBody_setFlag _ _ _).trans ((State.sameBody_setFlag _ _ _).trans
    ((State.sameBody_setFlag _ _ _).trans ((State.sameBody_setFlag _ _ _).trans (State.sameBody_setFlag _ _ _)))))

theorem State.sameBody_setReg (s : State) (k : Nat) (v : BitVec 32) : (s.setReg k v).sameBody s :=
  ⟨rfl, rfl, rfl, rfl, rfl, rfl, rfl, rfl, rfl, rfl, rfl, rfl, rfl, rfl, rfl, rfl, rfl⟩

theorem State.train_stage (s : State) (b : BringUpIn) : (s.train b).fld nviBootStage = 4 := by
  unfold State.train
  exact State.fld_setFld _ (by decide) 4

theorem State.near_links (s : State) (x : Links) (y : BringUpIn) :
    ({ s with links := x, power := { s.power with bringUp := y } } : State).near s := State.near_of rfl rfl rfl rfl rfl rfl rfl

theorem State.near_bootImage (s : State) (b : BringUpIn) : (s.bootImage b).near s := by
  have hbad : ∀ (c : Option Nat) (t : State) (i : Nat) (ok : Bool),
      (if c.isNone && !ok && decide ((t.slot i).state ≠ 0xFF) then t.log .slotInvalid {} else t).sameBody t :=
    fun c t i ok => State.sameBody_ite (State.sameBody_log _ _ _) (.refl t)
  unfold State.bootImage
  extract_lets _ _ _ _ s0 s1 one s2 svn s3 choice va vb s4 bad s5' code _ s5 gen s6 epoch boot s7 s8 topo _ _ s9 s10 s11
  have h0 : s0.near s := State.near_of rfl rfl rfl rfl rfl rfl rfl
  have h1 : s1.near s := (State.near_mirrorFlash _).trans h0
  have h2 : s2.near s := (State.sameBody_ite (State.sameBody_log _ _ _) (.refl s1)).near.trans h1
  have h3 : s3.near s := (State.sameBody_setFld _ _ _).near.trans h2
  have h4 : s4.near s := ((State.sameBody_setFld _ _ _).trans ((State.sameBody_setFlag _ _ _).trans
    ((State.sameBody_setFld _ _ _).trans ((State.sameBody_setFlag _ _ _).trans ((State.sameBody_setFlag _ _ _).trans
    ((State.sameBody_setFlag _ _ _).trans ((State.sameBody_setFlag _ _ _).trans (State.sameBody_setFlag _ _ _)))))))).near.trans h3
  have h5 : s5'.near s := ((hbad choice _ _ _).trans (hbad choice _ _ _)).near.trans h4
  have h5 : s5.near s := (State.sameBody_nv _ _).near.trans h5
  have h6 : s6.near s := ((State.sameBody_loadKeys _).trans (State.sameBody_setPair _ _ _ _)).near.trans h5
  have h7 : s7.near s := (State.near_loadSecurity _ _).trans (((State.sameBody_setPair _ _ _ _).trans
    (State.sameBody_setFld _ _ _)).near.trans h6)
  have h8 : s8.near s := (State.near_loadBadSectors _).trans ((State.near_loadRepairs _).trans ((State.near_loadWitness _).trans h7))
  have h9 : s9.near s := (State.near_links _ _ _).trans h8
  have h10 : s10.near s := ((State.sameBody_setFld _ _ _).trans ((State.sameBody_setFlag _ _ _).trans (State.sameBody_setFld _ _ _))).near.trans h9
  have h11 : s11.near s := ((State.sameBody_lockClocks _).trans (State.sameBody_setFld _ _ _)).near.trans h10
  split
  · exact h11
  · exact (State.sameBody_log _ _ _).near.trans h11

theorem clearedCores_get (counts : Bool) (c : Nat) : ∀ l : SMap Core, (SMap.get {} (clearedCores counts l) c).mem = [] ∧
    (SMap.get {} (clearedCores counts l) c).chuck = [] ∧ (SMap.get {} (clearedCores counts l) c).ctx.work = none
  | [] => ⟨rfl, rfl, rfl⟩
  | (d, k) :: rest => by
    have ih := clearedCores_get counts c rest
    unfold clearedCores
    extract_lets x
    by_cases hx : x = {}
    · rw [if_pos hx]; exact ih
    · rw [if_neg hx]
      unfold SMap.get
      split
      · exact ⟨rfl, rfl, rfl⟩
      · exact ih

theorem State.coldHold_held (s : State) (b : BringUpIn) : (s.coldHold b).coldHeld := by
  unfold State.coldHold
  extract_lets s1 kept s2 _ _ _ s3 t4 _ _ s4
  have hm : s1.mesh = [] := rfl
  have hg : s1.access.guards = [] := rfl
  clear_value s1
  have hk : ∀ (l : List (Nat × BitVec 32)) (t : State), (l.foldl (fun t e => t.setReg e.1 e.2) t).sameBody t :=
    fun l t => State.sameBody_foldl _ (fun t e => State.sameBody_setReg t e.1 e.2) l t
  have h2 := hk kept { s1 with regs := defaultRegs }
  have h3 : s3.coldHeld :=
    { state := rfl
      cores := fun c => clearedCores_get false c s2.cores
      sessions := ⟨rfl, rfl⟩
      mesh := (show s2.mesh = s1.mesh from h2.mesh).trans hm
      guards := (congrArg Access.guards (show s2.access = s1.access from h2.access)).trans hg }
  have h4 : s4.near s3 := (State.near_of rfl rfl rfl rfl rfl rfl rfl : s4.near t4).trans (State.near_bootImage s3 b)
  exact (((State.sameBody_setFld _ _ _).trans ((State.sameBody_setFld _ _ _).trans (State.sameBody_setFlag _ _ _))).near.trans h4).held h3

theorem State.train_held (s : State) (b : BringUpIn) (h : s.coldHeld) : (s.train b).coldHeld := (State.near_train s b).held h

theorem State.coldReset_started (s : State) (b : BringUpIn) : (s.coldReset b).coldStarted := by
  have h1 := State.coldHold_held s b
  unfold State.coldReset
  generalize s.coldHold b = t at h1 ⊢
  dsimp only
  by_cases h : t.power.perst = true
  · rw [if_pos h]; exact ⟨h1, fun x => absurd (h.symm.trans x) (by simp)⟩
  · rw [if_neg h]; exact ⟨State.train_held t b h1, fun _ => State.train_stage t b⟩

/-- A device-fatal error ends in a cold reset. -/
theorem State.deviceFatal_started (s : State) (c : Cause) (r : ErrRec) : (s.deviceFatal c r).coldStarted :=
  State.coldReset_started _ _
end Sys2Proof.Machine
end

