-- ==== Sys2Proof/Laws/Records.lean ====
section
/-! SUPPORT. What logging an error record and aborting a slice do (13 R363 to R365; 10 R285). -/

namespace Sys2Proof.Machine

/-! ### Error records -/

/-- A record that is not corrected stays held when another is added. -/
theorem State.enqueue_keeps (s : State) (r q : ErrRec) (hq : q.sev ≠ 0) (h : s.recorded q) : (s.enqueue r).recorded q := by
  unfold State.enqueue
  dsimp only
  split
  · rcases h with h | h
    · refine .inl (List.mem_map.mpr ⟨q, h, ?_⟩)
      rw [if_neg]
      simp [hq]
    · exact .inr h
  · split
    · rcases h with h | h
      · exact .inl (List.mem_append_left _ h)
      · exact .inr h
    · split
      · next i hi =>
        rcases h with h | h
        · refine .inl (List.mem_append_left _ ?_)
          obtain ⟨hlt, hz, _⟩ := List.findIdx?_eq_some_iff_getElem.mp hi
          show q ∈ List.eraseIdx s.errs.queue i
          rw [List.mem_eraseIdx_iff_getElem]
          obtain ⟨j, hj, rfl⟩ := List.getElem_of_mem h
          refine ⟨j, hj, fun e => ?_, rfl⟩
          subst e
          exact hq (by simpa using hz)
        · exact .inr h
      · split
        · exact h
        · rcases h with h | h
          · exact .inl h
          · exact .inr (List.mem_append_left _ h)

/-- A record that is not corrected is held once it is added. -/
theorem State.enqueue_holds (s : State) (r : ErrRec) (hr : r.sev ≠ 0) : (s.enqueue r).recorded r := by
  unfold State.enqueue
  dsimp only
  rw [if_neg (by simp [hr])]
  split
  · exact .inl (List.mem_append_right _ (by simp))
  · split
    · exact .inl (List.mem_append_right _ (by simp))
    · exact .inr (List.mem_append_right _ (by simp))

/-- Logging a cause that is not corrected tells of it. -/
theorem State.log_tells (s : State) (c : Cause) (r : ErrRec) (hc : c.sev ≠ 0) : (s.log c r).tells s.turn.number c r.inst := by
  refine ⟨_, State.enqueue_holds _ _ ?_, rfl, rfl, rfl, rfl⟩
  exact hc

/-- Logging keeps what has been told of causes that are not corrected. -/
theorem State.log_keeps (s : State) (c d : Cause) (r : ErrRec) (t n : Nat) (hd : d.sev ≠ 0) (h : s.tells t d n) : (s.log c r).tells t d n := by
  obtain ⟨q, hq, h1, h2, h3, h4⟩ := h
  exact ⟨q, State.enqueue_keeps _ _ q (by rw [h2]; exact hd) hq, h1, h2, h3, h4⟩

/-- A corrected record is held, merged into one that is, or dropped and counted. -/
theorem State.enqueue_notes (s : State) (r : ErrRec) (hr : r.sev = 0) :
    (∃ q, (s.enqueue r).recorded q ∧ q.turn = r.turn ∧ q.sev = 0 ∧ q.cause = r.cause ∧ q.inst = r.inst)
      ∨ (s.enqueue r).errs.dropped = s.errs.dropped + 1 := by
  unfold State.enqueue
  dsimp only
  split
  · next h =>
    obtain ⟨q, hq, hs⟩ := List.any_eq_true.mp h
    have hs' := hs
    simp only [Bool.and_eq_true, decide_eq_true_eq] at hs'
    obtain ⟨⟨⟨⟨⟨h1, h2⟩, h3⟩, h4⟩, h5⟩, h6⟩ := hs'
    exact .inl ⟨{ q with count := q.count + 1 }, .inl (List.mem_map.mpr ⟨q, hq, by rw [if_pos hs]⟩), h6, h2, h3, h5⟩
  · split
    · exact .inl ⟨r, .inl (List.mem_append_right _ (by simp)), rfl, hr, rfl, rfl⟩
    · split
      · exact .inr rfl
      · exact .inr rfl

/-- Logging a corrected cause: its record is held or merged into one that is, or it is dropped and counted. -/
theorem State.log_notes (s : State) (c : Cause) (r : ErrRec) (hc : c.sev = 0) : (s.log c r).notes s c r.inst := by
  rcases State.enqueue_notes s.tickFree { { r with turn := s.turn.number, sev := c.sev, cause := c.code, tick := s.freeTick } with
    unit := if r.unit = 0 then c.unit else r.unit } hc with ⟨q, hq, h1, h2, h3, h4⟩ | h
  · exact .inl ⟨q, hq, h1, h2.trans hc.symm, h3, h4⟩
  · exact .inr h

theorem State.tells_congr {s t : State} (h : t.errs = s.errs) (n : Nat) (c : Cause) (i : Nat) : t.tells n c i ↔ s.tells n c i := by
  simp only [State.tells, State.recorded, h]

/-! ### Aborts -/

/-- What ending the slices of cores leaves alone. -/
theorem State.stopCores_only (f : Core → Core) : ∀ (l : List Nat) (s : State),
    ∃ m, l.foldl (fun t c => t.updCore c f) s = { s with cores := m }
  | [], s => ⟨s.cores, rfl⟩
  | c :: l, s => by
    obtain ⟨m, hm⟩ := State.stopCores_only f l (s.updCore c f)
    exact ⟨m, hm⟩

/-- Everything an abort can do: nothing where the slice is not active; else the slice ends with the cause, its work re-runs or ends with
the status, and no record is logged. -/
theorem State.abortSlice_spec (s : State) (i cause : Nat) (st : Option Nat) {p : Placed} (h : s.placedAt i = some p)
    (ha : p.active = true) :
    (s.abortSlice i cause st).aborted i cause ∧ (s.abortSlice i cause st).errs = s.errs
      ∧ (s.abortSlice i cause st).hbm = s.hbm ∧ (s.abortSlice i cause st).power = s.power ∧ (s.abortSlice i cause st).regs = s.regs
      ∧ (s.abortSlice i cause st).works = (s.updWork p.ring p.seq (fun w => { w with
        rank := { w.rank with rerun := true }
        result := if st.isSome then st else w.result })).works
      ∧ (s.abortSlice i cause st).turn = (s.updPlaced i (fun q => { q with
        st := .aborted cause, status := st, overlay := [], out := [] })).turn := by
  unfold State.abortSlice
  simp only [h, ha, if_true]
  obtain ⟨m, hm⟩ := State.stopCores_only (fun k => if k.ctx.work = some i then k.stop true else k) p.cores s
  rw [hm]
  refine ⟨?_, ?_, ?_, ?_, ?_, ?_, ?_⟩
  rotate_left
  iterate 6 simp [State.updWork, State.updPlaced]
  refine ⟨{ p with st := .aborted cause, status := st, overlay := [], out := [] }, ?_, rfl, rfl, rfl, ?_⟩
  · simp only [State.placedAt] at h
    simp [State.placedAt, State.updWork, State.updPlaced, h]
  · intro l hl
    simp only [State.event_mesh, State.updWork] at hl
    have := (List.mem_filter.mp hl).2
    simpa using this

theorem State.abortSlice_none (s : State) (i cause : Nat) (st : Option Nat) (h : ∀ p, s.placedAt i = some p → p.active = false) :
    s.abortSlice i cause st = s := by
  unfold State.abortSlice
  split
  · rfl
  · next p hp => simp [h p hp]
end Sys2Proof.Machine
end

