-- ==== Sys2Proof/Tests/Slice0.lean ====
section
/-! SUPPORT. The smoke test of well-formedness, decoding of words written out bit by bit, small tests of single steps, and for every
statement with hypotheses a state and operands that meet them. -/

namespace Sys2Proof.Tests

-- The tests evaluate one after the other: side by side, their threads take more memory than one at a time.
set_option Elab.async false

open Sys2Proof Sys2Proof.Machine

/-! ### Well-formedness: an ill-formed word for each check, refused by name -/

def refusedAs (i : Instr) (m : String) : Bool :=
  match exec i State.reset with
  | .refused (.illFormed n) => decide (n = m)
  | _ => false

theorem test_mma_unit : refusedAs (.mma 0 { unit := 3 } none) "MMA" = true := by decide +kernel
theorem test_mma_tside : refusedAs (.mma 0 { tside := 1 } none) "MMA" = true := by decide +kernel
theorem test_mma_half : refusedAs (.mma 0 { qBase := 49152 } none) "MMA" = true := by decide +kernel
theorem test_redMax_lowest : refusedAs (.redMax 0 { lowest := 1 }) "RED_MAX" = true := by decide +kernel
theorem test_qzero_count : refusedAs (.qzero 0 {}) "QZERO" = true := by decide +kernel
theorem test_qstore_dpc : refusedAs (.qstore 0 {}) "QSTORE" = true := by decide +kernel
theorem test_treeStep_mode : refusedAs (.treeStep 0 { mode := 3, count := 1 }) "TREE_STEP" = true := by decide +kernel
theorem test_fn_unused : refusedAs (.fn 0 { fmtS1 := 1 }) "FN" = true := by decide +kernel
theorem test_tblLoad_rom : refusedAs (.tblLoad 0 { rom := 1, romid := 5 }) "TBL_LOAD" = true := by decide +kernel
theorem test_signal_inc : refusedAs (.signal 0 {}) "SIGNAL" = true := by decide +kernel
theorem test_wait_count : refusedAs (.wait 0 {}) "WAIT" = true := by decide +kernel
theorem test_swapDef_size : refusedAs (.swapDef 0 { hsize := 49153 }) "SWAP_DEF" = true := by decide +kernel
theorem test_hadamard_blk : refusedAs (.hadamard 0 { blk := 5 }) "HADAMARD" = true := by decide +kernel
theorem test_loop_trip : refusedAs (.loop 0 {}) "LOOP" = true := by decide +kernel
theorem test_endLoop_delay : refusedAs (.endLoop 0 { delay := 1 }) "ENDLOOP" = true := by decide +kernel


/-! ### States -/

/-- A part that is ready, with every domain powered and its configuration space ready. -/
def ready : State :=
  { (State.reset.setFld devDomains 0x3FFF) with power := { state := .ready, configReady := true, perst := false } }

/-- A ready part whose core 0 is `k`. -/
def withCore (k : Core) : State := { ready with cores := [(0, k)] }

/-- A ready part whose core 0 holds bytes from address 0 on. -/
def withBytes (bs : List Byte) : State := withCore { mem := Mem.writeBytes [] 0 bs }

theorem quiet_of (k : Core) (hu : k.units = []) (hh : k.seq.held = []) (he : k.seq.ending = none) : k.quiet := by
  refine ⟨⟨fun u => ?_, fun u => ?_, fun u => ?_⟩, hh, he⟩ <;> simp [Core.unit, hu]

/-- What can be evaluated of `Begins`. -/
def canBegin (s : State) (w : OpWord) : Bool :=
  wordOk w && (unitsOf w).all (fun v => (s.atBegin 0 w).readStall v (Core.readsOf 0 (s.atBegin 0 w) w) == none)
    && (!(s.core 0).swapping || (unitsOf w).all (fun v => decide (((s.atDispatch 0 w).unit v).freeAt ≤ (s.atDispatch 0 w).seq.cycle)))

theorem begins_of {s : State} {w : OpWord} (hq : (s.core 0).quiet) (h : canBegin s w = true) : Begins s 0 w := by
  simp only [canBegin, Bool.and_eq_true, Bool.or_eq_true, Bool.not_eq_true', List.all_eq_true, beq_iff_eq, decide_eq_true_eq] at h
  exact ⟨hq, h.1.1, h.1.2, h.2⟩

/-- What can be evaluated of `Ready`. -/
def isReady (s : State) (w : OpWord) : Bool := wordOk w && decide ((s.core 0).ctx.edges = []) && !(s.core 0).swapping

theorem ready_of {s : State} {w : OpWord} (hq : (s.core 0).quiet) (h : isReady s w = true) : Ready s 0 w := by
  simp only [isReady, Bool.and_eq_true, Bool.not_eq_true', decide_eq_true_eq] at h
  exact ⟨hq, h.1.1, h.1.2, h.2⟩

/-- Word `w` meets what both statements of a unit's words ask. -/
def Sound (s : State) (w : OpWord) (u : UnitId) : Prop := (∃ k1, Runs s 0 w u k1) ∧ ReadySound s 0 w

/-- What can be evaluated of `Sound`. -/
def isSound (s : State) (w : OpWord) (u : UnitId) : Bool :=
  canBegin s w && isReady s w && (unitsOf w).head? == some u && decide ((s.atBegin 0 w).faultOf 0 w = none)
    && (s.atBegin 0 w).writeFree u (newRanges (s.atBegin 0 w) ((s.atBegin 0 w).perform 0 u w))

theorem sound_of {s : State} {w : OpWord} {u : UnitId} (hq : (s.core 0).quiet) (h : isSound s w u = true) : Sound s w u := by
  simp only [isSound, Bool.and_eq_true, beq_iff_eq, decide_eq_true_eq] at h
  obtain ⟨⟨⟨⟨h1, h2⟩, h3⟩, h4⟩, h5⟩ := h
  exact ⟨⟨_, begins_of hq h1, h3, by simp [Core.pureWord, h4], h5⟩, ready_of hq h2, h4⟩

theorem quiet_bytes (bs : List Byte) : ((withBytes bs).core 0).quiet := quiet_of _ rfl rfl rfl

/-! ### Words -/

/-- A convolution descriptor of one position, one channel and one output channel. -/
def convBytes : List Byte :=
  le32 2 ++ le32 3 ++ le16 1 ++ le16 16 ++ le16 1 ++ [1, 0] ++ le32 0 ++ le16 1 ++ le16 1 ++ le16 1 ++ [1, 1, 1, 1, 1, 1, 1, 1, 1]

def gradBytes : List Byte := le32 2 ++ le32 3 ++ le32 4 ++ le32 0 ++ le32 0 ++ [1, 1, 1, 0] ++ le16 1 ++ le16 1 ++ le16 1
def redBytes (k : Byte) : List Byte := le32 2 ++ le32 4 ++ le32 0 ++ le16 1 ++ le16 1 ++ [1, 0, k]
def quantBytes : List Byte :=
  zeros 16 ++ [1, 0, 0, 0] ++ le32 2 ++ le16 1 ++ [0, 0] ++ le32 3 ++ le16 1 ++ le16 0 ++ le32 512 ++ le32 512 ++ le32 0 ++ [0, 0] ++ le16 0
    ++ le32 9
/-- A Profile descriptor: sources at 2 and 3, destination at 4, one panel per row, N = 1. -/
def profBytes : List Byte := le32 2 ++ le32 3 ++ le32 0 ++ le32 0 ++ le32 4 ++ le32 0 ++ le16 1 ++ le16 0 ++ le32 0
  ++ le32 0x40000000 ++ le32 0 ++ le32 1

theorem witness_arrayWords :
    Sound (withBytes []) (.mma {}) 0 ∧ Sound (withBytes []) (.mmaT { unit := 1, qBase := 49152 }) 1
    ∧ Sound (withBytes convBytes) (.conv {}) 0
    ∧ Sound (withBytes gradBytes) (.gradPair { unit := 2, dxen := 1, dwen := 1, qwBase := 49152 }) 0 := by
  refine ⟨sound_of (quiet_bytes _) ?_, sound_of (quiet_bytes _) ?_, sound_of (quiet_bytes _) ?_, sound_of (quiet_bytes _) ?_⟩ <;> decide +kernel

theorem witness_chuckWords :
    Sound (withBytes []) (.qzero { qBase := 98303, count := 1 }) unitChuck
    ∧ Sound (withBytes []) (.qstore { dpc := 1, tsBase := 8 }) unitChuck
    ∧ Sound (withBytes []) (.qimgSt { tsBase := 8 }) unitChuck ∧ Sound (withBytes []) (.qimgLd {}) unitChuck
    ∧ Sound (withBytes (redBytes 0)) (.redMax {}) unitChuck ∧ Sound (withBytes (redBytes 0)) (.redMin {}) unitChuck
    ∧ Sound (withBytes (redBytes 2)) (.redTopk {}) unitChuck
    ∧ Sound (withBytes quantBytes) (.quant { src := 1 }) unitChuck
    ∧ Sound (withBytes []) (.reqLoad { first := 5, count := 1 }) unitChuck := by
  refine ⟨sound_of (quiet_bytes _) ?_, sound_of (quiet_bytes _) ?_, sound_of (quiet_bytes _) ?_, sound_of (quiet_bytes _) ?_,
    sound_of (quiet_bytes _) ?_, sound_of (quiet_bytes _) ?_, sound_of (quiet_bytes _) ?_, sound_of (quiet_bytes _) ?_,
    sound_of (quiet_bytes _) ?_⟩ <;> decide +kernel

theorem witness_profileWords :
    Sound (withBytes profBytes) (.fn { cols := 1, tsBase := 8 }) unitProfile
    ∧ Sound (withBytes profBytes) (.shape { cols := 1, tsBase := 8 }) unitProfile
    ∧ Sound (withBytes profBytes) (.gate { cols := 1, tsBase := 8 }) unitProfile
    ∧ Sound (withBytes profBytes) (.smaxStep { cols := 1, tsBase := 8 }) unitProfile
    ∧ Sound (withBytes profBytes) (.normStats { cols := 1, tsBase := 8 }) unitProfile
    ∧ Sound (withBytes profBytes) (.normApply { cols := 1, tsBase := 8 }) unitProfile
    ∧ Sound (withBytes []) (.tblLoad { rom := 1, romid := 11 }) unitProfile
    ∧ Sound (withBytes profBytes) (.deriv { cols := 1, tsBase := 8 }) unitProfile
    ∧ Sound (withBytes profBytes) (.elem { cols := 1, tsBase := 8 }) unitProfile
    ∧ Sound (withBytes profBytes) (.sel { cols := 1, tsBase := 8 }) unitProfile := by
  refine ⟨sound_of (quiet_bytes _) ?_, sound_of (quiet_bytes _) ?_, sound_of (quiet_bytes _) ?_, sound_of (quiet_bytes _) ?_,
    sound_of (quiet_bytes _) ?_, sound_of (quiet_bytes _) ?_, sound_of (quiet_bytes _) ?_, sound_of (quiet_bytes _) ?_,
    sound_of (quiet_bytes _) ?_, sound_of (quiet_bytes _) ?_⟩ <;> decide +kernel

theorem witness_caliperWords :
    Sound (withBytes []) (.calTapOpen {}) unitCaliper ∧ Sound (withBytes []) (.calTapPush { cvBase := 8 }) unitCaliper
    ∧ Sound (withBytes []) (.calTapClose {}) unitCaliper
    ∧ Sound (withBytes []) (.scaleAdapt { sAddr := 512 }) unitCaliper := by
  refine ⟨sound_of (quiet_bytes _) ?_, sound_of (quiet_bytes _) ?_, sound_of (quiet_bytes _) ?_, sound_of (quiet_bytes _) ?_⟩ <;> decide +kernel

/-! ### The sequencer, streams, remote words -/

theorem quiet_withCore (k : Core) (hu : k.units = []) (hh : k.seq.held = []) (he : k.seq.ending = none) : ((withCore k).core 0).quiet :=
  quiet_of _ hu hh he

theorem witness_arrayConfigurations :
    Ready (withBytes []) 0 (.arrCfg { unit := 2 }) ∧ Ready (withBytes []) 0 (.hadamard { unit := 1, blk := 4 })
    ∧ Begins (withBytes []) 0 (.smooth { unit := 0 }) ∧ Ready (withBytes []) 0 (.lutCfg { unit := 2 })
    ∧ ((withBytes []).core 0).flights = [] := by
  refine ⟨ready_of (quiet_bytes []) ?_, ready_of (quiet_bytes []) ?_, begins_of (quiet_bytes []) ?_, ready_of (quiet_bytes []) ?_, rfl⟩ <;>
    decide +kernel

/-- A core in a loop of three iterations, with a swap pair. -/
def loopCore : Core := { seq := { loops := [(3, 1, 5)] }, swaps := [(0, some ⟨0, 64, false⟩)] }

theorem witness_sequencerWords :
    ((withCore loopCore).core 0).quiet ∧ wordOk (.nop {}) = true ∧ wordOk (.barLocal { units := 1 }) = true
    ∧ (∀ u ∈ barUnits { units := 1 }, (withCore loopCore).unitIdle 0 u = true) ∧ wordOk (.swapDef { hsize := 49152 }) = true
    ∧ wordOk (.swap {}) = true ∧ SMap.get none ((withCore loopCore).core 0).swaps 0 = some ⟨0, 64, false⟩
    ∧ wordOk (.creditSet {}) = true ∧ wordOk (.mark {}) = true ∧ ((withCore loopCore).setFlag audTraceLevel true).flag audTraceLevel = true
    ∧ wordOk (.loop { trip := 1 }) = true ∧ loopCore.seq.loops.length < 4 ∧ wordOk (.endLoop {}) = true
    ∧ ((withCore loopCore).core 0).seq.loops = [(3, 1, 5)] := by
  refine ⟨quiet_withCore _ rfl rfl rfl, ?_, ?_, ?_, ?_, ?_, ?_, ?_, ?_, ?_, ?_, ?_, ?_, ?_⟩ <;> decide +kernel

/-- A slice image that uses one core. -/
def tinyImage : Image :=
  ⟨false, false, true, false, 1, 1, 5000, [100], [], [1, 1, 1, 1, 1, 1], [], 0, 0, 0, [], [], [], [], [], zeros 64⟩

def tinyPlan : Plan := ⟨0, 1, 0, 64, zeros 64, [tinyImage], [], false, []⟩

/-- A descriptor of ring 64 that runs plan 1. -/
def tinyWork : Work := { ring := 64, seq := 1, desc := runBytes { seq := 1, planId := 1 } }

def tinyPlaced (st : SliceSt) : Placed := { ring := 64, seq := 1, slice := 0, cores := [0], fold2 := false, start := 0, length := 200, energy := 1, st := st }

/-- A part in a window, with one placed slice on core 0. -/
def inWindow (st : SliceSt) (k : Core) : State :=
  { withCore k with
    plans := [tinyPlan]
    works := [tinyWork]
    turn := { ready.turn with phase := .window, placed := [tinyPlaced st] } }

/-- A core that runs slice 0. -/
def busyCore : Core := { ctx := { work := some 0, coreOf := [0] } }

theorem idle_of {s : State} {k : Core} (h : s.core 0 = k) (hu : k.units = []) (hf : k.flights = []) (he : k.engines = []) (hm : s.mesh = []) :
    ∀ u, s.unitIdle 0 u = true := by
  intro u
  simp [State.unitIdle, h, hu, hf, he, hm, State.inFlight, Core.passOpen, Core.unit, Core.engine]

theorem witness_sliceEnd :
    ((inWindow .running busyCore).core 0).quiet ∧ wordOk (.sliceEnd {}) = true ∧ (∀ u, (inWindow .running busyCore).unitIdle 0 u = true)
    ∧ ((inWindow .running busyCore).core 0).seq.ended = none ∧ ((inWindow .running busyCore).core 0).ctx.work = some 0
    ∧ (inWindow .running busyCore).placedAt 0 = some (tinyPlaced .running) ∧ (tinyPlaced .running).cores = [0]
    ∧ (tinyPlaced .running).st = .running := by
  exact ⟨quiet_of _ rfl rfl rfl, by decide, idle_of (k := busyCore) rfl rfl rfl rfl rfl, rfl, rfl, rfl, rfl, rfl⟩

/-- A stream descriptor: 64 elements of one byte from address 64 to address 4096. -/
def streamBytes1 : List Byte :=
  le64 64 ++ le64 4096 ++ natToBytes 3 64 ++ [0] ++ le16 1 ++ le16 1 ++ le16 1 ++ le16 1 ++ zeros 40 ++ [0, 0, 0, 0, 0, 0, 0xFF, 0xFF, 0xFF, 0xFF, 0]

theorem witness_streamWords :
    (Begins (withBytes streamBytes1) 0 (.streamDef {}) ∧ (((withBytes streamBytes1).core 0).engine 0).pass = none
      ∧ ((withBytes streamBytes1).atBegin 0 (.streamDef {})).streamInvalid 0
        (((withBytes streamBytes1).atBegin 0 (.streamDef {})).rdBytes 0 (unitStream 0) (addr64 (0 : BitVec 17)) 128) = false)
    ∧ (Begins (withCore { engines := [(15, { desc := some {} })] }) 0 (.streamStart { unit := 15 })
      ∧ (((withCore { engines := [(15, { desc := some {} })] }).core 0).engine 15).pass = none
      ∧ (((withCore { engines := [(15, { desc := some {} })] }).core 0).engine 15).desc = some {})
    ∧ (Begins (withCore { engines := [(0, { armed := true })] }) 0 (.streamRearm {})
      ∧ (((withCore { engines := [(0, { armed := true })] }).core 0).engine 0).armed = true)
    ∧ Begins (withBytes []) 0 (.streamStop {}) ∧ Ready (withBytes streamBytes1) 0 (.streamDef {})
    ∧ Ready (withCore { engines := [(15, { desc := some {} })] }) 0 (.streamStart { unit := 15 })
    ∧ Ready (withCore { engines := [(0, { armed := true })] }) 0 (.streamRearm {}) ∧ Ready (withBytes []) 0 (.streamStop {}) := by
  refine ⟨⟨begins_of (quiet_bytes _) ?_, ?_, ?_⟩, ⟨begins_of (quiet_of _ rfl rfl rfl) ?_, ?_, ?_⟩, ⟨begins_of (quiet_of _ rfl rfl rfl) ?_, ?_⟩,
    begins_of (quiet_bytes _) ?_, ready_of (quiet_bytes _) ?_, ready_of (quiet_of _ rfl rfl rfl) ?_, ready_of (quiet_of _ rfl rfl rfl) ?_,
    ready_of (quiet_bytes _) ?_⟩ <;> decide +kernel

/-- A remote descriptor of 64 bytes between global address `g` and local address 0. -/
def remoteBytes (g : Nat) (n : Nat) (qw : Byte) : List Byte := le64 g ++ le32 0 ++ le32 n ++ le32 0 ++ le32 0 ++ [0, 0, qw]

/-- A core of a slice that spans two cores and two chips. -/
def pairCore (bs : List Byte) : Core := { mem := Mem.writeBytes [] 0 bs, ctx := { width := 2, chips := 2, coreOf := [0, 1], params := [2 ^ 52] } }

def remoteOf (s : State) (w : OpWord) (n : Nat) : RemoteDesc := remoteDescOf ((s.atBegin 0 w).rdBytes 0 unitRemote (addr64 (0 : BitVec 17)) n)

/-- What the PUT, GET and QADD statements ask of a descriptor at address 0. -/
def remoteFits (s : State) (w : OpWord) (qadd : Bool) : Bool :=
  canBegin s w && isReady s w
    && !((remoteOf s w 32).invalid ((s.atBegin 0 w).rdBytes 0 unitRemote (addr64 (0 : BitVec 17)) 32) qadd (s.atBegin 0 w).ctx.params.length)
    && decide ((remoteOf s w 32).la (s.core 0).seq.counters + (remoteOf s w 32).bytes ≤ coreMemBytes)
    && (s.atBegin 0 w).writeFree unitRemote [((remoteOf s w 32).la (s.core 0).seq.counters, (remoteOf s w 32).bytes)]

def remoteAt (s : State) (w : OpWord) : Nat := (remoteOf s w 32).ga (s.atBegin 0 w) (s.core 0).seq.counters

def resolves (s : State) (w : OpWord) (write : Bool) : EndPoint := s.resolve 0 (remoteAt s w) (remoteOf s w 32).bytes write

/-- What the statements of completion ask of the core memory, or the Chuck, that a descriptor at address 0 names. -/
def rangeFits (s : State) (w : OpWord) (limit : Nat) : Bool :=
  decide (remoteAt s w / 2 ^ 52 = (s.core 0).ctx.chip) && decide (remoteAt s w / 2 ^ 44 % 256 < (s.core 0).ctx.width)
    && decide (remoteAt s w % 2 ^ 44 % 16 = 0) && decide (remoteAt s w % 2 ^ 44 + (remoteOf s w 32).bytes ≤ limit)

/-- The part whose core 0 runs a slice of two cores that names a region of HBM. -/
def reading : State :=
  let k := pairCore (remoteBytes (240 * 2 ^ 44) 64 0)
  { inWindow .running { k with ctx := { k.ctx with work := some 0 } } with
    plans := [{ tinyPlan with images := [{ tinyImage with regions := [⟨240 * 2 ^ 44, 64, 2, 0, 0⟩] }] }] }

theorem witness_remoteWords :
    (remoteFits (withCore (pairCore (remoteBytes 4096 64 0))) (.put {}) false = true
      ∧ resolves (withCore (pairCore (remoteBytes 4096 64 0))) (.put {}) true = .own 4096
      ∧ rangeFits (withCore (pairCore (remoteBytes 4096 64 0))) (.put {}) coreMemBytes = true)
    ∧ (remoteFits (withCore (pairCore (remoteBytes (2 ^ 44 + 4096) 64 0))) (.put {}) false = true
      ∧ resolves (withCore (pairCore (remoteBytes (2 ^ 44 + 4096) 64 0))) (.put {}) true = .core 1 4096)
    ∧ (remoteFits (withCore (pairCore (remoteBytes (2 ^ 52 + 4096) 64 0))) (.put {}) false = true
      ∧ crossOk (pairCore []).ctx (2 ^ 52 + 4096) 64 = true)
    ∧ (remoteFits (withCore (pairCore (remoteBytes 4096 64 0))) (.get {}) false = true
      ∧ resolves (withCore (pairCore (remoteBytes 4096 64 0))) (.get {}) false = .own 4096)
    ∧ (remoteFits (withCore (pairCore (remoteBytes (2 ^ 44) 64 0))) (.get {}) false = true
      ∧ resolves (withCore (pairCore (remoteBytes (2 ^ 44) 64 0))) (.get {}) false = .core 1 0
      ∧ rangeFits (withCore (pairCore (remoteBytes (2 ^ 44) 64 0))) (.get {}) coreMemBytes = true)
    ∧ (remoteFits reading (.get {}) false = true ∧ resolves reading (.get {}) false = .ext (240 * 2 ^ 44))
    ∧ (remoteFits (withCore (pairCore (remoteBytes (2 ^ 44) 64 0))) (.qadd {}) true = true
      ∧ rangeFits (withCore (pairCore (remoteBytes (2 ^ 44) 64 0))) (.qadd {}) (16 * chuckUnits) = true)
    ∧ (canBegin (withCore (pairCore [])) (.signal { tgt := 1, inc := 1 }) = true ∧ 1 < (pairCore []).ctx.width
      ∧ isReady (withCore (pairCore [])) (.signal { tgt := 1, inc := 1 }) = true ∧ (pairCore []).ctx.chip < (pairCore []).ctx.chips)
    ∧ (canBegin (withCore (pairCore [])) (.signal { tparam := 1, inc := 1 }) = true
      ∧ bitField (paramOf ((withCore (pairCore [])).atBegin 0 (.signal { tparam := 1, inc := 1 })) 1) 52 12 = 1) := by
  refine ⟨⟨?_, ?_, ?_⟩, ⟨?_, ?_⟩, ⟨?_, ?_⟩, ⟨?_, ?_⟩, ⟨?_, ?_, ?_⟩, ⟨?_, ?_⟩, ⟨?_, ?_⟩, ⟨?_, ?_, ?_, ?_⟩, ?_, ?_⟩ <;> decide +kernel

theorem witness_waitAndFence :
    (Begins (withCore { counters := [(0, 7)] }) 0 (.wait { count := 7 }) ∧ 7 ≤ ((withCore { counters := [(0, 7)] }).core 0).counter 0)
    ∧ (Begins (withBytes []) 0 (.wait { ctr := 31, count := 1 }) ∧ ((withBytes []).core 0).counter 31 < 1) ∧ Begins (withBytes []) 0 (.fence {})
    ∧ Ready (withCore { counters := [(0, 7)] }) 0 (.wait { count := 7 }) ∧ Ready (withBytes []) 0 (.fence {}) ∧ (withBytes []).inFlight 0 = false := by
  refine ⟨⟨begins_of (quiet_of _ rfl rfl rfl) ?_, ?_⟩, ⟨begins_of (quiet_bytes _) ?_, ?_⟩, begins_of (quiet_bytes _) ?_,
    ready_of (quiet_of _ rfl rfl rfl) ?_, ready_of (quiet_bytes _) ?_, ?_⟩ <;> decide +kernel

theorem witness_treeStep :
    Begins (withBytes []) 0 (.treeStep { count := 1 }) ∧ treeRole { count := 1 } 0 1 = .idle
    ∧ treeRole { count := 1 } 1 2 = .sender 0 ∧ addr64 (0 : BitVec 17) + treeBytes ((withBytes []).atBegin 0 (.treeStep { count := 1 })) { count := 1 } ≤ coreMemBytes
    ∧ Begins (withCore (pairCore [])) 0 (.treeStep { count := 1 }) ∧ treeRole { count := 1 } 0 2 = .receiver 1
    ∧ treeRole { count := 1, chip := 1, arrival := 1 } 1 2 = .sender 0 := by
  refine ⟨begins_of (quiet_bytes _) ?_, ?_, ?_, ?_, begins_of (quiet_of _ rfl rfl rfl) ?_, ?_, ?_⟩ <;> decide +kernel

/-! ### Events of the cores -/

theorem witness_sliceStart :
    (inWindow .placed {}).placedAt 0 = some (tinyPlaced .placed) ∧ (inWindow .placed {}).findWork 64 1 = some tinyWork
    ∧ (inWindow .placed {}).imageOf tinyWork 0 = some tinyImage ∧ (tinyPlaced .placed).st = .placed
    ∧ (inWindow .placed {}).turn.phase = .window ∧ (inWindow .placed {}).turn.stretched = false
    ∧ (∀ c ∈ (tinyPlaced .placed).cores, (inWindow .placed {}).coreBusy c = false) ∧ (tinyPlaced .placed).cores.Nodup := by
  refine ⟨rfl, rfl, ?_, rfl, rfl, rfl, ?_, ?_⟩ <;> decide +kernel

theorem unit_of (u : UnitId) (x : UnitState) (hw : x.waiting = []) (hb : x.blocked = none) (hs : x.stall = 0) (k : Core)
    (hk : k.units = [(u, x)]) (hh : k.seq.held = []) (he : k.seq.ending = none) : k.quiet := by
  refine ⟨⟨fun v => ?_, fun v => ?_, fun v => ?_⟩, hh, he⟩ <;> simp only [Core.unit, hk, SMap.get] <;> split <;> first | assumption | rfl

theorem witness_resultsDelivered :
    ((withCore { units := [(0, { nextOp := 1 })] }).core 0).quiet
    ∧ (((withCore { units := [(0, { nextOp := 1 })] }).core 0).unit 0).doneOp < (((withCore { units := [(0, { nextOp := 1 })] }).core 0).unit 0).nextOp
    ∧ ((withCore { units := [(4, { nextOp := 3, doneOp := 2 })] }).core 0).quiet
    ∧ (((withCore { units := [(4, { nextOp := 3, doneOp := 2 })] }).core 0).unit 4).doneOp < 3 :=
  ⟨unit_of 0 _ rfl rfl rfl _ rfl rfl rfl, by decide +kernel, unit_of 4 _ rfl rfl rfl _ rfl rfl rfl, by decide +kernel⟩

/-- A part whose mesh carries one effect of core 0. -/
def onMesh (k : Core) (l : Landing) : State := { withCore k with mesh := [l] }

theorem witness_remoteLanding :
    (popLanding 0 (onMesh {} ⟨0, 0, 1, .bytes 0 [7]⟩).mesh = some (⟨0, 0, 1, .bytes 0 [7]⟩, []) ∧ ((onMesh {} ⟨0, 0, 1, .bytes 0 [7]⟩).core 0).quiet
      ∧ ((onMesh {} ⟨0, 0, 1, .bytes 0 [7]⟩).core 1).swaps = [])
    ∧ ((onMesh {} ⟨0, 0, 1, .signal 31 1⟩).core 0).quiet ∧ ((onMesh {} ⟨0, 0, 1, .signal 31 1⟩).core 1).counter 31 + (2 ^ 32 - 1) < 2 ^ 32
    ∧ 2 ^ 32 ≤ ((onMesh { counters := [(31, 0xFFFFFFFF)] } ⟨0, 0, 0, .signal 31 1⟩).core 0).counter 31 + 1
    ∧ (⟨0, 0, 1, .images .q128 0 [1]⟩ : Landing).dst ≠ 0
    ∧ popLanding 0 (onMesh {} ⟨0, 0, 0, .hbm (0xF0 * 2 ^ 44) [7]⟩).mesh = some (⟨0, 0, 0, .hbm (0xF0 * 2 ^ 44) [7]⟩, [])
    ∧ (let s := onMesh { units := [(5, { blocked := some .getData })] } ⟨0, 0, 0, .got 0 [7]⟩
      (s.core 0).swaps = [] ∧ (s.core 0).seq.held = [] ∧ (s.core 0).seq.ending = none ∧ (∀ u, ((s.core 0).unit u).waiting = [])
        ∧ ∀ u, u ≠ unitRemote → ((s.core 0).unit u).blocked = none) := by
  refine ⟨⟨rfl, quiet_of _ rfl rfl rfl, rfl⟩, quiet_of _ rfl rfl rfl, by decide +kernel, by decide +kernel, by decide, rfl,
    rfl, rfl, rfl, fun u => ?_, fun u hu => ?_⟩
  · show (SMap.get {} [(5, ({ blocked := some .getData } : UnitState))] u).waiting = []
    simp only [SMap.get]; split <;> rfl
  · show (SMap.get {} [(5, ({ blocked := some .getData } : UnitState))] u).blocked = none
    simp only [SMap.get]; rw [if_neg (show ¬ u = 5 from hu)]

/-- A core whose remote port waits. -/
def waiting (b : Blocked) (n : Nat) : Core := { units := [(5, { blocked := some b })], counters := [(0, BitVec.ofNat 32 n)] }

theorem waiting_free (b : Blocked) (n : Nat) : (∀ u, ((waiting b n).unit u).waiting = []) ∧ ∀ u, u ≠ unitRemote → ((waiting b n).unit u).blocked = none := by
  refine ⟨fun u => ?_, fun u hu => ?_⟩
  · show (SMap.get {} [(5, ({ blocked := some b } : UnitState))] u).waiting = []
    simp only [SMap.get]; split <;> rfl
  · show (SMap.get {} [(5, ({ blocked := some b } : UnitState))] u).blocked = none
    simp only [SMap.get]; rw [if_neg (show ¬ u = 5 from hu)]

theorem witness_waitsComplete :
    (((withCore (waiting (.waitCounter 0 2) 2)).core 0).unit unitRemote).blocked = some (.waitCounter 0 2)
    ∧ 2 ≤ ((withCore (waiting (.waitCounter 0 2) 2)).core 0).counter 0 ∧ ((withCore (waiting (.waitCounter 0 2) 1)).core 0).counter 0 < 2
    ∧ (((withCore (waiting (.treeReceive 0 { count := 1 }) 1)).core 0).unit unitRemote).blocked = some (.treeReceive 0 { count := 1 })
    ∧ 1 ≤ ((withCore (waiting (.treeReceive 0 { count := 1 }) 1)).core 0).counter 0
    ∧ ((withCore (waiting (.treeReceive 0 { count := 1 }) 0)).core 0).counter 0 < 1
    ∧ (∀ u, u ≠ unitRemote → (((withCore (waiting (.treeReceive 0 { count := 1 }) 1)).core 0).unit u).blocked = none) := by
  refine ⟨rfl, ?_, ?_, rfl, ?_, ?_, (waiting_free _ _).2⟩ <;> decide +kernel

/-- A pass of 64 one-byte elements from address 0 to address 4096 of core 0. -/
def bytePass (src : Nat) (edge : Nat) : Pass :=
  { desc := { src := src, dst := 4096, len0 := 64, inEdge := edge, sfmt := 4, dfmt := 4 }, loops := [], swaps := [], done := 0 }

def passCore (p : Pass) : Core :=
  { engines := [(0, { pass := some p })], ctx := { coreOf := [0], edges := [⟨1, 1, 1, 0, 1, 64⟩] }, mem := [(3, 9)] }

inductive Verdict where
  | moved | stalled | invalid
  deriving DecidableEq, Repr

def verdict : Retire → Verdict
  | .moved _ _ => .moved
  | .stalled _ => .stalled
  | .invalid => .invalid

theorem witness_streamRequests :
    verdict ((withCore (passCore (bytePass 0 0xFFFF))).retireRequest 0 0 (bytePass 0 0xFFFF)) = .moved
    ∧ ((withCore (passCore (bytePass 0 0xFFFF))).core 0).quiet
    ∧ verdict ((withCore (passCore (bytePass 0 0))).retireRequest 0 0 (bytePass 0 0)) = .stalled
    ∧ verdict ((withCore (passCore (bytePass (2 ^ 44) 0xFFFF))).retireRequest 0 0 (bytePass (2 ^ 44) 0xFFFF)) = .invalid
    ∧ ((withBytes []).core 0 |>.engine 15).pass = none
    ∧ streamBytes (Fmt.ofCode 4) ((bytePass 0 0xFFFF).desc.request 0) ≤ 64
    ∧ (∀ j, j < 64 → (withCore (passCore (bytePass 0 0xFFFF))).resolve 0 ((bytePass 0 0xFFFF).srcByte (passCore (bytePass 0 0xFFFF)) 0 j) 1 false
      = .own j ∧ (withCore (passCore (bytePass 0 0xFFFF))).resolve 0 ((bytePass 0 0xFFFF).dstByte (passCore (bytePass 0 0xFFFF)) 0 j) 1 true
      = .own (4096 + j)) := by
  refine ⟨?_, quiet_of _ rfl rfl rfl, ?_, ?_, ?_, ?_, ?_⟩ <;> decide +kernel

theorem witness_coreErrors :
    (inWindow .running busyCore).placedAt 0 = some (tinyPlaced .running) ∧ (inWindow .running busyCore).placedImage (tinyPlaced .running) = some tinyImage
    ∧ tinyImage.elastic = true ∧ ((inWindow .running busyCore).core 0).ctx.work = some 0 ∧ (tinyPlaced .running).active = true ∧ ready.hbm.physical 7 30 < 32
    ∧ ((withBytes []).core 0).ctx.work = none ∧ (withBytes []).coreOut 0 = 0
    ∧ ({ withBytes [] with witness := { coreState := [(0, 1)] } } : State).coreOut 0 ≠ 0 := by
  refine ⟨rfl, ?_, ?_, ?_, ?_, ?_, ?_, ?_, ?_⟩ <;> decide +kernel

/-! ### HBM, cores and standbys -/

theorem witness_sectors :
    (inWindow .running busyCore).hbm.keyOf 5 (channelOff 30 (7 * 64)) = some (0xF5 * 2 ^ 44 + channelOff 30 (7 * 64))
    ∧ isMirrored (0xF5 * 2 ^ 44 + channelOff 30 (7 * 64)) = false
    ∧ (inWindow .running busyCore).placedAt 0 = some (tinyPlaced .running) ∧ (tinyPlaced .running).active = true
    ∧ (inWindow .running busyCore).hbm.ueTurn = [] ∧ (inWindow .running busyCore).hbm.ues = []
    ∧ (inWindow .running busyCore).hbm.journalHit 5 (channelOff 30 (7 * 64)) = false
    ∧ (inWindow .running busyCore).hbm.journalHit 0 (channelOff 0 (1082404 * 64)) = false
    ∧ ((inWindow .running busyCore).hbm.keyOf 0 (channelOff 0 (1082404 * 64))).map isMirrored = some true
    ∧ (inWindow .running busyCore).hbm.hasOther 0 = true := by
  refine ⟨?_, ?_, rfl, ?_, rfl, rfl, ?_, ?_, ?_, ?_⟩ <;> decide +kernel

/-- A part whose stack 3 is lost. -/
def stackOut : State := { ready with hbm := { stks := [(3, { lost := true })], newlyLost := [3] } }

/-- A part whose slice on core 0 has touched stack 7. -/
def touching : State := { inWindow .running busyCore with
  turn := { (inWindow .running busyCore).turn with placed := [{ tinyPlaced .running with touched := [7] }] } }

/-- A part whose journal moves, with stack 1 holding a last copy; and one whose stack 2 copies a channel. -/
def lastCopy : State := { ready with hbm := { stks := [(5, { lost := true })], journalMove := true } }
def copying : State := { ready with hbm := { stks := [(2, { copying := some 30 })] } }

theorem witness_channelsAndStacks :
    ((ready.hbm.stack 0).spareFor = 31 ∧ (ready.hbm.stack 0).copying = none ∧ ready.hbm.journalMove = false)
    ∧ ((lastCopy.hbm.stack 1).spareFor = 31 ∧ (lastCopy.hbm.stack 1).copying = none ∧ lastCopy.hbm.journalMove = true
      ∧ lastCopy.hbm.hasOther 1 = false) ∧ (copying.hbm.stack 2).copying = some 30
    ∧ (stackOut.hbm.stack 3).lost = true ∧ (stackOut.hbm.stack 0).lost = false ∧ stackOut.hbm.anyLost = true
    ∧ (touching.hbm.stack 7).lost = false ∧ touching.hbm.anyLost = false
    ∧ touching.placedAt 0 = some { tinyPlaced .running with touched := [7] } ∧ ({ tinyPlaced .running with touched := [7] } : Placed).active = true := by
  decide +kernel

theorem witness_coresAndStandbys :
    (inWindow .running busyCore).coreOut 0 = 0 ∧ (inWindow .running busyCore).placedAt 0 = some (tinyPlaced .running)
    ∧ (0 : Nat) ∈ (tinyPlaced .running).cores ∧ ({ ready with witness := { coreState := [(143, 1)] } } : State).coreOut 143 ≠ 0
    ∧ ready.power.hstDead = false ∧ ready.power.mpDead = false ∧ ready.nv.activation = none
    ∧ ({ ready with power := { ready.power with hstDead := true, mpDead := true } } : State).power.hstDead = true := by
  refine ⟨?_, rfl, ?_, ?_, ?_, ?_, ?_, rfl⟩ <;> decide +kernel

/-! ### Turns, host requests and seals -/

theorem witness_turnHead :
    ready.power.state = .ready ∧ ready.turn.phase ≠ .window ∧ ready.flag audReplayActive = false
    ∧ ((ready.setFlag audReplayActive true).setFlag audDiverged true).flag audReplayActive = true
    ∧ ((ready.setFlag audReplayActive true).setFlag audDiverged true).flag audDiverged = true
    ∧ (inWindow .placed {}).turn.phase = .window := by
  decide +kernel

/-- A certified image. -/
def certImage : Image := { tinyImage with elastic := false, repro := true }

/-- A part whose certified slice still runs at the tail. -/
def lateCert : State := { inWindow .running busyCore with plans := [{ tinyPlan with images := [certImage] }] }

theorem witness_turnTail :
    (inWindow .running busyCore).power.state = .ready ∧ (inWindow .running busyCore).turn.phase = .window
    ∧ (inWindow .running busyCore).stretches = false ∧ lateCert.stretches = true ∧ lateCert.turn.stretched = false
    ∧ lateCert.power.state = .ready ∧ lateCert.turn.phase = .window ∧ ready.turn.phase ≠ .window
    ∧ ({ lateCert with turn := { lateCert.turn with stretched := true } } : State).turn.stretched = true := by
  decide +kernel

/-- A part with function 0 enabled and taken up, and one work. -/
def withWork (w : Work) : State := { ready.setHif 0 hifEnable 1 with access := { up := [0] }, plans := [tinyPlan], works := [w] }

theorem witness_staging :
    (withWork tinyWork).findWork 64 1 = some tinyWork ∧ (withWork tinyWork).planOf tinyWork = some tinyPlan ∧ tinyWork.isRun = true
    ∧ tinyWork.result = none ∧ tinyWork.staged = false ∧ tinyWork.st = .accepted ∧ (withWork tinyWork).hostOpen 0 = true ∧ tinyWork.idig = none
    ∧ (withWork tinyWork).access.up.contains 0 = true := by
  decide +kernel

theorem witness_restaging :
    (withWork { tinyWork with idig := some [] }).findWork 64 1 = some { tinyWork with idig := some [] }
    ∧ ((withWork { tinyWork with idig := some [] }).inputDigest { tinyWork with idig := some [] } tinyPlan).length ≠ 0 := by
  decide +kernel

theorem witness_copies :
    (withWork { tinyWork with st := .committed, copiedBack := false, result := some stOk }).findWork 64 1
      = some { tinyWork with st := .committed, copiedBack := false, result := some stOk } := by
  decide +kernel

theorem witness_seals :
    ready.audit.signing = none ∧ ({ ready with audit := { signing := some ⟨1, 5, zeros 304⟩ } } : State).audit.signing = some ⟨1, 5, zeros 304⟩ := by
  decide +kernel

/-! ### Power, temperature, clocks and pins -/

theorem witness_brake :
    ready.powered = true ∧ State.reset.powered = false ∧ (599 : Nat) ∉ ready.thermal.masked
    ∧ (0 : Nat) ∈ ({ masked := [0] } : Thermal).masked ∧ ready.flag tlsPin = false ∧ (ready.setFlag tlsPin true).flag tlsPin = true := by
  decide +kernel

theorem witness_thermal :
    ready.power.state ≠ .off ∧ ready.power.state ≠ .tripped ∧ ready.powered = true ∧ State.reset.powered = false
    ∧ (599 : Nat) ∉ ready.thermal.masked := by
  decide +kernel

/-- A part at the end of self-test whose hold-up bank holds as much as its registers can show. -/
def waitingHost : State :=
  { (ready.setFld nviHuCap 65535).setFld nviHuVolt 65535 with power := { ready.power with state := .starting } }

theorem waitingHost_chunk : waitingHost.chunkPages ≠ 0 := by
  have h : waitingHost.chunkPages = 85 * 65535 * (65535 * 65535 - 16000000) / (9600000 * max 1 Config.holdupMw.toNat) - 1 := by
    unfold State.chunkPages
    rw [show waitingHost.fld nviHuVolt = 65535 by decide +kernel, show waitingHost.fld nviHuCap = 65535 by decide +kernel,
      if_pos (show (waitingHost.nv.flash0.ok || waitingHost.nv.flash1.ok) = true from rfl)]
  have hp : Config.holdupMw.toNat < 65536 := Config.holdupMw.isLt
  have hd : 2 ≤ 85 * 65535 * (65535 * 65535 - 16000000) / (9600000 * max 1 Config.holdupMw.toNat) :=
    (Nat.le_div_iff_mul_le (by omega)).2 (by omega)
  omega

theorem waitingHost_nrCode : waitingHost.nrCode = 0 := by
  have h1 : waitingHost.power.bringUp = {} := rfl
  have h2 : ¬ waitingHost.inService.length < 64 := by decide +kernel
  have h3 : ¬ 2 ≤ ((List.range 8).filter (fun k => (waitingHost.hbm.stack k).lost)).length := by decide +kernel
  have h4 : ¬ waitingHost.topoCode ≠ 0 := by decide +kernel
  have h5 : ¬ (waitingHost.fld nviHuCap < 800 ∨ waitingHost.chunkPages = 0) := by
    have : waitingHost.fld nviHuCap = 65535 := by decide +kernel
    have := waitingHost_chunk
    omega
  simp only [State.nrCode, h1]
  rw [if_neg h2, if_neg h3, if_neg h4, if_neg h5]
  decide

theorem witness_partComesUp :
    State.reset.power.state = .off ∧ 46000 ≤ ({} : BringUpIn).vinMv ∧ ({} : BringUpIn).vinMv ≤ 56000
    ∧ waitingHost.powered = true ∧ waitingHost.power.state ≠ .ready ∧ waitingHost.power.perst = false ∧ waitingHost.nrCode = 0
    ∧ ({ waitingHost with power := { waitingHost.power with bringUp := { factoryOk := false } } } : State).nrCode = 1 := by
  refine ⟨by decide +kernel, by decide, by decide, by decide +kernel, by decide +kernel, by decide +kernel, waitingHost_nrCode, ?_⟩
  simp [State.nrCode]

/-- A part after a thermal trip. -/
def trippedPart (t : Int) : State :=
  { ready with power := { ready.power with state := .tripped, perst := true, thermtripN := true }, thermal := { sensors := [(0, t)] } }

theorem witness_perst :
    ready.power.perst = false ∧ ready.powered = true ∧ State.reset.power.perst = true ∧ State.reset.power.state = .off
    ∧ (trippedPart 94999).power.perst = true ∧ (trippedPart 94999).power.state = .tripped ∧ (trippedPart 94999).thermal.cool = true
    ∧ (trippedPart 95000).thermal.cool = false ∧ (trippedPart 0).powered = false
    ∧ ({ ready with power := { ready.power with perst := true } } : State).powered = true := by
  decide +kernel

theorem witness_powerInputs :
    ready.power.state ≠ .off ∧ ready.powered = true ∧ ready.power.brakeVin = false ∧ State.reset.power.state = .off
    ∧ hasShare 1 8 = true ∧ hasShare 2 8 = false ∧ (SMap.get {} ready.power.shares 24).used + (SMap.get {} ready.power.shares 24).removed < 2
    ∧ 2 ≤ ({ used := 1, removed := 1 } : Share).used + 1 ∧ ({ ready.power with brakeVin := true } : Power).brakeVin = true := by
  decide +kernel

theorem witness_clocks :
    ready.power.state ≠ .off ∧ ready.power.intOsc = false ∧ ready.powered = true ∧ State.reset.powered = false
    ∧ ({ ready.power with intOsc := true } : Power).intOsc = true ∧ ({ ready with power := { ready.power with state := .notReady } } : State).powered = true := by
  decide +kernel

/-- A part whose PWRBRK_N input is watched, and one whose input is unstable. -/
def watched : State := (ready.setFlag (pinRateEn (pinCode .pwrbrk)) true).setFlag (pinStuckS (pinCode .pwrbrk)) true

theorem witness_pins :
    watched.flag (pinRateEn (pinCode .pwrbrk)) = true ∧ watched.flag (pinUnstableF (pinCode .pwrbrk)) = false ∧ watched.power.state ≠ .off
    ∧ (watched.setFlag (pinUnstableF (pinCode .pwrbrk)) true).flag (pinUnstableF (pinCode .pwrbrk)) = true
    ∧ (watched.setFlag (pinLevel (pinCode .pwrbrk)) true).flag (pinStuckS (pinCode .pwrbrk)) = true
    ∧ (watched.setFlag (pinLevel (pinCode .pwrbrk)) true).flag (pinLevel (pinCode .pwrbrk)) = true
    ∧ (watched.setFlag (pinLevel (pinCode .pwrbrk)) true).flag (pinStuckF (pinCode .pwrbrk)) = false := by
  decide +kernel

/-! ### Links -/

/-- A part of a torus with its port 0 active on lane 0, next to chip 1. -/
def linked : State :=
  { ready with links :=
    { topo := { kind := 2, dims := 1, ext := [2], size := 2, self := 0, master := 1, backup := 0, ports := [(1, 0, 1)] }
      ports := [(0, { lanes := [0], state := 6 })]
      sync := { master := 1 } } }

/-- What can be evaluated of `hops`. -/
def hopsB (s : State) (ft p : Nat) (f : Flit) : Bool :=
  !(s.port p).lanes.isEmpty && !(s.port p).down && decide (5 ≤ (s.port p).state) && flitCrcOk f && decide (f.lseq.toNat % 4096 = (s.port p).rxSeq)
    && decide (f.ftype.toNat = ft) && !(flitReserved f)

theorem hops_of {s : State} {ft p : Nat} {f : Flit} (h : hopsB s ft p f = true) : s.hops ft p f := by
  simp only [hopsB, Bool.and_eq_true, Bool.not_eq_true', decide_eq_true_eq] at h
  obtain ⟨⟨⟨⟨⟨⟨h1, h2⟩, h3⟩, h4⟩, h5⟩, h6⟩, h7⟩ := h
  refine ⟨?_, h2, h3, h4, h5, h6, h7⟩
  intro e
  rw [e] at h1
  cases h1

/-- A flit of type `ft` from chip 1. -/
def flitOf (ft flags : Nat) (payload : List Byte) : Flit := mkFlit ft flags 1 0 0 payload

theorem witness_flits :
    (linked.port 1).lanes = [] ∧ (linked.port 0).lanes ≠ [] ∧ (linked.port 0).down = false ∧ 5 ≤ (linked.port 0).state
    ∧ flitCrcOk { flitOf ftData 3 [] with crc := 0 } = false ∧ flitCrcOk (flitOf ftData 4 []) = true ∧ flitReserved (flitOf ftData 4 []) = true
    ∧ (flitOf 0x3F 0 []).ftype.toNat ≠ ftData ∧ (flitOf ftData 4 []).lseq.toNat % 4096 = (linked.port 0).rxSeq := by
  refine ⟨rfl, ?_, rfl, ?_, ?_, ?_, ?_, ?_, ?_⟩ <;> decide +kernel

theorem pairs_linked (ft flags : Nat) (payload : List Byte) (h : (flitOf ft flags payload).dst.toNat = 0)
    (he : (flitOf ft flags payload).eseq.toNat = 0) : linked.pairs (flitOf ft flags payload) := by
  refine ⟨h, he, rfl, ?_⟩
  have : linked.inboundBytes = 0 := rfl
  simp [State.inboundFull, this]

/-- The header of a word of 16 bytes for chip 0. -/
def wordBytes : List Byte := [1] ++ zeros 0x13 ++ le32 16 ++ zeros 24 ++ List.replicate 16 7

theorem witness_routed :
    (linked.pairs (flitOf ftData 3 wordBytes) ∧ linked.hops ftData 0 (flitOf ftData 3 wordBytes)
      ∧ (flitOf ftData 3 wordBytes).fflags.getLsbD 0 = true ∧ (flitOf ftData 3 wordBytes).fflags.getLsbD 1 = true
      ∧ (parseWord 1 (flitOf ftData 3 wordBytes).payload).isSome = true)
    ∧ (linked.pairs (flitOf ftRelease 0 []) ∧ linked.hops ftRelease 0 (flitOf ftRelease 0 [])
      ∧ fieldAt (flitOf ftRelease 0 []).payload 8 2 ≤ 16 ∧ fieldAt (flitOf ftRelease 0 []).payload 10 2 = 0
      ∧ fieldAt (flitOf ftRelease 0 []).payload 0xEC 4 = 0)
    ∧ linked.pairs (flitOf ftNotice 0 [1]) ∧ linked.hops ftNotice 0 (flitOf ftNotice 0 [1])
    ∧ fieldAt (flitOf ftNotice 0 [1]).payload 2 1 = 0 := by
  refine ⟨⟨pairs_linked _ _ _ ?_ ?_, hops_of ?_, ?_, ?_, ?_⟩, ⟨pairs_linked _ _ _ ?_ ?_, hops_of ?_, ?_, ?_, ?_⟩,
    pairs_linked _ _ _ ?_ ?_, hops_of ?_, ?_⟩ <;> decide +kernel

theorem witness_linkControl :
    linked.hops ftE2eAck 0 (flitOf ftE2eAck 0 []) ∧ (flitOf ftE2eAck 0 []).dst.toNat = linked.links.topo.self
    ∧ linked.hops ftLinkAck 0 (flitOf ftLinkAck 0 []) ∧ fieldAt (flitOf ftLinkAck 0 []).payload 0 1 ≠ 1
    ∧ linked.hops ftLinkAck 0 (flitOf ftLinkAck 0 [1]) ∧ fieldAt (flitOf ftLinkAck 0 [1]).payload 0 1 = 1
    ∧ (flitOf ftData 3 []).lseq.toNat = fieldAt (flitOf ftLinkAck 0 [1]).payload 1 2
    ∧ linked.hops 0 0 (flitOf 0 0 []) ∧ linked.hops ftPeer 0 (flitOf ftPeer 0 [1]) := by
  refine ⟨hops_of ?_, ?_, hops_of ?_, ?_, hops_of ?_, ?_, ?_, hops_of ?_, hops_of ?_⟩ <;> decide +kernel

/-- A part that follows a master's grid by the TURN_SYNC input. -/
def following (y : SyncState) : State := { linked with hbm := { layout := { syncMode := 1 } }, links := { linked.links with sync := y } }

theorem witness_turnAlignment :
    linked.hops ftSync 0 (flitOf ftSync 0 (zeros 12 ++ [1])) ∧ fieldAt (flitOf ftSync 0 (zeros 12 ++ [1])).payload 12 2 = linked.links.topo.master
    ∧ linked.links.sync.master ≠ linked.links.topo.backup
    ∧ (following { master := 1 }).power.state = .ready ∧ (following { master := 1 }).follows = true
    ∧ (following { master := 1 }).hbm.layout.syncMode = 1 ∧ ((following { master := 1 }).setFlag (pinRateEn 2) false).flag (pinRateEn 2) = false
    ∧ (((following { master := 1 }).setFlag (pinRateEn 2) true).setFld hstTurnTicks 10000).flag (pinRateEn 2) = true
    ∧ 0 < (((following { master := 1 }).setFlag (pinRateEn 2) true).setFld hstTurnTicks 10000).fld hstTurnTicks
      - 2 * (((following { master := 1 }).setFlag (pinRateEn 2) true).setFld hstTurnTicks 10000).syncLimit
    ∧ (following { master := 1, missed := 3 }).flag lnkSyncLost = false ∧ (following { master := 1, missed := 3 }).follows = true
    ∧ (((following { master := 1, good := 3, lostTurns := 10 }).setFlag lnkSyncLost true).setFld hstTurnTicks 10000).flag lnkSyncLost = true
    ∧ 3 ≤ (following { master := 1, good := 3, lostTurns := 10 }).links.sync.good
    ∧ linked.links.topo.backup = linked.links.topo.self ∧ (1 : Nat) ≠ linked.links.topo.self := by
  refine ⟨hops_of ?_, ?_, ?_, ?_, ?_, ?_, ?_, ?_, ?_, ?_, ?_, ?_, ?_, ?_, ?_⟩ <;> decide +kernel

/-- The part with its spare lane in use, with words held for chip 1, and with an orphan of chip 1. -/
def spareUsed : State := { linked with links := { linked.links with spares := [(0, some 1)] } }
def holding : State := { ready with links := { ready.links with topo := { linked.links.topo with size := 3 }, outs := [(2, { held := [flitOf ftData 3 []] })] } }
def orphan : LinkWord := ⟨1, true, 0, 64, 1, 0, 0, 0, 0, 0, 0, 0, [], some 0⟩
def orphaned : State := { ready.setFld lnkLinkHold 0 with links := { ready.links with ins := [(1, { words := [orphan] })] } }

/-- The part with its ports to chip 1 down. -/
def portsOut : State := { ready with links := { ready.links with topo := linked.links.topo } }

theorem witness_lanes :
    linked.portWith 0 = some 0 ∧ SMap.get none linked.links.spares (portSpare 0) = none ∧ 0 ≠ spareLane (portSpare 0)
    ∧ spareLane (portSpare 0) ∉ linked.links.deadLanes
    ∧ spareUsed.portWith 0 = some 0 ∧ SMap.get none spareUsed.links.spares (portSpare 0) ≠ none
    ∧ lanePort 3 = some 0 ∧ ready.powered = true ∧ 3 ∉ (ready.port 0).lanes ∧ 3 ∉ ready.links.deadLanes ∧ (ready.port 0).lanes.length < 4
    ∧ portsOut.links.topo.ports.getD 0 (0, 0, 0) = (1, 0, 1) ∧ portsOut.upOf (portsOut.links.topo.portsTo 1) = [] := by
  decide +kernel

theorem witness_linkTimers :
    (holding.pairOut 2).held = [flitOf ftData 3 []] ∧ holding.routePort holding.links.topo.self 2 = none
    ∧ (ready.pairOut 1).held = []
    ∧ (orphaned.pairIn 1).words[0]? = some orphan ∧ orphan.due = some 0 ∧ 0 + orphaned.fld lnkLinkHold ≤ orphaned.sturn := by
  refine ⟨rfl, ?_, rfl, rfl, rfl, ?_⟩ <;> decide +kernel

/-! ### The host interface -/

theorem witness_hostInterface :
    ready.hostPath = true ∧ ready.power.state = .ready ∧ waitingHost.hostPath = true ∧ waitingHost.power.state ≠ .ready
    ∧ waitingHost.power.state ≠ .notReady ∧ State.reset.hostPath = false ∧ SMap.wf none ready.rings = true := by
  decide +kernel

theorem witness_hostLink :
    ready.hostPath = true ∧ (ready.setFld hifLinkWidth 16).fld hifLinkWidth ≠ 0 ∧ (ready.setFld hifLinkWidth 16).hostPath = true
    ∧ State.reset.hostPath = false ∧ State.reset.powered = false
    ∧ linkShape 16 6 = true ∧ linkShape 8 6 = true ∧ linkShape 3 9 = false ∧ 8 < (ready.setFld hifLinkWidth 16).fld hifLinkWidth
    ∧ ready.powered = true ∧ ready.power.configReady = true ∧ ({ ready with power := { ready.power with configReady := false } } : State).powered = true
    ∧ ready.hostOpen 63 = true ∧ ({ d3hot := [63] } : Access).d3hot.contains 63 = true := by
  decide +kernel

/-- A part with its HBM domain off. -/
def partOff : State := ready.setFld devDomains 0

theorem witness_registerReads :
    ready.hostPath = true ∧ State.reset.hostPath = false ∧ inBar 0 0x8 = true ∧ inBar 1 0x1FFFFFC = false ∧ (0x8 : Nat) % 4 = 0
    ∧ (regTarget 0 0x2008).2 = .complement ∧ (regTarget 0 0x6008).2 = .none ∧ (regTarget 0 0x8).2 = .normal
    ∧ ready.domainOn 0x8 = true ∧ partOff.domainOn (regTarget 0 0x20000).1 = false ∧ partOff.hostPath = true ∧ 0x8 ∉ loRegs
    ∧ ready.access.latches = [] ∧ (0x60 : Nat) % 8 = 0 := by
  decide +kernel

theorem witness_loRegister :
    ∃ off : BitVec 25, (regTarget 0 off.toNat).1 ∈ loRegs ∧ (regTarget 0 off.toNat).2 = .normal ∧ inBar 0 off.toNat = true ∧ off.toNat % 4 = 0
      ∧ ready.domainOn (regTarget 0 off.toNat).1 = true ∧ ready.domainOn ((regTarget 0 off.toNat).1 + 4) = true := by
  refine ⟨BitVec.ofNat 25 (loRegs.getD 0 0), ?_⟩
  decide +kernel

theorem witness_latched :
    (regTarget 0 0x10014).1 ∉ loRegs ∧ (regTarget 0 0x10014).2 = .normal ∧ ready.domainOn (regTarget 0 0x10014).1 = true
    ∧ SMap.get none ({ latches := [(latchKey 0 0 0x10014, some 7)] } : Access).latches (latchKey 0 0 (regTarget 0 0x10014).1) = some 7 := by
  decide +kernel

theorem witness_registerWrites :
    ready.guardOf 0 0 = none ∧ ready.hostPath = true ∧ inBar 0 0x8 = true ∧ inBar 5 0x1000000 = false ∧ (0x9 : Nat) % 4 ≠ 0
    ∧ ready.domainOn 0x2000C = true ∧ ready.afterReady = true ∧ waitingHost.domainOn 0x2000C = true ∧ waitingHost.afterReady = false
    ∧ waitingHost.guardOf 0 0 = none ∧ partOff.domainOn (regTarget 0 0x20000).1 = false ∧ (regTarget 0 0x20000).2 = .normal := by
  decide +kernel

theorem witness_guardedAlias :
    ready.hostPath = true ∧ inBar 0 0x14004 = true ∧ (0x14004 : Nat) % 4 = 0 ∧ (regTarget 0 0x14004).2 = .set
    ∧ ready.domainOn (regTarget 0 0x14004).1 = true ∧ guardedReg 0 (regTarget 0 0x14004).1 = true := by
  decide +kernel

/-- A part that holds a guarded value for DBMODE. -/
def guarding (st : PowerState) (v : BitVec 32) (left : Nat) : State :=
  { ready with access := { guards := [⟨0, 0, 0x10004, v, left⟩] }, power := { ready.power with state := st } }

theorem witness_guardedWrites :
    (ready.hostPath = true ∧ inBar 0 0x10004 = true ∧ (0x10004 : Nat) % 4 = 0 ∧ ready.domainOn (regTarget 0 0x10004).1 = true
      ∧ (regTarget 0 0x10004).2 = .normal ∧ guardedReg 0 (regTarget 0 0x10004).1 = true ∧ ready.guardOf 0 0 = none)
    ∧ ((regTarget 0 0x12004).2 = .complement ∧ (guarding .starting 3 16).guardOf 0 0 = some ⟨0, 0, 0x10004, 3, 16⟩ ∧ (0x12004 : Nat) = 0x10004 + 0x2000
      ∧ ((guarding .starting 3 16).dropGuard 0 0).commitFault 0 (regTarget 0 0x10004).1 3 = none)
    ∧ ((guarding .ready 0xFFFFFFFF 16).dropGuard 0 0).commitFault 0 (regTarget 0 0x10004).1 0xFFFFFFFF = some 5
    ∧ (ready.dropGuard 0 0).commitFault 0 0x20008 (20 + 65 * 256) = some 0
    ∧ (guarding .ready 3 16).guardOf 0 0 = some ⟨0, 0, 0x10004, 3, 16⟩
    ∧ inBar 0 0x12004 = true ∧ (guarding .ready 3 1).guardOf 0 0 = some ⟨0, 0, 0x10004, 3, 1⟩ := by
  decide +kernel

theorem witness_registerActions :
    ready.hostPath = true ∧ ready.guardOf 0 63 = none ∧ ready.fld devDomains = 0x3FFF ∧ ready.hif 63 hifEnable = 0
    ∧ (ready.setHif 63 hifEnable 1).hif 63 hifEnable ≠ 0 ∧ ready.coreOut 143 = 0 ∧ ready.flag (coreCntFreeze 143) = false := by
  decide +kernel

/-! ### Descriptors -/

/-- A part with function 0 enabled, its admin ring enabled, and bytes in host memory from address 4096 on. -/
def hosted (bs : List Byte) : State :=
  { ready.setHif 0 hifEnable 1 with rings := [(0, some {}), (64, some {})], host := Mem.writeBytes [] 4096 bs, plans := [tinyPlan] }

def samplesB (s : State) (r : Nat) (x : Ring) (seq : Nat) : Bool :=
  decide (s.ring r = some x) && s.fetchOpen && s.fnActive x.fn && x.sampled && decide (seq = x.acc + 1) && (s.findWork r seq).isNone

theorem samples_of {s : State} {r : Nat} {x : Ring} {seq : Nat} (h : samplesB s r x seq = true) : s.samples r x seq := by
  simp only [samplesB, Bool.and_eq_true, decide_eq_true_eq, Option.isNone_iff_eq_none] at h
  obtain ⟨⟨⟨⟨⟨h1, h2⟩, h3⟩, h4⟩, h5⟩, h6⟩ := h
  exact ⟨h1, h2, h3, h4, h5, h6⟩

/-- What can be evaluated of `runsAdmin` on ring 0. -/
def runsB (s : State) (op : Nat) (d : AdminDesc) : Bool :=
  samplesB s 0 {} d.seq.toNat && s.isAdminRing 0
    && decide ((s.accepted 0 {} (adminBytes op d)).adminCheck (s.workOf 0 {} (adminBytes op d)) = none)

theorem runs_admin {s : State} {op : Nat} {d : AdminDesc} (h : runsB s op d = true) : s.runsAdmin 0 {} op d := by
  simp only [runsB, Bool.and_eq_true, decide_eq_true_eq] at h
  exact ⟨samples_of h.1.1, h.1.2, h.2⟩

def desc (a : BitVec 32) (b c d : BitVec 64) : AdminDesc := { seq := 1, a := a, b := b, c := c, d := d }

theorem witness_accepted :
    samplesB (hosted []) 0 {} 1 = true ∧ (hosted []).isAdminRing 0 = true
    ∧ ((hosted []).accepted 0 {} (adminBytes 0x10 { seq := 1, rsvd0 := 1 })).adminCheck ((hosted []).workOf 0 {} (adminBytes 0x10 { seq := 1, rsvd0 := 1 }))
      = some stRsvdNonzero
    ∧ (hosted []).ring 1 = none ∧ (hosted []).ring 64 = some {} ∧ ready.fetchOpen = true ∧ ready.fnActive 0 = false
    ∧ fieldAt (adminBytes 0x10 { seq := 2 }) 0 8 ≠ 1
    ∧ samplesB (hosted []) 64 {} 1 = true ∧ (hosted []).isAdminRing 64 = false
    ∧ (hosted []).runCheck ((hosted []).workOf 64 {} (runBytes { seq := 1, planId := 1 })) = none
    ∧ (hosted []).planOf ((hosted []).workOf 64 {} (runBytes { seq := 1, planId := 1 })) = some tinyPlan
    ∧ (hosted []).stageFits tinyPlan 0 = true
    ∧ (hosted []).runCheck ((hosted []).workOf 64 {} (runBytes { seq := 1, planId := 9 })) = some stPlanUnknown := by
  decide +kernel

/-- A part whose ring area is as small as its loaded plan. -/
def smallArea : State := { hosted [] with hbm := { layout := { ringArea := 1 } } }

theorem witness_stageFull :
    samplesB smallArea 64 {} 1 = true ∧ smallArea.isAdminRing 64 = false
    ∧ smallArea.runCheck (smallArea.workOf 64 {} (runBytes { seq := 1, planId := 1 })) = none
    ∧ smallArea.planOf (smallArea.workOf 64 {} (runBytes { seq := 1, planId := 1 })) = some tinyPlan ∧ smallArea.stageFits tinyPlan 0 = false := by
  decide +kernel

/-- A ring context entry. -/
def ctxBytes : List Byte := le64 0 ++ le64 0 ++ le64 1 ++ [6, 0, 0, 0, 0xFF, 0xFF, 1, 0] ++ zeros 32

/-- A part whose ring contexts lie at address 4096. -/
def withTable (bs : List Byte) : State := (hosted (zeros 64 ++ bs)).setHif 0 hifRctLo 1

theorem witness_rings :
    runsB (withTable ctxBytes) 0x10 (desc 1 1 0 0) = true ∧ (withTable ctxBytes).ring 1 = none
    ∧ ctxReserved ((withTable ctxBytes).hostBytes ((withTable ctxBytes).ctxAddr ((withTable ctxBytes).ringOwner 1) 1) 64) = false
    ∧ ctxValid 0 1 (((withTable ctxBytes).rings.filter (fun e => match e.2 with
        | some y => y.ctx.scan
        | none => false)).length)
      (readCtx ((withTable ctxBytes).hostBytes ((withTable ctxBytes).ctxAddr ((withTable ctxBytes).ringOwner 1) 1) 64)) = true
    ∧ ctxReserved ((withTable (zeros 32 ++ [1])).hostBytes ((withTable (zeros 32 ++ [1])).ctxAddr 0 1) 64) = true
    ∧ (withTable ctxBytes).rstAddr 0 1 + 16 ≤ 2 ^ 64
    ∧ runsB (hosted []) 0x11 (desc 64 1 0 0) = true ∧ ((hosted []).accepted 0 {} (adminBytes 0x11 (desc 64 1 0 0))).ring 64 = some {}
    ∧ runsB (hosted []) 0x12 (desc 64 0 0 0) = true
    ∧ ((hosted []).accepted 0 {} (adminBytes 0x12 (desc 64 0 0 0))).ring 64 = some {}
    ∧ ((hosted []).accepted 0 {} (adminBytes 0x12 (desc 65 0 0 0))).ring 65 = none ∧ runsB (hosted []) 0x12 (desc 65 0 0 0) = true := by
  decide +kernel

/-- A slice image of one region and the word SLICE_END, with its digest, behind the chain table that names it. -/
def headBytes : List Byte :=
  le32 0x1CE50B07 ++ le16 1 ++ le16 0x100 ++ le32 304 ++ le32 4 ++ le16 1 ++ le16 1 ++ le32 0 ++ le32 5000 ++ le32 1
    ++ (List.range 6).flatMap (fun _ => le32 100) ++ zeros 72 ++ zeros 8 ++ le16 1 ++ zeros 6 ++ le32 0x100 ++ zeros 8 ++ le32 0x120 ++ zeros 32

def imgTail : List Byte := le64 0 ++ le64 64 ++ [1, 0, 0, 0] ++ zeros 12 ++ natToBytes 16 (encodeOpWord (.sliceEnd {}))
def imgBytes : List Byte := headBytes ++ sha512 (headBytes ++ zeros 64 ++ imgTail) ++ imgTail
def chainBytes : List Byte := le32 0x1CE5C4A1 ++ le16 1 ++ le16 1 ++ zeros 8 ++ le16 0 ++ zeros 46 ++ le64 (4096 + 80) ++ le32 304 ++ le32 0

def planHost : State := { hosted (chainBytes ++ imgBytes) with plans := [] }

/-- Whether PLAN_LOAD of plan 2 loads it and finds room. -/
def loadsAndFits (s : State) (d : AdminDesc) : Bool :=
  let s1 := s.accepted 0 {} (adminBytes 0x20 d)
  match s1.loadPlan 0 d.a.toNat d.b.toNat d.c.toNat with
  | .loaded p => decide (s1.ringAreaUsed + p.images.foldl (fun n im => n + im.storeBytes) 0 ≤ s.hbm.layout.ringArea) && !(s1.planNamed 0 d.a.toNat)
  | .rejected _ _ => false

def rejectsPlan (s : State) (d : AdminDesc) : Bool :=
  match (s.accepted 0 {} (adminBytes 0x20 d)).loadPlan 0 d.a.toNat d.b.toNat d.c.toNat with
  | .loaded _ => false
  | .rejected st _ => decide (st ≠ stOk)

/-- A part on which accepted work names loaded plan 1. -/
def namedPlan : State := { hosted [] with works := [tinyWork] }

theorem witness_planWaits :
    runsB namedPlan 0x20 (desc 1 4096 80 0) = true
    ∧ ((namedPlan.accepted 0 {} (adminBytes 0x20 (desc 1 4096 80 0))).findPlan 0 1).isSome = true
    ∧ (namedPlan.accepted 0 {} (adminBytes 0x20 (desc 1 4096 80 0))).planNamed 0 1 = true := by
  decide +kernel

theorem witness_planLoad :
    runsB planHost 0x20 (desc 2 4096 80 0) = true ∧ loadsAndFits planHost (desc 2 4096 80 0) = true
    ∧ runsB planHost 0x20 (desc 2 4096 79 0) = true ∧ rejectsPlan planHost (desc 2 4096 79 0) = true := by
  decide +kernel

theorem witness_plans :
    runsB (hosted []) 0x21 (desc 1 0 0 0) = true ∧ (hosted []).findPlan 0 1 = some tinyPlan
    ∧ runsB (hosted []) 0x21 (desc 9 0 0 0) = true ∧ (hosted []).findPlan 0 9 = none
    ∧ runsB (hosted [7]) 0x30 (desc 5 4096 64 (0xF0 * 2 ^ 44)) = true := by
  decide +kernel

/-- A part with an owner, a key slot of the Owner and one of an Operator, a session of the Owner on group 0 and a challenge of group 4. -/
def ownerSlot : KeySlot := ⟨1, 0xFF, 0, 0, 4096, zeros 16, zeros 32⟩
def operatorSlot : KeySlot := ⟨2, 0xFF, 0, 0, 4096, zeros 16, zeros 32⟩
def owned (bs : List Byte) : State :=
  { hosted bs with sec := { owner := some ⟨[], 65537, 0, []⟩, slots := [(1, some ownerSlot), (2, some operatorSlot), (3, some ownerSlot)],
                            sessions := [(0, some ⟨1, 1, 0xFF, []⟩)], challenges := [(4, some (zeros 32))] } }

theorem witness_epochs :
    runsB (hosted (le32 0x2000C ++ le32 0x01010101 ++ zeros 8)) 0x40 (desc 0 4096 16 0) = true
    ∧ ((hosted (le32 0x2000C ++ le32 0x01010101 ++ zeros 8)).accepted 0 {} (adminBytes 0x40 (desc 0 4096 16 0))).epochListOk
      (((hosted (le32 0x2000C ++ le32 0x01010101 ++ zeros 8)).accepted 0 {} (adminBytes 0x40 (desc 0 4096 16 0))).hostBytes 4096 16) = true
    ∧ runsB (hosted []) 0x40 (desc 0 4096 16 0) = true
    ∧ ((hosted []).accepted 0 {} (adminBytes 0x40 (desc 0 4096 16 0))).epochListOk
      (((hosted []).accepted 0 {} (adminBytes 0x40 (desc 0 4096 16 0))).hostBytes 4096 16) = false
    ∧ runsB (hosted []) 0x41 (desc 0 0 0 0) = true ∧ runsB (hosted []) 0x52 (desc 7 0 0 0) = true
    ∧ SMap.get none (hosted []).sec.sessions 7 = none
    ∧ runsB (owned []) 0x52 (desc 0 0 0 0) = true ∧ SMap.get none (owned []).sec.sessions 0 = some ⟨1, 1, 0xFF, []⟩
    ∧ runsB (hosted []) 0x56 (desc 0 0 0 0) = true ∧ runsB (owned []) 0x57 (desc 0 8192 0 0) = true := by
  decide +kernel

/-- A valid slot that is not running, and a part on which its activation is in progress. -/
def goodSlot : Slot := { state := 0x7F, recs := [⟨0x20, 0, [1, 0, 0, 0] ++ le32 3 ++ zeros 24⟩] }
def slotted : State := { hosted [] with nv := { flash0 := { slotA := goodSlot }, flash1 := { slotA := goodSlot } } }
def activating (m : Option Nat) (turn : Nat) : State :=
  { slotted with nv := { slotted.nv with activation := some ⟨0, 0, 1, m, [], false, 0⟩ }, turn := { slotted.turn with ord := turn } }

theorem witness_slots :
    runsB slotted 0x48 (desc 0 4096 160 0) = true ∧ slotted.nv.activation = none ∧ slotted.nv.flash0.ok = true
    ∧ runsB (activating none 0) 0x48 (desc 0 4096 160 0) = true ∧ (activating none 0).nv.activation ≠ none
    ∧ runsB slotted 0x49 (desc 0 0 0 0) = true ∧ (slotted.slot 0).state = 0x7F ∧ slotted.slotValid (slotted.slot 0) slotted.nv.slotSigA = true
    ∧ runsB (activating none 0) 0x49 (desc 0 0 0 0) = true ∧ runsB slotted 0x49 (desc 1 0 0 0) = true ∧ (slotted.slot 1).state ≠ 0x7F := by
  decide +kernel

/-- The activation whose standby is ready, at the head that applies its step, with the hold-up bank charged. -/
def applying : State :=
  { (slotted.setFld nviHuCap 65535).setFld nviHuVolt 65535 with
    nv := { slotted.nv with activation := some ⟨0, 0, 1, none, [], true, 0⟩ }
    epochs := [⟨[], .slot, 0, 1, false, false⟩] }

theorem applying_chunk : applying.chunkPages ≠ 0 := by
  have h : applying.chunkPages = waitingHost.chunkPages := by
    unfold State.chunkPages
    rw [show applying.fld nviHuVolt = waitingHost.fld nviHuVolt by decide +kernel,
      show applying.fld nviHuCap = waitingHost.fld nviHuCap by decide +kernel]
    rfl
  rw [h]; exact waitingHost_chunk

theorem witness_activations :
    (activating none 0).nv.activation = some ⟨0, 0, 1, none, [], false, 0⟩ ∧ (activating none 0).power.state = .ready
    ∧ (activating (some 5) 10004).nv.activation = some ⟨0, 0, 1, some 5, [], false, 0⟩ ∧ 5 + 9999 ≤ (activating (some 5) 10004).turn.ord
    ∧ (activating (some 5) 10003).turn.ord < 5 + 9999 ∧ (activating (some 5) 10004).nv.flash0.ok = true ∧ slotted.nv.activation = none
    ∧ applying.epochs = [⟨[], .slot, 0, 1, false, false⟩] ∧ applying.nv.activation = some ⟨0, 0, 1, none, [], true, 0⟩
    ∧ applying.chunkPages ≠ 0 := by
  refine ⟨rfl, ?_, rfl, ?_, ?_, rfl, rfl, rfl, rfl, applying_chunk⟩ <;> decide +kernel

theorem witness_challenge : runsB (hosted []) 0x50 (desc 4095 8192 0 0) = true := by decide +kernel

/-! A response whose 64 MAC bytes are any list `l`. -/

def respBytes (l : List Byte) : List Byte := [2, 2, 0, 0, 4, 0] ++ zeros 10 ++ l

theorem sha512_length (m : List Byte) : (sha512 m).length = 64 := by
  simp [sha512, natToBytesBE]

theorem hmac_length (k m : List Byte) : (hmacSha512 k m).length = 64 := sha512_length _

theorem getList_get {α : Type} (d : α) (m : SMap α) (n : Nat) : ∀ k i, i < n → (SMap.getList d m k n)[i]? = some (SMap.get d m (k + i)) := by
  induction n with
  | zero => intro k i h; omega
  | succ n ih =>
    intro k i h
    cases i with
    | zero => simp [SMap.getList]
    | succ i =>
      rw [SMap.getList, List.getElem?_cons_succ, ih (k + 1) i (by omega)]
      congr 2
      omega

/-- What was written at 4096 is read back after a shorter write at 0. -/
theorem read_back (bs x : List Byte) (hx : x.length ≤ 4096) :
    Mem.readBytes (Mem.writeBytes (Mem.writeBytes [] 4096 bs) 0 x) 4096 bs.length = bs := by
  apply List.ext_getElem?
  intro i
  by_cases h : i < bs.length
  · have h1 := getList_get (0 : Byte) (Mem.writeBytes (Mem.writeBytes [] 4096 bs) 0 x) bs.length 4096 i h
    have h2 := Mem.readByte_writeBytes (Mem.writeBytes [] 4096 bs) 0 x (4096 + i)
    have h3 := Mem.readByte_writeBytes [] 4096 bs (4096 + i)
    rw [Mem.readBytes, h1]
    rw [if_pos (Nat.zero_le _), List.getElem?_eq_none (by omega), Option.getD_none, h3, if_pos (by omega),
      show 4096 + i - 4096 = i by omega, List.getElem?_eq_getElem h, Option.getD_some] at h2
    rw [List.getElem?_eq_getElem h]
    exact congrArg some h2
  · have hl : (Mem.readBytes (Mem.writeBytes (Mem.writeBytes [] 4096 bs) 0 x) 4096 bs.length).length = bs.length :=
      SMap.getList_length _ _ _ _
    rw [List.getElem?_eq_none (by omega), List.getElem?_eq_none (by omega)]

def openDesc : AdminDesc := desc 4 4096 0 0

theorem open_host (bs : List Byte) : ((owned bs).accepted 0 {} (adminBytes 0x51 openDesc)).host
    = Mem.writeBytes (Mem.writeBytes [] 4096 bs) ((owned []).rstAddr 0 0) (le64 1) := by
  unfold State.accepted State.journal
  exact State.trace1_host _ _ _

theorem open_sec (bs : List Byte) : ((owned bs).accepted 0 {} (adminBytes 0x51 openDesc)).sec = (owned bs).sec := by
  unfold State.accepted State.journal
  exact State.trace1_sec _ _ _

theorem open_reads (bs : List Byte) : ((owned bs).accepted 0 {} (adminBytes 0x51 openDesc)).hostBytes 4096 bs.length = bs := by
  rw [State.hostBytes, open_host, show (owned []).rstAddr 0 0 = 0 by decide +kernel]
  exact read_back bs _ (by decide)

theorem open_check (s : State) (w : Work) (h1 : w.desc = adminBytes 0x51 openDesc) (h2 : s.owned = true) : s.adminCheck w = none := by
  have hop : w.op = 0x51 := by rw [Work.op, h1]; decide
  have hr : adminReserved w = false := by simp only [adminReserved, hop, Work.fA, h1]; decide
  have hb : s.adminFieldsBad w = false := by
    simp only [State.adminFieldsBad, hop, Work.fA, Work.fB, h1]
    decide
  simp [State.adminCheck, hop, hr, hb, h2, adminOpKnown, ring0Only, noSessionNeeded]

theorem open_runs (bs : List Byte) : (owned bs).runsAdmin 0 {} 0x51 openDesc :=
  have h : samplesB (owned []) 0 {} 1 = true := by decide +kernel
  have h' := samples_of h
  ⟨⟨h'.ring, h'.fetch, h'.active, h'.sampled, h'.next, h'.fresh⟩, by
    have : (owned []).isAdminRing 0 = true := by decide +kernel
    exact this, open_check _ _ rfl (by
      rw [State.owned, open_sec]; rfl)⟩

/-- The right MAC, and one that differs from it. -/
def rightMac : List Byte := hmacSha512 operatorSlot.key (macMessage (zeros 32) 0 2 2 4)
def wrongMac : List Byte := rightMac.map (fun b => b + 1)

theorem wrongMac_ne : rightMac ≠ wrongMac := by
  have h : rightMac.length = 64 := hmac_length _ _
  intro e
  have h0 : rightMac[0]? = (rightMac.map (fun b => b + 1))[0]? := congrArg (·[0]?) e
  rw [List.getElem?_map, List.getElem?_eq_getElem (by omega)] at h0
  simp at h0

theorem resp_parts (l : List Byte) (h : l.length = 64) : (respBytes l).length = 80 ∧ sliceBytes (respBytes l) 16 64 = l
    ∧ fieldAt (respBytes l) 0 1 = 2 ∧ fieldAt (respBytes l) 1 1 = 2 ∧ fieldAt (respBytes l) 2 2 = 0 ∧ fieldAt (respBytes l) 4 2 = 4
    ∧ ∀ y ∈ sliceBytes (respBytes l) 6 10, y = 0 := by
  refine ⟨by simp [respBytes, zeros, h], ?_, rfl, rfl, rfl, rfl, ?_⟩
  · show (List.drop 16 (_ ++ l)).take 64 = l
    rw [List.drop_left' (by decide), List.take_of_length_le (by omega)]
  · intro y hy
    have : sliceBytes (respBytes l) 6 10 = zeros 10 := rfl
    rw [this] at hy
    exact List.eq_of_mem_replicate hy

/-- SESSION_OPEN by an operator: with the right MAC, and with a wrong one. -/
theorem witness_sessionOpen : ∀ l, l = rightMac ∨ l = wrongMac →
    (owned (respBytes l)).runsAdmin 0 {} 0x51 openDesc
    ∧ ((owned (respBytes l)).accepted 0 {} (adminBytes 0x51 openDesc)).hostBytes 4096 80 = respBytes l
    ∧ fieldAt (respBytes l) 2 2 = 0 ∧ (∀ y ∈ sliceBytes (respBytes l) 6 10, y = 0) ∧ fieldAt (respBytes l) 4 2 = 4
    ∧ SMap.get none (owned (respBytes l)).sec.challenges 4 = some (zeros 32) ∧ 2 ∉ (owned (respBytes l)).sec.locked
    ∧ SMap.get none (owned (respBytes l)).sec.slots 2 = some operatorSlot ∧ operatorSlot.role = fieldAt (respBytes l) 1 1
    ∧ operatorSlot.kfl % 2 = 0 ∧ (owned (respBytes l)).slotCovers operatorSlot 4 = true ∧ (owned (respBytes l)).ringOwner (16 * 4) = 0
    ∧ sliceBytes (respBytes l) 16 64 = l ∧ rightMac ≠ wrongMac := by
  intro l hl
  have hlen : l.length = 64 := by
    rcases hl with h | h <;> rw [h]
    · exact hmac_length _ _
    · rw [wrongMac, List.length_map]; exact hmac_length _ _
  obtain ⟨p1, p2, p3, p4, p5, p6, p7⟩ := resp_parts l hlen
  have hr := open_reads (respBytes l)
  rw [p1] at hr
  have ho : (owned []).ringOwner (16 * 4) = 0 := by decide +kernel
  exact ⟨open_runs _, hr, p5, p7, p6, rfl, (nofun), rfl, by rw [p4]; rfl, rfl, rfl, ho, p2, wrongMac_ne⟩


theorem witness_sessionRefusals :
    runsB (owned ([2, 2, 0, 0, 5, 0] ++ zeros 74)) 0x51 (desc 5 4096 0 0) = true
    ∧ SMap.get none (owned ([2, 2, 0, 0, 5, 0] ++ zeros 74)).sec.challenges 5 = none
    ∧ fieldAt (((owned ([2, 2, 0, 0, 5, 0] ++ zeros 74)).accepted 0 {} (adminBytes 0x51 (desc 5 4096 0 0))).hostBytes 4096 80) 4 2 = 5
    ∧ (2 : Nat) ∈ ({ (owned []).sec with locked := [2] } : Security).locked := by
  decide +kernel

/-- The 64 bytes of a KEY_PROVISION request as host memory holds them. -/
def request (bs : List Byte) : List Byte := ((owned bs).accepted 0 {} (adminBytes 0x53 (desc 0 4096 0 0))).hostBytes 4096 64

theorem witness_keyProvision :
    runsB (owned [2]) 0x53 (desc 0 4096 0 0) = true ∧ (owned [2]).sessionOf 0 = some ⟨1, 1, 0xFF, []⟩
    ∧ keyRequestReserved (request [2]) = false ∧ keyRequestBad (request [2]) = false ∧ (owned [2]).otherOwner 2 = true
    ∧ fieldAt (request [2]) 1 1 = 0 ∧ keyRequestReserved (request [2, 2, 0, 2]) = true ∧ keyRequestReserved (request [2, 5, 0, 1]) = false
    ∧ keyRequestBad (request [2, 5, 0, 1]) = true := by
  decide +kernel

/-- A part without an owner whose presence input is asserted, and the 588 bytes of an owner's block. -/
def presented : State := (hosted (zeros 512 ++ le32 65537)).setFlag (pinLevel 4) true

theorem witness_takeOwnership :
    runsB presented 0x54 (desc 0 4096 588 0) = true ∧ presented.owned = false ∧ presented.sec.pendingOwner = none
    ∧ presented.flag (pinLevel 4) = true ∧ presented.flag (pinUnstableF 4) = false
    ∧ runsB (hosted []) 0x54 (desc 0 4096 588 0) = true ∧ (hosted []).flag (pinLevel 4) = false
    ∧ runsB (owned []) 0x54 (desc 0 4096 588 0) = true ∧ (owned []).owned = true := by
  decide +kernel

def ownerBlock : List Byte := (presented.accepted 0 {} (adminBytes 0x54 (desc 0 4096 588 0))).hostBytes 4096 588

theorem witness_ownerBlock :
    fieldAt ownerBlock 512 4 = 65537 ∧ fieldAt ownerBlock 516 4 / 2 = 0 ∧ ∀ y ∈ sliceBytes ownerBlock 0x228 36, y = 0 := by
  decide +kernel

/-! ### Sideband, SPDM and maintenance -/

/-- An Operator slot with the sideband flag, its challenge, and an open session with handle 2. -/
def sideSlot : KeySlot := ⟨2, 0xFF, 1, 0, 4096, zeros 16, zeros 32⟩
def beside : State := { ready with sec := { slots := [(9, some sideSlot)], sbChallenges := [(9, some (zeros 32))], sbSessions := [(2, some 9)] } }

theorem witness_sideband :
    State.reset.power.state = .off ∧ beside.power.state ≠ .off ∧ SMap.get none beside.sec.slots 9 = some sideSlot
    ∧ SMap.get none beside.sec.sbChallenges 3 = none ∧ SMap.get none beside.sec.sbChallenges 9 = some (zeros 32)
    ∧ (9 : Nat) ∉ beside.sec.locked ∧ sideSlot.role = 2 ∧ sideSlot.kfl % 2 = 1
    ∧ [1, 2, 3, 4].find? (fun h => (SMap.get none beside.sec.sbSessions h).isNone) = some 1
    ∧ beside.sbOpen 2 = true ∧ beside.sbOpen 1 = false ∧ beside.power.state = .ready ∧ sbOpenRegister 0x40100 = true := by
  decide +kernel

/-- Some MAC is right, and some is wrong. -/
theorem witness_sbMac : ∃ m1 m2 : List Byte, hmacSha512 sideSlot.key (macMessage (zeros 32) 0xFF 2 9 0) = m1
    ∧ hmacSha512 sideSlot.key (macMessage (zeros 32) 0xFF 2 9 0) ≠ m2 :=
  ⟨_, [], rfl, fun e => by
    have h := hmac_length sideSlot.key (macMessage (zeros 32) 0xFF 2 9 0)
    rw [e] at h
    cases h⟩

theorem witness_spdm :
    State.reset.spdmPort .mctp = false ∧ ready.spdmPort .mctp = true ∧ ready.spdmPort (.doe 0) = true ∧ ready.audit.signing = none
    ∧ ready.audit.waiting = [] ∧ ({ signing := some ⟨1, 0, []⟩ } : Audit).signing ≠ none ∧ (0 : Nat) < Config.certChain.length := by
  refine ⟨by decide +kernel, by decide +kernel, by decide +kernel, rfl, rfl, by decide, ?_⟩
  exact Nat.succ_pos _

/-- A part in a maintenance window, with a core that retires and a work pinned to it. -/
def maintained : State :=
  { ready with
    witness := { window := some ⟨0, [], true, []⟩, retiring := [7] }
    turn := { ready.turn with ord := 1000000 }
    works := [{ tinyWork with chain := { pins := [7] } }] }

def storing (pages chunk : Nat) : State := { ready with nv := { queue := [⟨1, 0x80, zeros 16, pages, chunk, false⟩] } }

theorem witness_maintenance :
    ready.power.state = .ready ∧ State.reset.power.state ≠ .ready ∧ maintained.witness.window = some ⟨0, [], true, []⟩
    ∧ maintained.witness.pendingOffs = none ∧ maintained.power.state = .ready ∧ maintained.witness.retiring ≠ []
    ∧ maintained.witness.retireFrom + maintained.fld witRetireWait ≤ maintained.turn.ord ∧ ready.witness.window = none
    ∧ ready.witness.retiring = [] ∧ ready.nv.queue = []
    ∧ (storing 1 0).nv.queue = [⟨1, 0x80, zeros 16, 1, 0, false⟩] ∧ (storing 9 4).nv.queue = [⟨1, 0x80, zeros 16, 9, 4, false⟩]
    ∧ logBytes (storing 1 1).nvLog + recBytes ⟨0x80, (storing 1 1).nv.nextSeq, zeros 16⟩ ≤ 14 * 2 ^ 20 := by
  decide +kernel

/-! ### The block as a whole -/

theorem witness_block :
    (Instr.nop 0 {}).wf = true ∧ (Instr.loop 0 {}).wf = false ∧ wordOk (.qstore { dpc := 1 }) = true ∧ Mem.wf State.reset.host = true
    ∧ (step { State.reset with pending := [.vinLow] }) = .next State.reset ∧ State.reset.pending = [] := by
  refine ⟨by decide, by decide, by decide, by decide +kernel, ?_, rfl⟩
  rfl

theorem witness_quire :
    (-(QW.q128.qmax : Int) < 1 + ([2].take 1).foldl (· + ·) 0 ∧ (1 : Int) + ([2].take 1).foldl (· + ·) 0 < QW.q128.qmax)
    ∧ (⟨.nar, false, false⟩ : QEntry).val = .nar ∧ (⟨.num QW.q128.qmax, false, false⟩ : QEntry).val = .num QW.q128.qmax
    ∧ -(QW.q128.qmax : Int) < 1 ∧ (1 : Int) < QW.q128.qmax ∧ (QW.q128.qmax : Int) < 1 + QW.q128.qmax := by
  decide +kernel

/-! ### Words written out from the tables of the spec, and published vectors -/

/-- R49, R51: GRP and OP in bits 127 to 120, DELAY in bits 119 to 110. -/
theorem test_decode_nop : decodeOpWord (0x70 * 2 ^ 120 + 5 * 2 ^ 110) = some (.nop { delay := 5 }) := by decide +kernel

/-- R53: TRIP in F0[23:0]. -/
theorem test_decode_loop : decodeOpWord (0x71 * 2 ^ 120 + 24) = some (.loop { trip := 24 }) := by decide +kernel

/-- R107: Q_BASE in F0[16:0], COUNT in F1[16:0]; UNIT is in bits 109 to 106. -/
theorem test_decode_qzero : decodeOpWord (0x10 * 2 ^ 120 + 2 * 2 ^ 32 + 98302) = some (.qzero { qBase := 98302, count := 2 }) := by decide +kernel

/-- R51: SLICE_END is 0x74. -/
theorem test_decode_sliceEnd : decodeOpWord (0x74 * 2 ^ 120) = some (.sliceEnd {}) := by decide +kernel

/-- An operation word whose OP no row of the table has is not decoded. -/
theorem test_decode_reserved : decodeOpWord (0xFF * 2 ^ 120) = none := by decide +kernel

/-- FIPS 180-4: the SHA-512 digest of "abc" begins DDAF35A1 93617ABA. -/
theorem test_sha512_abc : (sha512 [0x61, 0x62, 0x63]).take 8 = [0xDD, 0xAF, 0x35, 0xA1, 0x93, 0x61, 0x7A, 0xBA] := by decide +kernel

/-- R478: a write to a complement port with nothing held fails the guard. -/
theorem test_guard_nothing_held : ((ready.guardFail 4 0x12004 3 0).fld devGuardWhy, (ready.guardFail 4 0x12004 3 0).fld devGuardRid) = (4, 3) := by
  decide +kernel

end Sys2Proof.Tests
end

section
/-! SUPPORT. Words that act on the core alone: in a quiet core each takes effect once (02 R44, R45), and where the core is ready for it
and holds no fault for it, it completes. -/

namespace Sys2Proof.Machine

/-! ### Words of the core alone -/

/-- A word of the core alone that enters more than one queue begins in all its units together. -/
theorem unitsOf_onCore {w : OpWord} (hk : onCoreWord w = true) : jointWord w = true ∨ ∃ u, unitsOf w = [u] := by
  cases w <;> simp [onCoreWord, jointWord, unitsOf] at hk ⊢

/-- The units of a word stand in increasing order, which is the order in which the pump tries them. -/
theorem unitsOf_sorted (w : OpWord) : (unitsOf w).Pairwise (· < ·) := by
  have harr : ∀ u, (unitArrays u).Pairwise (· < ·) := fun u => by unfold unitArrays; split <;> simp
  have hgrad : ∀ x : GradWord, (unitsOf (.gradPair x)).Pairwise (· < ·) := fun x => by
    simp only [unitsOf]
    split <;> split <;> simp
  cases w
  case mma x => exact harr _
  case mmaT x => exact harr _
  case conv x => exact harr _
  case lutCfg x => exact harr _
  case arrCfg x => exact harr _
  case hadamard x => exact harr _
  case smooth x => exact harr _
  case gradPair x => exact hgrad x
  all_goals simp [unitsOf, unitChuck, unitRemote]

theorem unitArrays_ne_nil (u : Nat) : unitArrays u ≠ [] := by unfold unitArrays; split <;> simp

/-- A word of the core alone that load validation lets through enters a queue: a GRAD_PAIR has at least one side on (07 R190). -/
theorem unitsOf_ne_nil {w : OpWord} (hk : onCoreWord w = true) (hw : wordOk w = true) : unitsOf w ≠ [] := by
  cases w
  case mma x => exact unitArrays_ne_nil _
  case mmaT x => exact unitArrays_ne_nil _
  case conv x => exact unitArrays_ne_nil _
  case gradPair x =>
    simp only [wordOk, opWordOk, Bool.and_eq_true, Bool.or_eq_true, decide_eq_true_eq] at hw
    obtain ⟨⟨⟨⟨⟨-, hside⟩, -⟩, -⟩, -⟩, -⟩ := hw
    rcases hside with h | h <;> simp [unitsOf, h]
  all_goals simp [onCoreWord, unitsOf] at hk ⊢

/-- The effect of a word of the core alone does not depend on the unit in whose queue it stands. -/
theorem Core.perform_unit {w : OpWord} (hk : onCoreWord w = true) (c : Nat) (k : Core) (u v : UnitId) :
    k.perform c u w = k.perform c v w := by
  cases w <;> simp [onCoreWord, Core.perform] at hk ⊢

/-- A word of the core alone, given to a core on which it runs, takes effect once. -/
theorem Runs.took {s : State} {c : Nat} {w : OpWord} {u : UnitId} {k1 : Core} {o : Host.Outcome State Fault Refusal} {m : String}
    (h : Runs s c w u k1) (hk : onCoreWord w = true) (ho : o = s.wordCmd c w m) : tookEffect s c k1 o := by
  obtain ⟨rest, hu⟩ := List.head?_eq_some_iff.mp h.unit
  have hj : jointWord w = true ∨ rest = [] := (unitsOf_onCore hk).imp_right fun ⟨v, hv⟩ => by simp_all
  have hlt : ∀ v ∈ rest, u < v := (List.pairwise_cons.mp (hu ▸ unitsOf_sorted w)).1
  obtain ⟨k2, hi, heff, hout, hq⟩ :=
    State.issue_onCore h.quiet hk hu hj hlt (hu ▸ h.prompt) (hu ▸ h.reads) h.effect h.writes
  exact ⟨k2, by rw [ho, State.wordCmd, if_pos h.ok, hi], heff, hout, hq⟩

/-- On a core that is ready for it, a word of the core alone that meets no fault runs, with the effect of `perform`. -/
theorem ReadySound.runs {s : State} {c : Nat} {w : OpWord} (h : ReadySound s c w) (hk : onCoreWord w = true) :
    ∃ u, Runs s c w u ((s.atBegin c w).perform c 0 w) := by
  obtain ⟨hr, hf⟩ := h
  obtain ⟨u, rest, hu⟩ := List.exists_cons_of_ne_nil (unitsOf_ne_nil hk hr.ok)
  refine ⟨u, { hr.begins with unit := by rw [hu]; rfl, effect := ?_, writes := ?_ }⟩
  · rw [Core.pureWord, hf, Core.perform_unit hk c _ u 0]
  · exact Core.writeFree_plain (by rw [State.atBegin_ctx hr.quiet hu]; exact hr.edges) _ _

/-- A word of the core alone completes on a core that is ready for it and holds no fault for it. -/
theorem ReadySound.completed {s : State} {c : Nat} {w : OpWord} {o : Host.Outcome State Fault Refusal} {m : String}
    (h : ReadySound s c w) (hk : onCoreWord w = true) (ho : o = s.wordCmd c w m) : completes s c w o := by
  obtain ⟨u, hruns⟩ := h.runs hk
  exact hruns.took hk ho

/-- A word for which the core holds no fault in any state completes wherever a core is ready for it. -/
theorem Ready.completed {s : State} {c : Nat} {w : OpWord} {o : Host.Outcome State Fault Refusal} {m : String}
    (h : Ready s c w) (hk : onCoreWord w = true) (hf : ∀ k : Core, k.faultOf c w = none) (ho : o = s.wordCmd c w m) :
    completes s c w o :=
  ReadySound.completed ⟨h, hf _⟩ hk ho

/-! The statements on words of the core alone: of the `rfl`s below, the first says that the word is one of them, and the last that `exec`
hands it to the core's sequencer as `State.wordCmd` does (an array word with no residue mismatch included); the middle one of
`Ready.completed` says that the core holds no fault for the word. -/

/-- Settles O1: the array words are words of the core alone. -/
theorem arrayWordsTakeEffect : Obligations.ArrayWordsTakeEffect := fun _ _ _ _ =>
  ⟨fun _ h => h.took rfl rfl, fun _ h => h.took rfl rfl, fun _ h => h.took rfl rfl, fun _ h => h.took rfl rfl,
    fun _ h => h.completed rfl rfl, fun _ h => h.completed rfl rfl, fun _ h => h.completed rfl rfl, fun _ h => h.completed rfl rfl⟩

/-- Settles O2: the words of the Chuck's queue are words of the core alone, and the quire words among them meet no fault. -/
theorem chuckWordsTakeEffect : Obligations.ChuckWordsTakeEffect := fun _ _ _ _ =>
  ⟨fun _ h => h.took rfl rfl, fun _ h => h.took rfl rfl, fun _ h => h.took rfl rfl, fun _ h => h.took rfl rfl,
    fun _ h => h.took rfl rfl, fun _ h => h.took rfl rfl, fun _ h => h.took rfl rfl, fun _ h => h.took rfl rfl,
    fun _ h => h.took rfl rfl,
    fun _ h => h.completed rfl (fun _ => rfl) rfl, fun _ h => h.completed rfl (fun _ => rfl) rfl,
    fun _ h => h.completed rfl (fun _ => rfl) rfl, fun _ h => h.completed rfl (fun _ => rfl) rfl,
    fun _ h => h.completed rfl rfl, fun _ h => h.completed rfl rfl, fun _ h => h.completed rfl rfl, fun _ h => h.completed rfl rfl,
    fun _ h => h.completed rfl rfl⟩

/-- Settles O4: the words of the Caliper are words of the core alone; opening and closing a tap meet no fault. -/
theorem caliperWordsTakeEffect : Obligations.CaliperWordsTakeEffect := fun _ _ _ _ =>
  ⟨fun _ h => h.took rfl rfl, fun _ h => h.took rfl rfl, fun _ h => h.took rfl rfl, fun _ h => h.took rfl rfl,
    fun _ h => h.completed rfl (fun _ => rfl) rfl, fun _ h => h.completed rfl rfl, fun _ h => h.completed rfl (fun _ => rfl) rfl,
    fun _ h => h.completed rfl rfl⟩

end Sys2Proof.Machine
end

section
/-! SUPPORT. Quire entries: images and values (01 R29, R30), and additions (04 R103). -/

namespace Sys2Proof.Machine

/-! ### Two's-complement patterns as bit vectors -/

theorem ofSigned_eq_ofInt (w : Nat) (x : Int) : ofSigned w x = (BitVec.ofInt w x).toNat := (BitVec.toNat_ofInt x).symm

theorem toSigned_eq_toInt {w : Nat} (hw : 0 < w) (n : Nat) : toSigned w n = (BitVec.ofNat w n).toInt := by
  have hpow : 2 ^ w = 2 * 2 ^ (w - 1) := (mul_pow_sub_one hw.ne' 2).symm
  have hlt : n % 2 ^ w < 2 ^ (w - 1) ↔ 2 * (n % 2 ^ w) < 2 ^ w := by omega
  simp only [toSigned, BitVec.toInt_eq_toNat_cond, BitVec.toNat_ofNat, hlt]

theorem ofSigned_lt (w : Nat) (x : Int) : ofSigned w x < 2 ^ w := by
  rw [ofSigned_eq_ofInt]
  exact BitVec.isLt _

theorem ofSigned_toSigned {w n : Nat} (hw : 0 < w) (hn : n < 2 ^ w) : ofSigned w (toSigned w n) = n := by
  rw [ofSigned_eq_ofInt, toSigned_eq_toInt hw, BitVec.ofInt_toInt, BitVec.toNat_ofNat, Nat.mod_eq_of_lt hn]

theorem toSigned_ofSigned {w : Nat} (hw : 0 < w) {x : Int} (hlo : -2 ^ (w - 1) ≤ x) (hhi : x < 2 ^ (w - 1)) :
    toSigned w (ofSigned w x) = x := by
  rw [ofSigned_eq_ofInt, toSigned_eq_toInt hw, BitVec.ofNat_toNat, BitVec.setWidth_eq, BitVec.toInt_ofInt_eq_self hw hlo hhi]

/-! ### Quire images -/

theorem QW.width_pos (w : QW) : 0 < w.width := by cases w <;> decide

theorem QW.two_pow_width (w : QW) : 2 ^ w.width = 2 * 2 ^ (w.width - 1) :=
  (mul_pow_sub_one w.width_pos.ne' 2).symm

/-- The largest magnitude of an entry is one less than the weight of the sign bit. -/
theorem QW.qmax_add_one (w : QW) : w.qmax + 1 = 2 ^ (w.width - 1) := Nat.sub_add_cancel Nat.one_le_two_pow

theorem QW.qmax_pos (w : QW) : 0 < w.qmax := by
  have : 2 ^ 1 ≤ 2 ^ (w.width - 1) := Nat.pow_le_pow_right (by decide) (by cases w <;> decide)
  have := w.qmax_add_one
  omega

theorem quireOfImage_nar (w : QW) : quireOfImage w (2 ^ (w.width - 1)) = .nar := by
  have : 2 ^ (w.width - 1) < 2 ^ w.width := by have := w.qmax_add_one; have := w.two_pow_width; omega
  rw [quireOfImage, Nat.mod_eq_of_lt this, if_pos rfl]

theorem quireImage_quireOfImage {w : QW} {p : Nat} (hp : p < 2 ^ w.width) : quireImage w (quireOfImage w p) = p := by
  rw [quireOfImage, Nat.mod_eq_of_lt hp]
  split
  · next hnar => exact hnar.symm
  · exact ofSigned_toSigned w.width_pos hp

/-- The pattern of NaR spells, as an integer, a value below the range of entries. -/
theorem toSigned_nar_pattern (w : QW) : toSigned w.width (2 ^ (w.width - 1)) = -(w.qmax : Int) - 1 := by
  have hpow := w.two_pow_width
  have hq := w.qmax_add_one
  have hmod : 2 ^ (w.width - 1) % 2 ^ w.width = 2 ^ (w.width - 1) := Nat.mod_eq_of_lt (by omega)
  rw [toSigned, hmod, if_neg (Nat.lt_irrefl _)]
  omega

theorem quireOfImage_quireImage_num {w : QW} {v : Int} (hlo : -(w.qmax : Int) ≤ v) (hhi : v ≤ w.qmax) :
    quireOfImage w (quireImage w (.num v)) = .num v := by
  have hq : (w.qmax : Int) + 1 = 2 ^ (w.width - 1) := by exact_mod_cast w.qmax_add_one
  have hback : toSigned w.width (ofSigned w.width v) = v := toSigned_ofSigned w.width_pos (by omega) (by omega)
  have hne : ofSigned w.width v ≠ 2 ^ (w.width - 1) := by
    intro h
    rw [h, toSigned_nar_pattern] at hback
    omega
  rw [quireImage, quireOfImage, Nat.mod_eq_of_lt (ofSigned_lt _ _), if_neg hne, hback]

theorem quireImage_of_nonneg {w : QW} {n : Nat} (hn : n ≤ w.qmax) : quireImage w (.num n) = n := by
  have := w.two_pow_width
  have := w.qmax_add_one
  show ((n : Int) % ((2 ^ w.width : Nat) : Int)).toNat = n
  rw [← Int.natCast_mod, Int.toNat_natCast, Nat.mod_eq_of_lt (by omega)]

theorem quireImage_neg_qmax (w : QW) : quireImage w (.num (-(w.qmax : Int))) = 2 ^ (w.width - 1) + 1 := by
  have hpow := w.two_pow_width
  have hq := w.qmax_add_one
  have hpos := w.qmax_pos
  have hmod : -(w.qmax : Int) % ((2 ^ w.width : Nat) : Int) = -(w.qmax : Int) + (2 ^ w.width : Nat) := by
    rw [← Int.add_emod_right, Int.emod_eq_of_lt] <;> omega
  show (-(w.qmax : Int) % ((2 ^ w.width : Nat) : Int)).toNat = _
  rw [hmod]
  omega

/-! ### Additions -/

theorem quireAdd_of_nar {w : QW} {e : QEntry} (he : e.val = .nar) (a : Addend) : quireAdd w e a = e := by
  simp only [quireAdd, he]

theorem foldl_quireAdd_of_nar {w : QW} {e : QEntry} (he : e.val = .nar) : ∀ as : List Addend, as.foldl (quireAdd w) e = e
  | [] => rfl
  | a :: as => by rw [List.foldl_cons, quireAdd_of_nar he, foldl_quireAdd_of_nar he as]

theorem QEntry.satSign_qmax {w : QW} {e : QEntry} (he : e.val = .num w.qmax) : e.satSign w = some false := by
  simp only [QEntry.satSign, he, if_true]

theorem QEntry.isSat_of_open {w : QW} {e : QEntry} {v : Int} (he : e.val = .num v) (hlo : -(w.qmax : Int) < v) (hhi : v < w.qmax) :
    e.isSat w = false := by
  simp only [QEntry.isSat, QEntry.satSign, he]
  rw [if_neg (by omega), if_neg (by omega)]
  rfl

/-- A finite addend meets an entry that is not saturated: the sum, or the largest value of its sign with the overflow tag. -/
theorem quireAdd_fin_of_open {w : QW} {e : QEntry} {v : Int} (x : Int) (he : e.val = .num v) (hlo : -(w.qmax : Int) < v)
    (hhi : v < w.qmax) : quireAdd w e (.fin x) =
      if (w.qmax : Int) < v + x then { e with val := .num w.qmax, ovf := true }
      else if v + x < -(w.qmax : Int) then { e with val := .num (-(w.qmax : Int)), ovf := true }
      else { e with val := .num (v + x) } := by
  simp only [quireAdd, he, QEntry.isSat_of_open he hlo hhi, Bool.false_eq_true, if_false]

/-- Additions whose partial sums stay inside the range are exact: only the sum of the addends counts. -/
theorem foldl_quireAdd_fin {w : QW} : ∀ (xs : List Int) {e : QEntry} {v : Int}, e.val = .num v →
    (∀ n, n ≤ xs.length → -(w.qmax : Int) < v + (xs.take n).sum ∧ v + (xs.take n).sum < w.qmax) →
    xs.foldl (fun q x => quireAdd w q (.fin x)) e = { e with val := .num (v + xs.sum) }
  | [], e, v, he, _ => by simp [← he]
  | x :: xs, e, v, he, hin => by
    have h0 := hin 0 (Nat.zero_le _)
    have h1 := hin 1 (by simp)
    simp only [List.take_zero, List.sum_nil, List.take_succ_cons, List.sum_cons, add_zero] at h0 h1
    have hadd : quireAdd w e (.fin x) = { e with val := .num (v + x) } := by
      rw [quireAdd_fin_of_open x he h0.1 h0.2, if_neg (by omega), if_neg (by omega)]
    have hrest : ∀ n, n ≤ xs.length → -(w.qmax : Int) < v + x + (xs.take n).sum ∧ v + x + (xs.take n).sum < w.qmax := fun n hn => by
      have := hin (n + 1) (Nat.succ_le_succ hn)
      rwa [List.take_succ_cons, List.sum_cons, ← add_assoc] at this
    rw [List.foldl_cons, hadd, foldl_quireAdd_fin xs rfl hrest, List.sum_cons, add_assoc]

theorem quireAdd_of_qmax {w : QW} {e : QEntry} (he : e.val = .num w.qmax) (x : Int) :
    quireAdd w e (.fin x) = e ∧ quireAdd w e .satN = { e with val := .nar, ovf := true }
      ∧ quireAdd w e .satP = { e with val := .num w.qmax, ovf := true } := by
  simp [quireAdd, he, QEntry.isSat, QEntry.satSign_qmax he]

/-- Settles O60, from the rules of one addition and the correspondence of images and values. -/
theorem quireEntries : Obligations.QuireEntries := by
  intro w
  have hq := w.qmax_pos
  refine ⟨fun e v xs he hin => ?_, fun e as he => foldl_quireAdd_of_nar he as, fun e x he => ?_, fun e v x he hlo hhi hov => ?_,
    fun e v x he hlo hhi hov => ?_, fun p hp => quireImage_quireOfImage hp,
    fun v hlo hhi => ⟨ofSigned_lt _ _, quireOfImage_quireImage_num hlo hhi⟩, rfl, quireOfImage_nar w,
    quireImage_of_nonneg (Nat.zero_le _), quireImage_of_nonneg le_rfl, quireImage_neg_qmax w⟩
  · simp only [← List.sum_eq_foldl] at hin ⊢
    exact foldl_quireAdd_fin xs he hin
  · obtain ⟨hfin, hneg, hpos⟩ := quireAdd_of_qmax he x
    simp [hfin, hneg, hpos]
  · rw [quireAdd_fin_of_open x he hlo hhi, if_pos hov]
  · rw [quireAdd_fin_of_open x he hlo hhi, if_neg (by omega), if_pos hov]

end Sys2Proof.Machine
end

section
/-! SUPPORT. Operation words in storage (02 R49 to R51): reading packed fields one by one, and that a stored word reads back. -/

namespace Sys2Proof.Machine

theorem packFields_cons_mod {n v : Nat} (h : v < 2 ^ n) (l : List (Nat × Nat)) : packFields ((n, v) :: l) % 2 ^ n = v := by
  rw [packFields, Nat.add_mul_mod_self_left, Nat.mod_eq_of_lt h]

theorem packFields_cons_div {n v : Nat} (h : v < 2 ^ n) (l : List (Nat × Nat)) : packFields ((n, v) :: l) / 2 ^ n = packFields l := by
  rw [packFields, Nat.add_mul_div_left _ _ (Nat.two_pow_pos n), Nat.div_eq_of_lt h, Nat.zero_add]

theorem packFields_cons_lt {n v m : Nat} (h : v < 2 ^ n) (hm : n ≤ m) (l : List (Nat × Nat)) :
    packFields ((n, v) :: l) < 2 ^ m ↔ packFields l < 2 ^ (m - n) := by
  rw [← packFields_cons_div h l, Nat.div_lt_iff_lt_mul (Nat.two_pow_pos n), ← Nat.pow_add, Nat.sub_add_cancel hm]

theorem packFields_cons_lt_toNat {n m : Nat} (x : BitVec n) (hm : n ≤ m) (l : List (Nat × Nat)) :
    packFields ((n, x.toNat) :: l) < 2 ^ m ↔ packFields l < 2 ^ (m - n) := packFields_cons_lt x.isLt hm l

theorem cutFields_nil (n : Nat) : cutFields [] n = [] := rfl

theorem cutFields_packFields {n v : Nat} (h : v < 2 ^ n) (ns : List Nat) (l : List (Nat × Nat)) :
    cutFields (n :: ns) (packFields ((n, v) :: l)) = v :: cutFields ns (packFields l) := by
  rw [cutFields, packFields_cons_mod h, packFields_cons_div h]

theorem cutFields_packFields_toNat {n : Nat} (x : BitVec n) (ns : List Nat) (l : List (Nat × Nat)) :
    cutFields (n :: ns) (packFields ((n, x.toNat) :: l)) = x.toNat :: cutFields ns (packFields l) := cutFields_packFields x.isLt ns l

theorem bitField_packFields {n v lo : Nat} (h : v < 2 ^ n) (hlo : n ≤ lo) (l : List (Nat × Nat)) (k : Nat) :
    bitField (packFields ((n, v) :: l)) lo k = bitField (packFields l) (lo - n) k := by
  obtain ⟨m, rfl⟩ := Nat.exists_eq_add_of_le hlo
  rw [bitField, Nat.pow_add, ← Nat.div_div_eq_div_mul, packFields_cons_div h, Nat.add_sub_cancel_left, bitField]

theorem bitField_packFields_toNat {n lo : Nat} (x : BitVec n) (hlo : n ≤ lo) (l : List (Nat × Nat)) (k : Nat) :
    bitField (packFields ((n, x.toNat) :: l)) lo k = bitField (packFields l) (lo - n) k := bitField_packFields x.isLt hlo l k

theorem bitField_packFields_first {n v : Nat} (h : v < 2 ^ n) (l : List (Nat × Nat)) : bitField (packFields ((n, v) :: l)) 0 n = v := by
  rw [bitField, Nat.pow_zero, Nat.div_one, packFields_cons_mod h]

theorem bitField_packFields_opcode (op grp : Nat) : bitField (packFields [(4, op), (4, grp)]) 0 8 = (op + 16 * grp) % 256 := by
  simp [bitField, packFields]

/-- What a stored word holds. An MMA word stores no TSIDE, and a RED_MAX or RED_MIN word no LOWEST: load validation wants them to be 0, and
0 is what they read as. Every other operand stands in the stored word. -/
theorem encodeOpWord_reads {w : OpWord} (hw : wordOk w = true) :
    encodeOpWord w < 2 ^ 128 ∧ opWordFields (encodeOpWord w) = some w := by
  cases w
  all_goals
    simp only [
      encodeOpWord, mmaFields, mmaTFields, convFields, gradPairFields, lutCfgFields, arrCfgFields, qzeroFields, qstoreFields,
      qimgStFields, qimgLdFields, redMaxFields, redMinFields, redTopkFields, treeStepFields, fnFields, shapeFields, gateFields,
      smaxStepFields, normStatsFields, normApplyFields, derivFields, elemFields, selFields, tblLoadFields, streamDefFields,
      streamStartFields, streamRearmFields, streamStopFields, putFields, getFields, qaddFields, signalFields, waitFields,
      fenceFields, swapDefFields, swapFields, barLocalFields, creditSetFields, calTapOpenFields, calTapPushFields,
      calTapCloseFields, scaleAdaptFields, quantFields, hadamardFields, smoothFields, reqLoadFields, nopFields, loopFields,
      endLoopFields, markFields, sliceEndFields]
    constructor
    · simp (disch := decide) only [packFields_cons_lt_toNat, packFields_cons_lt, Nat.reduceSub]
      decide
    simp (disch := decide) only [opWordFields, bitAt, bitField_packFields_toNat, bitField_packFields, bitField_packFields_first,
      bitField_packFields_opcode, Nat.reduceSub, Nat.reduceAdd, Nat.reduceMul, Nat.reduceMod, Nat.reduceBEq, Bool.false_eq_true,
      if_true, if_false]
    simp (disch := decide) only [
      mmaOf, mmaTOf, convOf, gradPairOf, lutCfgOf, arrCfgOf, qzeroOf, qstoreOf, qimgStOf, qimgLdOf, redMaxOf, redMinOf, redTopkOf,
      treeStepOf, fnOf, shapeOf, gateOf, smaxStepOf, normStatsOf, normApplyOf, derivOf, elemOf, selOf, tblLoadOf, streamDefOf,
      streamStartOf, streamRearmOf, streamStopOf, putOf, getOf, qaddOf, signalOf, waitOf, fenceOf, swapDefOf, swapOf, barLocalOf,
      creditSetOf, calTapOpenOf, calTapPushOf, calTapCloseOf, scaleAdaptOf, quantOf, hadamardOf, smoothOf, reqLoadOf, nopOf,
      loopOf, endLoopOf, markOf, sliceEndOf, cutFields_packFields_toNat, cutFields_packFields, cutFields_nil, BitVec.ofNat_toNat,
      BitVec.setWidth_eq]
  case mma x =>
    have h : x.tside = 0 := by simp_all [wordOk, opWordOk]
    rw [← h]
  case redMax x =>
    have h : x.lowest = 0 := by simp_all [wordOk, opWordOk]
    rw [← h]
  case redMin x =>
    have h : x.lowest = 0 := by simp_all [wordOk, opWordOk]
    rw [← h]

/-- Settles O57: a stored word reads back as itself, and so passes the check of its reserved bits. -/
theorem operationWordsRoundTrip : Obligations.OperationWordsRoundTrip := fun w hw => by
  obtain ⟨hlt, hread⟩ := encodeOpWord_reads hw
  refine ⟨hlt, ?_⟩
  rw [decodeOpWord, hread]
  exact if_pos rfl

end Sys2Proof.Machine
end

section
/-! SUPPORT. Which commands go on (02 R50): only a word that load validation rejects is refused. -/

namespace Sys2Proof.Machine

/-- A command that carries an operation word gives it to a core, where load validation lets the word through. -/
theorem exec_of_word {i : Instr} {w : OpWord} (h : i.word = some w) (s : State) :
    ∃ t m, exec i s = if wordOk w = true then .next t else .refused (.illFormed m) := by
  cases i
  all_goals cases h
  case streamStart c x => exact ⟨s.issue c.val (.streamStart x), "STREAM_START", rfl⟩
  case streamStop c x n =>
    exact ⟨(s.updCore c.val (fun k => k.setEngine x.unit.toNat { k.engine x.unit.toNat with inFlight := n })).issue c.val (.streamStop x),
      "STREAM_STOP", rfl⟩
  all_goals exact ⟨_, _, rfl⟩

theorem goesOn_next (t : State) : goesOn (.next t) := ⟨t, rfl⟩

/-- Every other command goes on, in each of its cases. -/
theorem exec_of_no_word {i : Instr} (h : i.word = none) (s : State) : goesOn (exec i s) := by
  cases i
  all_goals cases h
  all_goals
    simp only [exec, execRemoteLanding, execDeadlockBreak, execCmemEcc, execProfEcc, execHbmUe, execPatrolScrub, execChannelCopyDone,
    execCoreFailed, execHstFailover, execMpTakeover, execNvDegraded, execActivateTakeover, execActivateFinal, execFwRejected,
    execInputStaged, execStagingCopyFilled, execCopyBackDone, execHostDma, execSealSigned, execTurnTail, execTurnHead,
    execVoltageRaise, execBrakeTrip, execBrakeHot, execBrakeRelease, execThermalModelUpdate, execTsensor, execThetaStep,
    execThermtrip, execPowerUp, execDeviceReady, execPerstAssert, execPerstDeassert, execVinLoss, execVinLow, execVinHigh,
    execVinHighEnd, execVinOvp, execPhaseFault, execHoldupMeasure, execSysclkLost, execRefclkLnkLoss, execRefclkPcieLoss,
    execPpsInPulse, execPllLossOfLock, execPinTransition, execPinUnstable, execPinUnstableClear, execPinStuck, execE2eAck,
    execLinkAck, execPeer, execTurnSyncPulse, execSync, execSyncLost, execResync, execBackupMasterTakeover, execE2eTimeout,
    execPortDownNotice, execLaneSpared, execRouteLost, execLinkOrphan, execLinkTrainRetry, execPcieLinkUp, execLinkNarrow,
    execVfFlr, execConfigurationRequest, execMsixUnmask, execGetCertificate, execChallenge, execGetMeasurements, execReplan,
    execMaintWindowOpen, execRetireWaitExpire]
    repeat' first | with_reducible exact goesOn_next _ | split
  all_goals exact ⟨_, rfl⟩

/-- Settles O56: a command without a word goes on, and a command with one asks only what load validation asks of the word. -/
theorem commandsGoOn : Obligations.CommandsGoOn := fun i s => by
  cases hi : i.word with
  | none => exact ⟨fun _ => exec_of_no_word hi s, fun h => by simp [Instr.wf, hi] at h⟩
  | some w =>
    obtain ⟨t, m, h⟩ := exec_of_word hi s
    have hwf : i.wf = wordOk w := by rw [Instr.wf, hi]
    rw [h, hwf]
    exact ⟨fun hw => by rw [if_pos hw]; exact goesOn_next t, fun hw => ⟨m, by rw [if_neg (by simp [hw])]⟩⟩

end Sys2Proof.Machine
end

section
/-! SUPPORT. Words that run in the sequencer (02 R51, R53, R56): in a quiet core each dispatches and is done, and SLICE_END ends the slice of
a core that runs one by itself. -/

namespace Sys2Proof.Machine

/-- A core whose sequencer holds the words `ws`. -/
def Core.holding (k : Core) (ws : List OpWord) : Core := { k with seq := { k.seq with held := ws } }

theorem Core.quiet.holding_nil {k : Core} (h : k.quiet) : k.holding [] = k := by
  rw [Core.holding, ← h.held]

theorem Core.quiet.calm_holding {k : Core} (h : k.quiet) (ws : List OpWord) : (k.holding ws).calm := ⟨h.waiting, h.blocked, h.stall⟩

theorem Core.holding_stepped (k : Core) (ws : List OpWord) (t n : Nat) (l : List UnitId) :
    (k.holding ws).stepped t n l = (k.stepped t n l).holding ws := rfl

theorem Core.holding_holding (k : Core) (ws vs : List OpWord) : (k.holding ws).holding vs = k.holding vs := rfl

theorem Core.creditSet_edges (k : Core) (e n : Nat) : ∃ x, k.creditSet e n = { k with edges := x } := by
  unfold Core.creditSet
  split
  · exact ⟨k.edges, rfl⟩
  · exact ⟨_, rfl⟩

theorem Core.creditSet_holding (k : Core) (ws : List OpWord) (e n : Nat) : (k.holding ws).creditSet e n = (k.creditSet e n).holding ws := by
  unfold Core.creditSet
  have h : (k.holding ws).edgeDef e = k.edgeDef e := rfl
  rw [h]
  split <;> rfl

theorem State.setCore_bump (s : State) (c : Nat) (k : Core) (f : RegField) (n : Nat) : (s.bump f n).setCore c k = (s.setCore c k).bump f n := rfl

theorem State.core_bump (s : State) (f : RegField) (n c : Nat) : (s.bump f n).core c = s.core c := rfl

theorem State.flag_setCore (s : State) (c : Nat) (k : Core) (f : RegField) : (s.setCore c k).flag f = s.flag f := rfl

/-- What idleness reads of a core: its units, its results in flight and its engines (02 R56). -/
theorem State.unitIdle_setCore {s : State} {c : Nat} {k : Core} (hu : k.units = (s.core c).units) (hf : k.flights = (s.core c).flights)
    (he : k.engines = (s.core c).engines) {u : UnitId} (h : s.unitIdle c u = true) : (s.setCore c k).unitIdle c u = true := by
  simp only [State.unitIdle, State.core_setCore_self, Core.unit, Core.passOpen, Core.engine, hu, hf, he]
  exact h

/-- No word of the sequencer but SLICE_END touches the units or begins to end the slice. -/
theorem State.runSeq_keeps (s : State) (c t : Nat) {w : OpWord} (hw : ∀ x, w ≠ .sliceEnd x) :
    ((s.runSeq c t w).core c).units = (s.core c).units ∧ ((s.runSeq c t w).core c).seq.ending = (s.core c).seq.ending := by
  cases w
  case sliceEnd x => exact absurd rfl (hw x)
  case swapDef | swap => simp [State.runSeq]
  case creditSet x =>
    obtain ⟨e, he⟩ := (s.core c).creditSet_edges x.edge.toNat x.filled.toNat
    simp [State.runSeq, he]
  case mark x =>
    simp only [State.runSeq]
    split
    · split
      · simp
      · simp [State.core_bump]
    · simp
  all_goals exact ⟨rfl, rfl⟩

/-- What a word of the sequencer does is independent of the words that wait behind it. -/
theorem State.runSeq_holding (s : State) (c t : Nat) (k : Core) (ws : List OpWord) (w : OpWord) :
    ((s.setCore c (k.holding ws)).runSeq c t w).updCore c (fun q => q.holding []) = (s.setCore c (k.holding [])).runSeq c t w := by
  cases w
  case swapDef | swap | sliceEnd => simp [State.runSeq, State.updCore, Core.holding]
  case creditSet => simp [State.runSeq, State.updCore, Core.creditSet_holding, Core.holding_holding]
  case mark x =>
    simp only [State.runSeq, State.flag_setCore, State.core_setCore_self, State.updCore]
    split
    · split
      · next h => rw [if_pos (by exact h)]; simp [Core.holding]
      · next h => rw [if_neg (by exact h)]; simp [Core.holding, State.core_bump, State.setCore_bump]
    · simp [Core.holding]
  all_goals exact State.updCore_setCore _ _ _ _

theorem State.dispatch_seqWord {s : State} {c t : Nat} {w : OpWord} (hu : unitsOf w = []) (hl : isLoopWord w = false)
    (ht : s.dispatchCycle c w = some t) :
    ∃ n l, s.dispatch c w = some ((s.setCore c ((s.core c).stepped t n l)).runSeq c t w) := by
  simp only [State.dispatch, hl, ht, hu]
  exact ⟨_, _, rfl⟩

theorem State.dispatchCycle_bar {s : State} {c : Nat} {x : BarWord} (h : ∀ u ∈ barUnits x, s.unitIdle c u = true) :
    ∃ t, s.dispatchCycle c (.barLocal x) = some t := by
  have hi : (barUnits x).all (fun u => s.unitIdle c u) = true := List.all_eq_true.mpr h
  simp only [State.dispatchCycle, isLoopWord, State.dispatchAt, hi]
  exact ⟨_, rfl⟩

/-- A word of the sequencer that is not a loop word has a dispatch cycle on a quiet core, where the units that a BAR_LOCAL names are idle. -/
theorem State.dispatchCycle_holding {s : State} {c : Nat} (hq : (s.core c).quiet) {w : OpWord} (ws : List OpWord) (hl : isLoopWord w = false)
    (hb : ∀ x, w = .barLocal x → ∀ u ∈ barUnits x, s.unitIdle c u = true) :
    ∃ t, (s.setCore c ((s.core c).holding ws)).dispatchCycle c w = some t := by
  by_cases h : ∃ x, w = .barLocal x
  · obtain ⟨x, rfl⟩ := h
    exact State.dispatchCycle_bar fun u hu => State.unitIdle_setCore (s := s) (k := (s.core c).holding ws) rfl rfl rfl (hb x rfl u hu)
  · have hc : ((s.setCore c ((s.core c).holding ws)).core c).calm := by
      rw [State.core_setCore_self]; exact hq.calm_holding ws
    exact State.dispatchCycle_calm hc w (fun x hx => h ⟨x, hx⟩) hl

/-- A word of the sequencer other than LOOP, ENDLOOP and SLICE_END, given to a quiet core, dispatches and does what `runSeq` says. -/
theorem State.issue_seqWord {s : State} {c : Nat} {w : OpWord} (hq : (s.core c).quiet) (hu : unitsOf w = []) (hl : isLoopWord w = false)
    (he : ∀ x, w ≠ .sliceEnd x) (hb : ∀ x, w = .barLocal x → ∀ u ∈ barUnits x, s.unitIdle c u = true) :
    ∃ t n l, s.issue c w = (s.setCore c ((s.core c).stepped t n l)).runSeq c t w := by
  obtain ⟨t, ht⟩ := State.dispatchCycle_holding hq [w] hl hb
  obtain ⟨n, l, hd⟩ := State.dispatch_seqWord hu hl ht
  rw [State.core_setCore_self, State.setCore_setCore, Core.holding_stepped] at hd
  obtain ⟨hunits, hending⟩ := State.runSeq_keeps (s.setCore c (((s.core c).stepped t n l).holding [w])) c t he
  rw [State.core_setCore_self] at hunits hending
  refine ⟨t, n, l, ?_⟩
  rw [State.issue_seq hq hd (hending.trans hq.ending) hunits]
  have h0 : ((s.core c).stepped t n l).holding [] = (s.core c).stepped t n l := by rw [← Core.holding_stepped, hq.holding_nil]
  rw [← h0]
  exact State.runSeq_holding s c t _ [w] w

theorem Sequencer.loopWord_keeps (q : Sequencer) (w : OpWord) : (q.loopWord w).ending = q.ending ∧ (q.loopWord w).held = q.held := by
  cases w
  case loop => simp only [Sequencer.loopWord]; split <;> exact ⟨rfl, rfl⟩
  case endLoop =>
    simp only [Sequencer.loopWord]
    split
    · exact ⟨rfl, rfl⟩
    · split <;> exact ⟨rfl, rfl⟩
  all_goals exact ⟨rfl, rfl⟩

theorem Sequencer.loopWord_holding (q : Sequencer) (ws : List OpWord) (w : OpWord) :
    ({ q with held := ws } : Sequencer).loopWord w = { q.loopWord w with held := ws } := by
  cases w
  case loop => simp only [Sequencer.loopWord]; split <;> rfl
  case endLoop =>
    simp only [Sequencer.loopWord]
    split
    · rfl
    · split <;> rfl
  all_goals rfl

/-- LOOP and ENDLOOP, given to a quiet core, change its sequencer only, and take no cycle (02 R53). -/
theorem State.issue_loopWord {s : State} {c : Nat} {w : OpWord} (hq : (s.core c).quiet) (hl : isLoopWord w = true) :
    s.issue c w = s.setCore c { (s.core c) with seq := (s.core c).seq.loopWord w } := by
  obtain ⟨hending, hheld⟩ := Sequencer.loopWord_keeps (s.core c).seq w
  have hd : (s.setCore c ((s.core c).holding [w])).dispatch c w
      = some (s.setCore c (({ (s.core c) with seq := (s.core c).seq.loopWord w } : Core).holding [w])) := by
    simp only [State.dispatch, hl, if_true, State.core_setCore_self, State.setCore_setCore, Core.holding, Sequencer.loopWord_holding]
  rw [State.issue_seq hq hd (by rw [State.core_setCore_self]; exact hending.trans hq.ending) (by rw [State.core_setCore_self]; rfl),
    State.updCore_setCore]
  congr 1
  simp only [Core.holding, ← hheld, ← hq.held]

theorem State.wordCmd_seqWord {s : State} {c : Nat} {w : OpWord} {m : String} (hq : (s.core c).quiet) (hw : wordOk w = true)
    (hu : unitsOf w = []) (hl : isLoopWord w = false) (he : ∀ x, w ≠ .sliceEnd x)
    (hb : ∀ x, w = .barLocal x → ∀ u ∈ barUnits x, s.unitIdle c u = true) :
    ∃ t n l, s.wordCmd c w m = .next ((s.setCore c ((s.core c).stepped t n l)).runSeq c t w) := by
  obtain ⟨t, n, l, h⟩ := State.issue_seqWord hq hu hl he hb
  exact ⟨t, n, l, by rw [State.wordCmd, if_pos hw, h]⟩

theorem State.wordCmd_loopWord {s : State} {c : Nat} {w : OpWord} {m : String} (hq : (s.core c).quiet) (hw : wordOk w = true)
    (hl : isLoopWord w = true) :
    s.wordCmd c w m = .next (s.setCore c { (s.core c) with seq := (s.core c).seq.loopWord w }) := by
  rw [State.wordCmd, if_pos hw, State.issue_loopWord hq hl]

/-- Settles O6: what a word of the sequencer changes is what `runSeq` and `loopWord` change. -/
theorem sequencerWords : Obligations.SequencerWords := by
  refine ⟨fun s c hq => ⟨fun w hw => State.wordCmd_seqWord hq hw rfl rfl nofun nofun, fun w hw hb => ?_, fun w hw => ?_, fun w p hw hp => ?_,
    fun w hw => ?_, fun w hw ht => ?_⟩, fun s c hq => ⟨fun w hw hlen => ?_, fun w trip n first rest hw hloops => ?_⟩⟩
  · exact State.wordCmd_seqWord (w := .barLocal w) hq hw rfl rfl nofun (fun x hx => by cases hx; exact hb)
  · obtain ⟨t, n, l, h⟩ := State.wordCmd_seqWord (w := .swapDef w) (m := "SWAP_DEF") hq hw rfl rfl nofun nofun
    refine ⟨t, n, l, h.trans (congrArg _ ?_)⟩
    simp [State.runSeq, swapWord, addr64, Core.stepped, Nat.mul_comm]
  · obtain ⟨t, n, l, h⟩ := State.wordCmd_seqWord (w := .swap w) (m := "SWAP") hq hw rfl rfl nofun nofun
    refine ⟨t, n, l, h.trans (congrArg _ ?_)⟩
    simp [State.runSeq, swapWord, Core.stepped, hp]
  · obtain ⟨t, n, l, h⟩ := State.wordCmd_seqWord (w := .creditSet w) (m := "CREDIT_SET") hq hw rfl rfl nofun nofun
    refine ⟨t, n, l, h.trans (congrArg _ ?_)⟩
    simp [State.runSeq]
  · obtain ⟨t, n, l, h⟩ := State.wordCmd_seqWord (w := .mark w) (m := "MARK") hq hw rfl rfl nofun nofun
    refine ⟨t, n, l, h.trans (congrArg _ ?_)⟩
    simp [State.runSeq, State.flag_setCore, ht, Core.stepped]
  · refine (State.wordCmd_loopWord hq hw rfl).trans ?_
    simp [Sequencer.loopWord, hlen]
  · refine (State.wordCmd_loopWord hq hw rfl).trans ?_
    simp [Sequencer.loopWord, hloops]

/-! ### The end of a slice (02 R56) -/

/-- A calm core whose one held word dispatches and thereby ends its slice ends it in the same round. -/
theorem State.pumpRound_ends {s s' s'' : State} {c now : Nat} {w : OpWord} (hc : (s.core c).calm) (hh : (s.core c).seq.held = [w])
    (hd : s.dispatch c w = some s') (he : (s'.updCore c (fun k => k.holding [])).tryEnd c = some s'') :
    s.pumpRound c now = (s'', true) := by
  have h := State.units_idle (s := s) (c := c) (now := now) (List.range 22) false
    (fun u _ => State.tryBegin_idle now (hc.waiting u) (hc.blocked u))
  simp only [Core.holding] at he
  unfold State.pumpRound
  simp only [h, hh, hd, he]

/-- Nothing more happens on a calm core whose slice has ended. -/
theorem State.pumpRound_ended {s : State} {c now : Nat} (hc : (s.core c).calm) (hh : (s.core c).seq.held = [])
    (he : (s.core c).seq.ended.isSome = true) : s.pumpRound c now = (s, false) := by
  have h := State.units_idle (s := s) (c := c) (now := now) (List.range 22) false
    (fun u _ => State.tryBegin_idle now (hc.waiting u) (hc.blocked u))
  obtain ⟨n, hn⟩ := Option.isSome_iff_exists.mp he
  have hend : s.tryEnd c = none := by
    unfold State.tryEnd
    simp only [hn]
    split <;> simp_all
  unfold State.pumpRound
  simp only [h, hh, hend]

/-- A core whose sequencer has dispatched SLICE_END in cycle `t`. -/
def Core.endingAt (k : Core) (t : Nat) : Core := { k with seq := { k.seq with ending := some t } }

/-- A core whose slice has ended in cycle `fin`. -/
def Core.endedAt (k : Core) (fin : Nat) : Core := { k with seq := { k.seq with ended := some fin } }

/-- The end of a slice on the one core that runs it: the placed slice ends with the core's flags and marks. -/
theorem State.tryEnd_alone {s : State} {c i t : Nat} {k : Core} {p : Placed} (hending : k.seq.ending = some t) (hended : k.seq.ended = none)
    (hheld : k.seq.held = []) (hidle : ∀ u, (s.setCore c k).unitIdle c u = true) (hwork : k.ctx.work = some i)
    (hp : s.placedAt i = some p) (hcores : p.cores = [c]) (hrun : p.st = .running) :
    ∃ fin f, (s.setCore c k).tryEnd c = some ((s.setCore c (k.endedAt fin)).updPlaced i f)
      ∧ (f p).st = .ended fin ∧ (f p).flags = k.summary.toNat ∧ (f p).marks = k.seq.marks := by
  have hall : (List.range 22).all (fun u => (s.setCore c k).unitIdle c u) = true := List.all_eq_true.mpr fun u _ => hidle u
  have hp' : ∀ x, (s.setCore c x).placedAt i = some p := fun _ => hp
  unfold State.tryEnd
  simp only [State.core_setCore_self, State.setCore_setCore, hending, hended, hheld, hall, hwork, hp', hcores, List.isEmpty_nil,
    List.all_cons, List.all_nil, Option.isSome_some, Bool.and_self, if_true]
  refine ⟨_, _, by simp only [Core.endedAt, hending, hheld]; rfl, ?_⟩
  simp [Placed.isRunning, hrun]

theorem State.issue_quiet {s : State} {c : Nat} (hq : (s.core c).quiet) (w : OpWord) :
    s.issue c w = (s.setCore c ((s.core c).holding [w])).pump c 0 := by
  show (if (s.core c).seq.ending.isSome = true then s
    else (s.setCore c ((s.core c).holding ((s.core c).seq.held ++ [w]))).pump c 0) = _
  rw [if_neg (by simp [hq.ending]), hq.held, List.nil_append]

/-- A word that ends the slice of a quiet core as it dispatches leaves the core as the end of the slice leaves it. -/
theorem State.issue_ends {s s' s'' : State} {c : Nat} {w : OpWord} (hq : (s.core c).quiet)
    (hd : (s.setCore c ((s.core c).holding [w])).dispatch c w = some s') (he : (s'.updCore c (fun k => k.holding [])).tryEnd c = some s'')
    (hc : (s''.core c).calm) (hheld : (s''.core c).seq.held = []) (hended : (s''.core c).seq.ended.isSome = true) :
    s.issue c w = s'' := by
  have r1 := State.pumpRound_ends (now := 0) (by rw [State.core_setCore_self]; exact hq.calm_holding [w])
    (by rw [State.core_setCore_self]; rfl) hd he
  have r2 := State.pumpRound_ended (now := 0) hc hheld hended
  obtain ⟨fuel, hfuel⟩ := Core.work_pos ((s.setCore c ((s.core c).holding [w])).core c)
  rw [State.issue_quiet hq, State.pump, hfuel, State.pumpFuel, r1, State.pumpFuel, r2]
  rfl

/-- SLICE_END, given to a quiet core that alone runs a slice and whose units are idle, ends the slice. -/
theorem State.issue_sliceEnd {s : State} {c i : Nat} (w : PlainWord) {p : Placed} (hq : (s.core c).quiet)
    (hidle : ∀ u, s.unitIdle c u = true) (hended : (s.core c).seq.ended = none) (hwork : (s.core c).ctx.work = some i)
    (hp : s.placedAt i = some p) (hcores : p.cores = [c]) (hrun : p.st = .running) :
    ∃ k fin f, s.issue c (.sliceEnd w) = (s.setCore c k).updPlaced i f ∧ k.mem = (s.core c).mem
      ∧ (f p).st = .ended fin ∧ (f p).flags = (s.core c).summary.toNat ∧ (f p).marks = (s.core c).seq.marks := by
  obtain ⟨t, ht⟩ := State.dispatchCycle_holding (w := .sliceEnd w) hq [.sliceEnd w] rfl nofun
  obtain ⟨n, l, hd⟩ := State.dispatch_seqWord (w := .sliceEnd w) rfl rfl ht
  simp only [State.runSeq, State.core_setCore_self, State.setCore_setCore] at hd
  have hdrop : ((((s.core c).holding [.sliceEnd w]).stepped t n l).endingAt t).holding [] = ((s.core c).stepped t n l).endingAt t := by
    conv_rhs => rw [← hq.holding_nil]
    rfl
  obtain ⟨fin, f, hend, hf⟩ := State.tryEnd_alone (s := s) (c := c) (k := ((s.core c).stepped t n l).endingAt t) rfl hended hq.held
    (fun u => State.unitIdle_setCore (s := s) (k := ((s.core c).stepped t n l).endingAt t) rfl rfl rfl (hidle u)) hwork hp hcores hrun
  have hcore : ((s.setCore c ((((s.core c).stepped t n l).endingAt t).endedAt fin)).updPlaced i f).core c
      = (((s.core c).stepped t n l).endingAt t).endedAt fin := State.core_setCore_self _ _ _
  refine ⟨(((s.core c).stepped t n l).endingAt t).endedAt fin, fin, f, State.issue_ends hq hd ?_ ?_ ?_ ?_, rfl, hf⟩
  · rw [State.updCore_setCore, ← hend, ← hdrop]
    rfl
  · rw [hcore]
    exact ⟨hq.waiting, hq.blocked, hq.stall⟩
  · rw [hcore]
    exact hq.held
  · rw [hcore]
    rfl

/-- Settles O7: the core's sequencer ends with the slice, and nothing of the state changes but the core and the placed slice. -/
theorem sliceEndEndsTheSlice : Obligations.SliceEndEndsTheSlice := by
  intro s c w i p hq hw hidle hended hwork hp hcores hrun
  obtain ⟨k, fin, f, hissue, hmem, hst, hflags, hmarks⟩ := State.issue_sliceEnd w hq hidle hended hwork hp hcores hrun
  have hcore : ∀ d, ((s.setCore c.val k).updPlaced i f).core d = if d = c.val then k else s.core d := State.core_setCore s c.val k
  refine ⟨(s.setCore c.val k).updPlaced i f, fin, f p, ?_, ?_, hst, hflags, hmarks, ?_, fun d hd => ?_, rfl, rfl, rfl, rfl⟩
  · rw [← hissue]
    exact if_pos hw
  · simp only [State.placedAt] at hp
    simp [State.placedAt, hp]
  · rw [hcore, if_pos rfl, hmem]
  · rw [hcore, if_neg hd]

end Sys2Proof.Machine
end

section
/-! SUPPORT. Slice-fatal errors that a core meets (02 R48; 04 R102; 05 R136; 08 R211): the record, and the abort of the slice that it
runs. -/

namespace Sys2Proof.Machine

/-- What a slice-fatal error that core `c` meets leaves: its record, and the abort of the slice that the core runs, whose work runs again. -/
structure State.coreFatally (t s : State) (c : Nat) (cause : Cause) : Prop where
  told : t.tells s.turn.number cause c
  mem : ∀ d, (t.core d).mem = (s.core d).mem
  hbm : t.hbm = s.hbm
  alone : (s.core c).ctx.work = none → t.cores = s.cores ∧ t.turn = s.turn
  aborts : ∀ i p, (s.core c).ctx.work = some i → s.placedAt i = some p → p.active = true → t.aborted i 1
    ∧ ∀ w ∈ t.works, w.ring = p.ring → w.seq = p.seq → w.rank.rerun = true

theorem State.sliceRec_inst (s : State) (c : Nat) : (s.sliceRec c).inst = c := by
  unfold State.sliceRec
  split
  · rfl
  · split <;> rfl

theorem State.abortSlice_frame (s : State) (i cause : Nat) (st : Option Nat) :
    (s.abortSlice i cause st).errs = s.errs ∧ (s.abortSlice i cause st).hbm = s.hbm
      ∧ ∀ d, ((s.abortSlice i cause st).core d).mem = (s.core d).mem := by
  have hmem : ∀ d, ((s.abortSlice i cause st).core d).mem = (s.core d).mem := fun d => ((State.near_abortSlice s i cause st).cores d).1
  by_cases h : ∃ p, s.placedAt i = some p ∧ p.active = true
  · obtain ⟨p, hp, ha⟩ := h
    obtain ⟨-, herrs, hhbm, -⟩ := State.abortSlice_spec s i cause st hp ha
    exact ⟨herrs, hhbm, hmem⟩
  · rw [State.abortSlice_none s i cause st fun p hp => by simpa using fun ha => h ⟨p, hp, ha⟩]
    exact ⟨rfl, rfl, fun _ => rfl⟩

/-- An aborted slice's work runs again (10 R285). -/
theorem State.abortSlice_reruns {s : State} {i cause : Nat} (st : Option Nat) {p : Placed} (hp : s.placedAt i = some p) (ha : p.active = true) :
    ∀ w ∈ (s.abortSlice i cause st).works, w.ring = p.ring → w.seq = p.seq → w.rank.rerun = true := by
  obtain ⟨-, -, -, -, -, hworks, -⟩ := State.abortSlice_spec s i cause st hp ha
  intro w hw hring hseq
  obtain ⟨v, -, rfl⟩ := List.mem_map.mp (hworks ▸ hw)
  split
  · rfl
  · next h =>
    rw [if_neg h] at hring hseq
    exact absurd ⟨hring, hseq⟩ h

/-- A slice-fatal error of a core, from its record and the abort. -/
theorem State.coreFatal_fatally (s : State) {c : Nat} {cause : Cause} {r : ErrRec} (hsev : cause.sev ≠ 0) (hr : r.inst = c) :
    (s.coreFatal c cause r none).coreFatally s c cause := by
  have hlog := State.sameBody_log s cause r
  have htold := hr ▸ State.log_tells s cause r hsev
  have hcore : ∀ d, (s.log cause r).core d = s.core d := fun d => by rw [State.core, hlog.cores]; rfl
  have hplaced : ∀ i, (s.log cause r).placedAt i = s.placedAt i := fun i => by rw [State.placedAt, hlog.turn]; rfl
  unfold State.coreFatal
  cases hw : (s.core c).ctx.work with
  | none => exact ⟨htold, fun d => by rw [hcore], hlog.hbm, fun _ => ⟨hlog.cores, hlog.turn⟩, fun i p hi => by simp [hw] at hi⟩
  | some i =>
    obtain ⟨herrs, hhbm, hmem⟩ := State.abortSlice_frame (s.log cause r) i 1 none
    refine ⟨(State.tells_congr herrs _ _ _).mpr htold, fun d => (hmem d).trans (by rw [hcore]), hhbm.trans hlog.hbm,
      fun h => by simp [hw] at h, fun j p hj hp ha => ?_⟩
    obtain rfl : i = j := Option.some.inj (hw.symm.trans hj)
    rw [← hplaced] at hp
    exact ⟨(State.abortSlice_spec _ i 1 none hp ha).1, State.abortSlice_reruns none hp ha⟩

/-! ### What an error of core memory costs a chain (08 R211) -/

/-- Updating cores by a function that leaves a part of each alone leaves that part of every core alone. -/
theorem State.foldl_updCore_part {α : Type} {f : Core → Core} {g : Core → α} (hg : ∀ k, g (f k) = g k) (d : Nat) :
    ∀ (l : List Nat) (s : State), g ((l.foldl (fun t c => t.updCore c f) s).core d) = g (s.core d)
  | [], _ => rfl
  | c :: l, s => by
    rw [List.foldl_cons, State.foldl_updCore_part hg d l, State.updCore, State.core_setCore]
    split
    · next h => rw [hg, h]
    · rfl

/-- Taking engines from cores changes nothing else of the state or of a core. -/
theorem State.disarm_frame (s : State) (w : Work) (l : List Nat) :
    (s.disarm w l).turn = s.turn ∧ (s.disarm w l).hbm = s.hbm
      ∧ ∀ d, ((s.disarm w l).core d).mem = (s.core d).mem ∧ ((s.disarm w l).core d).ctx = (s.core d).ctx := by
  have hcore : ∀ d, ((s.disarm w l).core d).mem = (s.core d).mem ∧ ((s.disarm w l).core d).ctx = (s.core d).ctx := fun d =>
    State.foldl_updCore_part (f := fun k => { k with engines := [] }) (g := fun k => (k.mem, k.ctx)) (fun _ => rfl) d _ s |> Prod.mk.inj
  obtain ⟨m, hm⟩ := State.stopCores_only (fun k => { k with engines := [] }) (l.filter fun c => !(s.pinnedToOthers w).contains c) s
  refine ⟨?_, ?_, hcore⟩ <;> rw [State.disarm, hm]

/-- What a core memory error costs a chain is in its work, and in engines of its cores. -/
theorem State.chainMemLost_frame (s : State) (c a : Nat) :
    (s.chainMemLost c a).turn = s.turn ∧ (s.chainMemLost c a).hbm = s.hbm
      ∧ ∀ d, ((s.chainMemLost c a).core d).mem = (s.core d).mem ∧ ((s.chainMemLost c a).core d).ctx = (s.core d).ctx := by
  have hsame : s.turn = s.turn ∧ s.hbm = s.hbm ∧ ∀ d, (s.core d).mem = (s.core d).mem ∧ (s.core d).ctx = (s.core d).ctx :=
    ⟨rfl, rfl, fun _ => ⟨rfl, rfl⟩⟩
  unfold State.chainMemLost
  split
  · exact hsame
  · split
    · exact hsame
    · dsimp only
      split
      · exact hsame
      · split
        · exact State.disarm_frame s _ _
        · exact hsame

theorem State.chainMemLost_idle {s : State} {c : Nat} (h : (s.core c).ctx.work = none) (a : Nat) : s.chainMemLost c a = s := by
  simp [State.chainMemLost, State.sliceEnv, h]

/-- An error of core memory is slice-fatal for the core as it was before the chain lost anything. -/
theorem State.coreFatally.of_chainMemLost {t s : State} {c a : Nat} {cause : Cause} (h : t.coreFatally (s.chainMemLost c a) c cause) :
    t.coreFatally s c cause := by
  obtain ⟨hturn, hhbm, hcore⟩ := State.chainMemLost_frame s c a
  have hwork : ((s.chainMemLost c a).core c).ctx.work = (s.core c).ctx.work := by rw [(hcore c).2]
  exact {
    told := hturn ▸ h.told
    mem := fun d => (h.mem d).trans (hcore d).1
    hbm := h.hbm.trans hhbm
    alone := fun hw => by
      obtain ⟨hcores, -⟩ := h.alone (hwork.trans hw)
      exact ⟨hcores.trans (by rw [State.chainMemLost_idle hw]), (h.alone (hwork.trans hw)).2.trans hturn⟩
    aborts := fun i p hi hp => h.aborts i p (hwork.trans hi) (by rw [State.placedAt, hturn]; exact hp) }

/-- Settles O20: each of the four errors is slice-fatal for the core that meets it. -/
theorem uncorrectableCoreErrorsAbort : Obligations.UncorrectableCoreErrorsAbort := by
  intro s c cause o h
  have hfatal : ∃ t, o = .next t ∧ t.coreFatally s c.val cause := by
    rcases h with ⟨rfl, rfl⟩ | ⟨a, rfl, rfl⟩ | ⟨a, rfl, rfl⟩ | ⟨rfl, rfl⟩
    · exact ⟨_, rfl, State.coreFatal_fatally s (by decide) (s.sliceRec_inst c.val)⟩
    · exact ⟨_, rfl, State.coreFatally.of_chainMemLost (State.coreFatal_fatally _ (by decide) (s.sliceRec_inst c.val))⟩
    · exact ⟨_, rfl, State.coreFatal_fatally s (by decide) (s.sliceRec_inst c.val)⟩
    · exact ⟨_, rfl, State.coreFatal_fatally s (by decide) (s.sliceRec_inst c.val)⟩
  obtain ⟨t, ho, htold, hmem, hhbm, halone, haborts⟩ := hfatal
  exact ⟨t, ho, htold, hmem, hhbm, halone, haborts⟩

end Sys2Proof.Machine
end

section
/-! SUPPORT. Results that arrive (03 R74; 04 R110): on a quiet core a delivery frees what the oldest operation of a unit left in flight, and
nothing else happens. -/

namespace Sys2Proof.Machine

theorem Core.produceBy_edges (k : Core) (u : UnitId) (ws : List (Nat × Nat)) : ∃ x, k.produceBy u ws = { k with edges := x } := by
  refine Core.foldl_edges _ (fun k' p => ?_) _ k
  dsimp only
  split
  · split
    · exact ⟨k'.edges, rfl⟩
    · refine Core.foldl_edges _ (fun k'' ch => ?_) _ k'
      split
      · exact ⟨_, rfl⟩
      · exact ⟨k''.edges, rfl⟩
  · exact ⟨k'.edges, rfl⟩

/-- A quiet core has nothing to go on with. -/
theorem State.pump_quiet {s : State} {c : Nat} (hq : (s.core c).quiet) (now : Nat) : s.pump c now = s := by
  have hround : s.pumpRound c now = (s, false) :=
    State.pumpRound_idle (fun u _ => State.tryBegin_idle now (hq.waiting u) (hq.blocked u)) hq.held hq.ending
  obtain ⟨n, hn⟩ := Core.work_pos (s.core c)
  rw [State.pump, hn, State.pumpFuel, hround]
  rfl

/-- A unit that has delivered one more operation. -/
def UnitState.delivered (x : UnitState) : UnitState := { x with doneOp := x.doneOp + 1 }

/-- The core once unit `u` has delivered its oldest undelivered operation, its credit edges apart. -/
def Core.delivered (k : Core) (u : UnitId) : Core :=
  { k with flights := k.flights.filter (fun f => !(decide (f.owner = u) && decide (f.op = (k.unit u).doneOp))) }.updUnit u
    UnitState.delivered

theorem Core.unit_delivered (k : Core) (u v : UnitId) :
    (k.delivered u).unit v = if v = u then (k.unit u).delivered else k.unit v :=
  Core.unit_updUnit _ u UnitState.delivered v

theorem Core.mem_flights_delivered (k : Core) (u : UnitId) (f : Flight) :
    f ∈ (k.delivered u).flights ↔ f ∈ k.flights ∧ ¬ (f.owner = u ∧ f.op = (k.unit u).doneOp) := by
  simp [Core.delivered, Core.updUnit, Core.setUnit, Decidable.imp_iff_not_or]

/-- A delivery leaves a quiet core quiet, whatever its credit edges become. -/
theorem Core.quiet.delivered {k : Core} (h : k.quiet) (u : UnitId) (x : SMap EdgeState) :
    ({ k.delivered u with edges := x } : Core).quiet where
  waiting v := (congrArg UnitState.waiting (Core.unit_delivered k u v)).trans (by split <;> exact h.waiting _)
  blocked v := (congrArg UnitState.blocked (Core.unit_delivered k u v)).trans (by split <;> exact h.blocked _)
  stall v := (congrArg UnitState.stall (Core.unit_delivered k u v)).trans (by split <;> exact h.stall _)
  held := h.held
  ending := h.ending

/-- The chunks that a delivery on a quiet core makes FULL let nothing go on. -/
theorem State.pump_produceBy {s : State} {c : Nat} (hq : (s.core c).quiet) (u : UnitId) (ws : List (Nat × Nat)) (now : Nat) :
    ∃ x, (s.setCore c (((s.core c).delivered u).produceBy u ws)).pump c now
      = s.setCore c { (s.core c).delivered u with edges := x } := by
  obtain ⟨x, hx⟩ := ((s.core c).delivered u).produceBy_edges u ws
  refine ⟨x, ?_⟩
  rw [hx]
  exact State.pump_quiet (by rw [State.core_setCore_self]; exact hq.delivered u x) now

/-- On a quiet core, a unit with an undelivered operation delivers it, and nothing follows from that. -/
theorem State.deliver_quiet {s : State} {c : Nat} {u : UnitId} (hq : (s.core c).quiet)
    (hop : ((s.core c).unit u).doneOp < ((s.core c).unit u).nextOp) :
    ∃ x, s.deliver c u = s.setCore c { (s.core c).delivered u with edges := x } := by
  simp only [State.deliver, if_pos hop]
  exact State.pump_produceBy hq u _ _

/-- Settles O13: both events deliver for their unit, and the frame is that of `Core.delivered`. -/
theorem resultsAreDelivered : Obligations.ResultsAreDelivered := by
  intro s c u o hq hop hcmd
  have ho : o = .next (s.deliver c.val u) := by
    rcases hcmd with ⟨a, rfl, ho⟩ | ⟨v, rfl, ho⟩ <;> exact ho
  obtain ⟨x, hx⟩ := State.deliver_quiet hq hop
  have hunit : (((s.core c.val).delivered u).unit u).doneOp = ((s.core c.val).unit u).doneOp + 1 := by
    rw [Core.unit_delivered, if_pos rfl, UnitState.delivered]
  exact ⟨_, by rw [ho, hx], hq.delivered u x, ⟨⟨rfl, rfl, rfl, rfl, rfl, rfl, rfl, rfl⟩, rfl⟩, rfl, rfl, rfl, hunit,
    Core.mem_flights_delivered _ u⟩

end Sys2Proof.Machine
end

section
/-! SUPPORT. Configuration words of the arrays (03 R79, R92; 06 R183): each array that UNIT names begins the word in its own queue, and
the beginning of the first leaves to the second what that one finds. -/

namespace Sys2Proof.Machine

theorem any_congr_mem {α : Type} {l : List α} {p q : α → Bool} (h : ∀ a ∈ l, p a = q a) : l.any p = l.any q := by
  rw [Bool.eq_iff_iff, List.any_eq_true, List.any_eq_true]
  exact exists_congr fun a => and_congr_right fun ha => by rw [h a ha]

/-! ### The mapping that the second array finds -/

theorem Core.roomFrom_congr {k k0 : Core} {u : UnitId} (hu : k.unit u = k0.unit u) (he : k.engines = k0.engines) (t : Nat) :
    k.roomFrom u t = k0.roomFrom u t := by
  have hp : k.passOpen u = k0.passOpen u := by simp only [Core.passOpen, Core.engine, he]
  simp only [Core.roomFrom, hu, hp]

theorem Sequencer.loopWord_units (q : Sequencer) (w : OpWord) : (q.loopWord w).units = q.units := by
  cases w
  case loop => simp only [Sequencer.loopWord]; split <;> rfl
  case endLoop =>
    simp only [Sequencer.loopWord]
    split
    · rfl
    · split <;> rfl
  all_goals rfl

/-- A unit that has had a word in the present cycle takes no other, so what stands in its queue does not matter to the words that
still dispatch. -/
theorem swapsSoon_congr {k k0 : Core} (hbody : k.body = k0.body) : ∀ (n : Nat) (q : Sequencer) (m : SMap (Option SwapPair)),
    (∀ u, u ∉ q.units → ∀ t, k.roomFrom u t = k0.roomFrom u t) → swapsSoon n k q m = swapsSoon n k0 q m
  | 0, _, _, _ => rfl
  | n + 1, q, m, h => by
    have hstop : ∀ us : List UnitId,
        (q.clash q.cycle us || us.any (fun u => decide (k.roomFrom u q.cycle ≠ some q.cycle)))
          = (q.clash q.cycle us || us.any (fun u => decide (k0.roomFrom u q.cycle ≠ some q.cycle))) := by
      intro us
      by_cases hus : ∃ u ∈ us, u ∈ q.units
      · have hclash : q.clash q.cycle us = true := by simpa [Sequencer.clash] using .inr hus
        rw [hclash, Bool.true_or, Bool.true_or]
      · have hany : ∀ u ∈ us, k.roomFrom u q.cycle = k0.roomFrom u q.cycle := fun u hu => h u (fun hq => hus ⟨u, hu, hq⟩) _
        congr 1
        exact any_congr_mem fun u hu => by rw [hany u hu]
    simp only [swapsSoon, hbody, hstop]
    split
    · rfl
    · rfl
    · next w _ _ =>
      rw [swapsSoon_congr hbody n (q.loopWord w) m (by rw [Sequencer.loopWord_units]; exact h),
        swapsSoon_congr hbody n _ (swapWord m w) (fun u hu => h u (fun hq => hu (List.mem_append_left _ hq)))]

theorem Core.ahead_swaps_congr {k k0 : Core} (hbody : k.body = k0.body) (hseq : k.seq = k0.seq) (hswaps : k.swaps = k0.swaps)
    (hroom : ∀ u, u ∉ k0.seq.units → ∀ t, k.roomFrom u t = k0.roomFrom u t) : k.ahead.swaps = k0.ahead.swaps := by
  simp only [Core.ahead, hseq, hswaps, swapsSoon_congr hbody 12 k0.seq k0.swaps hroom]

theorem Core.foldl_updUnit_seq (f : UnitState → UnitState) (us : List UnitId) (k : Core) :
    (us.foldl (fun k' u => k'.updUnit u f) k).seq = k.seq := by
  obtain ⟨m, hm⟩ := Core.foldl_updUnit f us k
  rw [hm]

/-- The units of the word that a quiet core dispatches count as used in its dispatch cycle (02 R45). -/
theorem State.atDispatch_seq_units {s : State} {c : Nat} {w : OpWord} (hq : (s.core c).quiet) {u : UnitId} (hu : u ∈ unitsOf w) :
    u ∈ (s.atDispatch c w).seq.units := by
  obtain ⟨v, rest, hus⟩ := List.exists_cons_of_ne_nil (List.ne_nil_of_mem hu)
  obtain ⟨hb, hl⟩ := unitsOf_plain hus
  obtain ⟨t, ht⟩ := State.dispatchCycle_holding hq [w] hl (fun x hx => absurd hx (hb x))
  simp only [Core.holding] at ht
  simp only [State.atDispatch, State.dispatch, hl, ht, Bool.false_eq_true, if_false, State.runSeq_unit hus, State.core_setCore_self]
  rw [Core.foldl_updUnit_seq]
  exact List.mem_append_right _ hu

/-! ### Credit edges of the other arrays -/

theorem unitNode_injective {u v : UnitId} (h : unitNode u = unitNode v) : u = v := by
  unfold unitNode at h
  split at h <;> split at h <;> simp_all

theorem edgeDef_of_mem_edgeList {k : Core} {p : Nat × EdgeDef} (hp : p ∈ edgeList k) : k.edgeDef p.1 = some p.2 := by
  obtain ⟨i, hi⟩ := List.mem_iff_getElem?.mp hp
  obtain ⟨h1, h2⟩ := List.getElem?_zip_eq_some.mp hi
  obtain ⟨_, hp1⟩ := List.getElem?_eq_some_iff.mp h1
  rw [← hp1, List.getElem_range]
  exact h2

theorem Core.edge_setEdge (k : Core) (e : Nat) (x : EdgeState) (j : Nat) :
    (k.setEdge e x).edge j = if j = e then x else k.edge j := SMap.get_set _ k.edges e x j

theorem Core.readStall_congr {k k0 : Core} {v : UnitId} (hctx : k.ctx = k0.ctx)
    (he : ∀ p ∈ edgeList k0, p.2.consumer = unitNode v → k.edge p.1 = k0.edge p.1) (rs : List Reads) :
    k.readStall v rs = k0.readStall v rs := by
  have hlist : edgeList k = edgeList k0 := by simp only [edgeList, hctx]
  have hany : ∀ r : Reads, (edgeList k0).any (fun p => decide (p.2.consumer = unitNode v)
        && (k.touched p.1 p.2 [(r.lo, r.len)]).any (fun ch => !(k.edge p.1).isFull ch))
      = (edgeList k0).any (fun p => decide (p.2.consumer = unitNode v)
        && (k0.touched p.1 p.2 [(r.lo, r.len)]).any (fun ch => !(k0.edge p.1).isFull ch)) := fun r =>
    any_congr_mem fun p hp => by
      by_cases hv : p.2.consumer = unitNode v
      · simp only [Core.touched, he p hp hv]
      · simp [hv]
  simp only [Core.readStall, hlist, hany]

/-- What one unit consumes of its credit edges keeps no other unit waiting, and frees none. -/
theorem Core.readStall_consumeBy {k : Core} {u v : UnitId} (h : v ≠ u) (rs rs' : List Reads) :
    (k.consumeBy u rs).readStall v rs' = k.readStall v rs' := by
  obtain ⟨x, hx⟩ := Core.consumeBy_edges k u rs
  refine Core.readStall_congr (by rw [hx]) (fun p hp hv => ?_) rs'
  unfold Core.consumeBy
  refine List.foldlRecOn (motive := fun q : Core => q.edge p.1 = k.edge p.1) _ _ rfl fun q hq p' hp' => ?_
  dsimp only
  split
  · next hu =>
    refine List.foldlRecOn (motive := fun q : Core => q.edge p.1 = k.edge p.1) _ _ hq fun q' hq' ch _ => ?_
    rw [Core.edge_setEdge, if_neg, hq']
    intro he
    have hdef : p.2 = p'.2 := Option.some_inj.mp (by rw [← edgeDef_of_mem_edgeList hp, ← edgeDef_of_mem_edgeList hp', he])
    exact h (unitNode_injective (by rw [← hv, hdef, hu]))
  · exact hq

/-! ### The beginning of a configuration word -/

/-- Array `u` takes the configuration that `f` makes of its own. -/
def Core.onArray (k : Core) (u : UnitId) (f : ArrCfg → ArrCfg) : Core :=
  { k with arrA := if u = 0 then f k.arrA else k.arrA, arrB := if u = 0 then k.arrB else f k.arrB }

/-- The words that configure arrays. -/
def configWord : OpWord → Bool
  | .lutCfg _ | .arrCfg _ | .hadamard _ | .smooth _ => true
  | _ => false

theorem jointWord_config {w : OpWord} (hw : configWord w = true) : jointWord w = false := by
  cases w <;> simp [configWord, jointWord] at hw ⊢

theorem faultOf_config {w : OpWord} (hw : configWord w = true) (c : Nat) (k : Core) : k.faultOf c w = none := by
  cases w <;> simp [configWord, Core.faultOf] at hw ⊢

theorem perform_config {w : OpWord} (hw : configWord w = true) (c : Nat) (k : Core) (u : UnitId) :
    k.perform c u w = k.configure c u w := by
  cases w <;> simp [configWord, Core.perform] at hw ⊢

theorem unitsOf_config {w : OpWord} (hw : configWord w = true) : ∃ unit : BitVec 4, unitsOf w = unitArrays unit.toNat := by
  cases w <;> simp [configWord] at hw <;> exact ⟨_, rfl⟩

/-- What a configuration word reads depends on the word alone. -/
theorem readsOf_config {w : OpWord} (hw : configWord w = true) (c : Nat) (k k0 : Core) (lp lp0 : List Nat) :
    k.readsOf c w lp = k0.readsOf c w lp0 := by
  cases w <;> simp [configWord, Core.readsOf] at hw ⊢

theorem Core.touched_nil (k : Core) (e : Nat) (d : EdgeDef) : k.touched e d [] = [] := by
  unfold Core.touched
  split <;> simp

theorem Core.writeFree_nil (k : Core) (u : UnitId) : k.writeFree u [] = true := by
  simp [Core.writeFree, Core.touched_nil]

theorem newRanges_onArray (k : Core) (u : UnitId) (f : ArrCfg → ArrCfg) : newRanges k (k.onArray u f) = [] := by
  simp [newRanges, Core.onArray]

/-- A configuration word that no edge keeps waiting begins in the queue of array `u`: it configures that array, and keeps no other unit
waiting. -/
theorem State.startWord_config {s : State} {c u : Nat} {w : OpWord} {f : ArrCfg → ArrCfg} (hw : configWord w = true)
    (lp : List Nat) (t : Nat) (hr : (s.core c).readStall u ((s.core c).readsOf c w) = none)
    (hf : (s.core c).ahead.configure c u w = (s.core c).ahead.onArray u f) :
    ∃ x o l, s.startWord c u ⟨w, lp, t⟩ = .go
        { s := s.setCore c { (s.core c).onArray u f with edges := x, freeCtr := (s.core c).freeCtr + 1 }, occ := o, last := l }
      ∧ ∀ v, v ≠ u → ∀ rs, ({ (s.core c).onArray u f with edges := x, freeCtr := (s.core c).freeCtr + 1 } : Core).readStall v rs
        = (s.core c).readStall v rs := by
  have hwait : [u].findSome? (fun v => (s.core c).ahead.readStall v ((s.core c).ahead.readsOf c w lp)) = none := by
    rw [readsOf_config hw c _ (s.core c) lp (s.core c).seq.counters]
    exact List.findSome?_eq_none_iff.mpr fun v hv => by rw [List.mem_singleton.mp hv]; exact hr
  have hword : Core.pureWord c (s.core c).ahead u w = .ok ((s.core c).ahead.onArray u f) := by
    rw [Core.pureWord, faultOf_config hw, perform_config hw, hf]
  have hfree : (s.core c).ahead.writeFree u (newRanges (s.core c).ahead ((s.core c).ahead.onArray u f)) = true := by
    rw [newRanges_onArray, Core.writeFree_nil]
  obtain ⟨x, hx⟩ := Core.consume_edges ((s.core c).ahead.took ((s.core c).ahead.onArray u f)) [u] ((s.core c).ahead.readsOf c w lp)
  refine ⟨x, (Core.timing c (s.core c).ahead w).1, (Core.timing c (s.core c).ahead w).2, ?_, fun v hv rs => ?_⟩
  · unfold State.startWord
    cases w
    case lutCfg | arrCfg | hadamard | smooth =>
      simp only [jointWord_config hw, Bool.false_eq_true, if_false, hwait, hword, hfree, if_true, State.setCore_setCore,
        State.updCore_setCore, hx]
      rfl
    all_goals exact absurd hw Bool.false_ne_true
  · exact (congrArg (fun q : Core => q.readStall v rs) hx).symm.trans (Core.readStall_consumeBy hv _ rs)

/-- The head of array `u`'s queue, where nothing keeps it. -/
theorem Core.headAt_config {k : Core} {u : UnitId} {d : Dispatched} (hd : configWord d.word = true) (hw : (k.unit u).waiting = [d])
    (hb : (k.unit u).blocked = none) : k.headAt u = some (d, max d.cycle (k.unit u).freeAt) := by
  simp [Core.headAt, Dispatched.needs, jointWord_config hd, hw, hb]

/-- No SWAP that may still dispatch holds back a word that finds its unit free in its dispatch cycle, or that finds no SWAP at all
(08 R225). -/
theorem State.defers_prompt {s : State} {c tb : Nat} (h : (s.core c).swapping = false ∨ tb ≤ (s.core c).seq.cycle) :
    s.defers c tb = false := by
  unfold State.defers
  rcases h with h | h <;> simp [h]

theorem Core.unit_closeOp_ne (k : Core) {u v : UnitId} (h : v ≠ u) : (k.closeOp u).unit v = k.unit v := by
  unfold Core.closeOp
  dsimp only
  split
  · rw [Core.unit_setUnit, if_neg h]
  · rfl

theorem Core.unit_book_ne (k : Core) (tb : Nat) (b : Begun) {u v : UnitId} (h : v ≠ u) : (k.book [u] tb b).unit v = k.unit v :=
  (Core.unit_closeOp_ne _ h).trans (by rw [Core.unit_updUnit, if_neg h])

/-- Array `u` begins the configuration word at the head of its queue. -/
theorem State.tryBegin_config {s : State} {c u : Nat} {d : Dispatched} {f : ArrCfg → ArrCfg} (hw : configWord d.word = true)
    (hwait : ((s.core c).unit u).waiting = [d]) (hblk : ((s.core c).unit u).blocked = none) (hstall : ((s.core c).unit u).stall = 0)
    (hprompt : (s.core c).swapping = false ∨ max d.cycle ((s.core c).unit u).freeAt ≤ (s.core c).seq.cycle)
    (hr : (s.core c).readStall u ((s.core c).readsOf c d.word) = none)
    (hf : (s.core c).ahead.configure c u d.word = (s.core c).ahead.onArray u f) :
    ∃ m x, let k := { (s.core c).onArray u f with units := m, edges := x, freeCtr := (s.core c).freeCtr + 1 }
      s.tryBegin c u 0 = some (s.setCore c k)
      ∧ (k.unit u).waiting = [] ∧ (k.unit u).blocked = none ∧ (k.unit u).stall = 0
      ∧ ∀ v, v ≠ u → k.unit v = (s.core c).unit v ∧ ∀ rs, k.readStall v rs = (s.core c).readStall v rs := by
  obtain ⟨x, o, l, hstart, hother⟩ := State.startWord_config hw d.loops d.cycle hr hf
  let k := { (s.core c).onArray u f with edges := x, freeCtr := (s.core c).freeCtr + 1 }
  obtain ⟨m, hm, hbook⟩ := Core.book_units (max d.cycle ((s.core c).unit u).freeAt) { s := s.setCore c k, occ := o, last := l } [u] k
    (List.nodup_singleton u)
  obtain ⟨hwait', hblk', hstall'⟩ := hbook u
  rw [if_pos (List.mem_singleton_self u)] at hwait' hblk' hstall'
  refine ⟨m, x, ?_, ?_, ?_, ?_, fun v hv => ⟨?_, hother v hv⟩⟩
  · simp only [State.tryBegin, hblk, Core.headAt_config hw hwait hblk, hstall, if_true, State.defers_prompt hprompt, Bool.false_eq_true,
      if_false, hstart, true_or, State.updCore_setCore, Dispatched.needs, jointWord_config hw]
    rw [hm]
  · rw [← hm, hwait']
    exact congrArg (List.drop 1) hwait
  · rw [← hm, hblk']
  · rw [← hm, hstall']
  · rw [← hm]
    exact Core.unit_book_ne k _ _ hv

/-! ### The turn of every unit -/

/-- Word `w` can begin on core `c`, and configures arrays: it makes `f` of the configuration of an array that begins it with the memory,
the mapping and the undelivered results that the first of them finds. -/
structure Configures (s : State) (c : Nat) (w : OpWord) (f : ArrCfg → ArrCfg) : Prop where
  config : configWord w = true
  begins : Begins s c w
  effect : ∀ (k : Core) (u : UnitId), k.mem = (s.atBegin c w).mem → k.swaps = (s.atBegin c w).swaps →
    k.flights = (s.atBegin c w).flights → k.configure c u w = k.onArray u f

/-- Core `k` with word `w` done to the arrays that it names and that stand below `n`. -/
def Core.configuredBelow (k : Core) (w : OpWord) (f : ArrCfg → ArrCfg) (n : Nat) : Core :=
  { k with
    arrA := if 0 ∈ unitsOf w ∧ 0 < n then f k.arrA else k.arrA
    arrB := if 1 ∈ unitsOf w ∧ 1 < n then f k.arrB else k.arrB }

/-- What becomes of core `k0`, which has dispatched word `w`, once the units below `n` have had their turn: `k`. The arrays among them are
configured, and the other units find their queues and what they read as in `k0`. -/
structure Configured (k0 : Core) (w : OpWord) (f : ArrCfg → ArrCfg) (n : Nat) (k : Core) : Prop where
  rest : ∃ m x i, k = { k0.configuredBelow w f n with units := m, edges := x, freeCtr := i }
  begun : ∀ v ∈ unitsOf w, v < n → (k.unit v).waiting = [] ∧ (k.unit v).blocked = none ∧ (k.unit v).stall = 0
  other : ∀ v, (v ∈ unitsOf w → n ≤ v) → k.unit v = k0.unit v
  reads : ∀ v, n ≤ v → ∀ rs, k.readStall v rs = k0.readStall v rs

theorem Configured.zero (k0 : Core) (w : OpWord) (f : ArrCfg → ArrCfg) : Configured k0 w f 0 k0 where
  rest := ⟨k0.units, k0.edges, k0.freeCtr, by simp [Core.configuredBelow]⟩
  begun _ _ hv := absurd hv (Nat.not_lt_zero _)
  other _ _ := rfl
  reads _ _ _ := rfl

theorem configuredBelow_skip {w : OpWord} {n : Nat} (hn : n ∉ unitsOf w) (k : Core) (f : ArrCfg → ArrCfg) :
    k.configuredBelow w f (n + 1) = k.configuredBelow w f n := by
  have h : ∀ v, v ∈ unitsOf w ∧ v < n + 1 ↔ v ∈ unitsOf w ∧ v < n := fun v =>
    and_congr_right fun hv => Nat.lt_succ_iff_lt_or_eq.trans (or_iff_left (ne_of_mem_of_not_mem hv hn))
  simp only [Core.configuredBelow, h]

theorem configuredBelow_next {w : OpWord} (hw : configWord w = true) {n : Nat} (hn : n ∈ unitsOf w) (k : Core) (f : ArrCfg → ArrCfg) :
    k.configuredBelow w f (n + 1) = (k.configuredBelow w f n).onArray n f := by
  have h01 : n = 0 ∨ n = 1 := by
    obtain ⟨unit, hunit⟩ := unitsOf_config hw
    rw [hunit] at hn
    unfold unitArrays at hn
    split at hn <;> simp_all
  rcases h01 with rfl | rfl <;> simp [Core.configuredBelow, Core.onArray, hn]

/-- A unit that the word does not name has no part in it. -/
theorem Configured.skip {k0 k : Core} {w : OpWord} {f : ArrCfg → ArrCfg} {n : Nat} (h : Configured k0 w f n k) (hn : n ∉ unitsOf w) :
    Configured k0 w f (n + 1) k where
  rest := by rw [configuredBelow_skip hn]; exact h.rest
  begun v hv hlt := h.begun v hv (Nat.lt_of_le_of_ne (Nat.le_of_lt_succ hlt) (ne_of_mem_of_not_mem hv hn))
  other v hv := h.other v (fun hm => Nat.le_of_succ_le (hv hm))
  reads v hv := h.reads v (Nat.le_of_succ_le hv)

/-- An array that the word names has its part once it has begun the word. -/
theorem Configured.next {k0 k : Core} {w : OpWord} {f : ArrCfg → ArrCfg} {n : Nat} {m : SMap UnitState} {x : SMap EdgeState} {i : Nat}
    (h : Configured k0 w f n k) (hw : configWord w = true) (hn : n ∈ unitsOf w)
    (hk : let k' : Core := { k.onArray n f with units := m, edges := x, freeCtr := i }
      (k'.unit n).waiting = [] ∧ (k'.unit n).blocked = none ∧ (k'.unit n).stall = 0
      ∧ ∀ v, v ≠ n → k'.unit v = k.unit v ∧ ∀ rs, k'.readStall v rs = k.readStall v rs) :
    Configured k0 w f (n + 1) { k.onArray n f with units := m, edges := x, freeCtr := i } := by
  obtain ⟨hwait, hblk, hstall, hother⟩ := hk
  refine ⟨⟨m, x, i, ?_⟩, fun v hv hlt => ?_, fun v hv => ?_, fun v hv rs => ?_⟩
  · obtain ⟨_, _, _, hrest⟩ := h.rest
    rw [configuredBelow_next hw hn, hrest]
    rfl
  · by_cases hvn : v = n
    · subst hvn; exact ⟨hwait, hblk, hstall⟩
    · rw [(hother v hvn).1]
      exact h.begun v hv (Nat.lt_of_le_of_ne (Nat.le_of_lt_succ hlt) hvn)
  · have hvn : v ≠ n := by rintro rfl; exact Nat.not_succ_le_self _ (hv hn)
    rw [(hother v hvn).1]
    exact h.other v (fun hm => Nat.le_of_succ_le (hv hm))
  · have hvn : v ≠ n := by rintro rfl; exact Nat.not_succ_le_self _ hv
    rw [(hother v hvn).2]
    exact h.reads v (Nat.le_of_succ_le hv) rs

/-- The dispatch of a configuration word puts it alone into the queues of its arrays. -/
theorem Configures.dispatched {s : State} {c : Nat} {w : OpWord} {f : ArrCfg → ArrCfg} (h : Configures s c w f) :
    ∃ t n l m, s.atDispatch c w = { (s.core c) with
      seq := { (s.core c).seq with cycle := t, slots := n, units := l, pos := (s.core c).seq.pos + 1 }
      units := m } ∧ ∀ v, ((s.atDispatch c w).unit v).blocked = none ∧ ((s.atDispatch c w).unit v).stall = 0
      ∧ ((s.atDispatch c w).unit v).waiting = if v ∈ unitsOf w then [s.asDispatched c w] else [] := by
  obtain ⟨unit, hunit⟩ := unitsOf_config h.config
  obtain ⟨u, rest, hu⟩ := List.exists_cons_of_ne_nil (hunit ▸ unitArrays_ne_nil unit.toNat)
  rw [hu]
  exact State.atDispatch_keeps h.begins.quiet hu

/-- What the second array finds of memory, mapping and undelivered results is what the first found. -/
theorem Configured.configures {s : State} {c : Nat} {w : OpWord} {f : ArrCfg → ArrCfg} {n : Nat} {k : Core} (h : Configures s c w f)
    (hk : Configured (s.atDispatch c w) w f n k) : k.ahead.configure c n w = k.ahead.onArray n f := by
  obtain ⟨_, _, _, hrest⟩ := hk.rest
  have hroom : ∀ u, u ∉ (s.atDispatch c w).seq.units → ∀ t, k.roomFrom u t = (s.atDispatch c w).roomFrom u t := fun u hu =>
    Core.roomFrom_congr (hk.other u fun hm => absurd (State.atDispatch_seq_units h.begins.quiet hm) hu) (by rw [hrest]; rfl)
  exact h.effect k.ahead n (by rw [hrest]; rfl)
    (Core.ahead_swaps_congr (by rw [hrest]; rfl) (by rw [hrest]; rfl) (by rw [hrest]; rfl) hroom) (by rw [hrest]; rfl)

/-- An array that the word names begins it in its turn. -/
theorem Configured.begins {s : State} {c : Nat} {w : OpWord} {f : ArrCfg → ArrCfg} {n : Nat} {k : Core} (h : Configures s c w f)
    (hk : Configured (s.atDispatch c w) w f n k) (hn : n ∈ unitsOf w) :
    ∃ k', (s.setCore c k).tryBegin c n 0 = some (s.setCore c k') ∧ Configured (s.atDispatch c w) w f (n + 1) k' := by
  obtain ⟨_, _, _, _, hkeep, hunits⟩ := h.dispatched
  obtain ⟨hblk, hstall, hwait⟩ := hunits n
  rw [if_pos hn] at hwait
  rw [← hk.other n fun _ => le_refl n] at hblk hstall hwait
  obtain ⟨_, _, _, hrest⟩ := hk.rest
  have hprompt : k.swapping = false ∨ max (s.asDispatched c w).cycle (k.unit n).freeAt ≤ k.seq.cycle := by
    have hseq : k.seq = (s.atDispatch c w).seq := by rw [hrest]; rfl
    refine h.begins.prompt.imp (fun hs => ?_) (fun hfree => ?_)
    · rw [← hs, hrest, hkeep]; rfl
    · rw [hk.other n fun _ => le_refl n, hseq]
      exact max_le (le_refl _) (hfree n hn)
  have hreads : k.readStall n (k.readsOf c w) = none := by
    rw [hk.reads n (le_refl n), readsOf_config h.config c k (s.atBegin c w) _ (s.atBegin c w).seq.counters]
    exact h.begins.reads n hn
  have hs := State.core_setCore_self s c k
  obtain ⟨m, x, htry, hafter⟩ := State.tryBegin_config (s := s.setCore c k) (d := s.asDispatched c w) (f := f) h.config
    (by rw [hs]; exact hwait) (by rw [hs]; exact hblk) (by rw [hs]; exact hstall) (by rw [hs]; exact hprompt) (by rw [hs]; exact hreads)
    (by rw [hs]; exact hk.configures h)
  rw [State.setCore_setCore, hs] at htry
  rw [hs] at hafter
  exact ⟨_, htry, hk.next h.config hn hafter⟩

theorem Configures.turn {s : State} {c : Nat} {w : OpWord} {f : ArrCfg → ArrCfg} {n : Nat} {k : Core} (h : Configures s c w f)
    (hk : Configured (s.atDispatch c w) w f n k) (b : Bool) :
    ∃ k' b', State.unitTurn c 0 (s.setCore c k, b) n = (s.setCore c k', b') ∧ Configured (s.atDispatch c w) w f (n + 1) k' := by
  by_cases hn : n ∈ unitsOf w
  · obtain ⟨k', htry, hk'⟩ := hk.begins h hn
    exact ⟨k', true, by simp only [State.unitTurn, htry], hk'⟩
  · obtain ⟨_, _, _, _, _, hunits⟩ := h.dispatched
    obtain ⟨hblk, -, hwait⟩ := hunits n
    rw [← hk.other n fun _ => le_refl n] at hblk hwait
    have htry : (s.setCore c k).tryBegin c n 0 = none :=
      State.tryBegin_idle 0 (by rw [State.core_setCore_self, hwait, if_neg hn]) (by rw [State.core_setCore_self, hblk])
    exact ⟨k, b, by simp only [State.unitTurn, htry], hk.skip hn⟩

/-- The units' turns in the round after the dispatch. -/
theorem Configures.turns {s : State} {c : Nat} {w : OpWord} {f : ArrCfg → ArrCfg} (h : Configures s c w f) (n : Nat) :
    ∃ k b, (List.range n).foldl (State.unitTurn c 0) (s.setCore c (s.atDispatch c w), false) = (s.setCore c k, b)
      ∧ Configured (s.atDispatch c w) w f n k := by
  induction n with
  | zero => exact ⟨_, _, rfl, Configured.zero _ w f⟩
  | succ n ih =>
    obtain ⟨k, b, hfold, hk⟩ := ih
    obtain ⟨k', b', hturn, hk'⟩ := h.turn hk b
    exact ⟨k', b', by rw [List.range_succ, List.foldl_append, hfold, List.foldl_cons, hturn, List.foldl_nil], hk'⟩

/-- Once every unit has had its turn, the core waits for its next word. -/
theorem Configured.quiet {s : State} {c : Nat} {w : OpWord} {f : ArrCfg → ArrCfg} {k : Core} (h : Configures s c w f)
    (hk : Configured (s.atDispatch c w) w f 22 k) : k.quiet := by
  obtain ⟨_, _, _, _, hkeep, hunits⟩ := h.dispatched
  obtain ⟨_, _, _, hrest⟩ := hk.rest
  have hseq : k.seq = (s.atDispatch c w).seq := by rw [hrest]; rfl
  have hcalm : ∀ v, (k.unit v).waiting = [] ∧ (k.unit v).blocked = none ∧ (k.unit v).stall = 0 := fun v => by
    by_cases hv : v ∈ unitsOf w
    · exact hk.begun v hv ((unitsOf_nodup w).2 v hv)
    · obtain ⟨hblk, hstall, hwait⟩ := hunits v
      rw [if_neg hv] at hwait
      rw [hk.other v fun hm => absurd hm hv]
      exact ⟨hwait, hblk, hstall⟩
  exact { waiting := fun v => (hcalm v).1, blocked := fun v => (hcalm v).2.1, stall := fun v => (hcalm v).2.2
          held := by rw [hseq, hkeep]; exact h.begins.quiet.held, ending := by rw [hseq, hkeep]; exact h.begins.quiet.ending }

/-- A word of a unit, given to a quiet core, dispatches in the first round. -/
theorem State.issue_dispatches {s : State} {c u : Nat} {w : OpWord} {rest : List UnitId} (hq : (s.core c).quiet)
    (hu : unitsOf w = u :: rest) : ∃ n, s.issue c w = State.pumpFuel (n + 2) (s.setCore c (s.atDispatch c w)) c 0 := by
  obtain ⟨hb, hl⟩ := unitsOf_plain hu
  obtain ⟨t, k1, ⟨⟨_, _, hr⟩, _, _⟩, hheld, hd, hat⟩ := State.atDispatch_spec hq w hb hl
  have hat := hat (State.runSeq_unit hu _ _ _)
  rw [State.runSeq_unit hu] at hd
  have hround := State.pumpRound_dispatch (now := 0) (by rw [State.core_setCore_self]; exact hq.calm_holding [w])
    (by rw [State.core_setCore_self]) hd (by rw [State.core_setCore_self, hr]; exact hq.ending)
  obtain ⟨n, hn⟩ := Core.work_pos ((s.setCore c ((s.core c).holding [w])).core c)
  have hk1 : k1.holding [] = k1 := by rw [Core.holding, ← hheld]
  have hround' : (s.setCore c ((s.core c).holding [w])).pumpRound c 0 = (s.setCore c (k1.holding []), true) :=
    hround.trans (by rw [State.updCore_setCore]; rfl)
  refine ⟨n, ?_⟩
  rw [State.issue_quiet hq, State.pump, hn, State.pumpFuel, hround', hat, hk1]
  exact if_pos rfl

/-- A round of a core that holds no word is its units' turns. -/
theorem State.pumpRound_turns {s s' : State} {c now : Nat} {b : Bool}
    (h : (List.range 22).foldl (State.unitTurn c now) (s, false) = (s', b)) (hh : (s'.core c).seq.held = [])
    (he : (s'.core c).seq.ending = none) : s.pumpRound c now = (s', b) := by
  unfold State.pumpRound
  simp only [h, hh, State.tryEnd, he]

/-- A configuration word, given to a quiet core, configures the arrays that it names. -/
theorem Configures.issue {s : State} {c : Nat} {w : OpWord} {f : ArrCfg → ArrCfg} (h : Configures s c w f) :
    ∃ k, s.issue c w = s.setCore c k ∧ Configured (s.atDispatch c w) w f 22 k ∧ k.quiet := by
  obtain ⟨unit, hunit⟩ := unitsOf_config h.config
  obtain ⟨u, rest, hu⟩ := List.exists_cons_of_ne_nil (hunit ▸ unitArrays_ne_nil unit.toNat)
  obtain ⟨n, hissue⟩ := State.issue_dispatches h.begins.quiet hu
  obtain ⟨k, b, hturns, hk⟩ := h.turns 22
  have hq := hk.quiet h
  have hq' : ((s.setCore c k).core c).quiet := by rw [State.core_setCore_self]; exact hq
  have hround := State.pumpRound_turns hturns hq'.held hq'.ending
  have hstill : (s.setCore c k).pumpRound c 0 = (s.setCore c k, false) :=
    State.pumpRound_idle (fun v _ => State.tryBegin_idle 0 (hq'.waiting v) (hq'.blocked v)) hq'.held hq'.ending
  refine ⟨k, ?_, hk, hq⟩
  rw [hissue, State.pumpFuel, hround, State.pumpFuel, hstill]
  cases b <;> rfl

/-! ### What each configuration word does to an array -/

theorem Core.rdBytes_delivered {k k0 : Core} (hm : k.mem = k0.mem) (hs : k.swaps = k0.swaps) (hk : k.flights = []) (hk0 : k0.flights = [])
    (c : Nat) (u v : UnitId) (n : Nat) : ∀ a, Core.rdBytes c u k a n = Core.rdBytes c v k0 a n := by
  have hbyte : ∀ a, Core.rdByte c u k a = Core.rdByte c v k0 a := fun a => by
    simp [Core.rdByte, Core.memHazard, hm, hs, hk, hk0]
  induction n with
  | zero => exact fun _ => rfl
  | succ n ih => exact fun a => by rw [Core.rdBytes, Core.rdBytes, hbyte, ih]

/-- With no result undelivered, both arrays read the same codebook. -/
theorem Core.codebookAt_delivered {k k0 : Core} (hm : k.mem = k0.mem) (hs : k.swaps = k0.swaps) (hk : k.flights = [])
    (hk0 : k0.flights = []) (c : Nat) (u v : UnitId) (a : Nat) : k.codebookAt c u a = k0.codebookAt c v a := by
  simp only [Core.codebookAt, Core.rdNat, Core.rdBytes_delivered hm hs hk hk0 c u v]

theorem Core.configure_lutCfg (c : Nat) (k : Core) (u : UnitId) (x : LutWord) : k.configure c u (.lutCfg x)
    = k.onArray u (fun a => { a with codebook := k.codebookAt c u (addr64 x.cbBase) }) := by
  simp only [Core.configure, Core.onArray]
  split <;> rfl

theorem Core.configure_arrCfg (c : Nat) (k : Core) (u : UnitId) (x : ArrCfgWord) : k.configure c u (.arrCfg x)
    = k.onArray u (fun a => a.withFormats x) := by
  simp only [Core.configure, Core.onArray]
  split <;> rfl

theorem Core.configure_hadamard (c : Nat) (k : Core) (u : UnitId) (x : HadamardWord) : k.configure c u (.hadamard x)
    = k.onArray u (fun a => { a with rotOn := x.en == 1, rotBlk := x.blk, rotFmt := x.srcfmt }) := by
  simp only [Core.configure, Core.onArray]
  split <;> rfl

theorem Core.configure_smooth (c : Nat) (k : Core) (u : UnitId) (x : SmoothWord) : k.configure c u (.smooth x)
    = k.onArray u (fun a => { a with smoothOn := x.en == 1, smoothBase := x.svBase, smoothFmt := x.srcfmt }) := by
  simp only [Core.configure, Core.onArray]
  split <;> rfl

theorem mem_unitArrays (n : Nat) : (0 ∈ unitArrays n ↔ n ≠ 1) ∧ (1 ∈ unitArrays n ↔ n ≠ 0) := by
  unfold unitArrays
  split <;> simp_all

/-- A word of a unit finds the undelivered results of a quiet core as they were. -/
theorem State.atBegin_flights {s : State} {c : Nat} {w : OpWord} (hq : (s.core c).quiet) {u : UnitId} {rest : List UnitId}
    (hu : unitsOf w = u :: rest) : (s.atBegin c w).flights = (s.core c).flights := by
  obtain ⟨_, _, _, _, hkeep, _⟩ := State.atDispatch_keeps hq hu
  simp only [State.atBegin, Core.ahead, hkeep]

/-- LUT_CFG on a core with no result undelivered loads into both arrays the codebook that the first of them finds. -/
theorem Begins.configures_lutCfg {s : State} {c : Nat} {x : LutWord} (h : Begins s c (.lutCfg x)) (hf : (s.core c).flights = []) :
    Configures s c (.lutCfg x)
      (fun a => { a with codebook := (s.atBegin c (.lutCfg x)).codebookAt c 0 (addr64 x.cbBase) }) := by
  obtain ⟨u, rest, hu⟩ : ∃ u rest, unitsOf (.lutCfg x) = u :: rest := List.exists_cons_of_ne_nil (unitArrays_ne_nil x.unit.toNat)
  have hnone : (s.atBegin c (.lutCfg x)).flights = [] := (State.atBegin_flights h.quiet hu).trans hf
  refine ⟨rfl, h, fun k u hm hs hk => ?_⟩
  rw [Core.configure_lutCfg, Core.codebookAt_delivered hm hs (hk.trans hnone) hnone c u 0]

/-- Settles O5: each array that UNIT names begins the word once, with the effect of `Core.configure`. -/
theorem arrayConfigurations : Obligations.ArrayConfigurations := by
  intro s c f w unit o hready hword
  have hbegins : Begins s c.val w := hready.elim id Ready.begins
  obtain ⟨hcfg, hunit, ho⟩ : Configures s c.val w f ∧ unitsOf w = unitArrays unit.toNat ∧ o = .next (s.issue c.val w) := by
    rcases hword with ⟨x, rfl, rfl, rfl, rfl⟩ | ⟨x, rfl, rfl, rfl, rfl⟩ | ⟨x, rfl, rfl, rfl, rfl⟩ | ⟨x, rfl, rfl, rfl, hf, rfl⟩
    · exact ⟨⟨rfl, hbegins, fun k u _ _ _ => k.configure_arrCfg c u x⟩, rfl, if_pos hbegins.ok⟩
    · exact ⟨⟨rfl, hbegins, fun k u _ _ _ => k.configure_hadamard c u x⟩, rfl, if_pos hbegins.ok⟩
    · exact ⟨⟨rfl, hbegins, fun k u _ _ _ => k.configure_smooth c u x⟩, rfl, if_pos hbegins.ok⟩
    · exact ⟨hbegins.configures_lutCfg hf, rfl, if_pos hbegins.ok⟩
  obtain ⟨k2, hissue, hk, hq⟩ := hcfg.issue
  obtain ⟨_, _, _, _, hkeep, _⟩ := hcfg.dispatched
  obtain ⟨_, _, _, hrest⟩ := hk.rest
  obtain ⟨h0, h1⟩ := mem_unitArrays unit.toNat
  rw [hkeep] at hrest
  rw [hissue] at ho
  subst hrest
  refine ⟨_, ho, ?_, ?_, rfl, rfl, rfl, rfl, rfl, rfl, rfl, rfl, rfl, ⟨⟨rfl, rfl, rfl, rfl, rfl, rfl, rfl, rfl⟩, rfl⟩, hq⟩
  · simp only [Core.configuredBelow, hunit, h0, Nat.zero_lt_succ, and_true]
  · simp only [Core.configuredBelow, hunit, h1, Nat.one_lt_ofNat, and_true]

end Sys2Proof.Machine
end

section
/-! SUPPORT. TREE_STEP, and the waits of the remote-operation port (04 R120 to R125; 08 R232): what a level of the combination tree leaves of
the core and of the state, as the word begins and when the counter that it waits for reaches its increment. -/

namespace Sys2Proof.Machine

/-! ### Barrier counters -/

theorem Core.counter_lt (k : Core) (i : Nat) : k.counter i < 2 ^ 32 := BitVec.isLt _

theorem Core.counter_setCounter (k : Core) (i : Nat) {x : Nat} (hx : x < 2 ^ 32) (j : Nat) :
    (k.setCounter i x).counter j = if j = i then x else k.counter j := by
  have hval : (BitVec.ofNat 32 x).toNat = x := (BitVec.toNat_ofNat x 32).trans (Nat.mod_eq_of_lt hx)
  have hoff : 32 ≤ j → 32 ≤ i → (j - 32 = i - 32 ↔ j = i) := by omega
  by_cases hi : i < 32 <;> by_cases hj : j < 32 <;> simp only [Core.setCounter, Core.counter, hi, hj, if_true, if_false, SMap.get_set]
  · split <;> simp_all
  · rw [if_neg (by omega)]
  · rw [if_neg (by omega)]
  · simp only [hoff (Nat.not_lt.mp hj) (Nat.not_lt.mp hi)]
    split <;> simp_all

theorem Core.setCounter_only (k : Core) (i x : Nat) : ∃ a b, k.setCounter i x = { k with counters := a, counters2 := b } := by
  unfold Core.setCounter
  split
  · exact ⟨_, k.counters2, rfl⟩
  · exact ⟨k.counters, _, rfl⟩

/-- A core from whose barrier counter `i` a wait has taken its count `n`. -/
def Core.takeCount (k : Core) (i n : Nat) : Core := k.setCounter i (k.counter i - n)

theorem Core.counter_takeCount (k : Core) (i n j : Nat) :
    (k.takeCount i n).counter j = if j = i then k.counter i - n else k.counter j :=
  k.counter_setCounter i (Nat.lt_of_le_of_lt (Nat.sub_le _ _) (k.counter_lt i)) j

theorem Core.takeCount_only (k : Core) (i n : Nat) : ∃ a b, k.takeCount i n = { k with counters := a, counters2 := b } :=
  k.setCounter_only i _

/-! ### What a combination charges (04 R125; 12 R325) -/

/-- The state once a combination in another order than that of the logical chips (`nd`) is charged to the slice of core `k`. -/
def State.orderCharged (s : State) (k : Core) (nd : Bool) : State :=
  if nd = true then (match k.ctx.work with
    | some i => s.ndPlaced i 2
    | none => s.bump (audNd 2) 1) else s

theorem State.trace1_setCore (s : State) (c : Nat) (x : Core) (n : Nat) (p : List Byte) :
    (s.setCore c x).trace1 n p = (s.trace1 n p).setCore c x := by
  have hflag : ∀ f, (s.setCore c x).flag f = s.flag f := fun _ => rfl
  simp only [State.trace1, hflag]
  split <;> rfl

theorem State.event_setCore (s : State) (c : Nat) (x : Core) (code cause ring seq slice : Nat) :
    (s.setCore c x).event code cause ring seq slice = (s.event code cause ring seq slice).setCore c x :=
  congrArg State.tickFree (State.trace1_setCore s c x _ _)

theorem State.ndPlaced_setCore (s : State) (c : Nat) (x : Core) (i n : Nat) :
    (s.setCore c x).ndPlaced i n = (s.ndPlaced i n).setCore c x := by
  have hplaced : (s.setCore c x).placedAt i = s.placedAt i := rfl
  unfold State.ndPlaced
  rw [hplaced]
  split
  · next p _ =>
    exact congrArg (fun t : State => t.updPlaced i fun q => { q with nd := q.nd ++ [n] })
      (State.event_setCore (s.bump (audNd n) 1) c x _ _ _ _ _)
  · rfl

/-- A charge and a write of a core do not meet. -/
theorem State.orderCharged_setCore (s : State) (c : Nat) (x k : Core) (nd : Bool) :
    (s.setCore c x).orderCharged k nd = (s.orderCharged k nd).setCore c x := by
  unfold State.orderCharged
  split
  · split
    · exact State.ndPlaced_setCore s c x _ 2
    · rfl
  · rfl

/-! ### Roles and combinations (04 R121, R124, R125) -/

/-- The participant that core `k` is in a level of the tree. -/
def Core.treeSelf (k : Core) (w : TreeWord) : Nat := if w.chip = 1 then k.ctx.chip else k.ctx.logical

/-- The role that core `k` has in a level of the tree. -/
def Core.roleIn (k : Core) (w : TreeWord) : TreeRole := treeRole w (k.treeSelf w) (if w.chip = 1 then k.ctx.chips else k.ctx.width)

/-- The increments for which a receiver waits. -/
def Core.treeNeed (k : Core) (w : TreeWord) : Nat := if w.arrival = 1 then k.ctx.chips - 1 else 1

/-- Where a sender's payload lands. -/
def Core.treeLand (k : Core) (w : TreeWord) : Nat := if w.arrival = 1 then arrivalLand k w (k.treeSelf w) else addr64 w.land

/-- A sender's payload, and its core after sending. -/
def Core.treePayload (c : Nat) (k : Core) (w : TreeWord) : List Byte × Core := Core.treeSend c k w (decide (k.treeSelf w = 0))

/-- What a receiver makes of what landed, once its increments are taken from its counter. -/
def Core.treeCombine (c : Nat) (k : Core) (w : TreeWord) (ctr : Nat) : Core × Bool :=
  Core.treeReceive c (k.takeCount ctr (k.treeNeed w)) w

/-- The core that the combination leaves. -/
def Core.treeCombined (c : Nat) (k : Core) (w : TreeWord) (ctr : Nat) : Core :=
  { (k.takeCount ctr (k.treeNeed w)).took (k.treeCombine c w ctr).1 with xchip := (k.treeCombine c w ctr).1.xchip }

theorem Core.treeCombined_counter (c : Nat) (k : Core) (w : TreeWord) (ctr : Nat) :
    (k.treeCombined c w ctr).counter ctr = k.counter ctr - k.treeNeed w :=
  (k.counter_takeCount ctr _ ctr).trans (if_pos rfl)

/-- A combination reaches nothing of the sequencer, the units, the engines or the slice context. -/
theorem Core.treeCombined_keeps (c : Nat) (k : Core) (w : TreeWord) (ctr : Nat) :
    (k.treeCombined c w ctr).seq = k.seq ∧ (k.treeCombined c w ctr).units = k.units ∧ (k.treeCombined c w ctr).engines = k.engines
      ∧ (k.treeCombined c w ctr).ctx = k.ctx := by
  obtain ⟨a, b, h⟩ := k.takeCount_only ctr (k.treeNeed w)
  simp only [Core.treeCombined, Core.took, h, and_self]

/-! ### The beginning of a TREE_STEP, by the role -/

section
variable {s : State} {c : Nat} {w : TreeWord} {k : Core} {i : Nat}

theorem State.beginTree_idle (hk : s.core c = k) (hr : k.roleIn w = .idle) :
    s.beginTree c w = .go { s := s, occ := 1, last := 0 } := by
  simp only [Core.roleIn, Core.treeSelf] at hr
  simp only [State.beginTree, decide_eq_true_eq, hk, hr]

theorem State.beginTree_sends (hk : s.core c = k) (hr : k.roleIn w = .sender i)
    (hl : k.treeLand w + treeBytes k w ≤ coreMemBytes) (hx : w.chip ≠ 1) :
    ∃ o l, s.beginTree c w = .go
      { s := ((s.setCore c (k.took (k.treePayload c w).2)).send
            ⟨c, k.ctx.logical, k.ctx.coreOf.getD i c, .bytes (k.treeLand w) (k.treePayload c w).1⟩).send
            ⟨c, k.ctx.logical, k.ctx.coreOf.getD i c, .signal (ctrOf k.ctx i w.ctr.toNat) 1⟩
        occ := o, last := l } := by
  simp only [Core.roleIn, Core.treeLand, Core.treePayload, Core.treeSelf, if_neg hx] at hr hl ⊢
  simp only [State.beginTree, decide_eq_true_eq, if_neg hx, hk, hr, if_neg (Nat.not_lt.mpr hl)]
  exact ⟨_, _, rfl⟩

theorem State.beginTree_crosses (hk : s.core c = k) (hr : k.roleIn w = .sender i)
    (hl : k.treeLand w + treeBytes k w ≤ coreMemBytes) (hx : w.chip = 1) :
    ∃ o l, s.beginTree c w = .go
      { s := ((s.setCore c (k.took (k.treePayload c w).2)).crossChip c
            ⟨i, false, 0, k.ctx.logical, k.treeLand w, (k.treePayload c w).1.length, 0, (k.treePayload c w).1⟩).crossChip c
            ⟨i, true, 0, k.ctx.logical, w.ctr.toNat, 1, 0, []⟩
        occ := o, last := l } := by
  simp only [Core.roleIn, Core.treeLand, Core.treePayload, Core.treeSelf, if_pos hx] at hr hl ⊢
  simp only [State.beginTree, decide_eq_true_eq, if_pos hx, hk, hr, if_neg (Nat.not_lt.mpr hl)]
  exact ⟨_, _, rfl⟩

theorem State.beginTree_waits (hk : s.core c = k) (hr : k.roleIn w = .receiver i) (hn : k.counter w.ctr.toNat < k.treeNeed w) :
    s.beginTree c w = .go { s := s, occ := 0, last := 0, blocked := some (.treeReceive w.ctr.toNat w) } := by
  simp only [Core.roleIn, Core.treeSelf] at hr
  simp only [State.beginTree, decide_eq_true_eq, hk, hr]
  exact if_neg (Nat.not_le.mpr hn)

theorem State.beginTree_combines (hk : s.core c = k) (hr : k.roleIn w = .receiver i)
    (hn : k.treeNeed w ≤ k.counter w.ctr.toNat) :
    ∃ o l, s.beginTree c w = .go
      { s := (s.orderCharged k (k.treeCombine c w w.ctr.toNat).2).setCore c (k.treeCombined c w w.ctr.toNat)
        occ := o, last := l, short := some unitRemote } := by
  simp only [Core.roleIn, Core.treeSelf] at hr
  simp only [State.beginTree, decide_eq_true_eq, hk, hr, ← State.orderCharged_setCore]
  exact ⟨_, _, if_pos hn⟩

end

/-! ### Hand-over to the link die (08 R235) -/

theorem State.sendRoute_cores (s : State) (f : Flit) : (s.sendRoute f).cores = s.cores := by
  unfold State.sendRoute
  split <;> rfl

theorem State.sendPair_cores (s : State) (dst ftype fflags : Nat) (payload : List Byte) :
    (s.sendPair dst ftype fflags payload).cores = s.cores := by
  unfold State.sendPair
  exact State.sendRoute_cores _ _

theorem sendPieces_cores (dst : Nat) (first : Bool) (l : List (List Byte)) (s : State) :
    (sendPieces dst first l s).cores = s.cores := by
  fun_induction sendPieces dst first l s with
  | case1 => rfl
  | case2 first x s => exact State.sendPair_cores s dst _ _ _
  | case3 first x y rest s ih => exact ih.trans (State.sendPair_cores s dst _ _ _)

theorem State.handOver_cores (s : State) (i : Nat) (o : OutWord) : (s.handOver i o).cores = s.cores := by
  cases hp : s.placedAt i with
  | none => simp only [State.handOver, hp]
  | some p =>
    cases hw : s.findWork p.ring p.seq with
    | none => simp only [State.handOver, hp, hw]
    | some w => simp only [State.handOver, hp, hw, State.updPlaced_cores, sendPieces_cores]

/-- Handing a word to the link die reaches no core. -/
theorem State.crossChip_cores (s : State) (c : Nat) (o : OutWord) : (s.crossChip c o).cores = s.cores := by
  unfold State.crossChip
  split
  · rfl
  · split
    · rfl
    · exact State.handOver_cores _ _ _

/-! ### A TREE_STEP in its units (04 R124) -/

/-- What a core is once a TREE_STEP, whose beginning left it as `q`, has begun in the two units that it takes: they wait for `b`. `k0` is
the core that the word was given to. -/
structure Core.treeBegun (k2 q k0 : Core) (b : Option Blocked) : Prop where
  rest : ∃ m x, k2 = { q with units := m, edges := x, swaps := k0.swaps }
  waiting : ∀ v, (k2.unit v).waiting = []
  stall : ∀ v, (k2.unit v).stall = 0
  blocked : ∀ v, (k2.unit v).blocked = if v ∈ [unitChuck, unitRemote] then b else none

/-- The core has the effect of `k1` where the word's beginning left it as `k1`, or as a core that takes over the effect of `k1`. -/
theorem Core.treeBegun.effect {k2 q k0 k1 : Core} {b : Option Blocked} (h : k2.treeBegun q k0 b) (hq : q.effect k1) : k2.effect k1 := by
  obtain ⟨m, x, rfl⟩ := h.rest
  exact ⟨hq.mem, hq.chuck, hq.slots, hq.requant, hq.arrA, hq.arrB, hq.accSetA, hq.accSetB, hq.cal, hq.flights, hq.summary, hq.counts,
    hq.freeCtr⟩

theorem Core.took_effect (k k1 : Core) : (k.took k1).effect k1 :=
  ⟨rfl, rfl, rfl, rfl, rfl, rfl, rfl, rfl, rfl, rfl, rfl, rfl, rfl⟩

theorem Core.treeCombined_effect (c : Nat) (k : Core) (w : TreeWord) (ctr : Nat) :
    (k.treeCombined c w ctr).effect (k.treeCombine c w ctr).1 :=
  ⟨rfl, rfl, rfl, rfl, rfl, rfl, rfl, rfl, rfl, rfl, rfl, rfl, rfl⟩

section
variable {s : State} {c : Nat} {w : TreeWord} {k k1 k2 q : Core} {b : Option Blocked}

/-- What a TREE_STEP finds of a quiet core's sequencer, engines and mapping. -/
theorem State.atBegin_tree (hq : (s.core c).quiet) (hk : s.atBegin c (.treeStep w) = k) :
    k.seq.held = [] ∧ k.seq.ending = none ∧ k.engines = (s.core c).engines := by
  obtain ⟨_, _, _, _, hkeep, _⟩ := State.atDispatch_keeps hq (w := .treeStep w) rfl
  simp only [← hk, State.atBegin, Core.ahead, hkeep, and_true]
  exact ⟨hq.held, hq.ending⟩

/-- A TREE_STEP that waits for nothing leaves its core quiet. -/
theorem Core.treeBegun.quiet (h : k2.treeBegun q (s.core c) none) (hq : (s.core c).quiet) (hk : s.atBegin c (.treeStep w) = k)
    (hseq : q.seq = k.seq) : k2.quiet := by
  have hblocked : ∀ v, (k2.unit v).blocked = none := fun v => (h.blocked v).trans (ite_self _)
  obtain ⟨hheld, hend, -⟩ := State.atBegin_tree hq hk
  obtain ⟨m, x, hk2⟩ := h.rest
  exact { waiting := h.waiting, blocked := hblocked, stall := h.stall
          held := by rw [hk2]; exact hseq ▸ hheld, ending := by rw [hk2]; exact hseq ▸ hend }

theorem Core.treeBegun.outside (h : k2.treeBegun (k.took k1) (s.core c) b) (hq : (s.core c).quiet)
    (hk : s.atBegin c (.treeStep w) = k) : k2.outside (s.core c) := by
  obtain ⟨_, _, _, _, hkeep, _⟩ := State.atDispatch_keeps hq (w := .treeStep w) rfl
  obtain ⟨m, x, rfl⟩ := h.rest
  simp only [← hk, State.atBegin, Core.ahead, Core.took, hkeep]
  exact ⟨⟨rfl, rfl, rfl, rfl, rfl, rfl, rfl, rfl⟩, rfl⟩

/-- A TREE_STEP that no credit edge keeps waiting begins as `beginTree` says. -/
theorem State.startWord_treeStep {u : UnitId} {lp : List Nat} {t : Nat} {b : Begun} (hk : (s.core c).ahead = k)
    (hr : ∀ v ∈ unitsOf (.treeStep w), k.readStall v (k.readsOf c (.treeStep w)) = none) (hgo : (s.setCore c k).beginTree c w = .go b) :
    ∃ x, s.startWord c u ⟨.treeStep w, lp, t⟩
      = .go { b with s := b.s.setCore c { (b.s.core c) with edges := x, swaps := (s.core c).swaps } } := by
  subst hk
  have hn : (unitsOf (.treeStep w)).findSome? (fun v => (s.core c).ahead.readStall v ((s.core c).ahead.readsOf c (.treeStep w) lp)) = none :=
    List.findSome?_eq_none_iff.mpr hr
  obtain ⟨x, hx⟩ := (b.s.core c).consume_edges (unitsOf (.treeStep w)) ((s.core c).ahead.readsOf c (.treeStep w) lp)
  refine ⟨x, ?_⟩
  simp only [State.startWord, jointWord, if_true, hn, hgo, State.updCore, hx]

/-- A TREE_STEP begins in both of its units as `beginTree` says, and waits there for what it says. -/
theorem Begins.issue_treeStep {b : Begun} (h : Begins s c (.treeStep w)) (hk : s.atBegin c (.treeStep w) = k)
    (hgo : (s.setCore c k).beginTree c w = .go b) (hq : b.s.core c = q) (hseq : q.seq = k.seq) (hun : q.units = k.units)
    (hfence : b.blocked ≠ some .fence) :
    ∃ k2, s.issue c (.treeStep w) = b.s.setCore c k2 ∧ k2.treeBegun q (s.core c) b.blocked := by
  have hunits : unitsOf (.treeStep w) = [unitChuck, unitRemote] := rfl
  obtain ⟨_, _, _, _, hkeep, _⟩ := State.atDispatch_keeps h.quiet hunits
  have hswaps : (s.atDispatch c (.treeStep w)).swaps = (s.core c).swaps := by rw [hkeep]
  subst hk hq
  obtain ⟨x, hstart⟩ := State.startWord_treeStep (s := s.setCore c (s.atDispatch c (.treeStep w))) (u := unitChuck)
    (lp := (s.core c).seq.counters) (t := (s.atDispatch c (.treeStep w)).seq.cycle) (congrArg Core.ahead (State.core_setCore_self _ _ _))
    h.reads (by rw [State.setCore_setCore]; exact hgo)
  obtain ⟨m, hissue, hv⟩ := State.issue_unit h hunits (.inl rfl) (by decide) hstart (by rw [State.core_setCore_self]; exact hseq)
    (by rw [State.core_setCore_self]; exact hun) (fun hb => absurd hb hfence)
  simp only [State.core_setCore_self, State.setCore_setCore, hswaps] at hissue hv
  exact ⟨_, hissue, ⟨m, x, rfl⟩, fun v => (hv v).1, fun v => (hv v).2.1, fun v => (hv v).2.2⟩

/-- A TREE_STEP that waits for nothing has begun on the port, with what it sends on its way. -/
theorem Core.treeBegun.tookRemote {ls : List Landing} {o : Host.Outcome State Fault Refusal}
    (h : k2.treeBegun (k.took k1) (s.core c) none) (hq : (s.core c).quiet) (hk : s.atBegin c (.treeStep w) = k)
    (ho : o = .next { (s.setCore c k2) with mesh := s.mesh ++ ls }) : tookRemote s c k1 ls none o := by
  have hquiet := h.quiet hq hk rfl
  exact ⟨k2, ho, h.effect (k.took_effect k1), h.outside hq hk, hquiet.held,
    fun v => ⟨hquiet.waiting v, (hquiet.blocked v).trans (ite_self _).symm⟩⟩

end

/-! ### What a TREE_STEP comes to, by the role -/

section
variable {s : State} {c : Nat} {w : TreeWord} {k : Core} {i : Nat}

theorem Begins.treeStep_idle (h : Begins s c (.treeStep w)) (hk : s.atBegin c (.treeStep w) = k) (hr : k.roleIn w = .idle) :
    tookRemote s c k [] none (.next (s.issue c (.treeStep w))) := by
  have hgo := State.beginTree_idle (State.core_setCore_self s c k) hr
  obtain ⟨k2, hissue, hbegun⟩ := h.issue_treeStep hk hgo (State.core_setCore_self _ _ _) rfl rfl nofun
  refine Core.treeBegun.tookRemote hbegun h.quiet hk ?_
  rw [hissue, State.setCore_setCore, List.append_nil]
  rfl

theorem Begins.treeStep_sends (h : Begins s c (.treeStep w)) (hk : s.atBegin c (.treeStep w) = k) (hr : k.roleIn w = .sender i)
    (hl : k.treeLand w + treeBytes k w ≤ coreMemBytes) (hx : w.chip ≠ 1) :
    tookRemote s c (k.treePayload c w).2
      [⟨c, k.ctx.logical, k.ctx.coreOf.getD i c, .bytes (k.treeLand w) (k.treePayload c w).1⟩,
       ⟨c, k.ctx.logical, k.ctx.coreOf.getD i c, .signal (ctrOf k.ctx i w.ctr.toNat) 1⟩] none (.next (s.issue c (.treeStep w))) := by
  obtain ⟨o, l, hgo⟩ := State.beginTree_sends (State.core_setCore_self s c k) hr hl hx
  rw [State.setCore_setCore] at hgo
  obtain ⟨k2, hissue, hbegun⟩ := h.issue_treeStep hk hgo (State.core_setCore_self s c _) rfl rfl nofun
  refine Core.treeBegun.tookRemote hbegun h.quiet hk ?_
  rw [hissue]
  simp [State.send, State.setCore, SMap.set_set]

theorem Begins.treeStep_crosses (h : Begins s c (.treeStep w)) (hk : s.atBegin c (.treeStep w) = k) (hr : k.roleIn w = .sender i)
    (hl : k.treeLand w + treeBytes k w ≤ coreMemBytes) (hx : w.chip = 1) :
    ∃ k1 k2, s.issue c (.treeStep w) = State.setCore
        (((s.setCore c k1).crossChip c
            ⟨i, false, 0, k.ctx.logical, k.treeLand w, (k.treePayload c w).1.length, 0, (k.treePayload c w).1⟩).crossChip c
          ⟨i, true, 0, k.ctx.logical, w.ctr.toNat, 1, 0, []⟩) c k2
      ∧ k1.ctx = k.ctx ∧ k2.effect (k.treePayload c w).2 ∧ k2.outside (s.core c) ∧ k2.quiet := by
  obtain ⟨o, l, hgo⟩ := State.beginTree_crosses (State.core_setCore_self s c k) hr hl hx
  rw [State.setCore_setCore] at hgo
  obtain ⟨k2, hissue, hbegun⟩ := h.issue_treeStep (q := k.took (k.treePayload c w).2) hk hgo
    (by rw [State.core, State.crossChip_cores, State.crossChip_cores]; exact State.core_setCore_self s c _) rfl rfl nofun
  exact ⟨_, k2, hissue, rfl, hbegun.effect (k.took_effect _), Core.treeBegun.outside hbegun h.quiet hk,
    Core.treeBegun.quiet hbegun h.quiet hk rfl⟩

theorem Begins.treeStep_waits (h : Begins s c (.treeStep w)) (hk : s.atBegin c (.treeStep w) = k) (hr : k.roleIn w = .receiver i)
    (hn : k.counter w.ctr.toNat < k.treeNeed w) :
    ∃ k2, s.issue c (.treeStep w) = s.setCore c k2 ∧ k2.effect k ∧ k2.outside (s.core c)
      ∧ (k2.unit unitRemote).blocked = some (.treeReceive w.ctr.toNat w) ∧ (k2.unit unitChuck).blocked = some (.treeReceive w.ctr.toNat w) := by
  have hgo := State.beginTree_waits (State.core_setCore_self s c k) hr hn
  obtain ⟨k2, hissue, hbegun⟩ := h.issue_treeStep (q := k.took k) hk hgo (State.core_setCore_self _ _ _) rfl rfl nofun
  rw [State.setCore_setCore] at hissue
  exact ⟨k2, hissue, hbegun.effect (k.took_effect k), hbegun.outside h.quiet hk, hbegun.blocked unitRemote, hbegun.blocked unitChuck⟩

theorem Begins.treeStep_combines (h : Begins s c (.treeStep w)) (hk : s.atBegin c (.treeStep w) = k) (hr : k.roleIn w = .receiver i)
    (hn : k.treeNeed w ≤ k.counter w.ctr.toNat) :
    ∃ k2, s.issue c (.treeStep w) = (s.orderCharged k (k.treeCombine c w w.ctr.toNat).2).setCore c k2
      ∧ k2.effect (k.treeCombine c w w.ctr.toNat).1 ∧ k2.engines = (s.core c).engines ∧ k2.swaps = (s.core c).swaps ∧ k2.quiet
      ∧ k2.counter w.ctr.toNat = k.counter w.ctr.toNat - k.treeNeed w := by
  obtain ⟨o, l, hgo⟩ := State.beginTree_combines (State.core_setCore_self s c k) hr hn
  obtain ⟨hseq, hunits, hengines, -⟩ := k.treeCombined_keeps c w w.ctr.toNat
  obtain ⟨-, -, hfound⟩ := State.atBegin_tree h.quiet hk
  obtain ⟨k2, hissue, hbegun⟩ := h.issue_treeStep hk hgo (State.core_setCore_self _ c _) hseq hunits nofun
  rw [State.orderCharged_setCore, State.setCore_setCore, State.setCore_setCore] at hissue
  have hquiet := Core.treeBegun.quiet hbegun h.quiet hk hseq
  have heffect := hbegun.effect (k.treeCombined_effect c w w.ctr.toNat)
  obtain ⟨_, _, rfl⟩ := hbegun.rest
  exact ⟨_, hissue, heffect, hengines.trans hfound, rfl, hquiet, k.treeCombined_counter c w w.ctr.toNat⟩

end

/-! ### Waits that end (08 R232) -/

/-- The cycle in which the port of core `k` ends its wait, where the event comes in cycle `t`. -/
def Core.waitEnd (k : Core) (t : Nat) : Nat := max t (k.unit unitRemote).freeAt

/-- A unit whose wait has ended in cycle `t`, and which its word then occupies for `occ` cycles more. -/
def UnitState.freed (x : UnitState) (t occ : Nat) : UnitState :=
  { x with blocked := none, ends := x.ends ++ [t + 1 + occ], freeAt := t + 1 + occ, idleAt := max x.idleAt (t + occ) }

/-- A core of an elastic slice counts the `n` cycles for which a barrier kept it waiting (08 R238). -/
def Core.barrierStall (k : Core) (n : Nat) : Core := if k.ctx.elastic then k.addStall stallBarrier n else k

/-- The core whose WAIT ends in cycle `t`. -/
def Core.waitEnded (k : Core) (t ctr n : Nat) : Core :=
  ((k.takeCount ctr n).updUnit unitRemote (fun x => x.freed t 0)).barrierStall (t - (k.unit unitRemote).freeAt)

/-- The core whose receiving TREE_STEP ends its wait in cycle `t`. -/
def Core.receiveEnded (c : Nat) (k : Core) (t ctr : Nat) (w : TreeWord) : Core :=
  ((((k.treeCombined c w ctr).updUnit unitRemote (fun x => x.freed t 0)).updUnit unitChuck
      (fun x => x.freed t (ceilDiv w.count.toNat (treeRate w) + 8))).closeOp unitChuck).barrierStall (t - (k.unit unitRemote).freeAt)

/-- `k1` is `q` once the waits of the units `us` have ended: nothing but units and counts of stalls has changed. -/
structure Core.released (k1 q : Core) (us : List UnitId) : Prop where
  rest : ∃ m x, k1 = { q with units := m, counts := x }
  waiting : ∀ v, (k1.unit v).waiting = (q.unit v).waiting
  blocked : ∀ v, (k1.unit v).blocked = if v ∈ us then none else (q.unit v).blocked

theorem Core.released.frame {k1 q : Core} {us : List UnitId} (h : k1.released q us) :
    k1.mem = q.mem ∧ k1.chuck = q.chuck ∧ k1.engines = q.engines ∧ k1.ctx = q.ctx ∧ ∀ i, k1.counter i = q.counter i := by
  obtain ⟨m, x, rfl⟩ := h.rest
  exact ⟨rfl, rfl, rfl, rfl, fun _ => rfl⟩

theorem Core.released.refl (q : Core) : q.released q [] := ⟨⟨q.units, q.counts, rfl⟩, fun _ => rfl, fun _ => rfl⟩

theorem Core.released.free {k1 q : Core} {us : List UnitId} (h : k1.released q us) (u : UnitId) (t occ : Nat) :
    (k1.updUnit u (fun x => x.freed t occ)).released q (u :: us) where
  rest := by
    obtain ⟨m, x, rfl⟩ := h.rest
    exact ⟨_, x, rfl⟩
  waiting v := by
    rw [Core.unit_updUnit, ← h.waiting]
    split
    · next hv => rw [hv]; rfl
    · rfl
  blocked v := by
    rw [Core.unit_updUnit]
    by_cases hv : v = u
    · rw [if_pos hv, if_pos (by simp [hv])]; rfl
    · rw [if_neg hv, h.blocked]; simp [hv]

theorem Core.released.closeOp {k1 q : Core} {us : List UnitId} (h : k1.released q us) (u : UnitId) : (k1.closeOp u).released q us := by
  obtain ⟨m, hm, hunit⟩ := k1.closeOp_units u
  obtain ⟨m1, x, hk1⟩ := h.rest
  exact ⟨⟨m, x, by rw [hm, hk1]⟩, fun v => (hunit v).1.trans (h.waiting v), fun v => (hunit v).2.1.trans (h.blocked v)⟩

theorem Core.released.barrierStall {k1 q : Core} {us : List UnitId} (h : k1.released q us) (n : Nat) :
    (k1.barrierStall n).released q us := by
  unfold Core.barrierStall
  split
  · obtain ⟨m, x, hk1⟩ := h.rest
    exact ⟨⟨m, _, by rw [Core.addStall, hk1]⟩, h.waiting, h.blocked⟩
  · exact h

theorem Core.waitEnded_released (k : Core) (t ctr n : Nat) : (k.waitEnded t ctr n).released (k.takeCount ctr n) [unitRemote] :=
  ((Core.released.refl _).free unitRemote t 0).barrierStall _

theorem Core.receiveEnded_released (c : Nat) (k : Core) (t ctr : Nat) (w : TreeWord) :
    (k.receiveEnded c t ctr w).released (k.treeCombined c w ctr) [unitChuck, unitRemote] :=
  ((((Core.released.refl _).free unitRemote t 0).free unitChuck t _).closeOp unitChuck).barrierStall _

section
variable {s : State} {c ctr n : Nat} {w : TreeWord} {k : Core}

theorem State.endWait_counter (hk : s.core c = k) (hb : (k.unit unitRemote).blocked = some (.waitCounter ctr n)) (t : Nat) :
    s.endWait c t
      = if n ≤ k.counter ctr then (s.setCore c (k.waitEnded (k.waitEnd t) ctr n)).pump c (k.waitEnd t) else s := by
  simp only [State.endWait, hk, hb]
  rfl

theorem State.endWait_receive (hk : s.core c = k) (hb : (k.unit unitRemote).blocked = some (.treeReceive ctr w)) (t : Nat) :
    s.endWait c t
      = if k.treeNeed w ≤ k.counter ctr then
          ((s.orderCharged k (k.treeCombine c w ctr).2).setCore c (k.receiveEnded c (k.waitEnd t) ctr w)).pump c (k.waitEnd t)
        else s := by
  simp only [State.endWait, hk, hb, ← State.orderCharged_setCore]
  rfl

/-- Nothing but the wait of the units `us` keeps core `k` from standing still: it holds no word, and no other unit waits. -/
structure Core.waitsOnly (k : Core) (us : List UnitId) : Prop where
  held : k.seq.held = []
  ending : k.seq.ending = none
  waiting : ∀ u, (k.unit u).waiting = []
  blocked : ∀ u, u ∉ us → (k.unit u).blocked = none

theorem Core.waitsOnly.congr {q : Core} {us : List UnitId} (h : k.waitsOnly us) (hseq : q.seq = k.seq) (hunits : q.units = k.units) :
    q.waitsOnly us where
  held := hseq ▸ h.held
  ending := hseq ▸ h.ending
  waiting u := by rw [Core.unit, hunits]; exact h.waiting u
  blocked u hu := by rw [Core.unit, hunits]; exact h.blocked u hu

theorem Core.released.unblocked {q : Core} {us : List UnitId} (h : k.released q us) (hq : q.waitsOnly us) (u : UnitId) :
    (k.unit u).blocked = none := by
  rw [h.blocked]
  split
  · rfl
  · next hu => exact hq.blocked u hu

/-- Once those waits have ended, the core has nothing to go on with. -/
theorem Core.released.pump {q : Core} {us : List UnitId} (h : k.released q us) (hq : q.waitsOnly us) (s : State) (c now : Nat) :
    (s.setCore c k).pump c now = s.setCore c k := by
  obtain ⟨m, x, hrest⟩ := h.rest
  have hcore : (s.setCore c k).core c = k := State.core_setCore_self s c k
  have hround : (s.setCore c k).pumpRound c now = (s.setCore c k, false) := by
    refine State.pumpRound_idle (fun u _ => State.tryBegin_idle now ?_ ?_) ?_ ?_ <;> rw [hcore]
    · exact (h.waiting u).trans (hq.waiting u)
    · exact h.unblocked hq u
    · rw [hrest]; exact hq.held
    · rw [hrest]; exact hq.ending
  obtain ⟨i, hi⟩ := Core.work_pos ((s.setCore c k).core c)
  rw [State.pump, hi, State.pumpFuel, hround]
  rfl

theorem State.endWait_counter_reached (hk : s.core c = k) (hb : (k.unit unitRemote).blocked = some (.waitCounter ctr n))
    (hn : n ≤ k.counter ctr) (hw : k.waitsOnly [unitRemote]) (t : Nat) :
    ∃ k2, s.endWait c t = s.setCore c k2 ∧ k2.counter ctr = k.counter ctr - n ∧ (∀ i, i ≠ ctr → k2.counter i = k.counter i)
      ∧ (∀ u, (k2.unit u).blocked = none) ∧ k2.mem = k.mem ∧ k2.chuck = k.chuck ∧ k2.engines = k.engines ∧ k2.ctx = k.ctx := by
  have hreleased := k.waitEnded_released (k.waitEnd t) ctr n
  obtain ⟨hmem, hchuck, hengines, hctx, hcounter⟩ := hreleased.frame
  obtain ⟨a, b, htake⟩ := k.takeCount_only ctr n
  have hcount := k.counter_takeCount ctr n
  rw [htake] at hmem hchuck hengines hctx
  have hw' : (k.takeCount ctr n).waitsOnly [unitRemote] := by rw [htake]; exact hw.congr rfl rfl
  refine ⟨k.waitEnded (k.waitEnd t) ctr n, ?_, ?_, fun i hi => ?_, hreleased.unblocked hw', hmem, hchuck, hengines, hctx⟩
  · rw [State.endWait_counter hk hb, if_pos hn, hreleased.pump hw']
  · rw [hcounter, hcount, if_pos rfl]
  · rw [hcounter, hcount, if_neg hi]

theorem State.endWait_receive_reached (hk : s.core c = k) (hb : (k.unit unitRemote).blocked = some (.treeReceive ctr w))
    (hn : k.treeNeed w ≤ k.counter ctr) (hw : k.waitsOnly [unitChuck, unitRemote]) (t : Nat) :
    ∃ k2, s.endWait c t = (s.orderCharged k (k.treeCombine c w ctr).2).setCore c k2 ∧ k2.mem = (k.treeCombine c w ctr).1.mem
      ∧ k2.chuck = (k.treeCombine c w ctr).1.chuck ∧ k2.counter ctr = k.counter ctr - k.treeNeed w
      ∧ (∀ u, (k2.unit u).blocked = none) ∧ k2.engines = k.engines ∧ k2.ctx = k.ctx := by
  have hreleased := k.receiveEnded_released c (k.waitEnd t) ctr w
  obtain ⟨hmem, hchuck, hengines, hctx, hcounter⟩ := hreleased.frame
  obtain ⟨hseq, hunits, hengines', hctx'⟩ := k.treeCombined_keeps c w ctr
  have hw' := hw.congr hseq hunits
  refine ⟨k.receiveEnded c (k.waitEnd t) ctr w, ?_, hmem, hchuck, ?_, hreleased.unblocked hw', hengines.trans hengines', hctx.trans hctx'⟩
  · rw [State.endWait_receive hk hb, if_pos hn, hreleased.pump hw']
  · rw [hcounter, Core.treeCombined_counter]

end

/-- Settles O11: a TREE_STEP that begins comes to what its core's role makes of it. -/
theorem treeStep : Obligations.TreeStep := by
  intro s c w k n width need hcan
  have h : Begins s c.val (.treeStep w) := hcan.elim id Ready.begins
  have hexec : exec (.treeStep c w) s = .next (s.issue c.val (.treeStep w)) := if_pos h.ok
  rw [hexec]
  refine ⟨h.treeStep_idle rfl, fun dest hr hl => ⟨h.treeStep_sends rfl hr hl, fun hx => ?_⟩, fun src hr => ⟨fun hn => ?_, fun hn => ?_⟩⟩
  · obtain ⟨k1, k2, hissue, hk⟩ := h.treeStep_crosses rfl hr hl hx
    exact ⟨k1, k2, congrArg _ hissue, hk⟩
  · obtain ⟨k2, hissue, hk⟩ := h.treeStep_waits rfl hr hn
    exact ⟨k2, congrArg _ hissue, hk⟩
  · obtain ⟨k2, hissue, hk⟩ := h.treeStep_combines rfl hr hn
    exact ⟨k2, congrArg _ hissue, hk⟩

/-- Settles O15: the wait of the port ends as `State.endWait` says, and a core on which nothing else waits then stands still. -/
theorem waitsComplete : Obligations.WaitsComplete := by
  refine ⟨fun s c cycle ctr n hb => ⟨fun hn hheld hend hwaiting hothers => ?_, fun hn => ?_⟩, ?_⟩
  · have hw : (s.core c.val).waitsOnly [unitRemote] := ⟨hheld, hend, hwaiting, fun u hu => hothers u (by simpa using hu)⟩
    obtain ⟨k2, hk2, hrest⟩ := State.endWait_counter_reached rfl hb hn hw cycle
    exact ⟨k2, congrArg _ hk2, hrest⟩
  · exact congrArg _ ((State.endWait_counter rfl hb cycle).trans (if_neg (Nat.not_le.mpr hn)))
  · intro s c cycle ctr w need p hb
    refine ⟨fun hn hheld hend hwaiting hothers => ?_, fun hn => ?_⟩
    · have hw : (s.core c.val).waitsOnly [unitChuck, unitRemote] := ⟨hheld, hend, hwaiting, fun u hu =>
        hothers u (fun h => hu (by simp [h])) (fun h => hu (by simp [h]))⟩
      obtain ⟨k2, hk2, hrest⟩ := State.endWait_receive_reached rfl hb hn hw cycle
      exact ⟨k2, congrArg _ hk2, hrest⟩
    · exact congrArg _ ((State.endWait_receive rfl hb cycle).trans (if_neg (Nat.not_le.mpr hn)))

end Sys2Proof.Machine
end

section
/-! SUPPORT. Corrected errors of HBM (09 R255): they stand in the list of a day's errors of their channel. -/

namespace Sys2Proof.Machine

/-- A corrected error where no channel has had one for a day is listed, and brings no spare in. -/
theorem State.hbmCorrected_first {s : State} (h : s.hbm.ces = []) (stack pch sector : Nat) :
    (s.hbmCorrected stack pch sector).hbm.ces = [⟨stack, s.hbm.logical stack pch, sector, s.turn.clock⟩] := by
  have hone : ¬ 64 < (ofChannel [⟨stack, s.hbm.logical stack pch, sector, s.turn.clock⟩] stack (s.hbm.logical stack pch)).length := by
    simp [ofChannel, List.eraseDups_cons]
  simp [State.hbmCorrected, h, recent, hone]

/-- Refutes O19: HBM_CE changes more than registers and records. On the part at reset, it puts the sector into the HBM's list of a day's
corrected errors (09 R256 counts them for the sparing of a channel), which was empty. -/
theorem not_correctedErrorsCount : ¬ Obligations.CorrectedErrorsCount := by
  rintro ⟨-, hhbm⟩
  obtain ⟨t, ht, hsame, -⟩ := (hhbm State.reset 0).1 0 0
  have hstep : exec (.hbmCe 0 0 0) State.reset = .next (State.reset.hbmCorrected 0 0 0) := rfl
  obtain rfl : State.reset.hbmCorrected 0 0 0 = t := Host.Outcome.next.inj (hstep.symm.trans ht)
  have hlisted := State.hbmCorrected_first (s := State.reset) rfl 0 0 0
  rw [hsame.hbm] at hlisted
  exact absurd hlisted (List.cons_ne_nil _ _).symm

end Sys2Proof.Machine
end

section
/-! SUPPORT. The words of the Profile unit (05 R131, R141) are words of the core alone, whose rules stand above. -/

namespace Sys2Proof.Machine

/-- Settles O3: a Profile word that runs takes effect once, and one that meets no fault on a ready core runs. Of the `rfl`s, the first
says that the word is one of the core alone, and the second that `exec` hands it to the core's sequencer. -/
theorem profileWordsTakeEffect : Obligations.ProfileWordsTakeEffect := by
  intro s c u k1
  and_intros
  iterate 10 exact fun _ hruns => hruns.took rfl rfl
  iterate 10 exact fun _ hready => hready.completed rfl rfl

end Sys2Proof.Machine
end

section
/-! SUPPORT. DEADLOCK_BREAK (08 R240). -/

namespace Sys2Proof.Machine

/-- Settles O18: the mark is all that the command makes, and it makes it where the slice is elastic, runs and has a stalled unit. -/
theorem deadlockBreakMarks : Obligations.DeadlockBreakMarks := by
  intro s i q im hq him
  simp only [exec, execDeadlockBreak, hq, him, Placed.isRunning, Bool.and_eq_true, decide_eq_true_eq, and_assoc]
  split <;> rfl

end Sys2Proof.Machine
end

section
/-! SUPPORT. Words of the stream engines and of the remote-operation port (08 R214, R219, R226, R231 to R233): each enters one queue, where it
has a beginning of its own. What such a beginning leaves of a quiet core is what the word, given to that core, comes to. -/

namespace Sys2Proof.Machine

/-! ### The beginning in one queue -/

/-- The queue that a word of a stream engine or of the remote-operation port enters; none for every other word. -/
def ownQueue (w : OpWord) : Option UnitId :=
  match w with
  | .put _ => some unitRemote
  | .get _ => some unitRemote
  | .qadd _ => some unitRemote
  | .signal _ => some unitRemote
  | .wait _ => some unitRemote
  | .fence _ => some unitRemote
  | .streamDef x => some (unitStream x.unit.toNat)
  | .streamStart x => some (unitStream x.unit.toNat)
  | .streamRearm x => some (unitStream x.unit.toNat)
  | .streamStop x => some (unitStream x.unit.toNat)
  | _ => none

/-- The beginning of such a word, as `State.startWord` comes to it. -/
def State.beginOwn (s : State) (c : Nat) (d : Dispatched) : Start :=
  match d.word with
  | .put x => s.beginPut c d x
  | .get x => s.beginGet c d x
  | .qadd x => s.beginQadd c d x
  | .signal x => s.beginSignal c x
  | .wait x => s.beginWait c x
  | .fence _ => s.beginFence c
  | _ => s.beginStream c d

theorem unitsOf_own {w : OpWord} {u : UnitId} (hw : ownQueue w = some u) : unitsOf w = [u] := by
  cases w <;> simp_all [ownQueue, unitsOf]

theorem jointWord_own {w : OpWord} {u : UnitId} (hw : ownQueue w = some u) : jointWord w = false := by
  cases w <;> simp_all [ownQueue, jointWord]

/-- Such a word that no credit edge keeps waiting begins as `beginOwn` says. -/
theorem State.startWord_own {s : State} {c : Nat} {u : UnitId} {d : Dispatched} {k : Core} {b : Begun} (hw : ownQueue d.word = some u)
    (hk : (s.core c).ahead = k) (hr : k.readStall u (k.readsOf c d.word d.loops) = none) (hgo : (s.setCore c k).beginOwn c d = .go b) :
    ∃ x, s.startWord c u d = .go { b with s := b.s.setCore c { (b.s.core c) with edges := x, swaps := (s.core c).swaps } } := by
  subst hk
  have hn : [u].findSome? (fun v => (s.core c).ahead.readStall v ((s.core c).ahead.readsOf c d.word d.loops)) = none :=
    List.findSome?_eq_none_iff.mpr fun v hv => by rw [List.mem_singleton.mp hv]; exact hr
  obtain ⟨x, hx⟩ := (b.s.core c).consume_edges [u] ((s.core c).ahead.readsOf c d.word d.loops)
  refine ⟨x, ?_⟩
  obtain ⟨w, lp, t⟩ := d
  simp only [State.startWord, jointWord_own hw, Bool.false_eq_true, if_false, hn]
  cases w
  case put | get | qadd | signal | wait | fence | streamDef | streamStart | streamRearm | streamStop =>
    simp only [State.beginOwn] at hgo
    simp only [hgo, State.updCore, hx]
  all_goals exact absurd hw (by simp [ownQueue])

/-- What a word of a unit finds of a quiet core: all but the sequencer's place, the queues, the mapping and the counter of free values is
as it was. -/
theorem State.atBegin_eq {s : State} {c : Nat} {w : OpWord} (hq : (s.core c).quiet) {u : UnitId} {rest : List UnitId}
    (hu : unitsOf w = u :: rest) : ∃ t n l m y, s.atBegin c w = { (s.core c) with
      seq := { (s.core c).seq with cycle := t, slots := n, units := l, pos := (s.core c).seq.pos + 1 }
      units := m
      swaps := y
      freeCtr := (s.core c).freeCtr + 1 } := by
  obtain ⟨t, n, l, m, hkeep, -⟩ := State.atDispatch_keeps hq hu
  exact ⟨t, n, l, m, (s.atBegin c w).swaps, by simp only [State.atBegin, Core.ahead, hkeep]⟩

/-- What a core is once a word of queue `u`, whose beginning left it as `q`, has begun there: the unit waits for `b`. `k0` is the core that
the word was given to. -/
structure Core.begunIn (k2 q k0 : Core) (u : UnitId) (b : Option Blocked) : Prop where
  rest : ∃ m x, k2 = { q with units := m, edges := x, swaps := k0.swaps }
  waiting : ∀ v, (k2.unit v).waiting = []
  stall : ∀ v, (k2.unit v).stall = 0
  blocked : ∀ v, (k2.unit v).blocked = if v = u then b else none

section
variable {s : State} {c : Nat} {w : OpWord} {u : UnitId} {k q k1 k2 : Core} {b : Begun} {r : Option Blocked}

/-- A word that enters one queue begins there as `beginOwn` says, and waits for what that says. -/
theorem Begins.issue_own (h : Begins s c w) (hw : ownQueue w = some u) (hk : s.atBegin c w = k)
    (hgo : (s.setCore c k).beginOwn c (s.asDispatched c w) = .go b) (hq : b.s.core c = q) (hseq : q.seq = k.seq)
    (hun : q.units = k.units) (hfence : b.blocked = some .fence → b.s.inFlight c = true) :
    ∃ k2, s.issue c w = b.s.setCore c k2 ∧ k2.begunIn q (s.core c) u b.blocked := by
  have hunits := unitsOf_own hw
  obtain ⟨_, _, _, _, hkeep, _⟩ := State.atDispatch_keeps h.quiet hunits
  have hswaps : (s.atDispatch c w).swaps = (s.core c).swaps := by rw [hkeep]
  have hloops : (s.atBegin c w).seq.counters = (s.core c).seq.counters := by simp only [State.atBegin, Core.ahead, hkeep]; rfl
  have hreads := h.reads u (by rw [hunits]; exact List.mem_singleton_self u)
  subst hk hq
  obtain ⟨x, hstart⟩ := State.startWord_own (s := s.setCore c (s.atDispatch c w)) (d := s.asDispatched c w) hw
    (congrArg Core.ahead (State.core_setCore_self _ _ _)) (by rw [hloops] at hreads; exact hreads)
    (by rw [State.setCore_setCore]; exact hgo)
  obtain ⟨m, hissue, hv⟩ := State.issue_unit h hunits (.inr rfl) (by simp) hstart (by rw [State.core_setCore_self]; exact hseq)
    (by rw [State.core_setCore_self]; exact hun) hfence
  simp only [State.core_setCore_self, State.setCore_setCore, hswaps, List.mem_singleton] at hissue hv
  exact ⟨_, hissue, ⟨m, x, rfl⟩, fun v => (hv v).1, fun v => (hv v).2.1, fun v => (hv v).2.2⟩

theorem Core.begunIn.effect (h : k2.begunIn q (s.core c) u r) (hq : q.effect k1) : k2.effect k1 := by
  obtain ⟨m, x, rfl⟩ := h.rest
  exact ⟨hq.mem, hq.chuck, hq.slots, hq.requant, hq.arrA, hq.arrB, hq.accSetA, hq.accSetB, hq.cal, hq.flights, hq.summary, hq.counts,
    hq.freeCtr⟩

/-- Once the word has begun, the core holds no word, and no other unit waits. -/
theorem Core.begunIn.idle (h : k2.begunIn q (s.core c) u r) (hquiet : (s.core c).quiet) (hw : ownQueue w = some u)
    (hk : s.atBegin c w = k) (hseq : q.seq = k.seq) : k2.seq.held = [] ∧ k2.seq.ending = none := by
  obtain ⟨_, _, _, _, _, hfound⟩ := State.atBegin_eq hquiet (unitsOf_own hw)
  obtain ⟨m, x, rfl⟩ := h.rest
  simp only [hseq, ← hk, hfound]
  exact ⟨hquiet.held, hquiet.ending⟩

/-- A word that waits for nothing leaves its core quiet. -/
theorem Core.begunIn.quiet (h : k2.begunIn q (s.core c) u none) (hquiet : (s.core c).quiet) (hw : ownQueue w = some u)
    (hk : s.atBegin c w = k) (hseq : q.seq = k.seq) : k2.quiet := by
  obtain ⟨hheld, hending⟩ := h.idle hquiet hw hk hseq
  exact { waiting := h.waiting, blocked := fun v => (h.blocked v).trans (ite_self _), stall := h.stall, held := hheld, ending := hending }

/-- What the beginning keeps of the core that it finds, it keeps of the core that the word was given to. -/
theorem Core.begunIn.beyond (h : k2.begunIn q (s.core c) u r) (hquiet : (s.core c).quiet) (hw : ownQueue w = some u)
    (hk : s.atBegin c w = k) (hq : q.beyond k) : k2.beyond (s.core c) := by
  obtain ⟨_, _, _, _, _, hfound⟩ := State.atBegin_eq hquiet (unitsOf_own hw)
  obtain ⟨m, x, rfl⟩ := h.rest
  rw [← hk, hfound] at hq
  exact ⟨rfl, hq.counters, hq.ctx, hq.body, hq.xchip, hq.loops, hq.marks, hq.ended⟩

theorem Core.begunIn.outside (h : k2.begunIn q (s.core c) u r) (hquiet : (s.core c).quiet) (hw : ownQueue w = some u)
    (hk : s.atBegin c w = k) (hq : q.outside k) : k2.outside (s.core c) := by
  obtain ⟨_, _, _, _, _, hfound⟩ := State.atBegin_eq hquiet (unitsOf_own hw)
  refine ⟨h.beyond hquiet hw hk hq.1, ?_⟩
  obtain ⟨m, x, rfl⟩ := h.rest
  exact hq.engines.trans (by rw [← hk, hfound])

/-- A word of the port whose beginning changes nothing of the core but counts of stalls has begun with `ls` on their way. `t` is `s` but
for what the beginning notes outside the cores. -/
theorem Begins.port_begins {t : State} {ls : List Landing} (h : Begins s c w) (hw : ownQueue w = some unitRemote)
    (hk : s.atBegin c w = k) (hgo : (s.setCore c k).beginOwn c (s.asDispatched c w) = .go b)
    (hs : b.s = { (t.setCore c q) with mesh := t.mesh ++ ls }) (hq : ∃ n, q = { k with counts := n }) (ht : t.cores = s.cores)
    (hfence : b.blocked = some .fence → b.s.inFlight c = true) : tookRemote t c q ls b.blocked (.next (s.issue c w)) := by
  have hcore : b.s.core c = q := by rw [hs]; exact State.core_setCore_self t c _
  have htc : t.core c = s.core c := by rw [State.core, ht]; rfl
  obtain ⟨n, hn⟩ := hq
  have hseq : q.seq = k.seq := by rw [hn]
  obtain ⟨k2, hissue, hbegun⟩ := h.issue_own hw hk hgo hcore hseq (by rw [hn]) hfence
  obtain ⟨hheld, -⟩ := hbegun.idle h.quiet hw hk hseq
  have houtside := hbegun.outside h.quiet hw hk (by rw [hn]; exact ⟨⟨rfl, rfl, rfl, rfl, rfl, rfl, rfl, rfl⟩, rfl⟩)
  refine ⟨k2, ?_, hbegun.effect ⟨rfl, rfl, rfl, rfl, rfl, rfl, rfl, rfl, rfl, rfl, rfl, rfl, rfl⟩, htc ▸ houtside, hheld,
    fun v => ⟨hbegun.waiting v, hbegun.blocked v⟩⟩
  rw [hissue, hs]
  simp only [State.setCore, SMap.set_set]

end

/-! ### WAIT and FENCE (08 R232, R233) -/

section
variable {s : State} {c : Nat} {k : Core}

theorem Begins.wait_takes {w : WaitWord} (h : Begins s c (.wait w)) (hk : s.atBegin c (.wait w) = k)
    (hn : w.count.toNat ≤ (s.core c).counter w.ctr.toNat) :
    ∃ k2, s.issue c (.wait w) = s.setCore c k2 ∧ k2.effect k ∧ k2.engines = (s.core c).engines ∧ k2.quiet
      ∧ k2.counter w.ctr.toNat = (s.core c).counter w.ctr.toNat - w.count.toNat
      ∧ ∀ i, i ≠ w.ctr.toNat → k2.counter i = (s.core c).counter i := by
  obtain ⟨_, _, _, _, _, hfound⟩ := State.atBegin_eq h.quiet (w := .wait w) rfl
  rw [hk] at hfound
  have hcounter : ∀ i, k.counter i = (s.core c).counter i := fun i => by rw [hfound]; rfl
  have hgo : (s.setCore c k).beginOwn c (s.asDispatched c (.wait w)) = .go
      { s := (s.setCore c k).setCore c (k.takeCount w.ctr.toNat w.count.toNat), occ := 1, last := 0 } := by
    simp only [State.beginOwn, State.asDispatched, State.beginWait, State.core_setCore_self, hcounter, if_pos hn, Core.takeCount]
  have htake := k.counter_takeCount w.ctr.toNat w.count.toNat
  obtain ⟨x, y, hq⟩ := k.takeCount_only w.ctr.toNat w.count.toNat
  obtain ⟨k2, hissue, hbegun⟩ := h.issue_own rfl hk hgo (State.core_setCore_self _ _ _) (by rw [hq]) (by rw [hq]) nofun
  have hcount : ∀ i, k2.counter i = (k.takeCount w.ctr.toNat w.count.toNat).counter i := by
    obtain ⟨m, e, rfl⟩ := hbegun.rest
    exact fun _ => rfl
  refine ⟨k2, by rw [hissue, State.setCore_setCore, State.setCore_setCore], hbegun.effect ?_, ?_,
    hbegun.quiet h.quiet rfl hk (by rw [hq]), ?_, fun i hi => ?_⟩
  · rw [hq]; exact ⟨rfl, rfl, rfl, rfl, rfl, rfl, rfl, rfl, rfl, rfl, rfl, rfl, rfl⟩
  · obtain ⟨m, e, rfl⟩ := hbegun.rest
    rw [hq, hfound]
  · rw [hcount, htake, if_pos rfl, hcounter]
  · rw [hcount, htake, if_neg hi, hcounter]

theorem Begins.wait_waits {w : WaitWord} (h : Begins s c (.wait w)) (hk : s.atBegin c (.wait w) = k)
    (hn : (s.core c).counter w.ctr.toNat < w.count.toNat) :
    tookRemote s c k [] (some (.waitCounter w.ctr.toNat w.count.toNat)) (.next (s.issue c (.wait w))) := by
  obtain ⟨_, _, _, _, _, hfound⟩ := State.atBegin_eq h.quiet (w := .wait w) rfl
  have hcounter : k.counter w.ctr.toNat = (s.core c).counter w.ctr.toNat := by rw [← hk, hfound]; rfl
  have hgo : (s.setCore c k).beginOwn c (s.asDispatched c (.wait w)) = .go
      { s := s.setCore c k, occ := 0, last := 0, blocked := some (.waitCounter w.ctr.toNat w.count.toNat) } := by
    simp only [State.beginOwn, State.asDispatched, State.beginWait, State.core_setCore_self, hcounter, if_neg (Nat.not_le.mpr hn)]
  exact h.port_begins rfl hk hgo (by rw [List.append_nil]; rfl) ⟨_, rfl⟩ rfl nofun

theorem State.beginOwn_fence (w : PlainWord) : ∃ o, (s.setCore c k).beginOwn c (s.asDispatched c (.fence w)) = .go
    { s := s.setCore c k, occ := o, last := 0, blocked := if s.inFlight c then some .fence else none } := by
  have hmesh : (s.setCore c k).inFlight c = s.inFlight c := rfl
  simp only [State.beginOwn, State.asDispatched, State.beginFence, hmesh]
  split
  · exact ⟨0, rfl⟩
  · exact ⟨1, rfl⟩

theorem Begins.fence_begins {w : PlainWord} (h : Begins s c (.fence w)) (hk : s.atBegin c (.fence w) = k) :
    tookRemote s c k [] (if s.inFlight c then some .fence else none) (.next (s.issue c (.fence w))) := by
  obtain ⟨o, hgo⟩ := State.beginOwn_fence (s := s) (c := c) (k := k) w
  refine h.port_begins rfl hk hgo (by rw [List.append_nil]; rfl) ⟨_, rfl⟩ rfl fun hb => ?_
  by_contra hf
  have hf' : ¬ s.inFlight c = true := hf
  simp [hf'] at hb

theorem Begins.fence_completes {w : PlainWord} (h : Begins s c (.fence w)) (hf : s.inFlight c = false) :
    ∃ k2, s.issue c (.fence w) = s.setCore c k2 ∧ k2.quiet := by
  obtain ⟨o, hgo⟩ := State.beginOwn_fence (s := s) (c := c) (k := s.atBegin c (.fence w)) w
  simp only [hf, Bool.false_eq_true, if_false] at hgo
  obtain ⟨k2, hissue, hbegun⟩ := h.issue_own rfl rfl hgo (State.core_setCore_self _ _ _) rfl rfl nofun
  exact ⟨k2, by rw [hissue, State.setCore_setCore], hbegun.quiet h.quiet rfl rfl rfl⟩

end

/-- Settles O10: a WAIT takes its count or waits for it, and a FENCE waits while effects of the core are on their way. -/
theorem waitAndFence : Obligations.WaitAndFence := by
  intro s c
  have hwait : ∀ w, Begins s c.val (.wait w) → exec (.wait c w) s = .next (s.issue c.val (.wait w)) := fun _ h => if_pos h.ok
  have hfence : ∀ w, Begins s c.val (.fence w) → exec (.fence c w) s = .next (s.issue c.val (.fence w)) := fun _ h => if_pos h.ok
  refine ⟨fun w h => ⟨fun hn => ?_, fun hn => ?_⟩, fun w h => ?_, fun w h hn => ?_, fun w h hf => ?_⟩
  · obtain ⟨k2, hissue, hk2⟩ := h.wait_takes rfl hn
    exact ⟨k2, by rw [hwait w h, hissue], hk2⟩
  · rw [hwait w h]
    exact h.wait_waits rfl hn
  · rw [hfence w h]
    exact h.fence_begins rfl
  · obtain ⟨k2, hissue, -, -, hquiet, hcount, -⟩ := h.begins.wait_takes rfl hn
    exact ⟨k2, by rw [hwait w h.begins, hissue], hquiet, hcount⟩
  · obtain ⟨k2, hissue, hquiet⟩ := h.begins.fence_completes hf
    exact ⟨k2, by rw [hfence w h.begins, hissue], hquiet⟩

end Sys2Proof.Machine
end

section
/-! SUPPORT. Remote words (08 R229, R231, R233, R235): a PUT, GET, QADD or SIGNAL on the chip sends its effect on its way, and one to another chip
goes to the link die. -/

namespace Sys2Proof.Machine

/-! ### What a global address leads to -/

section
variable {s : State} {c : Nat} {k : Core}

theorem State.core_setCore_ne {j : Nat} (h : j ≠ c) (s : State) (k : Core) : (s.setCore c k).core j = s.core j := by
  rw [State.core_setCore, if_neg h]

/-- Of core `c`, only the slice context decides where an address leads. -/
theorem State.sliceEnv_setCore (hctx : k.ctx = (s.core c).ctx) : (s.setCore c k).sliceEnv c = s.sliceEnv c := by
  simp only [State.sliceEnv, State.core_setCore_self, hctx]
  rfl

theorem State.resolve_setCore (hctx : k.ctx = (s.core c).ctx) (ga n : Nat) (writes : Bool) :
    (s.setCore c k).resolve c ga n writes = s.resolve c ga n writes := by
  simp only [State.resolve, State.core_setCore_self, hctx, State.sliceEnv_setCore hctx]
  rfl

theorem State.readExts_setCore (hctx : k.ctx = (s.core c).ctx) (key n : Nat) :
    (s.setCore c k).readExts c key n = s.readExts c key n := by
  simp only [State.readExts, State.readExt, State.sliceEnv_setCore hctx]
  rfl

/-- Noting an access leaves every core alone, and does not depend on the state of one. -/
theorem State.touchExt_setCore (hctx : k.ctx = (s.core c).ctx) (key n : Nat) :
    (s.setCore c k).touchExt c key n = (s.touchExt c key n).setCore c k := by
  simp only [State.touchExt, State.core_setCore_self, hctx]
  split <;> rfl

theorem State.touchExt_send (s : State) (c key n : Nat) (l : Landing) : (s.send l).touchExt c key n = (s.touchExt c key n).send l := by
  have hcore : (s.send l).core c = s.core c := rfl
  simp only [State.touchExt, hcore]
  split <;> rfl

theorem State.touchExt_cores (s : State) (c key n : Nat) : (s.touchExt c key n).cores = s.cores := by
  unfold State.touchExt
  split <;> rfl

/-- An address in the memory of a logical core of the slice leads to the core that carries it. -/
theorem State.resolve_logical {ga n : Nat} (hchip : ga / 2 ^ 52 = (s.core c).ctx.chip) (hlow : ga / 2 ^ 44 % 256 < 0x80)
    (hwidth : ga / 2 ^ 44 % 256 < (s.core c).ctx.width) (hfits : ga % 2 ^ 44 + n ≤ coreMemBytes) (writes : Bool) :
    s.resolve c ga n writes = if (s.core c).ctx.coreOf.getD (ga / 2 ^ 44 % 256) c = c then .own (ga % 2 ^ 44)
      else .core ((s.core c).ctx.coreOf.getD (ga / 2 ^ 44 % 256) c) (ga % 2 ^ 44) := by
  have hrange : ¬ ((s.core c).ctx.width ≤ ga / 2 ^ 44 % 256 ∨ coreMemBytes < ga % 2 ^ 44 + n) := by omega
  simp only [State.resolve, ne_eq, hchip, not_true_eq_false, if_false, if_pos hlow, if_neg hrange]

end

/-- What a PUT sends to an end: the core at which it lands, and how. -/
def EndPoint.putTo (c : Nat) (data : List Byte) : EndPoint → Option (Nat × LandKind)
  | .own a => some (c, .bytes a data)
  | .core q a => some (q, .bytes a data)
  | .ext key => some (c, .hbm key data)
  | .bad => none

/-- What a GET of core `c` reads from an end in core memory. -/
def State.getFrom (s : State) (c n : Nat) : EndPoint → Option (List Byte)
  | .own a => some ((s.core c).rdBytes c unitRemote a n)
  | .core q a => some ((List.range n).map (fun j => Mem.readByte (s.core q).mem (swapFront (s.core q).swaps (a + j))))
  | _ => none

/-! ### The beginning of a remote word -/

/-- The remote descriptor that a word of the port finds. -/
def Core.remoteAt (c : Nat) (k : Core) (w : RemoteWord) : RemoteDesc := remoteDescOf (k.rdBytes c unitRemote (addr64 w.rdBase) 32)

/-- The global address with which the word begins under the loop counters `lp`. -/
def Core.remoteGa (c : Nat) (k : Core) (w : RemoteWord) (lp : List Nat) : Nat := (k.remoteAt c w).ga k lp

/-- The local address with which it begins. -/
def Core.remoteLa (c : Nat) (k : Core) (w : RemoteWord) (lp : List Nat) : Nat := (k.remoteAt c w).la lp

/-- That descriptor passes its checks (08 R236), and its local range lies in core memory. -/
structure Core.remoteFits (c : Nat) (k : Core) (w : RemoteWord) (lp : List Nat) (qadd : Bool) : Prop where
  valid : (k.remoteAt c w).invalid (k.rdBytes c unitRemote (addr64 w.rdBase) 32) qadd k.ctx.params.length = false
  local_ : k.remoteLa c w lp + (k.remoteAt c w).bytes ≤ coreMemBytes

section
variable {s : State} {c : Nat} {k : Core} {d : Dispatched} {w : RemoteWord}

theorem State.beginPut_lands (hk : s.core c = k) (hf : k.remoteFits c w d.loops false) {x : Nat × LandKind}
    (hchip : k.remoteGa c w d.loops / 2 ^ 52 = k.ctx.chip)
    (hx : (s.resolve c (k.remoteGa c w d.loops) (k.remoteAt c w).bytes true).putTo c
      (k.rdBytes c unitRemote (k.remoteLa c w d.loops) (k.remoteAt c w).bytes) = some x) :
    ∃ o l, s.beginPut c d w = .go { s := s.send ⟨c, k.ctx.logical, x.1, x.2⟩, occ := o, last := l } := by
  subst hk
  obtain ⟨hvalid, hlocal⟩ := hf
  have hlocal := Nat.not_lt.mpr hlocal
  simp only [Core.remoteGa, Core.remoteLa, Core.remoteAt] at hvalid hlocal hchip hx
  simp only [State.beginPut, hvalid, hlocal, decide_false, Bool.or_self, Bool.false_eq_true, if_false, ne_eq, hchip, not_true_eq_false]
  generalize s.resolve c _ _ true = e at hx
  cases e with
  | bad => exact absurd hx nofun
  | own a => obtain rfl := Option.some.inj hx; exact ⟨_, _, rfl⟩
  | core q a => obtain rfl := Option.some.inj hx; exact ⟨_, _, rfl⟩
  | ext key => obtain rfl := Option.some.inj hx; exact ⟨_, _, rfl⟩

theorem State.beginPut_crosses (hk : s.core c = k) (hf : k.remoteFits c w d.loops false)
    (hchip : k.remoteGa c w d.loops / 2 ^ 52 ≠ k.ctx.chip)
    (hok : crossOk k.ctx (k.remoteGa c w d.loops) (k.remoteAt c w).bytes = true) :
    ∃ o l, s.beginPut c d w = .go
      { s := s.crossChip c ⟨k.remoteGa c w d.loops / 2 ^ 52, false, 0, k.remoteGa c w d.loops / 2 ^ 44 % 256,
          k.remoteGa c w d.loops % 2 ^ 44, (k.remoteAt c w).bytes, 0,
          k.rdBytes c unitRemote (k.remoteLa c w d.loops) (k.remoteAt c w).bytes⟩
        occ := o, last := l } := by
  subst hk
  obtain ⟨hvalid, hlocal⟩ := hf
  have hlocal := Nat.not_lt.mpr hlocal
  simp only [Core.remoteGa, Core.remoteLa, Core.remoteAt] at hvalid hlocal hchip hok ⊢
  simp only [State.beginPut, hvalid, hlocal, decide_false, Bool.or_self, Bool.false_eq_true, if_false, if_pos hchip, hok, if_true]
  exact ⟨_, _, rfl⟩

theorem State.beginGet_core (hk : s.core c = k) (hf : k.remoteFits c w d.loops false) {data : List Byte}
    (hfree : k.writeFree unitRemote [(k.remoteLa c w d.loops, (k.remoteAt c w).bytes)] = true)
    (hdata : s.getFrom c (k.remoteAt c w).bytes (s.resolve c (k.remoteGa c w d.loops) (k.remoteAt c w).bytes false) = some data) :
    ∃ o, s.beginGet c d w = .go
      { s := s.send ⟨c, k.ctx.logical, c, .got (k.remoteLa c w d.loops) data⟩, occ := o, last := o, blocked := some .getData } := by
  subst hk
  obtain ⟨hvalid, hlocal⟩ := hf
  have hlocal := Nat.not_lt.mpr hlocal
  simp only [Core.remoteGa, Core.remoteLa, Core.remoteAt] at hvalid hlocal hfree hdata ⊢
  simp only [State.beginGet, hvalid, hlocal, decide_false, Bool.or_self, Bool.false_eq_true, if_false, hfree, Bool.not_true]
  generalize s.resolve c _ _ false = e at hdata
  cases e with
  | bad => exact absurd hdata nofun
  | ext key => exact absurd hdata nofun
  | own a =>
    obtain rfl := Option.some.inj hdata
    exact ⟨_, rfl⟩
  | core q a =>
    obtain rfl := Option.some.inj hdata
    exact ⟨_, rfl⟩

/-- A core of no elastic slice counts no wait for HBM data. -/
theorem Core.hbmStall_elastic (k : Core) (i m n : Nat) (braked : Bool) :
    k.hbmStall c i (if k.ctx.elastic then m else n) braked = k.hbmStall c i (if k.ctx.elastic then m else 0) braked := by
  unfold Core.hbmStall
  split <;> rfl

theorem Core.hbmStall_counts (k : Core) (i n : Nat) (braked : Bool) :
    k.hbmStall c i n braked = { k with counts := (k.hbmStall c i n braked).counts } := by
  cases h : k.ctx.elastic <;> simp only [Core.hbmStall, Core.addStall, h, if_true, Bool.false_eq_true, if_false]

theorem State.beginGet_ext (hk : s.core c = k) (hf : k.remoteFits c w d.loops false) {key : Nat}
    (hfree : k.writeFree unitRemote [(k.remoteLa c w d.loops, (k.remoteAt c w).bytes)] = true)
    (hkey : s.resolve c (k.remoteGa c w d.loops) (k.remoteAt c w).bytes false = .ext key) :
    ∃ o, s.beginGet c d w = .go
      { s := ((s.send ⟨c, k.ctx.logical, c, .got (k.remoteLa c w d.loops) (s.readExts c key (k.remoteAt c w).bytes)⟩).touchExt c key
            (k.remoteAt c w).bytes).setCore c
          (k.hbmStall c 0 (if k.ctx.elastic then Config.freeNat (7000 + c) k.freeCtr 0 else 0) (s.flag tlsBrake))
        occ := o, last := o, blocked := some .getData } := by
  subst hk
  obtain ⟨hvalid, hlocal⟩ := hf
  have hlocal := Nat.not_lt.mpr hlocal
  have hcore : ∀ l n, ((s.send l).touchExt c key n).core c = s.core c := fun l n => by
    rw [State.core, State.touchExt_cores]; rfl
  simp only [Core.remoteGa, Core.remoteLa, Core.remoteAt] at hvalid hlocal hfree hkey ⊢
  simp only [State.beginGet, hvalid, hlocal, decide_false, Bool.or_self, Bool.false_eq_true, if_false, hfree, Bool.not_true, hkey, State.updCore, hcore,
    Core.hbmStall_elastic]
  exact ⟨_, rfl⟩

theorem State.beginQadd_sends (hk : s.core c = k) (hf : k.remoteFits c w d.loops true)
    (hchip : k.remoteGa c w d.loops / 2 ^ 52 = k.ctx.chip) (hwidth : k.remoteGa c w d.loops / 2 ^ 44 % 256 < k.ctx.width)
    (halign : k.remoteGa c w d.loops % 2 ^ 44 % 16 = 0)
    (hchuck : k.remoteGa c w d.loops % 2 ^ 44 + (k.remoteAt c w).bytes ≤ 16 * chuckUnits) :
    let qw := QW.ofCode (BitVec.ofNat 2 (k.remoteAt c w).qw)
    ∃ o l, s.beginQadd c d w = .go
      { s := s.send ⟨c, k.ctx.logical, k.ctx.coreOf.getD (k.remoteGa c w d.loops / 2 ^ 44 % 256) c,
          .images qw (k.remoteGa c w d.loops % 2 ^ 44 / 16) ((List.range ((k.remoteAt c w).bytes / (16 * qw.units))).map (fun i =>
            k.rdNat c unitRemote (k.remoteLa c w d.loops + i * 16 * qw.units) (16 * qw.units)))⟩
        occ := o, last := l } := by
  subst hk
  obtain ⟨hvalid, hlocal⟩ := hf
  have hlocal := Nat.not_lt.mpr hlocal
  simp only [Core.remoteGa, Core.remoteLa, Core.remoteAt] at hvalid hlocal hchip hwidth halign hchuck ⊢
  simp only [State.beginQadd, hvalid, hlocal, hchip, ne_eq, not_true_eq_false, decide_false, Nat.not_le.mpr hwidth, halign,
    Nat.not_lt.mpr hchuck, Bool.or_self, Bool.false_eq_true, if_false]
  exact ⟨_, _, rfl⟩

end

/-- The chip that a SIGNAL names, in its word or in a parameter word (08 R231). -/
def Core.signalChip (k : Core) (w : SignalWord) : Nat :=
  if w.tparam = 0 then w.chip.toNat else bitField (paramOf k w.tparam.toNat) 52 12

/-- The logical core that a SIGNAL names. -/
def Core.signalTarget (k : Core) (w : SignalWord) : Nat :=
  if w.tparam = 0 then w.tgt.toNat else bitField (paramOf k w.tparam.toNat) 44 8

/-- The target of a SIGNAL is a logical core of the slice (08 R236). -/
structure Core.signalFits (k : Core) (w : SignalWord) : Prop where
  param : w.tparam.toNat ≤ k.ctx.params.length
  chip : k.signalChip w < k.ctx.chips
  width : k.signalTarget w < k.ctx.width
  low : k.signalTarget w < 0x80

section
variable {s : State} {c : Nat} {k : Core} {w : SignalWord}

theorem Core.signalFits.passes (h : k.signalFits w) : ¬ (k.ctx.params.length < w.tparam.toNat ∨ k.ctx.chips ≤ k.signalChip w
    ∨ k.ctx.width ≤ k.signalTarget w ∨ 0x80 ≤ k.signalTarget w) := by
  obtain ⟨hparam, hchip, hwidth, hlow⟩ := h
  omega

theorem State.beginSignal_sends (hk : s.core c = k) (hf : k.signalFits w) (hchip : k.signalChip w = k.ctx.chip) :
    s.beginSignal c w = .go
      { s := s.send ⟨c, k.ctx.logical, k.ctx.coreOf.getD (k.signalTarget w) c, .signal (ctrOf k.ctx (k.signalTarget w) w.ctr.toNat) w.inc.toNat⟩
        occ := 1, last := 49 } := by
  subst hk
  exact (if_neg hf.passes).trans (if_neg (not_not.mpr hchip))

theorem State.beginSignal_crosses (hk : s.core c = k) (hf : k.signalFits w) (hchip : k.signalChip w ≠ k.ctx.chip) :
    s.beginSignal c w = .go
      { s := s.crossChip c ⟨k.signalChip w, true, 0, k.signalTarget w, w.ctr.toNat, w.inc.toNat, 0, []⟩, occ := 1, last := 1 } := by
  subst hk
  exact (if_neg hf.passes).trans (if_pos hchip)

end

/-! ### What a remote word comes to -/

section
variable {s : State} {c : Nat} {k : Core} {w : OpWord}

theorem Begins.found_ctx {u : UnitId} (h : Begins s c w) (hw : ownQueue w = some u) (hk : s.atBegin c w = k) :
    k.ctx = (s.core c).ctx :=
  hk ▸ State.atBegin_ctx h.quiet (unitsOf_own hw)

/-- A word of the port that sends one effect has begun with it on its way. -/
theorem Begins.port_sends {l : Landing} {o la : Nat} {r : Option Blocked} (h : Begins s c w) (hw : ownQueue w = some unitRemote)
    (hk : s.atBegin c w = k) (hgo : (s.setCore c k).beginOwn c (s.asDispatched c w)
      = .go { s := (s.setCore c k).send l, occ := o, last := la, blocked := r }) (hr : r ≠ some .fence) :
    tookRemote s c k [l] r (.next (s.issue c w)) :=
  h.port_begins hw hk hgo rfl ⟨_, rfl⟩ rfl (fun hb => absurd hb hr)

/-- A word of the port that goes to another chip is handed to the link die, and leaves its core quiet. -/
theorem Begins.port_crosses {x : OutWord} {o la : Nat} (h : Begins s c w) (hw : ownQueue w = some unitRemote)
    (hk : s.atBegin c w = k) (hgo : (s.setCore c k).beginOwn c (s.asDispatched c w)
      = .go { s := (s.setCore c k).crossChip c x, occ := o, last := la }) :
    ∃ k2, (Host.Outcome.next (s.issue c w) : Host.Outcome State Fault Refusal)
        = .next (((s.setCore c k).crossChip c x).setCore c k2) ∧ k2.effect k ∧ k2.outside (s.core c) ∧ k2.quiet := by
  have hcore : ((s.setCore c k).crossChip c x).core c = k := by
    rw [State.core, State.crossChip_cores]
    exact State.core_setCore_self s c k
  obtain ⟨k2, hissue, hbegun⟩ := h.issue_own hw hk hgo hcore rfl rfl nofun
  exact ⟨k2, congrArg _ hissue, hbegun.effect ⟨rfl, rfl, rfl, rfl, rfl, rfl, rfl, rfl, rfl, rfl, rfl, rfl, rfl⟩,
    hbegun.outside h.quiet hw hk ⟨⟨rfl, rfl, rfl, rfl, rfl, rfl, rfl, rfl⟩, rfl⟩, hbegun.quiet h.quiet hw hk rfl⟩

end

section
variable {s : State} {c : Nat} {k : Core} {w : RemoteWord}

theorem Begins.put_lands (h : Begins s c (.put w)) (hk : s.atBegin c (.put w) = k)
    (hf : k.remoteFits c w (s.core c).seq.counters false) {x : Nat × LandKind}
    (hchip : k.remoteGa c w (s.core c).seq.counters / 2 ^ 52 = k.ctx.chip)
    (hx : (s.resolve c (k.remoteGa c w (s.core c).seq.counters) (k.remoteAt c w).bytes true).putTo c
      (k.rdBytes c unitRemote (k.remoteLa c w (s.core c).seq.counters) (k.remoteAt c w).bytes) = some x) :
    tookRemote s c k [⟨c, k.ctx.logical, x.1, x.2⟩] none (.next (s.issue c (.put w))) := by
  obtain ⟨o, l, hgo⟩ := State.beginPut_lands (s := s.setCore c k) (d := s.asDispatched c (.put w)) (State.core_setCore_self s c k) hf hchip
    (by rw [State.resolve_setCore (h.found_ctx rfl hk)]; exact hx)
  exact h.port_sends rfl hk hgo nofun

theorem Begins.put_crosses (h : Begins s c (.put w)) (hk : s.atBegin c (.put w) = k)
    (hf : k.remoteFits c w (s.core c).seq.counters false)
    (hchip : k.remoteGa c w (s.core c).seq.counters / 2 ^ 52 ≠ k.ctx.chip)
    (hok : crossOk k.ctx (k.remoteGa c w (s.core c).seq.counters) (k.remoteAt c w).bytes = true) :
    ∃ k2, (Host.Outcome.next (s.issue c (.put w)) : Host.Outcome State Fault Refusal) = .next (((s.setCore c k).crossChip c
        ⟨k.remoteGa c w (s.core c).seq.counters / 2 ^ 52, false, 0, k.remoteGa c w (s.core c).seq.counters / 2 ^ 44 % 256,
          k.remoteGa c w (s.core c).seq.counters % 2 ^ 44, (k.remoteAt c w).bytes, 0,
          k.rdBytes c unitRemote (k.remoteLa c w (s.core c).seq.counters) (k.remoteAt c w).bytes⟩).setCore c k2)
      ∧ k2.effect k ∧ k2.outside (s.core c) ∧ k2.quiet := by
  obtain ⟨o, l, hgo⟩ := State.beginPut_crosses (s := s.setCore c k) (d := s.asDispatched c (.put w)) (State.core_setCore_self s c k) hf hchip
    hok
  exact h.port_crosses rfl hk hgo

theorem Begins.get_core (h : Begins s c (.get w)) (hk : s.atBegin c (.get w) = k)
    (hf : k.remoteFits c w (s.core c).seq.counters false) {data : List Byte}
    (hfree : k.writeFree unitRemote [(k.remoteLa c w (s.core c).seq.counters, (k.remoteAt c w).bytes)] = true)
    (hdata : (s.setCore c k).getFrom c (k.remoteAt c w).bytes
      (s.resolve c (k.remoteGa c w (s.core c).seq.counters) (k.remoteAt c w).bytes false) = some data) :
    tookRemote s c k [⟨c, k.ctx.logical, c, .got (k.remoteLa c w (s.core c).seq.counters) data⟩] (some .getData)
      (.next (s.issue c (.get w))) := by
  obtain ⟨o, hgo⟩ := State.beginGet_core (s := s.setCore c k) (d := s.asDispatched c (.get w)) (State.core_setCore_self s c k) hf hfree
    (by rw [State.resolve_setCore (h.found_ctx rfl hk)]; exact hdata)
  exact h.port_sends rfl hk hgo nofun

theorem Begins.get_ext (h : Begins s c (.get w)) (hk : s.atBegin c (.get w) = k)
    (hf : k.remoteFits c w (s.core c).seq.counters false) {key : Nat}
    (hfree : k.writeFree unitRemote [(k.remoteLa c w (s.core c).seq.counters, (k.remoteAt c w).bytes)] = true)
    (hkey : s.resolve c (k.remoteGa c w (s.core c).seq.counters) (k.remoteAt c w).bytes false = .ext key) :
    tookRemote (s.touchExt c key (k.remoteAt c w).bytes) c
      (k.hbmStall c 0 (if k.ctx.elastic then Config.freeNat (7000 + c) k.freeCtr 0 else 0) (s.flag tlsBrake))
      [⟨c, k.ctx.logical, c, .got (k.remoteLa c w (s.core c).seq.counters) (s.readExts c key (k.remoteAt c w).bytes)⟩] (some .getData)
      (.next (s.issue c (.get w))) := by
  have hctx := h.found_ctx rfl hk
  obtain ⟨o, hgo⟩ := State.beginGet_ext (s := s.setCore c k) (d := s.asDispatched c (.get w)) (State.core_setCore_self s c k) hf hfree
    (by rw [State.resolve_setCore hctx]; exact hkey)
  rw [State.readExts_setCore hctx, State.touchExt_send, State.touchExt_setCore hctx] at hgo
  exact h.port_begins rfl hk hgo (by simp only [State.send, State.setCore, SMap.set_set]; rfl) ⟨_, k.hbmStall_counts 0 _ _⟩
    (s.touchExt_cores c key _) nofun

theorem Begins.qadd_sends (h : Begins s c (.qadd w)) (hk : s.atBegin c (.qadd w) = k)
    (hf : k.remoteFits c w (s.core c).seq.counters true)
    (hchip : k.remoteGa c w (s.core c).seq.counters / 2 ^ 52 = k.ctx.chip)
    (hwidth : k.remoteGa c w (s.core c).seq.counters / 2 ^ 44 % 256 < k.ctx.width)
    (halign : k.remoteGa c w (s.core c).seq.counters % 2 ^ 44 % 16 = 0)
    (hchuck : k.remoteGa c w (s.core c).seq.counters % 2 ^ 44 + (k.remoteAt c w).bytes ≤ 16 * chuckUnits) :
    let qw := QW.ofCode (BitVec.ofNat 2 (k.remoteAt c w).qw)
    tookRemote s c k [⟨c, k.ctx.logical, k.ctx.coreOf.getD (k.remoteGa c w (s.core c).seq.counters / 2 ^ 44 % 256) c,
      .images qw (k.remoteGa c w (s.core c).seq.counters % 2 ^ 44 / 16)
        ((List.range ((k.remoteAt c w).bytes / (16 * qw.units))).map (fun i =>
          k.rdNat c unitRemote (k.remoteLa c w (s.core c).seq.counters + i * 16 * qw.units) (16 * qw.units)))⟩] none
      (.next (s.issue c (.qadd w))) := by
  obtain ⟨o, l, hgo⟩ := State.beginQadd_sends (s := s.setCore c k) (d := s.asDispatched c (.qadd w)) (State.core_setCore_self s c k) hf hchip
    hwidth halign hchuck
  exact h.port_sends rfl hk hgo nofun

end

section
variable {s : State} {c : Nat} {k : Core} {w : SignalWord}

theorem Begins.signal_sends (h : Begins s c (.signal w)) (hk : s.atBegin c (.signal w) = k) (hf : k.signalFits w)
    (hchip : k.signalChip w = k.ctx.chip) :
    tookRemote s c k [⟨c, k.ctx.logical, k.ctx.coreOf.getD (k.signalTarget w) c,
      .signal (ctrOf k.ctx (k.signalTarget w) w.ctr.toNat) w.inc.toNat⟩] none (.next (s.issue c (.signal w))) :=
  h.port_sends rfl hk (State.beginSignal_sends (State.core_setCore_self s c k) hf hchip) nofun

theorem Begins.signal_crosses (h : Begins s c (.signal w)) (hk : s.atBegin c (.signal w) = k) (hf : k.signalFits w)
    (hchip : k.signalChip w ≠ k.ctx.chip) :
    ∃ k2, (Host.Outcome.next (s.issue c (.signal w)) : Host.Outcome State Fault Refusal) = .next (((s.setCore c k).crossChip c
        ⟨k.signalChip w, true, 0, k.signalTarget w, w.ctr.toNat, w.inc.toNat, 0, []⟩).setCore c k2)
      ∧ k2.effect k ∧ k2.outside (s.core c) ∧ k2.quiet :=
  h.port_crosses rfl hk (State.beginSignal_crosses (State.core_setCore_self s c k) hf hchip)

/-- Fields of a SIGNAL, read as the statement gives them. -/
theorem Core.signalFits_of {chip tgt : Nat} (hparam : w.tparam.toNat ≤ k.ctx.params.length)
    (hword : w.tparam = 0 → chip = w.chip.toNat ∧ tgt = w.tgt.toNat)
    (hpar : w.tparam ≠ 0 → chip = bitField (paramOf k w.tparam.toNat) 52 12 ∧ tgt = bitField (paramOf k w.tparam.toNat) 44 8)
    (hchip : chip < k.ctx.chips) (hwidth : tgt < k.ctx.width) (hlow : tgt < 0x80) :
    chip = k.signalChip w ∧ tgt = k.signalTarget w ∧ k.signalFits w := by
  have hboth : chip = k.signalChip w ∧ tgt = k.signalTarget w := by
    unfold Core.signalChip Core.signalTarget
    split
    · next h => exact hword h
    · next h => exact hpar h
  obtain ⟨rfl, rfl⟩ := hboth
  exact ⟨rfl, rfl, hparam, hchip, hwidth, hlow⟩

end

/-! ### Words that stay within the slice -/

section
variable {s : State} {c ga n : Nat} {k : Core}

/-- A PUT to the memory of a logical core sends its bytes to the core that carries it. -/
theorem putTo_logical (hchip : ga / 2 ^ 52 = (s.core c).ctx.chip) (hlow : ga / 2 ^ 44 % 256 < 0x80)
    (hwidth : ga / 2 ^ 44 % 256 < (s.core c).ctx.width) (hfits : ga % 2 ^ 44 + n ≤ coreMemBytes) (data : List Byte) :
    (s.resolve c ga n true).putTo c data
      = some ((s.core c).ctx.coreOf.getD (ga / 2 ^ 44 % 256) c, .bytes (ga % 2 ^ 44) data) := by
  rw [State.resolve_logical hchip hlow hwidth hfits]
  split
  · next h => rw [h]; rfl
  · rfl

/-- A GET of core `c`, which begins as `k`, reads bytes of its own memory as its port sees them. -/
theorem State.getFrom_own {e : EndPoint} {a : Nat} (he : e = .own a) (s : State) (n : Nat) :
    (s.setCore c k).getFrom c n e = some (k.rdBytes c unitRemote a n) := by
  rw [he, State.getFrom, State.core_setCore_self]

/-- It reads bytes of another core through that core's own swap mapping. -/
theorem State.getFrom_other {e : EndPoint} {q a : Nat} (he : e = .core q a) (hq : q ≠ c) (s : State) (n : Nat) :
    (s.setCore c k).getFrom c n e
      = some ((List.range n).map (fun j => Mem.readByte (s.core q).mem (swapFront (s.core q).swaps (a + j)))) := by
  rw [he, State.getFrom, State.core_setCore_ne hq]

theorem State.getFrom_logical (hchip : ga / 2 ^ 52 = (s.core c).ctx.chip) (hlow : ga / 2 ^ 44 % 256 < 0x80)
    (hwidth : ga / 2 ^ 44 % 256 < (s.core c).ctx.width) (hfits : ga % 2 ^ 44 + n ≤ coreMemBytes) :
    let phys := (s.core c).ctx.coreOf.getD (ga / 2 ^ 44 % 256) c
    (s.setCore c k).getFrom c n (s.resolve c ga n false) = some (if phys = c then k.rdBytes c unitRemote (ga % 2 ^ 44) n
      else (List.range n).map (fun i => Mem.readByte (s.core phys).mem (swapFront (s.core phys).swaps (ga % 2 ^ 44 + i)))) := by
  intro phys
  have hr : s.resolve c ga n false = if phys = c then .own (ga % 2 ^ 44) else .core phys (ga % 2 ^ 44) :=
    State.resolve_logical hchip hlow hwidth hfits false
  by_cases h : phys = c
  · rw [if_pos h] at hr ⊢
    exact State.getFrom_own hr s n
  · rw [if_neg h] at hr ⊢
    exact State.getFrom_other hr h s n

end

/-- What a word of the port has become, where its frame is not asked for. -/
theorem tookRemote.issued {s t : State} {c : Nat} {k : Core} {ls : List Landing} {b : Option Blocked} (h : tookRemote s c k ls b (.next t)) :
    ∃ k2, t = { (s.setCore c k2) with mesh := s.mesh ++ ls } ∧ (k2.unit unitRemote).blocked = b := by
  obtain ⟨k2, ht, -, -, -, hunits⟩ := h
  exact ⟨k2, Host.Outcome.next.inj ht, (hunits unitRemote).2.trans (if_pos rfl)⟩

/-! ### Words on a core that is ready for them -/

section
variable {s : State} {c : Nat} {k : Core}

theorem Ready.get_completes {w : RemoteWord} (h : Ready s c (.get w)) (hk : s.atBegin c (.get w) = k)
    (hvalid : (k.remoteAt c w).invalid (k.rdBytes c unitRemote (addr64 w.rdBase) 32) false (s.core c).ctx.params.length = false)
    (hlocal : k.remoteLa c w (s.core c).seq.counters + (k.remoteAt c w).bytes ≤ coreMemBytes) {ga : Nat}
    (hga : k.remoteGa c w (s.core c).seq.counters = ga) (hchip : ga / 2 ^ 52 = (s.core c).ctx.chip) (hlow : ga / 2 ^ 44 % 256 < 0x80)
    (hwidth : ga / 2 ^ 44 % 256 < (s.core c).ctx.width) (hfits : ga % 2 ^ 44 + (k.remoteAt c w).bytes ≤ coreMemBytes) {phys : Nat}
    (hphys : (s.core c).ctx.coreOf.getD (ga / 2 ^ 44 % 256) c = phys) :
    ∃ k2, s.issue c (.get w) = { (s.setCore c k2) with mesh := s.mesh ++ [⟨c, (s.core c).ctx.logical, c,
        .got (k.remoteLa c w (s.core c).seq.counters) (if phys = c then k.rdBytes c unitRemote (ga % 2 ^ 44) (k.remoteAt c w).bytes
          else (List.range (k.remoteAt c w).bytes).map (fun i =>
            Mem.readByte (s.core phys).mem (swapFront (s.core phys).swaps (ga % 2 ^ 44 + i))))⟩] }
      ∧ (k2.unit unitRemote).blocked = some .getData := by
  have hctx := h.begins.found_ctx rfl hk
  subst hga hphys
  rw [← hctx] at hvalid
  have htook := h.begins.get_core hk ⟨hvalid, hlocal⟩ (Core.writeFree_plain (by rw [hctx]; exact h.edges) _ _)
    (State.getFrom_logical hchip hlow hwidth hfits)
  rw [hctx] at htook
  exact htook.issued

theorem Ready.put_completes {w : RemoteWord} (h : Ready s c (.put w)) (hk : s.atBegin c (.put w) = k)
    (hvalid : (k.remoteAt c w).invalid (k.rdBytes c unitRemote (addr64 w.rdBase) 32) false (s.core c).ctx.params.length = false)
    (hlocal : k.remoteLa c w (s.core c).seq.counters + (k.remoteAt c w).bytes ≤ coreMemBytes) {ga : Nat}
    (hga : k.remoteGa c w (s.core c).seq.counters = ga) (hchip : ga / 2 ^ 52 = (s.core c).ctx.chip) (hlow : ga / 2 ^ 44 % 256 < 0x80)
    (hwidth : ga / 2 ^ 44 % 256 < (s.core c).ctx.width) (hfits : ga % 2 ^ 44 + (k.remoteAt c w).bytes ≤ coreMemBytes) :
    ∃ k2, s.issue c (.put w) = { (s.setCore c k2) with mesh := s.mesh ++ [⟨c, (s.core c).ctx.logical,
        (s.core c).ctx.coreOf.getD (ga / 2 ^ 44 % 256) c,
        .bytes (ga % 2 ^ 44) (k.rdBytes c unitRemote (k.remoteLa c w (s.core c).seq.counters) (k.remoteAt c w).bytes)⟩] } := by
  have hctx := h.begins.found_ctx rfl hk
  subst hga
  rw [← hctx] at hvalid
  have htook := h.begins.put_lands hk ⟨hvalid, hlocal⟩ (by rw [hctx]; exact hchip) (putTo_logical hchip hlow hwidth hfits _)
  rw [hctx] at htook
  obtain ⟨k2, hissue, -⟩ := htook.issued
  exact ⟨k2, hissue⟩

theorem Ready.qadd_completes {w : RemoteWord} (h : Ready s c (.qadd w)) (hk : s.atBegin c (.qadd w) = k)
    (hvalid : (k.remoteAt c w).invalid (k.rdBytes c unitRemote (addr64 w.rdBase) 32) true (s.core c).ctx.params.length = false)
    (hlocal : k.remoteLa c w (s.core c).seq.counters + (k.remoteAt c w).bytes ≤ coreMemBytes) {ga : Nat}
    (hga : k.remoteGa c w (s.core c).seq.counters = ga) (hchip : ga / 2 ^ 52 = (s.core c).ctx.chip)
    (hwidth : ga / 2 ^ 44 % 256 < (s.core c).ctx.width) (halign : ga % 2 ^ 44 % 16 = 0)
    (hchuck : ga % 2 ^ 44 + (k.remoteAt c w).bytes ≤ 16 * chuckUnits) :
    let qw := QW.ofCode (BitVec.ofNat 2 (k.remoteAt c w).qw)
    ∃ k2, s.issue c (.qadd w) = { (s.setCore c k2) with mesh := s.mesh ++ [⟨c, (s.core c).ctx.logical,
        (s.core c).ctx.coreOf.getD (ga / 2 ^ 44 % 256) c, .images qw (ga % 2 ^ 44 / 16)
          ((List.range ((k.remoteAt c w).bytes / (16 * qw.units))).map (fun i =>
            k.rdNat c unitRemote (k.remoteLa c w (s.core c).seq.counters + i * 16 * qw.units) (16 * qw.units)))⟩] } := by
  intro qw
  have hctx := h.begins.found_ctx rfl hk
  subst hga
  rw [← hctx] at hvalid hchip hwidth
  have htook := h.begins.qadd_sends hk ⟨hvalid, hlocal⟩ hchip hwidth halign hchuck
  rw [hctx] at htook
  obtain ⟨k2, hissue, -⟩ := htook.issued
  exact ⟨k2, hissue⟩

theorem wordOk_signal {w : SignalWord} (hw : wordOk (.signal w) = true) : w.tgt.toNat < 0x80 := by
  simp only [wordOk, opWordOk, Bool.and_eq_true, decide_eq_true_eq] at hw
  omega

theorem Ready.signal_completes {w : SignalWord} (h : Ready s c (.signal w)) (hparam : w.tparam = 0)
    (hchip : w.chip.toNat = (s.core c).ctx.chip) (hchips : (s.core c).ctx.chip < (s.core c).ctx.chips)
    (hwidth : w.tgt.toNat < (s.core c).ctx.width) :
    ∃ k2, s.issue c (.signal w) = { (s.setCore c k2) with mesh := s.mesh ++ [⟨c, (s.core c).ctx.logical,
      (s.core c).ctx.coreOf.getD w.tgt.toNat c, .signal (ctrOf (s.core c).ctx w.tgt.toNat w.ctr.toNat) w.inc.toNat⟩] } := by
  generalize hk : s.atBegin c (.signal w) = k
  have hctx := h.begins.found_ctx rfl hk
  obtain ⟨hc, ht, hf⟩ := Core.signalFits_of (k := k) (w := w) (by simp [hparam]) (fun _ => ⟨rfl, rfl⟩) (fun hp => absurd hparam hp)
    (by rw [hctx, hchip]; exact hchips) (by rw [hctx]; exact hwidth) (wordOk_signal h.ok)
  have htook := h.begins.signal_sends hk hf (by rw [← hc, hctx, hchip])
  rw [← ht, hctx] at htook
  obtain ⟨k2, hissue, -⟩ := htook.issued
  exact ⟨k2, hissue⟩

end

/-- Settles O9: each word sends what its beginning sends; where a core is ready, its target is a logical core of the slice. -/
theorem remoteWordsSend : Obligations.RemoteWordsSend := by
  intro s c
  have hput : ∀ w, Begins s c.val (.put w) → exec (.put c w) s = .next (s.issue c.val (.put w)) := fun _ h => if_pos h.ok
  have hget : ∀ w, Begins s c.val (.get w) → exec (.get c w) s = .next (s.issue c.val (.get w)) := fun _ h => if_pos h.ok
  have hqadd : ∀ w, Begins s c.val (.qadd w) → exec (.qadd c w) s = .next (s.issue c.val (.qadd w)) := fun _ h => if_pos h.ok
  have hsignal : ∀ w, Begins s c.val (.signal w) → exec (.signal c w) s = .next (s.issue c.val (.signal w)) := fun _ h => if_pos h.ok
  refine ⟨?_, ?_, ?_, ?_, ?_, ?_, ?_, ?_⟩
  · intro w k b r la ga data h hvalid hlocal
    have hf : k.remoteFits c.val w (s.core c.val).seq.counters false := ⟨hvalid, hlocal⟩
    rw [hput w h]
    refine ⟨fun l hchip hl => ?_, fun hchip hok => h.put_crosses rfl hf hchip hok⟩
    rcases hl with ⟨a, hr, rfl⟩ | ⟨q, a, hr, rfl⟩ | ⟨key, hr, rfl⟩
    all_goals exact h.put_lands rfl hf hchip (congrArg (EndPoint.putTo c.val data) hr)
  · intro w data k b r la ga h hvalid hlocal hfree
    have hf : k.remoteFits c.val w (s.core c.val).seq.counters false := ⟨hvalid, hlocal⟩
    rw [hget w h]
    refine ⟨fun hfrom => h.get_core rfl hf hfree ?_, fun key hkey hdata => ?_⟩
    · rcases hfrom with ⟨a, hr, hdata⟩ | ⟨q, a, hr, hq, hdata⟩
      · exact (State.getFrom_own hr s _).trans (congrArg some hdata.symm)
      · exact (State.getFrom_other hr hq s _).trans (congrArg some hdata.symm)
    · rw [hdata]
      exact h.get_ext rfl hf hfree hkey
  · intro w k b r la ga qw h hvalid hlocal hchip hwidth halign hchuck
    rw [hqadd w h]
    exact h.qadd_sends rfl ⟨hvalid, hlocal⟩ hchip hwidth halign hchuck
  · intro w chip tgt k h hparam hword hpar hchips hwidth hlow
    obtain ⟨rfl, rfl, hf⟩ := Core.signalFits_of hparam hword hpar hchips hwidth hlow
    rw [hsignal w h]
    exact ⟨fun hchip => h.signal_sends rfl hf hchip, fun hchip => h.signal_crosses rfl hf hchip⟩
  · intro w data k b r la ga j phys h hvalid hlocal hchip hlow hwidth hfits hdata
    obtain ⟨k2, hissue, hblocked⟩ := h.get_completes rfl hvalid hlocal rfl hchip hlow hwidth hfits rfl
    exact ⟨k2, by rw [hget w h.begins, hissue, hdata]; rfl, hblocked⟩
  · intro w k b r la ga j h hvalid hlocal hchip hlow hwidth hfits
    obtain ⟨k2, hissue⟩ := h.put_completes rfl hvalid hlocal rfl hchip hlow hwidth hfits
    exact ⟨k2, by rw [hput w h.begins, hissue]; rfl⟩
  · intro w k b r la ga j qw h hvalid hlocal hchip hwidth halign hchuck
    obtain ⟨k2, hissue⟩ := h.qadd_completes rfl hvalid hlocal rfl hchip hwidth halign hchuck
    exact ⟨k2, by rw [hqadd w h.begins, hissue]; rfl⟩
  · intro w h hparam hchip hchips hwidth
    obtain ⟨k2, hissue⟩ := h.signal_completes hparam hchip hchips hwidth
    exact ⟨k2, by rw [hsignal w h.begins, hissue]⟩

end Sys2Proof.Machine
end

section
/-! SUPPORT. Stream words (08 R214, R216, R219, R226): each changes its own engine, and of the rest of the core at most credit edges and the
count of replaced bases. -/

namespace Sys2Proof.Machine

/-! ### Engines of a core -/

theorem Core.engine_setEngine (k : Core) (e : Nat) (g : Engine) (i : Nat) :
    (k.setEngine e g).engine i = if i = e then g else k.engine i := SMap.get_set _ k.engines e g i

/-- Core `q` is core `k` with engine `e` as `g`, its credit edges apart. -/
structure Core.onEngine (q k : Core) (e : Nat) (g : Engine) : Prop where
  rest : ∃ m x, q = { k with engines := m, edges := x }
  engine : ∀ i, q.engine i = if i = e then g else k.engine i

section
variable {k q : Core} {e : Nat} {g g' : Engine}

theorem Core.onEngine_setEngine (k : Core) (e : Nat) (g : Engine) : (k.setEngine e g).onEngine k e g :=
  ⟨⟨_, k.edges, rfl⟩, k.engine_setEngine e g⟩

theorem Core.onEngine.edges (h : q.onEngine k e g) (x : SMap EdgeState) : ({ q with edges := x } : Core).onEngine k e g := by
  obtain ⟨m, y, hrest⟩ := h.rest
  exact ⟨⟨m, x, by rw [hrest]⟩, h.engine⟩

/-- A later write of the engine is the one that counts. -/
theorem Core.onEngine.setEngine (h : q.onEngine k e g') (g : Engine) : (q.setEngine e g).onEngine k e g := by
  obtain ⟨m, y, hrest⟩ := h.rest
  refine ⟨⟨_, y, by rw [Core.setEngine, hrest]⟩, fun i => ?_⟩
  rw [Core.engine_setEngine, h.engine]
  split <;> rfl

theorem Core.bindEdge_edges (c : Nat) (k : Core) (e ga ruse : Nat) : ∃ x, k.bindEdge c e ga ruse = { k with edges := x } := by
  unfold Core.bindEdge
  split
  · exact ⟨k.edges, rfl⟩
  · exact ⟨_, rfl⟩

theorem Core.loadDesc_onEngine (c : Nat) (k : Core) (e : Nat) (d : StreamDesc) :
    (k.loadDesc c e d).onEngine k e { desc := some d, armed := d.persist } := by
  obtain ⟨x, hx⟩ := Core.bindEdge_edges c (k.setEngine e { desc := some d, armed := d.persist }) d.inEdge d.src 0
  obtain ⟨y, hy⟩ := Core.bindEdge_edges c ({ k.setEngine e { desc := some d, armed := d.persist } with edges := x }) d.outEdge d.dst d.ruse
  have h := ((k.onEngine_setEngine e { desc := some d, armed := d.persist }).edges x).edges y
  rw [← hy, ← hx] at h
  exact h

/-- A pass that is cut leaves its engine without one (08 R219, R221). -/
theorem Core.onEngine.cutPass (h : q.onEngine k e g) (p : Pass) : (q.cutPass e p).onEngine k e { g with pass := none } := by
  have hend : ∀ y : SMap EdgeState, (({ q with edges := y } : Core).endPass e).onEngine k e { g with pass := none } := fun y => by
    have hy := (h.edges y).setEngine { g with pass := none }
    rw [Core.endPass, show ({ q with edges := y } : Core).engine e = g from (h.engine e).trans (if_pos rfl)]
    exact hy
  unfold Core.cutPass
  dsimp only
  split
  · exact hend q.edges
  · split
    · exact hend q.edges
    · exact hend _

end

/-! ### The beginning of a stream word -/

section
variable {s : State} {c : Nat} {k : Core} {lp : List Nat} {t : Nat}

theorem State.beginStream_def {w : StreamDefWord} (hk : s.core c = k) (hpass : (k.engine w.unit.toNat).pass = none)
    (hvalid : k.streamInvalid w.unit.toNat (k.rdBytes c (unitStream w.unit.toNat) (addr64 w.sdBase) 128) = false) :
    let d := streamDescOf (k.rdBytes c (unitStream w.unit.toNat) (addr64 w.sdBase) 128)
    s.beginStream c ⟨.streamDef w, lp, t⟩ = .go { s := s.setCore c (k.loadDesc c w.unit.toNat d), occ := 4, last := 3 } := by
  simp only [State.beginStream, hk, hpass, hvalid, Option.isSome_none, Bool.false_eq_true, if_false]

theorem State.beginStream_start {w : StreamWord} {d : StreamDesc} (hk : s.core c = k) (hpass : (k.engine w.unit.toNat).pass = none)
    (hdesc : (k.engine w.unit.toNat).desc = some d) :
    s.beginStream c ⟨.streamStart w, lp, t⟩ = .go
      { s := s.setCore c (k.setEngine w.unit.toNat { k.engine w.unit.toNat with pass := some { desc := d, loops := lp, swaps := k.swaps, done := 0 } })
        occ := 1, last := 0, keeps := true } := by
  simp only [State.beginStream, hk, hpass, hdesc, Option.isSome_none, Option.isNone_some, Bool.false_eq_true, if_false, Core.startPass]

/-- A core whose engine holds new bases for the turn head: `replaced` says that it held others. -/
def Core.countReplaced (k : Core) (replaced : Bool) : Core :=
  { k with counts := { k.counts with rearmReplaced := k.counts.rearmReplaced + if replaced then 1 else 0 } }

theorem State.beginStream_rearm {w : RearmWord} (hk : s.core c = k) (harmed : (k.engine w.unit.toNat).armed = true) :
    let b := k.rdBytes c (unitStream w.unit.toNat) (addr64 w.raBase) 16
    let g := k.engine w.unit.toNat
    s.beginStream c ⟨.streamRearm w, lp, t⟩ = .go
      { s := s.setCore c ((k.countReplaced g.pending.isSome).setEngine w.unit.toNat { g with pending := some (fieldAt b 0 8, fieldAt b 8 8) })
        occ := 2, last := 1 } := by
  simp only [State.beginStream, hk, harmed, if_true]
  cases (k.engine w.unit.toNat).pending <;> simp [Core.countReplaced]

/-- An engine that STREAM_STOP disarms: one that an earlier slice armed loses its descriptor (08 R219). -/
def Engine.disarmed (g : Engine) : Engine := { g with armed := false, desc := if g.carried then none else g.desc }

/-- What STREAM_STOP leaves of an engine: its pass ends, at once or after the requests in flight. -/
def Engine.stopped (g : Engine) : Engine :=
  { g.disarmed with pass := if g.inFlight = 0 then none else g.pass.map (fun p => { p with limit := some g.inFlight }) }

theorem State.beginStream_stop (w : StreamWord) (hk : s.core c = k) :
    ∃ q, s.beginStream c ⟨.streamStop w, lp, t⟩ = .go { s := s.setCore c q, occ := 1, last := 0 }
      ∧ q.onEngine k w.unit.toNat (k.engine w.unit.toNat).stopped := by
  generalize hg : k.engine w.unit.toNat = g
  have hoff := k.onEngine_setEngine w.unit.toNat g.disarmed
  have hself : (k.setEngine w.unit.toNat g.disarmed).engine w.unit.toNat = g.disarmed := (hoff.engine _).trans (if_pos rfl)
  obtain ⟨desc, carried, armed, pass, pending, inFlight⟩ := g
  cases pass with
  | none =>
    refine ⟨_, by simp only [State.beginStream, hk, hg]; rfl, ?_⟩
    simpa [Engine.stopped, Engine.disarmed] using hoff
  | some p =>
    by_cases hn : inFlight = 0
    · refine ⟨_, by simp only [State.beginStream, hk, hg, if_pos hn]; rfl, ?_⟩
      simpa [Engine.stopped, Engine.disarmed, hn] using hoff.cutPass p
    · refine ⟨_, by simp only [State.beginStream, hk, hg, if_neg hn]; rfl, ?_⟩
      simp only [Engine.disarmed] at hself
      simpa [Engine.stopped, Engine.disarmed, hn, hself] using hoff.setEngine _

end

/-! ### What a stream word comes to -/

section
variable {s : State} {c e : Nat} {w : OpWord} {k k1 q : Core} {g : Engine} {b : Begun}

/-- A stream word whose beginning changes its engine, and at most counts besides, takes effect so. -/
theorem Begins.stream_begins (h : Begins s c w) (hw : ownQueue w = some (unitStream e)) (hk : s.atBegin c w = k)
    (hgo : (s.setCore c k).beginOwn c (s.asDispatched c w) = .go b) (hs : b.s = (s.setCore c k).setCore c q) (hb : b.blocked = none)
    (hq : q.onEngine k1 e g) (hk1 : ∃ n, k1 = { k with counts := n }) : tookStream s c e k1 g (.next (s.issue c w)) := by
  obtain ⟨n, rfl⟩ := hk1
  obtain ⟨m, x, hrest⟩ := hq.rest
  have hcore : b.s.core c = q := by rw [hs]; exact State.core_setCore_self _ c q
  obtain ⟨k2, hissue, hbegun⟩ := h.issue_own hw hk hgo hcore (by rw [hrest]) (by rw [hrest]) (by rw [hb]; exact nofun)
  rw [hs, State.setCore_setCore, State.setCore_setCore] at hissue
  rw [hb] at hbegun
  have hengine : ∀ i, k2.engine i = q.engine i := by
    obtain ⟨_, _, rfl⟩ := hbegun.rest
    exact fun _ => rfl
  have hfound : ∀ i, k.engine i = (s.core c).engine i := by
    obtain ⟨_, _, _, _, _, hfound⟩ := State.atBegin_eq h.quiet (unitsOf_own hw)
    rw [← hk, hfound]
    exact fun _ => rfl
  refine ⟨k2, congrArg _ hissue, hbegun.effect ?_, hbegun.beyond h.quiet hw hk ?_, hbegun.quiet h.quiet hw hk (by rw [hrest]), ?_,
    fun i hi => ?_⟩
  · rw [hrest]; exact ⟨rfl, rfl, rfl, rfl, rfl, rfl, rfl, rfl, rfl, rfl, rfl, rfl, rfl⟩
  · rw [hrest]; exact ⟨rfl, rfl, rfl, rfl, rfl, rfl, rfl, rfl⟩
  · rw [hengine, hq.engine, if_pos rfl]
  · rw [hengine, hq.engine, if_neg hi]
    exact hfound i

/-- A stream word finds the engines of a quiet core as they were. -/
theorem Begins.found_engine (h : Begins s c w) {u : UnitId} (hw : ownQueue w = some u) (hk : s.atBegin c w = k) (i : Nat) :
    k.engine i = (s.core c).engine i := by
  obtain ⟨_, _, _, _, _, hfound⟩ := State.atBegin_eq h.quiet (unitsOf_own hw)
  rw [← hk, hfound]
  rfl

end

section
variable {s : State} {c : Nat} {k : Core}

theorem Begins.streamDef_loads {w : StreamDefWord} (h : Begins s c (.streamDef w)) (hk : s.atBegin c (.streamDef w) = k)
    (hpass : ((s.core c).engine w.unit.toNat).pass = none)
    (hvalid : k.streamInvalid w.unit.toNat (k.rdBytes c (unitStream w.unit.toNat) (addr64 w.sdBase) 128) = false) :
    let d := streamDescOf (k.rdBytes c (unitStream w.unit.toNat) (addr64 w.sdBase) 128)
    tookStream s c w.unit.toNat k { desc := some d, armed := d.persist } (.next (s.issue c (.streamDef w))) := by
  rw [← h.found_engine rfl hk] at hpass
  have hgo := State.beginStream_def (lp := (s.asDispatched c (.streamDef w)).loops) (t := (s.asDispatched c (.streamDef w)).cycle)
    (State.core_setCore_self s c k) hpass hvalid
  exact h.stream_begins rfl hk hgo rfl rfl (k.loadDesc_onEngine c _ _) ⟨_, rfl⟩

theorem Begins.streamStart_starts {w : StreamWord} {d : StreamDesc} (h : Begins s c (.streamStart w))
    (hk : s.atBegin c (.streamStart w) = k) (hpass : ((s.core c).engine w.unit.toNat).pass = none)
    (hdesc : ((s.core c).engine w.unit.toNat).desc = some d) :
    tookStream s c w.unit.toNat k { (s.core c).engine w.unit.toNat with
      pass := some { desc := d, loops := (s.core c).seq.counters, swaps := k.swaps, done := 0 } } (.next (s.issue c (.streamStart w))) := by
  rw [← h.found_engine rfl hk] at hpass hdesc ⊢
  exact h.stream_begins rfl hk (State.beginStream_start (State.core_setCore_self s c k) hpass hdesc) rfl rfl (k.onEngine_setEngine _ _)
    ⟨_, rfl⟩

theorem Begins.streamRearm_holds {w : RearmWord} (h : Begins s c (.streamRearm w)) (hk : s.atBegin c (.streamRearm w) = k)
    (harmed : ((s.core c).engine w.unit.toNat).armed = true) :
    let b := k.rdBytes c (unitStream w.unit.toNat) (addr64 w.raBase) 16
    let g := (s.core c).engine w.unit.toNat
    tookStream s c w.unit.toNat (k.countReplaced g.pending.isSome) { g with pending := some (fieldAt b 0 8, fieldAt b 8 8) }
      (.next (s.issue c (.streamRearm w))) := by
  rw [← h.found_engine rfl hk] at harmed ⊢
  have hgo := State.beginStream_rearm (lp := (s.asDispatched c (.streamRearm w)).loops) (t := (s.asDispatched c (.streamRearm w)).cycle)
    (State.core_setCore_self s c k) harmed
  exact h.stream_begins rfl hk hgo rfl rfl (Core.onEngine_setEngine _ _ _) ⟨_, rfl⟩

end

/-! ### STREAM_STOP: the requests in flight that the command names -/

section
variable {s : State} {c e : Nat} {w : StreamWord} {g : Engine}

/-- Whether an engine runs a pass is all that a queue's room depends on of it. -/
theorem Core.roomFrom_setEngine {k : Core} (hg : g.pass.isSome = (k.engine e).pass.isSome) (u : UnitId) (t : Nat) :
    (k.setEngine e g).roomFrom u t = k.roomFrom u t := by
  have hpass : (k.setEngine e g).passOpen u = k.passOpen u := by
    simp only [Core.passOpen, Core.engine_setEngine]
    split
    · next h => rw [h, hg]
    · rfl
  simp only [Core.roomFrom, hpass]
  rfl

/-- So a STREAM_STOP dispatches as if the engine were as before. -/
theorem State.dispatch_stop {k : Core} (hg : g.pass.isSome = (k.engine e).pass.isSome) :
    (s.setCore c (k.setEngine e g)).dispatch c (.streamStop w)
      = ((s.setCore c k).dispatch c (.streamStop w)).map (fun t => t.updCore c (fun q => q.setEngine e g)) := by
  have hroom : ∀ t, (s.setCore c (k.setEngine e g)).dispatchAt c t (.streamStop w) = (s.setCore c k).dispatchAt c t (.streamStop w) := by
    intro t
    show ((s.setCore c (k.setEngine e g)).core c).roomFrom (unitStream w.unit.toNat) t
      = ((s.setCore c k).core c).roomFrom (unitStream w.unit.toNat) t
    rw [State.core_setCore_self, State.core_setCore_self, Core.roomFrom_setEngine hg]
  have hseq : (k.setEngine e g).seq = k.seq := rfl
  have hcycle : (s.setCore c (k.setEngine e g)).dispatchCycle c (.streamStop w) = (s.setCore c k).dispatchCycle c (.streamStop w) := by
    simp only [State.dispatchCycle, isLoopWord, State.core_setCore_self, hroom, hseq]
  simp only [State.dispatch, isLoopWord, hcycle, Bool.false_eq_true, if_false]
  cases (s.setCore c k).dispatchCycle c (.streamStop w) with
  | none => rfl
  | some t =>
    simp only [State.core_setCore_self, State.setCore_setCore, Option.map_some, State.runSeq, State.updCore_setCore]
    rfl

theorem State.atDispatch_eq (s : State) (c : Nat) (w : OpWord) : s.atDispatch c w
    = ((s.setCore c ((s.core c).holding [w])).dispatch c w).elim (s.core c) (fun t => (t.core c).holding []) := by
  unfold State.atDispatch Core.holding
  split <;> next h => rw [h]; rfl

theorem State.atDispatch_stop (hg : g.pass.isSome = ((s.core c).engine e).pass.isSome) :
    (s.setCore c ((s.core c).setEngine e g)).atDispatch c (.streamStop w) = (s.atDispatch c (.streamStop w)).setEngine e g := by
  have hd := State.dispatch_stop (s := s) (c := c) (w := w) (k := (s.core c).holding [.streamStop w]) hg
  have hheld : ((s.core c).setEngine e g).holding [.streamStop w] = ((s.core c).holding [.streamStop w]).setEngine e g := rfl
  rw [State.atDispatch_eq, State.atDispatch_eq, State.core_setCore_self, State.setCore_setCore, hheld, hd]
  cases (s.setCore c ((s.core c).holding [.streamStop w])).dispatch c (.streamStop w) with
  | none => rfl
  | some t =>
    simp only [Option.map_some, Option.elim_some, State.updCore, State.core_setCore_self]
    rfl

/-- A core that a STREAM_STOP can begin on is one once the requests in flight are named. -/
theorem Begins.naming (h : Begins s c (.streamStop w)) (hg : g.pass.isSome = ((s.core c).engine e).pass.isSome) :
    Begins (s.setCore c ((s.core c).setEngine e g)) c (.streamStop w) where
  quiet := by
    rw [State.core_setCore_self]
    exact ⟨⟨h.quiet.waiting, h.quiet.blocked, h.quiet.stall⟩, h.quiet.held, h.quiet.ending⟩
  ok := h.ok
  reads := fun _ _ => rfl
  prompt := by
    rw [State.core_setCore_self, State.atDispatch_stop hg]
    exact h.prompt

theorem tookStream.engine {k : Core} {t : State} (h : tookStream s c e k g (.next t)) :
    ∃ k2, t = s.setCore c k2 ∧ k2.engine e = g := by
  obtain ⟨k2, ht, -, -, -, hengine, -⟩ := h
  exact ⟨k2, Host.Outcome.next.inj ht, hengine⟩

theorem Begins.streamStop_stops (h : Begins s c (.streamStop w)) (n : Nat) :
    let g := (s.core c).engine w.unit.toNat
    tookStream s c w.unit.toNat (s.atBegin c (.streamStop w)) ({ g with inFlight := n } : Engine).stopped
      (.next ((s.setCore c ((s.core c).setEngine w.unit.toNat { g with inFlight := n })).issue c (.streamStop w))) := by
  intro g
  generalize hk0 : (s.core c).setEngine w.unit.toNat { g with inFlight := n } = k0
  have hengine : ∀ i, k0.engine i = if i = w.unit.toNat then { g with inFlight := n } else (s.core c).engine i := fun i => by
    rw [← hk0, Core.engine_setEngine]
  have h0 : Begins (s.setCore c k0) c (.streamStop w) := hk0 ▸ h.naming rfl
  generalize hk : (s.setCore c k0).atBegin c (.streamStop w) = k
  obtain ⟨q, hgo, hq⟩ := State.beginStream_stop (lp := ((s.setCore c k0).asDispatched c (.streamStop w)).loops)
    (t := ((s.setCore c k0).asDispatched c (.streamStop w)).cycle) w (State.core_setCore_self (s.setCore c k0) c k)
  obtain ⟨k2, hissue, heffect, hbeyond, hquiet, hself, hother⟩ := h0.stream_begins rfl hk hgo rfl rfl hq ⟨_, rfl⟩
  rw [State.core_setCore_self] at hbeyond hother
  rw [h0.found_engine rfl hk, State.core_setCore_self, hengine, if_pos rfl] at hself
  refine ⟨k2, hissue.trans (by rw [State.setCore_setCore]), ?_, ?_, hquiet, hself, fun i hi => ?_⟩
  · obtain ⟨_, _, _, _, _, hbefore⟩ := State.atBegin_eq h.quiet (w := .streamStop w) rfl
    obtain ⟨_, _, _, _, _, hafter⟩ := State.atBegin_eq h0.quiet (w := .streamStop w) rfl
    rw [hk, State.core_setCore_self, ← hk0] at hafter
    rw [hbefore]
    rw [hafter] at heffect
    exact ⟨heffect.mem, heffect.chuck, heffect.slots, heffect.requant, heffect.arrA, heffect.arrB, heffect.accSetA, heffect.accSetB,
      heffect.cal, heffect.flights, heffect.summary, heffect.counts, heffect.freeCtr⟩
  · rw [← hk0] at hbeyond
    exact ⟨hbeyond.swaps, hbeyond.counters, hbeyond.ctx, hbeyond.body, hbeyond.xchip, hbeyond.loops, hbeyond.marks, hbeyond.ended⟩
  · rw [hother i hi, hengine, if_neg hi]

end

theorem State.wordCmd_next {s : State} {c : Nat} {w : OpWord} (h : wordOk w = true) (name : String) :
    s.wordCmd c w name = .next (s.issue c w) := if_pos h

/-- Settles O8: each word of a stream engine's queue changes what its beginning changes. -/
theorem streamWords : Obligations.StreamWords := by
  intro s c
  have hdef : ∀ w, Begins s c.val (.streamDef w) → exec (.streamDef c w) s = .next (s.issue c.val (.streamDef w)) :=
    fun _ h => State.wordCmd_next h.ok "STREAM_DEF"
  have hstart : ∀ w, Begins s c.val (.streamStart w) → exec (.streamStart c w) s = .next (s.issue c.val (.streamStart w)) :=
    fun _ h => State.wordCmd_next h.ok "STREAM_START"
  have hrearm : ∀ w, Begins s c.val (.streamRearm w) → exec (.streamRearm c w) s = .next (s.issue c.val (.streamRearm w)) :=
    fun _ h => State.wordCmd_next h.ok "STREAM_REARM"
  have hstop : ∀ w n, Begins s c.val (.streamStop w) → tookStream s c.val w.unit.toNat (s.atBegin c.val (.streamStop w))
      ({ (s.core c.val).engine w.unit.toNat with inFlight := n } : Engine).stopped (exec (.streamStop c w n) s) := fun w n h => by
    have hexec : exec (.streamStop c w n) s = .next ((s.setCore c.val ((s.core c.val).setEngine w.unit.toNat
        { (s.core c.val).engine w.unit.toNat with inFlight := n })).issue c.val (.streamStop w)) := State.wordCmd_next h.ok "STREAM_STOP"
    rw [hexec]
    exact h.streamStop_stops n
  refine ⟨fun w h hpass hvalid => ?_, fun w d h hpass hdesc => ?_, fun w h harmed => ?_, fun w n h => hstop w n h,
    fun w h hpass hvalid => ?_, fun w d h hpass hdesc => ?_, fun w h harmed => ?_, fun w n h => ?_⟩
  · rw [hdef w h]
    exact h.streamDef_loads rfl hpass hvalid
  · rw [hstart w h]
    exact h.streamStart_starts rfl hpass hdesc
  · rw [hrearm w h]
    exact h.streamRearm_holds rfl harmed
  · obtain ⟨k2, hissue, hengine⟩ := (h.begins.streamDef_loads rfl hpass hvalid).engine
    exact ⟨k2, by rw [hdef w h.begins, hissue], hengine⟩
  · obtain ⟨k2, hissue, hengine⟩ := (h.begins.streamStart_starts rfl hpass hdesc).engine
    exact ⟨k2, by rw [hstart w h.begins, hissue], by rw [hengine]⟩
  · obtain ⟨k2, hissue, hengine⟩ := (h.begins.streamRearm_holds rfl harmed).engine
    exact ⟨k2, by rw [hrearm w h.begins, hissue], by rw [hengine]⟩
  · obtain ⟨k2, hexec, -, -, -, hengine, -⟩ := hstop w n h.begins
    exact ⟨k2, hexec, by rw [hengine]; rfl⟩

end Sys2Proof.Machine
end

section
/-! SUPPORT. Remote effects land (08 R225, R231 to R234): each kind of effect changes one core, or HBM, and the core that it came from, when it
has nothing to go on with, stays as it is. -/

namespace Sys2Proof.Machine

/-! ### Quiet cores -/

theorem Core.quiet.congr {k q : Core} (h : k.quiet) (hseq : q.seq = k.seq) (hunits : q.units = k.units) : q.quiet := by
  have hunit : ∀ u, q.unit u = k.unit u := fun u => by rw [Core.unit, hunits]; rfl
  exact ⟨⟨fun u => hunit u ▸ h.waiting u, fun u => hunit u ▸ h.blocked u, fun u => hunit u ▸ h.stall u⟩,
    hseq ▸ h.held, hseq ▸ h.ending⟩

/-- A core stays quiet where a core is set whose sequencer and units are as they were. -/
theorem State.quiet_setCore {s : State} {c d : Nat} {k : Core} (h : (s.core c).quiet) (hseq : k.seq = (s.core d).seq)
    (hunits : k.units = (s.core d).units) : ((s.setCore d k).core c).quiet := by
  by_cases hc : c = d
  · subst hc
    rw [State.core_setCore_self]
    exact h.congr hseq hunits
  · rw [State.core_setCore_ne hc]
    exact h

/-- Updating cores by a function that keeps a property of a core keeps it of every core. -/
theorem State.foldl_updCore_keeps {P : Core → Prop} {f : Core → Core} (hf : ∀ k, P k → P (f k)) (d : Nat) :
    ∀ (l : List Nat) (s : State), P (s.core d) → P ((l.foldl (fun t c => t.updCore c f) s).core d)
  | [], _, h => h
  | c :: l, s, h => by
    refine State.foldl_updCore_keeps hf d l _ ?_
    unfold State.updCore
    rw [State.core_setCore]
    split
    · next hd => exact hf _ (hd ▸ h)
    · exact h

theorem Core.stop_quiet (k : Core) (aborted : Bool) : (k.stop aborted).quiet :=
  ⟨⟨fun _ => rfl, fun _ => rfl, fun _ => rfl⟩, rfl, rfl⟩

/-- An abort leaves a quiet core quiet. -/
theorem State.abortSlice_quiet {s : State} {c : Nat} (h : (s.core c).quiet) (i cause : Nat) (st : Option Nat) :
    ((s.abortSlice i cause st).core c).quiet := by
  unfold State.abortSlice
  split
  · exact h
  · next p _ =>
    split
    · have hstop : ∀ k : Core, k.quiet → (if k.ctx.work = some i then k.stop true else k).quiet := fun k hk => by
        split
        · exact k.stop_quiet true
        · exact hk
      have hcores := State.foldl_updCore_keeps hstop c p.cores s h
      simpa only [State.core, State.event_cores, State.updWork_cores, State.updPlaced_cores] using hcores
    · exact h

/-! ### A word's own fault (02 R48) -/

theorem WordFault.cause_sev (f : WordFault) : f.cause.sev ≠ 0 := by cases f <;> decide

/-- A word's own fault is recorded about its core. -/
theorem State.wordFault_tells (s : State) (c : Nat) (f : WordFault) : (s.wordFault c f).tells s.turn.number f.cause c := by
  have htold := State.log_tells s f.cause (s.sliceRec c) f.cause_sev
  rw [State.sliceRec_inst] at htold
  unfold State.wordFault State.coreFatal
  dsimp only
  split
  · exact htold
  · next i _ => exact (State.tells_congr (State.abortSlice_frame _ i 1 _).1 _ _ _).mpr htold

theorem State.wordFault_quiet {s : State} {c : Nat} (h : (s.core c).quiet) (d : Nat) (f : WordFault) : ((s.wordFault d f).core c).quiet := by
  have hlog : ((s.log f.cause (s.sliceRec d)).core c).quiet := by rw [State.core, (State.sameBody_log s _ _).cores]; exact h
  unfold State.wordFault State.coreFatal
  dsimp only
  split
  · exact hlog
  · exact State.abortSlice_quiet hlog _ _ _

/-! ### Bytes that land -/

theorem swapFront_nil (a : Nat) : swapFront [] a = a := rfl

theorem swapBack_nil (a : Nat) : swapBack [] a = a := rfl

/-- Bytes that land in a core whose buffers keep their order are written from their address on. -/
theorem Core.land_only (back : Bool) : ∀ (data : List Byte) (k : Core) (a : Nat), k.swaps = [] →
    ∃ x, k.land back a data = { k with mem := Mem.writeBytes k.mem a data, wrote := x }
  | [], k, _, _ => ⟨k.wrote, rfl⟩
  | b :: data, k, a, hk => by
    have haddr : (if back then swapBack k.swaps a else swapFront k.swaps a) = a := by
      rw [hk, swapBack_nil, swapFront_nil, ite_self]
    obtain ⟨x, hx⟩ := Core.land_only back data { k with mem := Mem.writeByte k.mem a b, wrote := addRange k.wrote a 1 } (a + 1) hk
    refine ⟨x, ?_⟩
    rw [Core.land]
    simp only [haddr]
    exact hx

/-- What is read after bytes have been written from address `a` on. -/
theorem Mem.reads_written (m : Mem) (a : Nat) (data : List Byte) :
    (∀ j, j < data.length → Mem.readByte (m.writeBytes a data) (a + j) = data.getD j 0)
    ∧ ∀ b, b < a ∨ a + data.length ≤ b → Mem.readByte (m.writeBytes a data) b = Mem.readByte m b := by
  refine ⟨fun j hj => ?_, fun b hb => ?_⟩
  · rw [Mem.readByte_writeBytes, if_pos (Nat.le_add_right a j), Nat.add_sub_cancel_left, List.getD_eq_getElem?_getD,
      List.getElem?_eq_getElem hj]
    rfl
  · rw [Mem.readByte_writeBytes]
    split
    · rw [List.getElem?_eq_none (by omega)]
      rfl
    · rfl

/-! ### One effect lands -/

section
variable {s : State} {c : Nat} {l : Landing} {rest : List Landing}

theorem State.writeExt_cores (s : State) (c key : Nat) (bs : List Byte) : (s.writeExt c key bs).cores = s.cores := by
  unfold State.writeExt
  split
  · exact State.sliceWrite_cores s _ _ _
  · rfl

/-- A core whose unit `u` waits no more. -/
def Core.unblocked (k : Core) (u : UnitId) : Core := k.updUnit u (fun x => { x with blocked := none })

theorem Core.unblocked_released (q : Core) (u : UnitId) : (q.unblocked u).released q [u] where
  rest := ⟨_, q.counts, rfl⟩
  waiting v := by
    rw [Core.unblocked, Core.unit_updUnit]
    split
    · next hv => rw [hv]
    · rfl
  blocked v := by
    rw [Core.unblocked, Core.unit_updUnit]
    simp only [List.mem_singleton]
    split <;> rfl

/-- The data of a core's own GET have landed: the credit edges apart, their bytes are written and the port waits no more. -/
theorem State.applyLanding_got {a : Nat} {data : List Byte} (hl : l.kind = .got a data) (hswaps : (s.core l.dst).swaps = []) :
    ∃ x y, s.applyLanding l = s.setCore l.dst
      (({ (s.core l.dst) with mem := Mem.writeBytes (s.core l.dst).mem a data, wrote := x, edges := y } : Core).unblocked unitRemote) := by
  obtain ⟨x, hx⟩ := Core.land_only false data (s.core l.dst) a hswaps
  obtain ⟨y, hy⟩ := Core.produceBy_edges ((s.core l.dst).land false a data) unitRemote [(a, data.length)]
  rw [hx] at hy
  refine ⟨x, y, ?_⟩
  simp only [State.applyLanding, hl, State.updCore, hx, hy]
  rfl

theorem State.addCounter_fits {ctr inc : Nat} (h : (s.core c).counter ctr + inc < 2 ^ 32) :
    s.addCounter c ctr inc = s.setCore c ((s.core c).setCounter ctr ((s.core c).counter ctr + inc)) := if_neg (Nat.not_le.mpr h)

theorem State.addCounter_over {ctr inc : Nat} (h : 2 ^ 32 ≤ (s.core c).counter ctr + inc) :
    s.addCounter c ctr inc = s.wordFault c .ctrOvf := if_pos h

end

section
variable {s : State} {c : Fin 144} {l : Landing} {rest : List Landing}

theorem exec_remoteLanding (hpop : popLanding c.val s.mesh = some (l, rest)) :
    exec (.remoteLanding [c]) s = .next ((({ s with mesh := rest } : State).applyLanding l).pump c.val 0) := by
  show Host.Outcome.next ((s.landOne c.val).pump c.val 0) = _
  simp only [State.landOne, hpop]

/-- An effect that leaves its core quiet is all that happens. -/
theorem exec_remoteLanding_quiet {t : State} (hpop : popLanding c.val s.mesh = some (l, rest))
    (ht : ({ s with mesh := rest } : State).applyLanding l = t) (hquiet : (t.core c.val).quiet) :
    exec (.remoteLanding [c]) s = .next t := by
  rw [exec_remoteLanding hpop, ht, State.pump_quiet hquiet]

end

/-- Settles O14: each kind of effect lands as its rule says. -/
theorem remoteEffectsLand : Obligations.RemoteEffectsLand := by
  intro s c l rest hpop
  refine ⟨fun a data hl hq hswaps => ?_, fun ctr inc hl hq hfits => ?_, fun ctr inc hl hq hover => ?_, fun qw u imgs hl hq hdst => ?_,
    fun key data hl hq => ?_, fun a data hl hdst hswaps hheld hending hwaiting hblocked => ?_⟩
  · obtain ⟨x, hland⟩ := Core.land_only (decide (l.src ≠ l.dst)) data (s.core l.dst) a hswaps
    obtain ⟨hin, hout⟩ := Mem.reads_written (s.core l.dst).mem a data
    refine ⟨{ (s.core l.dst) with mem := Mem.writeBytes (s.core l.dst).mem a data, wrote := x },
      exec_remoteLanding_quiet hpop ?_ (State.quiet_setCore hq rfl rfl), hin, hout, rfl⟩
    rw [← hland]
    simp only [State.applyLanding, hl]
    rfl
  · obtain ⟨x, y, hcounter⟩ := (s.core l.dst).setCounter_only ctr ((s.core l.dst).counter ctr + inc)
    refine exec_remoteLanding_quiet hpop ?_ (State.quiet_setCore hq (by rw [hcounter]; rfl) (by rw [hcounter]; rfl))
    simp only [State.applyLanding, hl]
    exact State.addCounter_fits hfits
  · refine ⟨({ s with mesh := rest } : State).wordFault l.dst .ctrOvf, exec_remoteLanding_quiet hpop ?_
      (State.wordFault_quiet (s := { s with mesh := rest }) hq l.dst .ctrOvf), State.wordFault_tells _ l.dst .ctrOvf⟩
    simp only [State.applyLanding, hl]
    exact State.addCounter_over hover
  · refine exec_remoteLanding_quiet hpop ?_ ?_
    · simp only [State.applyLanding, hl]
      rfl
    · rw [State.core_setCore_ne (Ne.symm hdst)]
      exact hq
  · refine exec_remoteLanding_quiet hpop ?_ ?_
    · simp only [State.applyLanding, hl]
    · rw [State.core, State.writeExt_cores]
      exact hq
  · have hwaits : Core.waitsOnly (s.core c.val) [unitRemote] :=
      ⟨hheld, hending, hwaiting, fun u hu => hblocked u (by simpa using hu)⟩
    obtain ⟨x, y, hgot⟩ := State.applyLanding_got (s := { s with mesh := rest }) hl (hdst ▸ hswaps)
    rw [hdst] at hgot
    have hfree := Core.unblocked_released
      { (s.core c.val) with mem := Mem.writeBytes (s.core c.val).mem a data, wrote := x, edges := y } unitRemote
    obtain ⟨hin, hout⟩ := Mem.reads_written (s.core c.val).mem a data
    refine ⟨_, ?_, hin, hout, hfree.unblocked (hwaits.congr rfl rfl), rfl⟩
    rw [exec_remoteLanding hpop, hgot]
    exact congrArg _ (hfree.pump (hwaits.congr rfl rfl) _ _ _)

end Sys2Proof.Machine
end

section
/-! SUPPORT. A request of a pass retires (08 R216 to R218): what its engine's unit notes of it. -/

namespace Sys2Proof.Machine

/-- An engine's unit that has moved a request in cycle `t`; `fin` says that the pass is over. -/
def UnitState.retired (x : UnitState) (fin : Bool) (t : Nat) : UnitState :=
  { x with
    stall := 0
    freeAt := if fin then max x.freeAt t else x.freeAt
    idleAt := if fin then max x.idleAt t else x.idleAt }

/-- An engine's unit whose request a chunk holds back from cycle `t` on, for reason `q`. -/
def UnitState.heldBack (x : UnitState) (q t : Nat) : UnitState := if x.stall = 0 then { x with stall := q + 1, freeAt := t } else x

section
variable {s s1 : State} {c e t q : Nat} {p : Pass} {fin : Bool}

theorem Core.retired_quiet {k : Core} (h : k.quiet) (u : UnitId) (fin : Bool) (t : Nat) (x : CoreCounts) :
    (({ k with counts := x } : Core).updUnit u (fun y => y.retired fin t)).quiet := by
  have hunit := ({ k with counts := x } : Core).unit_updUnit u (fun y => y.retired fin t)
  refine ⟨⟨fun v => ?_, fun v => ?_, fun v => ?_⟩, h.held, h.ending⟩ <;> rw [hunit]
  · split
    · exact h.waiting u
    · exact h.waiting v
  · split
    · exact h.blocked u
    · exact h.blocked v
  · split
    · rfl
    · exact h.stall v

theorem State.streamRetire_idle (hpass : ((s.core c).engine e).pass = none) : s.streamRetire c e t = s := by
  simp only [State.streamRetire, hpass]

/-- A request that moves on a quiet core changes, beyond what it moves, counts of stalls and its engine's unit. -/
theorem State.streamRetire_moved (hpass : ((s.core c).engine e).pass = some p) (hr : s.retireRequest c e p = .moved s1 fin)
    (hquiet : (s1.core c).quiet) : ∃ x, s.streamRetire c e t
      = s1.setCore c (({ (s1.core c) with counts := x } : Core).updUnit (unitStream e) (fun y => y.retired fin t)) := by
  have hstall := hquiet.stall (unitStream e)
  generalize hout : (if decide (0x80 ≤ p.desc.src / 2 ^ 44 % 256) || decide (0x80 ≤ p.desc.dst / 2 ^ 44 % 256)
    then Config.freeNat (7000 + c) (s.core c).freeCtr (3 * (p.done + 1)) else 0) = n
  refine ⟨((s1.core c).hbmStall c (p.done + 1) n (s.flag tlsBrake)).counts, ?_⟩
  rw [← Core.hbmStall_counts]
  have hmoved : s.streamRetire c e t = (s1.setCore c (((s1.core c).hbmStall c (p.done + 1) n (s.flag tlsBrake)).updUnit (unitStream e)
      (fun y => y.retired fin t))).pump c t := by
    simp only [State.streamRetire, hpass, hr, hout, hstall, if_true, State.updCore, State.core_setCore_self, State.setCore_setCore]
    rfl
  rw [hmoved, State.pump_quiet]
  rw [State.core_setCore_self, Core.hbmStall_counts]
  exact Core.retired_quiet hquiet _ _ _ _

theorem State.streamRetire_stalled (hpass : ((s.core c).engine e).pass = some p) (hr : s.retireRequest c e p = .stalled q) :
    s.streamRetire c e t = s.setCore c ((s.core c).updUnit (unitStream e) (fun x => x.heldBack q t)) := by
  simp only [State.streamRetire, hpass, hr]
  rfl

theorem State.streamRetire_invalid (hpass : ((s.core c).engine e).pass = some p) (hr : s.retireRequest c e p = .invalid) :
    s.streamRetire c e t = (s.setCore c ((s.core c).endPass e)).wordFault c .streamDesc := by
  simp only [State.streamRetire, hpass, hr]

end

/-- Settles O16: the request moves, is held back or ends the slice's work. -/
theorem streamRequestsRetire : Obligations.StreamRequestsRetire := by
  intro s c e cycle
  have hexec : exec (.streamRetire c e cycle) s = .next (s.streamRetire c.val e.val cycle) := rfl
  refine ⟨fun hpass => ?_, fun p hpass => ⟨fun s1 fin hr hquiet => ?_, fun q hr => ?_, fun hr => ?_⟩⟩
  · rw [hexec, State.streamRetire_idle hpass]
  · obtain ⟨x, hmoved⟩ := State.streamRetire_moved (t := cycle) hpass hr hquiet
    exact ⟨_, hexec.trans (congrArg _ hmoved), rfl, rfl, rfl, rfl, ⟨⟨rfl, rfl, rfl, rfl, rfl, rfl, rfl, rfl⟩, rfl⟩,
      Core.retired_quiet hquiet _ _ _ _⟩
  · exact ⟨_, hexec.trans (congrArg _ (State.streamRetire_stalled hpass hr)), rfl⟩
  · exact ⟨_, hexec.trans (congrArg _ (State.streamRetire_invalid hpass hr)), State.wordFault_tells _ c.val .streamDesc⟩

end Sys2Proof.Machine
end

section
/-! SUPPORT. A request over a core's own memory (08 R216 to R218, R221): its source bytes are read before its destination bytes are written,
and what follows the writes leaves memory alone. -/

namespace Sys2Proof.Machine

/-! ### A run of writes -/

/-- Memory after the writes of bytes `val j` at `addr j`, for the `j` of a list in turn. -/
def Mem.writeEach (addr : Nat → Nat) (val : Nat → Byte) (m : Mem) (l : List Nat) : Mem :=
  l.foldl (fun m j => Mem.writeByte m (addr j) (val j)) m

/-- A byte reads as `v` where every write of it writes `v`, and where it is written or was `v` before. -/
theorem Mem.readByte_writeEach {addr : Nat → Nat} {val : Nat → Byte} {a : Nat} {v : Byte} : ∀ (l : List Nat) (m : Mem),
    (∀ j ∈ l, addr j = a → val j = v) → ((∃ j ∈ l, addr j = a) ∨ Mem.readByte m a = v) →
    Mem.readByte (Mem.writeEach addr val m l) a = v
  | [], m, _, h => h.resolve_left (by simp)
  | i :: l, m, hval, h => by
    refine Mem.readByte_writeEach l _ (fun j hj => hval j (List.mem_cons_of_mem i hj)) ?_
    rw [Mem.readByte_writeByte]
    by_cases hi : addr i = a
    · rw [if_pos hi.symm]
      exact .inr (hval i (List.mem_cons_self) hi)
    · rw [if_neg (Ne.symm hi)]
      refine h.imp_left fun ⟨j, hj, hja⟩ => ?_
      obtain rfl | hjl := List.mem_cons.mp hj
      · exact absurd hja hi
      · exact ⟨j, hjl, hja⟩

/-! ### A pass over a core's own memory -/

theorem Core.memHazard_nil {k : Core} (h : k.flights = []) (u : UnitId) (a : Nat) : k.memHazard u a = false := by
  rw [Core.memHazard, h]
  rfl

section
variable {s : State} {c e : Nat} {p : Pass}

/-- A pass that began under no swap reaches the bytes that its addresses name. -/
theorem Pass.map_plain (hback : p.desc.back = false) (hswaps : p.swaps = []) (a : Nat) : p.map a = a := by
  rw [Pass.map, hback, hswaps]
  rfl

theorem State.streamRead_own {ga a : Nat} (hmap : p.map a = a) (hf : (s.core c).flights = []) (hr : s.resolve c ga 1 false = .own a) :
    s.streamRead c e p ga = some (Mem.readByte (s.core c).mem a) := by
  simp only [State.streamRead, hr, Core.passRead, hmap, Core.memHazard_nil hf, Bool.false_eq_true, if_false]

theorem State.streamReads_own {addr own : Nat → Nat} (hmap : ∀ a, p.map a = a) (hf : (s.core c).flights = []) : ∀ l : List Nat,
    (∀ j ∈ l, s.resolve c (addr j) 1 false = .own (own j)) →
    s.streamReads c e p (l.map addr) = some (l.map (fun j => Mem.readByte (s.core c).mem (own j)))
  | [], _ => rfl
  | j :: l, h => by
    rw [List.map_cons, State.streamReads, State.streamRead_own (hmap _) hf (h j List.mem_cons_self),
      State.streamReads_own hmap hf l fun i hi => h i (List.mem_cons_of_mem j hi)]
    rfl

/-- A source in the core's own memory reaches no stack. -/
theorem State.touchSource_own {l : List Nat} (h : ∀ ga ∈ l, ∃ a, s.resolve c ga 1 false = .own a) : s.touchSource c l = s := by
  refine List.foldlRecOn (motive := fun t => t = s) _ _ rfl fun t ht ga hga => ?_
  have hmem : ga ∈ l := by
    rcases List.mem_append.mp hga with hga | hga
    · exact List.mem_of_mem_head? (Option.mem_toList.mp hga)
    · exact List.mem_of_getLast? (Option.mem_toList.mp hga)
  obtain ⟨a, ha⟩ := h ga hmem
  simp only [ht, ha]

/-- What writes to the memory of core `c` leave of a state. -/
structure State.wroteOwn (t s : State) (c : Nat) (m : Mem) : Prop where
  mem : (t.core c).mem = m
  cores : ∀ d, d ≠ c → t.core d = s.core d
  hbm : t.hbm = s.hbm

theorem State.streamWrite_own {ga a : Nat} {b : Byte} (hmap : p.map a = a) (hf : (s.core c).flights = [])
    (hr : s.resolve c ga 1 true = .own a) : s.streamWrite c e p ga b = some (s.setCore c
      { (s.core c) with mem := Mem.writeByte (s.core c).mem a b, wrote := addRange (s.core c).wrote a 1 }) := by
  simp only [State.streamWrite, hr, hmap, State.updCore, Core.memHazard_nil hf, Bool.false_eq_true, if_false]

theorem State.streamWrites_own {addr own : Nat → Nat} {val : Nat → Byte} (hmap : ∀ a, p.map a = a) : ∀ (l : List Nat) (s : State),
    (s.core c).flights = [] → (∀ j ∈ l, s.resolve c (addr j) 1 true = .own (own j)) →
    ∃ t, s.streamWrites c e p (l.map (fun j => (addr j, val j))) = some t
      ∧ t.wroteOwn s c (Mem.writeEach own val (s.core c).mem l)
  | [], s, _, _ => ⟨s, rfl, rfl, fun _ _ => rfl, rfl⟩
  | j :: l, s, hf, h => by
    have hwrite := State.streamWrite_own (e := e) (b := val j) (hmap _) hf (h j List.mem_cons_self)
    generalize hk : ({ (s.core c) with mem := Mem.writeByte (s.core c).mem (own j) (val j), wrote := addRange (s.core c).wrote (own j) 1 } : Core)
      = k at hwrite
    have hmem : k.mem = Mem.writeByte (s.core c).mem (own j) (val j) := by rw [← hk]
    have hflights : k.flights = [] := by rw [← hk]; exact hf
    have hctx : k.ctx = (s.core c).ctx := by rw [← hk]
    obtain ⟨t, ht, hown⟩ := State.streamWrites_own (addr := addr) (own := own) (val := val) hmap l (s.setCore c k)
      (by rw [State.core_setCore_self]; exact hflights)
      (fun i hi => by rw [State.resolve_setCore hctx]; exact h i (List.mem_cons_of_mem j hi))
    rw [State.core_setCore_self, hmem] at hown
    refine ⟨t, ?_, hown.mem, fun d hd => (hown.cores d hd).trans (State.core_setCore_ne hd s k), hown.hbm⟩
    simp only [List.map_cons, State.streamWrites, hwrite, ht]

end

/-! ### The end of a request -/

theorem Core.onEngine_self (k : Core) (e : Nat) : k.onEngine k e (k.engine e) :=
  ⟨⟨k.engines, k.edges, rfl⟩, fun i => by split <;> simp_all⟩

theorem Core.passChunkChanges_edges (k : Core) (p : Pass) (n : Nat) (last : Bool) : ∃ x, k.passChunkChanges p n last = { k with edges := x } := by
  unfold Core.passChunkChanges
  extract_lets d change
  have hchange : ∀ q e f fills, ∃ x, change q e f fills = { q with edges := x } := fun q e f fills => by
    simp only [change]
    split
    · exact ⟨q.edges, rfl⟩
    · exact Core.foldl_edges _ (fun _ _ => ⟨_, rfl⟩) _ _
  obtain ⟨x, hx⟩ := hchange k d.outEdge (Fmt.ofCode d.dfmt) true
  obtain ⟨y, hy⟩ := hchange { k with edges := x } d.inEdge (Fmt.ofCode d.sfmt) false
  exact ⟨y, by rw [hx, hy]⟩

theorem Core.onEngine.mem {q k : Core} {e : Nat} {g : Engine} (h : q.onEngine k e g) : q.mem = k.mem := by
  obtain ⟨m, x, rfl⟩ := h.rest
  rfl

/-- A request between ends of one format writes the bytes that it read; what follows the writes leaves the memory of its core alone. -/
theorem State.retireRequest_moved {s s1 : State} {c e n : Nat} {p : Pass} {fin : Bool} {bytes : List Byte}
    (h : s.retireRequest c e p = .moved s1 fin) (hfmt : p.desc.sfmt = p.desc.dfmt)
    (hn : n = streamBytes (Fmt.ofCode p.desc.sfmt) (p.desc.request p.done))
    (hread : s.streamReads c e p ((List.range n).map (fun j => p.srcByte (s.core c) p.done j)) = some bytes)
    (htouch : s.touchSource c ((List.range n).map (fun j => p.srcByte (s.core c) p.done j)) = s) :
    ∃ t q, s.streamWrites c e p (((List.range n).map (fun j => p.dstByte (s.core c) p.done j)).zip bytes) = some t
      ∧ s1 = t.setCore c q ∧ q.mem = (t.core c).mem := by
  subst hn
  have hconvert : ∀ n, convertBytes (s.core c).ctx.strict p.desc n bytes = (bytes, {}) := fun n => if_pos (by rw [hfmt])
  unfold State.retireRequest at h
  dsimp only at h
  split at h
  · exact nomatch h
  · rw [hread] at h
    simp only [hconvert, htouch, ← hfmt] at h
    split at h
    · exact nomatch h
    · next t ht =>
      obtain ⟨hs1, -⟩ := Retire.moved.inj h
      refine ⟨t, _, ht, hs1.symm, ?_⟩
      dsimp only
      generalize hq : (t.core c).orSummary {} = q
      have hmem : (t.core c).mem = q.mem := by rw [← hq]; rfl
      obtain ⟨x, hx⟩ := q.passChunkChanges_edges p (p.desc.request p.done) (decide (p.desc.total ≤ p.done + p.desc.request p.done))
      have hsame := (q.onEngine_self e).edges x
      rw [hx, hmem]
      split
      · exact (hsame.setEngine _).mem
      · split
        · exact (hsame.cutPass _).mem
        · exact (hsame.setEngine _).mem

/-- Settles O17: the source bytes are read first, and each is written once, at its own address. -/
theorem streamRequestsCopy : Obligations.StreamRequestsCopy := by
  intro s c e p s1 fin k n h hfmt hout hin hback hswaps hflights hown hinj
  have hmap := p.map_plain hback hswaps
  have hsrc : ∀ j ∈ List.range n, s.resolve c (p.srcByte k p.done j) 1 false = .own (p.srcByte k p.done j % 2 ^ 44) :=
    fun j hj => (hown j (List.mem_range.mp hj)).1
  have hdst : ∀ j ∈ List.range n, s.resolve c (p.dstByte k p.done j) 1 true = .own (p.dstByte k p.done j % 2 ^ 44) :=
    fun j hj => (hown j (List.mem_range.mp hj)).2
  have hread := State.streamReads_own (e := e) hmap hflights (List.range n) hsrc
  have htouch : s.touchSource c ((List.range n).map (fun j => p.srcByte k p.done j)) = s := State.touchSource_own fun ga hga => by
    obtain ⟨j, hj, rfl⟩ := List.mem_map.mp hga
    exact ⟨_, hsrc j hj⟩
  obtain ⟨t, q, hwrites, rfl, hmem⟩ := State.retireRequest_moved h hfmt rfl hread htouch
  obtain ⟨t', ht', hwrote⟩ := State.streamWrites_own (e := e) (val := fun j => Mem.readByte k.mem (p.srcByte k p.done j % 2 ^ 44)) hmap
    (List.range n) s hflights hdst
  rw [List.zip_map'] at hwrites
  obtain rfl : t' = t := Option.some.inj (ht'.symm.trans hwrites)
  rw [State.core_setCore_self, hmem, hwrote.mem]
  refine ⟨fun j hj => ?_, fun a ha => ?_, fun d hd => ?_, hwrote.hbm⟩
  · refine Mem.readByte_writeEach _ _ (fun i hi hij => ?_) (.inl ⟨j, List.mem_range.mpr hj, rfl⟩)
    rw [hinj i j (List.mem_range.mp hi) hj hij]
  · exact Mem.readByte_writeEach _ _ (fun j hj hja => absurd hja.symm (ha j (List.mem_range.mp hj))) (.inr rfl)
  · rw [State.core_setCore_ne hd]
    exact hwrote.cores d hd

end Sys2Proof.Machine
end

section
/-! SUPPORT. What a loss costs accepted work (10 R285; 07 R206, R207): slices end and works change. A slice that has aborted stays
aborted, and no record, nothing of HBM and no core memory changes. -/

namespace Sys2Proof.Machine

/-- What slices that end and works that change leave alone. -/
structure State.endsSlices (t s : State) : Prop where
  errs : t.errs = s.errs
  hbm : t.hbm = s.hbm
  number : t.turn.number = s.turn.number
  mem : ∀ d, (t.core d).mem = (s.core d).mem
  aborted : ∀ i cause, s.aborted i cause → t.aborted i cause

theorem State.endsSlices.refl (s : State) : s.endsSlices s := ⟨rfl, rfl, rfl, fun _ => rfl, fun _ _ => id⟩

theorem State.endsSlices.trans {a b c : State} (h : c.endsSlices b) (g : b.endsSlices a) : c.endsSlices a where
  errs := h.errs.trans g.errs
  hbm := h.hbm.trans g.hbm
  number := h.number.trans g.number
  mem d := (h.mem d).trans (g.mem d)
  aborted i cause := h.aborted i cause ∘ g.aborted i cause

theorem State.endsSlices_foldl {β : Type} {f : State → β → State} (h : ∀ s b, (f s b).endsSlices s) :
    ∀ (l : List β) (s : State), (l.foldl f s).endsSlices s
  | [], s => .refl s
  | b :: l, s => (State.endsSlices_foldl h l (f s b)).trans (h s b)

/-- A slice stays aborted where its place is the same and nothing joins the mesh. -/
theorem State.aborted.of_placedAt {t s : State} {i cause : Nat} (h : s.aborted i cause) (hplaced : t.placedAt i = s.placedAt i)
    (hmesh : ∀ l ∈ t.mesh, l ∈ s.mesh) : t.aborted i cause := by
  obtain ⟨q, hq, hst, hoverlay, hout, hsrc⟩ := h
  exact ⟨q, hplaced.trans hq, hst, hoverlay, hout, fun l hl => hsrc l (hmesh l hl)⟩

theorem State.aborted.congr {t s : State} {i cause : Nat} (h : s.aborted i cause) (hturn : t.turn = s.turn) (hmesh : t.mesh = s.mesh) :
    t.aborted i cause :=
  h.of_placedAt (by rw [State.placedAt, hturn]; rfl) (fun _ hl => hmesh ▸ hl)

/-! ### Aborts -/

theorem State.abortSlice_mesh (s : State) (i cause : Nat) (st : Option Nat) : ∀ l ∈ (s.abortSlice i cause st).mesh, l ∈ s.mesh := by
  intro l hl
  unfold State.abortSlice at hl
  split at hl
  · exact hl
  · next p _ =>
    split at hl
    · obtain ⟨m, hm⟩ := State.stopCores_only (fun k => if k.ctx.work = some i then k.stop true else k) p.cores s
      simp only [hm, State.event_mesh, State.updWork_mesh] at hl
      exact (List.mem_filter.mp hl).1
    · exact hl

/-- An abort changes no other placed slice, and not the turn's number. -/
theorem State.abortSlice_turn (s : State) (i cause : Nat) (st : Option Nat) :
    (s.abortSlice i cause st).turn.number = s.turn.number ∧ ∀ j, j ≠ i → (s.abortSlice i cause st).placedAt j = s.placedAt j := by
  by_cases h : ∃ p, s.placedAt i = some p ∧ p.active = true
  · obtain ⟨p, hp, ha⟩ := h
    obtain ⟨-, -, -, -, -, -, hturn⟩ := State.abortSlice_spec s i cause st hp ha
    refine ⟨by rw [hturn]; rfl, fun j hj => ?_⟩
    rw [State.placedAt, hturn, State.updPlaced_turn]
    exact List.getElem?_modify_ne _ _ hj.symm
  · rw [State.abortSlice_none s i cause st fun p hp => by simpa using fun ha => h ⟨p, hp, ha⟩]
    exact ⟨rfl, fun _ _ => rfl⟩

/-- A slice that has aborted does not abort again. -/
theorem State.abortSlice_of_aborted {s : State} {i cause : Nat} (h : s.aborted i cause) (cause' : Nat) (st : Option Nat) :
    s.abortSlice i cause' st = s := by
  obtain ⟨q, hq, hst, -⟩ := h
  refine State.abortSlice_none s i cause' st fun p hp => ?_
  obtain rfl : q = p := Option.some.inj (hq.symm.trans hp)
  simp [Placed.active, hst]

theorem State.endsSlices_abortSlice (s : State) (i cause : Nat) (st : Option Nat) : (s.abortSlice i cause st).endsSlices s := by
  obtain ⟨herrs, hhbm, hmem⟩ := State.abortSlice_frame s i cause st
  obtain ⟨hnumber, hothers⟩ := State.abortSlice_turn s i cause st
  refine ⟨herrs, hhbm, hnumber, hmem, fun j c h => ?_⟩
  by_cases hj : j = i
  · subst hj
    rwa [State.abortSlice_of_aborted h]
  · exact h.of_placedAt (hothers j hj) (State.abortSlice_mesh s i cause st)

/-- Of a list of slices to abort, each active one ends with the cause. -/
theorem State.foldl_abortSlice_aborted {i cause : Nat} {p : Placed} (ha : p.active = true) : ∀ (l : List Nat) (s : State),
    s.placedAt i = some p → i ∈ l → (l.foldl (fun t j => t.abortSlice j cause none) s).aborted i cause
  | [], _, _, hi => absurd hi List.not_mem_nil
  | j :: l, s, hp, hi => by
    by_cases hj : i = j
    · subst hj
      exact (State.endsSlices_foldl (fun t k => State.endsSlices_abortSlice t k cause none) l _).aborted i cause
        (State.abortSlice_spec s i cause none hp ha).1
    · exact State.foldl_abortSlice_aborted ha l _ (((State.abortSlice_turn s j cause none).2 i hj).trans hp)
        ((List.mem_cons.mp hi).resolve_left hj)

/-! ### Works -/

theorem State.endsSlices_abortWork (s : State) (w : Work) (cause : Nat) : (s.abortWork w cause).endsSlices s := by
  refine State.endsSlices_foldl (fun t i => ?_) _ _
  split
  · split
    · exact State.endsSlices_abortSlice t i cause none
    · exact .refl t
  · exact .refl t

theorem State.endsSlices_updWork (s : State) (r q : Nat) (f : Work → Work) : (s.updWork r q f).endsSlices s :=
  ⟨rfl, rfl, rfl, fun _ => rfl, fun _ _ h => h.congr rfl rfl⟩

theorem State.endsSlices_bump (s : State) (f : RegField) (n : Nat) : (s.bump f n).endsSlices s :=
  ⟨rfl, rfl, rfl, fun _ => rfl, fun _ _ h => h.congr rfl rfl⟩

theorem State.endsSlices_disarm (s : State) (w : Work) (l : List Nat) : (s.disarm w l).endsSlices s := by
  obtain ⟨hturn, hhbm, hcore⟩ := State.disarm_frame s w l
  obtain ⟨m, hm⟩ := State.stopCores_only (fun k => { k with engines := [] }) (l.filter fun c => !(s.pinnedToOthers w).contains c) s
  have hrest : s.disarm w l = { s with cores := m } := hm
  exact ⟨by rw [hrest], hhbm, by rw [hturn], fun d => (hcore d).1, fun _ _ h => h.congr hturn (by rw [hrest])⟩

theorem State.endsSlices_offcutLost (s : State) (w : Work) (segs : List Nat) : (s.offcutLost w segs).endsSlices s := by
  unfold State.offcutLost
  split
  · exact .refl s
  · dsimp only
    refine (State.endsSlices_updWork _ _ _ _).trans ?_
    split
    · exact State.endsSlices_abortWork s w 1
    · exact .refl s

theorem State.endsSlices_endLost (s : State) (w : Work) : (s.endLost w).endsSlices s :=
  (State.endsSlices_bump _ _ _).trans ((State.endsSlices_updWork _ _ _ _).trans ((State.endsSlices_disarm _ _ _).trans
    (State.endsSlices_abortWork s w 1)))

theorem State.endsSlices_readLost (s : State) (i stack soff : Nat) : (s.readLost i stack soff).endsSlices s := by
  unfold State.readLost
  split
  · split
    · exact .refl s
    · next w _ =>
      split
      · split
        · exact .refl s
        · split
          · exact State.endsSlices_updWork s _ _ _
          · exact State.endsSlices_endLost s w
      · split
        · exact .refl s
        · split
          · split
            · exact State.endsSlices_offcutLost s w _
            · exact .refl s
          · split
            · exact State.endsSlices_updWork s _ _ _
            · exact .refl s
  · exact .refl s

end Sys2Proof.Machine
end

section
/-! SUPPORT. Uncorrectable sectors (09 R254, R255): a sector that is lost is listed, and where its channel has had no other within 7
days, no spare comes in. -/

namespace Sys2Proof.Machine

/-- `t` is `s` with `h` for its HBM, apart from registers, the NV image and records; what `s` tells of, `t` tells of. -/
structure State.altersHbm (t s : State) (h : Hbm) : Prop where
  body : t.sameBody { s with hbm := h }
  told : ∀ n c i, c.sev ≠ 0 → s.tells n c i → t.tells n c i

theorem State.altersHbm_with (s : State) (h : Hbm) : ({ s with hbm := h } : State).altersHbm s h := ⟨.refl _, fun _ _ _ _ => id⟩

theorem State.altersHbm.refl (s : State) : s.altersHbm s s.hbm := s.altersHbm_with s.hbm

theorem State.altersHbm.trans {t u s : State} {h g : Hbm} (hu : u.altersHbm t g) (ht : t.altersHbm s h) : u.altersHbm s g where
  body := hu.body.trans { ht.body with hbm := rfl }
  told n c i hc := hu.told n c i hc ∘ ht.told n c i hc

theorem State.altersHbm_tickFree (s : State) : s.tickFree.altersHbm s s.hbm where
  body := by constructor <;> rfl
  told _ _ _ _ := id

theorem State.altersHbm_log (s : State) (c : Cause) (r : ErrRec) : (s.log c r).altersHbm s s.hbm :=
  ⟨State.sameBody_log s c r, fun n d i hd h => State.log_keeps s c d r n i hd h⟩

theorem State.altersHbm.aborted {t s : State} {h : Hbm} (ht : t.altersHbm s h) {i cause : Nat} (ha : s.aborted i cause) :
    t.aborted i cause :=
  ha.congr ht.body.turn ht.body.mesh

theorem State.nvNote_told (s : State) (type : Nat) (value : List Byte) {n i : Nat} {c : Cause} (hc : c.sev ≠ 0) (h : s.tells n c i) :
    (s.nvNote type value).tells n c i := by
  show (State.nvPump _).tells n c i
  unfold State.nvPump
  split
  · exact h
  · split
    · exact h
    · dsimp only
      split
      · split
        · exact h
        · exact State.log_keeps _ _ c _ n i hc h
      · exact h

/-! ### The list of bad sectors -/

theorem State.listSector_alters (s : State) (stack soff : Nat) : ∃ b, stackKey stack soff ∈ b
    ∧ (s.listSector stack soff).altersHbm s { s.hbm with badSectors := b } := by
  unfold State.listSector
  dsimp only
  split
  · next h => exact ⟨_, by simpa using h, .refl s⟩
  · exact ⟨s.hbm.badSectors ++ [stackKey stack soff], by simp, State.sameBody_nvNote _ _ _, fun n c i hc h => State.nvNote_told _ _ _ hc h⟩

section
variable {s : State} {stack soff key : Nat} (hkey : s.hbm.keyOf stack soff = some key)
include hkey

theorem State.sectorLost_alters : ∃ b, stackKey stack soff ∈ b
    ∧ (s.sectorLost stack soff).altersHbm s (Hbm.lose { s.hbm with badSectors := b } key 64) := by
  obtain ⟨b, hb, hlist⟩ := State.listSector_alters s stack soff
  refine ⟨b, hb, ?_⟩
  simp only [State.sectorLost, hkey, hlist.body.hbm]
  exact (State.altersHbm_with _ _).trans hlist

theorem State.sectorScrubbed_alters : ∃ b, stackKey stack soff ∈ b
    ∧ (s.sectorScrubbed stack soff).altersHbm s { s.hbm with badSectors := b, scrubbed := s.hbm.scrubbed ++ [some key] } := by
  obtain ⟨b, hb, hlist⟩ := State.listSector_alters s stack soff
  refine ⟨b, hb, ?_⟩
  simp only [State.sectorScrubbed, hkey, hlist.body.hbm]
  exact (State.altersHbm_with _ _).trans hlist

theorem State.sectorUe_unmirrored (hm : isMirrored key = false) (scrub : Bool) : s.sectorUe stack soff scrub
    = if scrub then s.sectorScrubbed stack soff else s.sectorLost stack soff := by
  simp [State.sectorUe, hkey, hm]

theorem State.sectorUe_rebuilt (hm : isMirrored key = true) (ho : s.hbm.hasOther stack = true) (scrub : Bool) :
    s.sectorUe stack soff scrub = s := by
  simp [State.sectorUe, hkey, hm, ho]

theorem State.sectorUe_lastCopy (hm : isMirrored key = true) (ho : s.hbm.hasOther stack = false)
    (hj : s.hbm.journalHit stack soff = false) : s.sectorUe stack soff = s.sectorLost stack soff := by
  simp [State.sectorUe, hkey, hm, ho, hj]

/-- What an uncorrectable sector that is read does to HBM: outside the mirrored class it is listed and lost, and where the other copy is
in service it is rebuilt. -/
theorem State.sectorUe_alters (hj : s.hbm.journalHit stack soff = false) : ∃ h, (s.sectorUe stack soff).altersHbm s h
    ∧ h.ueTurn = s.hbm.ueTurn ∧ h.ues = s.hbm.ues
    ∧ (isMirrored key = false → stackKey stack soff ∈ h.badSectors ∧ ⟨key / 2 ^ 44, key, 64⟩ ∈ h.lost)
    ∧ (isMirrored key = true → s.hbm.hasOther stack = true → h.badSectors = s.hbm.badSectors ∧ h.lost = s.hbm.lost) := by
  by_cases hother : isMirrored key = true ∧ s.hbm.hasOther stack = true
  · obtain ⟨hm, ho⟩ := hother
    rw [State.sectorUe_rebuilt hkey hm ho]
    exact ⟨s.hbm, .refl s, rfl, rfl, fun h => by simp [hm] at h, fun _ _ => ⟨rfl, rfl⟩⟩
  · have hlost : s.sectorUe stack soff = s.sectorLost stack soff := by
      cases hm : isMirrored key
      · exact State.sectorUe_unmirrored hkey hm false
      · exact State.sectorUe_lastCopy hkey hm (by simpa [hm] using hother) hj
    obtain ⟨b, hb, halters⟩ := State.sectorLost_alters hkey
    rw [hlost]
    exact ⟨_, halters, rfl, rfl, fun _ => ⟨hb, by simp [Hbm.lose]⟩, fun hm ho => absurd ⟨hm, ho⟩ hother⟩

end

/-! ### Errors of a channel and of a stack -/

/-- The first uncorrectable sector of a channel within 7 days is noted, and that is all. -/
theorem State.noteUe_first {s : State} {stack lch : Nat} (h : ∀ e ∈ s.hbm.ues, e.stack = stack → e.lch ≠ lch) (sector : Nat) :
    ∃ l, (s.noteUe stack lch sector).altersHbm s { s.hbm with ues := l } := by
  have hone : ofChannel (recent s.hbm.ues s.turn.clock (7 * dayTicks) ++ [⟨stack, lch, sector, s.turn.clock⟩]) stack lch = [sector] := by
    have hnone : (recent s.hbm.ues s.turn.clock (7 * dayTicks)).filter (fun e => decide (e.stack = stack) && decide (e.lch = lch)) = [] :=
      List.filter_eq_nil_iff.mpr fun e he => by simpa using h e (List.mem_filter.mp he).1
    simp [ofChannel, List.filter_append, hnone, List.eraseDups_cons]
  have hnoted : s.noteUe stack lch sector = { s with hbm := { s.hbm with
      ues := recent s.hbm.ues s.turn.clock (7 * dayTicks) ++ [⟨stack, lch, sector, s.turn.clock⟩] } } := by simp [State.noteUe, hone]
  exact ⟨_, hnoted ▸ State.altersHbm_with s _⟩

section
variable {s : State} {stack lch soff key : Nat} (hkey : s.hbm.keyOf stack soff = some key)
  (hfirst : ∀ e ∈ s.hbm.ues, e.stack = stack → e.lch ≠ lch)
include hkey hfirst

/-- What an uncorrectable sector that is read does to HBM where it is the first of its channel: outside the mirrored class it is listed
and lost, and where the other copy is in service it is rebuilt. -/
theorem State.readSector_alters (hj : s.hbm.journalHit stack soff = false) (sector : Nat) :
    ∃ h, ((s.sectorUe stack soff).noteUe stack lch sector).altersHbm s h ∧ h.ueTurn = s.hbm.ueTurn
      ∧ (isMirrored key = false → stackKey stack soff ∈ h.badSectors ∧ ⟨key / 2 ^ 44, key, 64⟩ ∈ h.lost)
      ∧ (isMirrored key = true → s.hbm.hasOther stack = true → h.badSectors = s.hbm.badSectors ∧ h.lost = s.hbm.lost) := by
  obtain ⟨h, hue, hueTurn, hues, hin⟩ := State.sectorUe_alters hkey hj
  obtain rfl := hue.body.hbm
  obtain ⟨l, hnote⟩ := State.noteUe_first (by rw [hues]; exact hfirst) sector
  exact ⟨_, hnote.trans hue, hueTurn, hin⟩

/-- What a scrub that finds an uncorrectable sector does to HBM where it is the first of its channel. -/
theorem State.scrubSector_alters (hm : isMirrored key = false) (sector : Nat) :
    ∃ h, ((s.sectorUe stack soff true).noteUe stack lch sector).altersHbm s h
      ∧ stackKey stack soff ∈ h.badSectors ∧ some key ∈ h.scrubbed ∧ h.lost = s.hbm.lost := by
  rw [State.sectorUe_unmirrored hkey hm true, if_pos rfl]
  obtain ⟨b, hb, hue⟩ := State.sectorScrubbed_alters hkey
  obtain ⟨l, hnote⟩ := State.noteUe_first (by rw [hue.body.hbm]; exact hfirst) sector
  rw [hue.body.hbm] at hnote
  exact ⟨_, hnote.trans hue, hb, by simp, rfl⟩

end

/-- The turn's uncorrectable sectors with one of a channel more; two channels of one stack lose the stack (R257). -/
def State.countUe (s : State) (stack lch : Nat) : State :=
  let t := { s with hbm := { s.hbm with ueTurn := s.hbm.ueTurn ++ [(stack, lch)] } }
  if s.hbm.ueTurn.any (fun e => decide (e.1 = stack) && decide (e.2 ≠ lch)) then t.loseStack stack else t

theorem State.countUe_same {s : State} {stack lch : Nat} (h : ∀ e ∈ s.hbm.ueTurn, e.1 = stack → e.2 = lch) :
    s.countUe stack lch = { s with hbm := { s.hbm with ueTurn := s.hbm.ueTurn ++ [(stack, lch)] } } := by
  have hsame : s.hbm.ueTurn.any (fun e => decide (e.1 = stack) && decide (e.2 ≠ lch)) = false :=
    List.any_eq_false.mpr fun e he => by simpa using h e he
  simp only [State.countUe, hsame]
  rfl

/-- The record of an uncorrectable sector of a physical channel, read by placed slice `i`. -/
def State.ueRecord (s : State) (inst i sector : Nat) : ErrRec :=
  match s.placedAt i with
  | some q => { inst := inst, ring := q.ring, seq := q.seq, slice := q.slice, addr := sector }
  | none => { inst := inst, addr := sector }

theorem State.ueRecord_inst (s : State) (inst i sector : Nat) : (s.ueRecord inst i sector).inst = inst := by
  unfold State.ueRecord
  split <;> rfl

/-- The slice that read an uncorrectable sector has aborted with the record `r`, and its work has paid for what it lost. -/
def State.readerAborted (s : State) (r : ErrRec) (i stack soff : Nat) : State :=
  ((s.log .hbmUe r).abortSlice i 1 none).readLost i stack soff

theorem exec_hbmUe (s : State) (stack : Fin 8) (lch : Fin 31) {sector : Nat} (hsector : sector < 2 ^ 25) (i : Fin 4096) :
    exec (.hbmUe stack lch sector i) s
      = .next ((((s.readerAborted (s.ueRecord (32 * stack.val + s.hbm.physical stack.val lch.val) i.val sector) i.val stack.val
        (channelOff lch.val (sector * 64))).sectorUe stack.val (channelOff lch.val (sector * 64))).noteUe stack.val lch.val sector).countUe
          stack.val lch.val) := by
  show execHbmUe stack lch sector i s = _
  unfold execHbmUe
  rw [if_pos hsector]
  extract_lets soff r s1 s2 two s3
  have hr : r = s.ueRecord (32 * stack.val + s.hbm.physical stack.val lch.val) i.val sector := rfl
  rw [← hr]
  show _ = Host.Outcome.next (s2.countUe stack.val lch.val)
  clear_value s2
  rfl

theorem State.readerAborted_spec {s : State} {i : Nat} {p : Placed} (hp : s.placedAt i = some p) (ha : p.active = true) (r : ErrRec)
    (stack soff : Nat) : (s.readerAborted r i stack soff).aborted i 1 ∧ (s.readerAborted r i stack soff).hbm = s.hbm
      ∧ (s.readerAborted r i stack soff).tells s.turn.number .hbmUe r.inst := by
  have hends := State.endsSlices_readLost ((s.log .hbmUe r).abortSlice i 1 none) i stack soff
  have hlog := State.sameBody_log s .hbmUe r
  have hplaced : (s.log .hbmUe r).placedAt i = some p := by rw [State.placedAt, hlog.turn]; exact hp
  exact ⟨hends.aborted i 1 (State.abortSlice_spec _ i 1 none hplaced ha).1,
    hends.hbm.trans ((State.endsSlices_abortSlice _ i 1 none).hbm.trans hlog.hbm),
    (State.tells_congr (hends.errs.trans (State.endsSlices_abortSlice _ i 1 none).errs) _ _ _).mpr (State.log_tells s .hbmUe r (by decide))⟩

theorem exec_patrolScrub_one (s : State) (stack : Fin 8) (lch : Fin 31) (sector : Nat) :
    exec (.patrolScrub stack lch [] [sector]) s
      = .next (((s.log .hbmUeScrub { inst := 32 * stack.val + s.hbm.physical stack.val lch.val, addr := sector }).sectorUe stack.val
        (channelOff lch.val (sector * 64)) true).noteUe stack.val lch.val sector) := by
  show execPatrolScrub stack lch [] [sector] s = _
  simp only [execPatrolScrub, List.foldl]

/-- Settles O21: the sector is listed and lost, or rebuilt, in a state in which the slice has aborted; a scrub lists it and no more. -/
theorem uncorrectableSectorsAreLost : Obligations.UncorrectableSectorsAreLost := by
  intro s stack lch sector key soff hkey hsector hjournal hfirst
  constructor
  · intro i p hp ha hturn
    obtain ⟨haborted, hhbm, htold⟩ := State.readerAborted_spec hp ha
      (s.ueRecord (32 * stack.val + s.hbm.physical stack.val lch.val) i.val sector) stack.val soff
    rw [State.ueRecord_inst] at htold
    rw [exec_hbmUe s stack lch hsector i]
    generalize s.readerAborted _ i.val stack.val (channelOff lch.val (sector * 64)) = u at haborted hhbm htold ⊢
    rw [← hhbm] at hkey hjournal hfirst hturn htold ⊢
    obtain ⟨h, halters, hueTurn, hin⟩ := State.readSector_alters hkey hfirst hjournal sector
    generalize (u.sectorUe stack.val soff).noteUe stack.val lch.val sector = v at halters
    obtain rfl : v.hbm = h := halters.body.hbm
    rw [State.countUe_same (hueTurn ▸ hturn), ← hueTurn]
    exact ⟨_, rfl, (halters.aborted haborted).congr rfl rfl, halters.told _ _ _ (by decide) htold, rfl, hin⟩
  · intro hm
    have htold := State.log_tells s .hbmUeScrub { inst := 32 * stack.val + s.hbm.physical stack.val lch.val, addr := sector } (by decide)
    have hlog := State.altersHbm_log s .hbmUeScrub { inst := 32 * stack.val + s.hbm.physical stack.val lch.val, addr := sector }
    rw [exec_patrolScrub_one s stack lch sector]
    generalize s.log .hbmUeScrub _ = u at htold hlog
    have hhbm : u.hbm = s.hbm := hlog.body.hbm
    rw [← hhbm] at hkey hfirst
    obtain ⟨h, hscrub, hbad, hscrubbed, hlost⟩ := State.scrubSector_alters hkey hfirst hm sector
    generalize (u.sectorUe stack.val soff true).noteUe stack.val lch.val sector = t at hscrub
    obtain rfl : t.hbm = h := hscrub.body.hbm
    have halters := hscrub.trans hlog
    exact ⟨t, rfl, hscrub.told _ _ _ (by decide) htold, hbad, hscrubbed, hlost.trans (congrArg Hbm.lost hhbm),
      halters.body.turn, halters.body.works, halters.body.cores⟩

end Sys2Proof.Machine
end

section
/-! SUPPORT. Channels and stacks (09 R256 to R258, R260): what the spare of a stack takes over, and what the loss of a stack costs. -/

namespace Sys2Proof.Machine

/-! ### Stacks -/

section
variable (h : Hbm) (k : Nat) (x : Stack)

@[simp] theorem Hbm.stack_setStack : (h.setStack k x).stack k = x := SMap.get_set_self _ _ _ _

/-- The other copy of a stack's mirrored class does not lie in the stack itself. -/
theorem Hbm.hasOther_setStack : (h.setStack k x).hasOther k = h.hasOther k := by
  have hne : (if k < 4 then k + 4 else k - 4) ≠ k := by split <;> omega
  simp only [Hbm.hasOther, Hbm.setStack, SMap.get_set_ne _ _ _ _ hne]
  rfl

end

theorem State.journalLost_started (s : State) (r : ErrRec) : (s.journalLost r).coldStarted := by
  have hfatal := State.deviceFatal_started s .journalLost r
  unfold State.journalLost
  generalize s.deviceFatal .journalLost r = t at hfatal
  obtain ⟨⟨hstate, hcores, hsessions, hmesh, hguards⟩, hstage⟩ := hfatal
  exact ⟨⟨hstate, hcores, hsessions, hmesh, hguards⟩, hstage⟩

/-! ### Sparing of a channel -/

/-- HBM once the spare of stack `k` holds logical channel `lch`, with nothing of what the channel held. -/
def Hbm.spareIn (h : Hbm) (k lch : Nat) : Hbm :=
  { h.setStack k { h.stack k with spareFor := lch, copyDone := false } with
    bytes := h.bytes.filter (fun e => !(h.inChannel k lch e.1))
    lostCh := h.lostCh ++ [⟨k, lch, []⟩]
    scrubbed := h.scrubbed ++ [none] }

/-- The record of a channel whose spare comes in, and its entry in the repair map. -/
def State.spareNoted (s : State) (k lch : Nat) : State :=
  (s.repair 5 k lch (s.hbm.stack k).sparePch).log .hbmSpare { inst := 32 * k + lch }

theorem State.sameBody_spareNoted (s : State) (k lch : Nat) : (s.spareNoted k lch).sameBody s :=
  (State.sameBody_log _ _ _).trans (State.sameBody_repair _ _ _ _ _)

theorem State.spareNoted_hbm (s : State) (k lch : Nat) : (s.spareNoted k lch).hbm = s.hbm := (State.sameBody_spareNoted s k lch).hbm

theorem State.spareNoted_tells (s : State) (k lch : Nat) : (s.spareNoted k lch).tells s.turn.number .hbmSpare (32 * k + lch) := by
  have htold := State.log_tells (s.repair 5 k lch (s.hbm.stack k).sparePch) .hbmSpare { inst := 32 * k + lch } (by decide)
  rwa [(State.sameBody_repair s _ _ _ _).turn] at htold

theorem Hbm.hasOther_spareIn (h : Hbm) (k lch : Nat) : (h.spareIn k lch).hasOther k = h.hasOther k := h.hasOther_setStack k _

section
variable {s : State} {k : Nat} (hcopy : (s.hbm.stack k).copying = none)
include hcopy

theorem State.takeOver_unread (lch : Nat) : s.takeOver k lch = if s.hbm.journalMove && !(s.hbm.hasOther k) then
    ({ s.tickFree with hbm := s.hbm.spareIn k lch } : State).journalLost { inst := 32 * k + lch }
    else { s.tickFree with hbm := s.hbm.spareIn k lch } := by
  unfold State.takeOver
  extract_lets x kept h t u
  have hkept : kept = fun e => !(s.hbm.inChannel k lch e.1) := funext fun e => by simp [kept, x, hcopy]
  have hstack : h = s.hbm.setStack k { s.hbm.stack k with spareFor := lch, copyDone := false } := by simp only [h, x, hcopy]
  have hu : u = { s.tickFree with hbm := s.hbm.spareIn k lch } := by
    simp only [u, t, hkept, hstack]
    rfl
  have hmove : u.hbm.journalMove = s.hbm.journalMove := by rw [hu]; rfl
  have hother : u.hbm.hasOther k = s.hbm.hasOther k := by rw [hu]; exact s.hbm.hasOther_spareIn k lch
  rw [hmove, hother, hu]

theorem State.takeOver_alters (hfine : s.hbm.journalMove = false ∨ s.hbm.hasOther k = true) (lch : Nat) :
    (s.takeOver k lch).altersHbm s (s.hbm.spareIn k lch) := by
  have hcond : ¬ (s.hbm.journalMove && !(s.hbm.hasOther k)) = true := by rcases hfine with h | h <;> simp [h]
  rw [State.takeOver_unread hcopy, if_neg hcond]
  exact (State.altersHbm_with _ _).trans s.altersHbm_tickFree

/-- Where the channel held the last copy of a journal that moves, the error is device-fatal. -/
theorem State.takeOver_fatal (hmove : s.hbm.journalMove = true) (hother : s.hbm.hasOther k = false) (lch : Nat) :
    (s.takeOver k lch).coldStarted := by
  rw [State.takeOver_unread hcopy, if_pos (by simp [hmove, hother])]
  exact State.journalLost_started _ _

section
variable (hspare : (s.hbm.stack k).spareFor = 31)
include hspare

theorem State.spareChannel_free (lch : Nat) (readable : Bool) : s.spareChannel k lch readable
    = if readable then { s.spareNoted k lch with hbm := s.hbm.setStack k { s.hbm.stack k with copying := some lch } }
      else (s.spareNoted k lch).takeOver k lch := by
  unfold State.spareChannel
  extract_lets x t
  have ht : t = s.spareNoted k lch := rfl
  rw [if_neg (by simp [x, hcopy]), if_neg (by simp [x, hcopy, hspare]), ht, State.spareNoted_hbm]

/-- What the use of a free spare does to HBM: a copy starts, or the spare comes in. -/
theorem State.spareChannel_alters (lch : Nat) (readable : Bool)
    (hfine : readable = true ∨ s.hbm.journalMove = false ∨ s.hbm.hasOther k = true) :
    (s.spareChannel k lch readable).altersHbm (s.spareNoted k lch)
      (if readable then s.hbm.setStack k { s.hbm.stack k with copying := some lch } else s.hbm.spareIn k lch) := by
  rw [State.spareChannel_free hcopy hspare]
  cases readable with
  | true => exact State.altersHbm_with _ _
  | false =>
    rw [← s.spareNoted_hbm k lch] at hcopy hfine ⊢
    exact State.takeOver_alters hcopy (hfine.resolve_left Bool.false_ne_true) lch

theorem State.spareChannel_fatal (hmove : s.hbm.journalMove = true) (hother : s.hbm.hasOther k = false) (lch : Nat) :
    (s.spareChannel k lch false).coldStarted := by
  rw [State.spareChannel_free hcopy hspare, if_neg Bool.false_ne_true]
  rw [← s.spareNoted_hbm k lch] at hcopy hmove hother
  exact State.takeOver_fatal hcopy hmove hother lch

end

end

theorem State.spareChannel_copying {s : State} {k lch : Nat} (h : (s.hbm.stack k).copying = some lch) : s.spareChannel k lch true = s := by
  simp [State.spareChannel, h]

/-! ### Loss of a stack -/

theorem State.loseStack_again {s : State} {k : Nat} (h : (s.hbm.stack k).lost = true) : s.loseStack k = s := by
  simp [State.loseStack, h]

/-- A second loss is device-fatal (R260). -/
theorem State.loseStack_second {s : State} {k : Nat} (h : (s.hbm.stack k).lost = false) (hany : s.hbm.anyLost = true) :
    (s.loseStack k).coldStarted := by
  rw [State.loseStack, if_neg (by simp [h]), if_pos hany]
  exact State.deviceFatal_started _ _ _

theorem State.loseStack_first {s : State} {k : Nat} (h : (s.hbm.stack k).lost = false) (hany : s.hbm.anyLost = false) :
    s.loseStack k = s.declareLost k := by
  rw [State.loseStack, if_neg (by simp [h]), if_neg (by simp [hany])]

/-- Placed slices that have accessed a stack. -/
def State.touching (s : State) (k : Nat) : List Nat :=
  (List.range s.turn.placed.length).filter (fun i => match s.placedAt i with
    | some p => p.touched.contains k
    | none => false)

theorem State.mem_touching {s : State} {k i : Nat} {p : Placed} (hp : s.placedAt i = some p) (hk : k ∈ p.touched) : i ∈ s.touching k := by
  obtain ⟨hlt, -⟩ := List.getElem?_eq_some_iff.mp hp
  simp [State.touching, hp, hk, hlt]

/-- The slices that accessed a stack have aborted. -/
def State.touchersAborted (s : State) (k : Nat) : State := (s.touching k).foldl (fun t i => t.abortSlice i 5 none) s

theorem State.endsSlices_touchersAborted (s : State) (k : Nat) : (s.touchersAborted k).endsSlices s :=
  State.endsSlices_foldl (fun t i => State.endsSlices_abortSlice t i 5 none) _ s

/-- HBM with one stack more declared lost. -/
def Hbm.declareLost (h : Hbm) (k : Nat) : Hbm :=
  { h.setStack k { h.stack k with lost := true, copying := none } with newlyLost := h.newlyLost ++ [k] }

/-- A stack more declared lost, with the record of it. -/
def State.lossNoted (s : State) (k : Nat) : State := ({ s with hbm := s.hbm.declareLost k } : State).log .stackLost { inst := 32 * k }

theorem State.declareLost_eq_lossNoted (s : State) (k : Nat) : s.declareLost k = (s.touchersAborted k).lossNoted k := by
  unfold State.declareLost
  extract_lets hit t u v
  show _ = t.lossNoted k
  clear_value t
  rfl

theorem State.declareLost_alters (s : State) (k : Nat) : (s.declareLost k).altersHbm (s.touchersAborted k) (s.hbm.declareLost k) := by
  rw [State.declareLost_eq_lossNoted, ← (s.endsSlices_touchersAborted k).hbm]
  exact (State.altersHbm_log _ _ _).trans (State.altersHbm_with _ _)

theorem State.declareLost_tells (s : State) (k : Nat) : (s.declareLost k).tells s.turn.number .stackLost (32 * k) := by
  rw [State.declareLost_eq_lossNoted, ← (s.endsSlices_touchersAborted k).number]
  exact State.log_tells _ .stackLost _ (by decide)

theorem State.declareLost_mem (s : State) (k c : Nat) : ((s.declareLost k).core c).mem = (s.core c).mem := by
  rw [State.core, (s.declareLost_alters k).body.cores]
  exact (s.endsSlices_touchersAborted k).mem c

/-- The loss of a stack ends each active slice that accessed it. -/
theorem State.declareLost_aborted {s : State} {k i : Nat} {p : Placed} (hp : s.placedAt i = some p) (ha : p.active = true)
    (hk : k ∈ p.touched) : (s.declareLost k).aborted i 5 :=
  (s.declareLost_alters k).aborted (State.foldl_abortSlice_aborted ha _ s hp (State.mem_touching hp hk))

/-- Settles O22: a spare comes in with the record of it, and a stack is lost with the slices that accessed it. -/
theorem channelsAndStacks : Obligations.ChannelsAndStacks := by
  refine ⟨fun s stack => ⟨fun lch readable hspare hcopy hfine => ?_, fun lch hspare hcopy hmove hother => ?_, fun lch hcopy => ?_, ?_⟩,
    fun s stack => ⟨fun hlost => ?_, fun hlost hany => ?_, fun hlost hany => ?_, rfl⟩⟩
  · have halters := State.spareChannel_alters hcopy hspare lch.val readable hfine
    have hnoted := State.sameBody_spareNoted s stack.val lch.val
    refine ⟨_, rfl, halters.told _ _ _ (by decide) (State.spareNoted_tells s stack.val lch.val), fun hr => ?_, fun hr => ?_,
      halters.body.works.trans hnoted.works, halters.body.cores.trans hnoted.cores, halters.body.turn.trans hnoted.turn⟩
    · exact halters.body.hbm.trans (if_pos hr)
    · have hhbm := halters.body.hbm.trans (if_neg (ne_true_of_eq_false hr))
      rw [hhbm]
      exact ⟨Hbm.stack_setStack _ _ _, rfl, rfl⟩
  · exact ⟨_, rfl, State.spareChannel_fatal hcopy hspare hmove hother lch.val⟩
  · exact congrArg Host.Outcome.next (State.spareChannel_copying hcopy)
  · exact (apply_ite Host.Outcome.next _ _ _).symm
  · exact congrArg Host.Outcome.next (State.loseStack_again hlost)
  · have hhbm := (s.declareLost_alters stack.val).body.hbm
    refine ⟨s.declareLost stack.val, congrArg Host.Outcome.next (State.loseStack_first hlost hany), ?_, ?_,
      s.declareLost_tells stack.val, ?_, s.declareLost_mem stack.val, fun i p hp ha hk => State.declareLost_aborted hp ha hk⟩
    · rw [hhbm]
      exact congrArg Stack.lost (Hbm.stack_setStack _ _ _)
    · rw [hhbm]
      rfl
    · rw [hhbm]
      rfl
  · exact ⟨_, rfl, State.loseStack_second hlost hany⟩

end Sys2Proof.Machine
end

section
/-! SUPPORT. Non-determinism events charged to placed slices (12 R325), and the brake (10 R282). -/

namespace Sys2Proof.Machine

/-! ### Events charged to placed slices -/

/-- What charging events to placed slices leaves alone: every register below the counters of R325, which begin at 0x70140, and of a placed
slice everything but its list of events, which only grows. -/
structure State.charges (t s : State) : Prop where
  fld : ∀ g : RegField, g.off < 0x70140 → t.fld g = s.fld g
  cores : t.cores = s.cores
  works : t.works = s.works
  hbm : t.hbm = s.hbm
  host : t.host = s.host
  mesh : t.mesh = s.mesh
  turn : t.turn = { s.turn with placed := t.turn.placed }
  placed : ∀ i, ∃ l, t.placedAt i = (s.placedAt i).map (fun p => { p with nd := p.nd ++ l })

theorem State.charges.refl (s : State) : s.charges s := by
  refine ⟨fun _ _ => rfl, rfl, rfl, rfl, rfl, rfl, rfl, fun i => ⟨[], ?_⟩⟩
  cases s.placedAt i <;> simp

theorem State.charges.trans {a b c : State} (h : c.charges b) (g : b.charges a) : c.charges a where
  fld f hf := (h.fld f hf).trans (g.fld f hf)
  cores := h.cores.trans g.cores
  works := h.works.trans g.works
  hbm := h.hbm.trans g.hbm
  host := h.host.trans g.host
  mesh := h.mesh.trans g.mesh
  turn := by rw [h.turn, g.turn]
  placed i := by
    obtain ⟨l, hl⟩ := h.placed i
    obtain ⟨m, hm⟩ := g.placed i
    exact ⟨m ++ l, by rw [hl, hm]; cases a.placedAt i <;> simp⟩

theorem State.charges.flag {t s : State} (h : t.charges s) {g : RegField} (hg : g.off < 0x70140) : t.flag g = s.flag g := by
  rw [State.flag, h.fld g hg, State.flag]

theorem State.charges_ndPlaced (s : State) (i k : Nat) : (s.ndPlaced i k).charges s := by
  unfold State.ndPlaced
  split
  · next p hp =>
    refine ⟨fun g hg => ?_, by simp [State.nondet], by simp [State.nondet], by simp [State.nondet], by simp [State.nondet],
      by simp [State.nondet], by simp [State.nondet], fun j => ?_⟩
    · have happ : (audNd k).apart g := .inl (Nat.ne_of_lt (Nat.lt_of_lt_of_le hg (Nat.le_add_right 0x70140 (4 * k))))
      have hregs : ((s.nondet k p).updPlaced i fun q => { q with nd := q.nd ++ [k] }).regs = (s.bump (audNd k) 1).regs := by
        simp [State.nondet]
      rw [State.fld_congr hregs, State.fld_bump_other s le_rfl 1 happ]
    · simp only [State.placedAt, State.updPlaced_turn, State.nondet, State.event_turn, State.bump_turn, List.getElem?_modify]
      by_cases hij : i = j
      · exact ⟨[k], by simp [hij]⟩
      · exact ⟨[], by cases s.turn.placed[j]? <;> simp [hij]⟩
  · exact .refl s

theorem State.ndPlaced_charged {s : State} {i : Nat} {p : Placed} (hp : s.placedAt i = some p) (k : Nat) :
    (s.ndPlaced i k).placedAt i = some { p with nd := p.nd ++ [k] } := by
  simp only [State.placedAt] at hp
  simp [State.ndPlaced, State.placedAt, State.nondet, hp]

/-- Charges event `k` to placed slice `i` where it meets `c`. -/
def State.chargeOne (c : Placed → Bool) (k : Nat) (s : State) (i : Nat) : State :=
  match s.placedAt i with
  | some p => if c p then s.ndPlaced i k else s
  | none => s

/-- Charges event `k` to every placed slice that meets `c`. -/
def State.chargeAll (s : State) (c : Placed → Bool) (k : Nat) : State :=
  (List.range s.turn.placed.length).foldl (State.chargeOne c k) s

theorem State.charges_chargeOne (c : Placed → Bool) (k : Nat) (s : State) (i : Nat) : (s.chargeOne c k i).charges s := by
  unfold State.chargeOne
  split
  · split
    · exact State.charges_ndPlaced s i k
    · exact .refl s
  · exact .refl s

theorem State.charges_foldl (c : Placed → Bool) (k : Nat) : ∀ (l : List Nat) (s : State), (l.foldl (State.chargeOne c k) s).charges s
  | [], s => .refl s
  | i :: l, s => (State.charges_foldl c k l _).trans (State.charges_chargeOne c k s i)

theorem State.charges_chargeAll (s : State) (c : Placed → Bool) (k : Nat) : (s.chargeAll c k).charges s := State.charges_foldl c k _ s

/-- A slice that meets `c` as long as it does not hold the event holds it once every slice has been asked. -/
theorem State.chargeAll_charged {s : State} {c : Placed → Bool} {k i : Nat} {p : Placed} (hp : s.placedAt i = some p)
    (hc : ∀ l, k ∉ l → c { p with nd := l } = true) : ∃ l, k ∈ l ∧ (s.chargeAll c k).placedAt i = some { p with nd := l } := by
  obtain ⟨hlt, -⟩ := List.getElem?_eq_some_iff.mp hp
  obtain ⟨before, after, hsplit⟩ := List.append_of_mem (List.mem_range.mpr hlt)
  obtain ⟨l, hl⟩ := (State.charges_foldl c k before s).placed i
  rw [State.chargeAll, hsplit, List.foldl_append, List.foldl_cons]
  generalize before.foldl (State.chargeOne c k) s = u at hl
  rw [hp, Option.map_some] at hl
  have hone : ∃ m, k ∈ m ∧ (u.chargeOne c k i).placedAt i = some { p with nd := m } := by
    by_cases hk : k ∈ p.nd ++ l
    · obtain ⟨m, hm⟩ := (State.charges_chargeOne c k u i).placed i
      exact ⟨p.nd ++ l ++ m, List.mem_append_left m hk, by rw [hm, hl]; rfl⟩
    · refine ⟨p.nd ++ l ++ [k], by simp, ?_⟩
      simp only [State.chargeOne, hl, hc _ hk, if_true]
      exact State.ndPlaced_charged hl k
  obtain ⟨m, hm, hone⟩ := hone
  obtain ⟨l', hl'⟩ := (State.charges_foldl c k after (u.chargeOne c k i)).placed i
  exact ⟨m ++ l', List.mem_append_left l' hm, by rw [hl', hone]; rfl⟩

/-! ### The brake -/

/-- What a running slice is charged under the brake, once. -/
def Placed.brakes (p : Placed) : Bool := p.isRunning && !(p.nd.contains 0)

/-- The brake engaged and counted, before any slice is charged. -/
def State.braking (s : State) : State :=
  let t := ((s.setFlag tlsBrake true).bump tlsBrakeCount 1).event 0x01 0 0 0 0
  { t with turn := { t.turn with braked := true } }

theorem State.engageBrake_released {s : State} (h : s.flag tlsBrake = false) : s.engageBrake = s.braking.chargeAll Placed.brakes 0 := by
  rw [State.engageBrake, if_neg (by simp [h])]
  rfl

theorem State.braking_turn (s : State) : s.braking.turn = { s.turn with braked := true } := by simp [State.braking]

theorem State.braking_fld (s : State) (g : RegField) : s.braking.fld g = ((s.setFlag tlsBrake true).bump tlsBrakeCount 1).fld g :=
  State.fld_congr (by simp [State.braking]) g

theorem State.engageBrake_fld (s : State) {g : RegField} (h1 : tlsBrake.apart g) (h2 : tlsBrakeCount.apart g) (hg : g.off < 0x70140) :
    s.engageBrake.fld g = s.fld g := by
  cases h : s.flag tlsBrake
  · rw [State.engageBrake_released h, (State.charges_chargeAll _ _ _).fld g hg, State.braking_fld,
      State.fld_bump_other _ (by decide) 1 h2, State.fld_setFlag_other s (by decide) true h1]
  · rw [State.engageBrake, if_pos h]

theorem State.engageBrake_engaged (s : State) : s.engageBrake.brakeEngaged s := by
  cases h : s.flag tlsBrake
  · have hcharges := State.charges_chargeAll s.braking Placed.brakes 0
    rw [State.engageBrake_released h]
    refine ⟨?_, ?_, fun _ => by rw [hcharges.turn, State.braking_turn], fun _ i p hp hrun => ?_, ?_, ?_, ?_, ?_⟩
    · rw [hcharges.flag (by decide), State.flag, State.braking_fld, ← State.flag, State.flag_bump_other _ (by decide) 1 (by decide),
        State.flag_setFlag s (by decide) rfl]
    · rw [hcharges.fld _ (by decide), State.braking_fld, State.fld_bump _ (by decide), State.fld_setFlag_other s (by decide) _ (by decide)]
      simp [h]
    · have hplaced : s.braking.placedAt i = some p := by rw [State.placedAt, State.braking_turn]; exact hp
      have hbrakes : ∀ l, 0 ∉ l → Placed.brakes { p with nd := l } = true := fun l hl => by
        simp [Placed.brakes, Placed.isRunning, hrun, hl]
      obtain ⟨l, hl, hq⟩ := State.chargeAll_charged hplaced hbrakes
      exact ⟨_, hq, hrun, hl⟩
    · exact hcharges.cores.trans (by simp [State.braking])
    · exact hcharges.works.trans (by simp [State.braking])
    · exact hcharges.hbm.trans (by simp [State.braking])
    · exact hcharges.host.trans (by simp [State.braking])
  · have hcount : s.fld tlsBrakeCount < 2 ^ tlsBrakeCount.width := bitField_lt _ _ _
    rw [State.engageBrake, if_pos h]
    exact ⟨h, by rw [h]; exact (Nat.mod_eq_of_lt hcount).symm, fun hf => by simp [h] at hf, fun hf => by simp [h] at hf, rfl, rfl, rfl, rfl⟩

theorem State.engageBrake_flag (s : State) {g : RegField} (h1 : tlsBrake.apart g) (h2 : tlsBrakeCount.apart g) (hg : g.off < 0x70140) :
    s.engageBrake.flag g = s.flag g := by rw [State.flag, State.engageBrake_fld s h1 h2 hg, State.flag]

/-- A cause of the brake, current or temperature, shows, and the brake engages; the other cause shows as before. -/
theorem State.brakeFor_engaged (s : State) {f g : RegField} (hfg : (f = tlsCur ∧ g = tlsHot) ∨ (f = tlsHot ∧ g = tlsCur)) :
    (s.setFlag f true).engageBrake.brakeEngaged s ∧ (s.setFlag f true).engageBrake.flag f = true
      ∧ (s.setFlag f true).engageBrake.flag g = s.flag g := by
  have hf : f.fits ∧ f.width = 1 ∧ f.apart tlsBrake ∧ f.apart tlsBrakeCount ∧ f.apart g := by
    rcases hfg with ⟨rfl, rfl⟩ | ⟨rfl, rfl⟩ <;> decide
  have hkept : ∀ e, e = f ∨ e = g → (s.setFlag f true).engageBrake.flag e = (s.setFlag f true).flag e := by
    intro e he
    refine State.engageBrake_flag _ ?_ ?_ ?_ <;> rcases hfg with ⟨rfl, rfl⟩ | ⟨rfl, rfl⟩ <;> rcases he with rfl | rfl <;> decide
  obtain ⟨hfits, hwidth, hbrake, hcount, hother⟩ := hf
  have h := State.engageBrake_engaged (s.setFlag f true)
  have hflag := State.flag_setFlag_other s hfits true hbrake
  have hfld := State.fld_setFlag_other s hfits true hcount
  refine ⟨⟨h.brake, by rw [← hflag, ← hfld]; exact h.count, fun hb => h.braked (hflag.trans hb), fun hb => h.charged (hflag.trans hb),
    h.cores, h.works, h.hbm, h.host⟩, ?_, ?_⟩
  · rw [hkept f (.inl rfl), State.flag_setFlag s hfits hwidth]
  · rw [hkept g (.inr rfl), State.flag_setFlag_other s hfits true hother]

/-- Neither current nor temperature is a cause of the brake any more. -/
def State.causesOff (s : State) : State := (s.setFlag tlsCur false).setFlag tlsHot false

theorem State.causesOff_flags (s : State) : s.causesOff.flag tlsCur = false ∧ s.causesOff.flag tlsHot = false
    ∧ s.causesOff.flag tlsPin = s.flag tlsPin ∧ s.causesOff.flag tlsBrake = s.flag tlsBrake := by
  refine ⟨?_, State.flag_setFlag _ (by decide) rfl false, ?_, ?_⟩ <;> rw [State.causesOff, State.flag_setFlag_other _ (by decide) _ (by decide)]
  · exact State.flag_setFlag s (by decide) rfl false
  · exact State.flag_setFlag_other s (by decide) _ (by decide)
  · exact State.flag_setFlag_other s (by decide) _ (by decide)

theorem State.sameBody_event (s : State) (a b c d e : Nat) : (s.event a b c d e).sameBody s := by constructor <;> simp

theorem State.sameBody_releaseBrake (s : State) : s.releaseBrake.sameBody s := by
  unfold State.releaseBrake
  split
  · exact (State.sameBody_event _ _ _ _ _ _).trans (State.sameBody_setFlag s _ _)
  · exact .refl s

theorem State.releaseBrake_flag (s : State) : s.releaseBrake.flag tlsBrake = false
    ∧ ∀ g, tlsBrake.apart g → s.releaseBrake.flag g = s.flag g := by
  unfold State.releaseBrake
  split
  · have hregs : ((s.setFlag tlsBrake false).event 2 0 0 0 0).regs = (s.setFlag tlsBrake false).regs := State.event_regs _ _ _ _ _ _
    exact ⟨(State.flag_congr hregs _).trans (State.flag_setFlag s (by decide) rfl false),
      fun g hg => (State.flag_congr hregs g).trans (State.flag_setFlag_other s (by decide) false hg)⟩
  · next h => exact ⟨by simpa using h, fun _ _ => rfl⟩

theorem State.releaseBrake_records (s : State) : s.releaseBrake.nv = s.nv ∧ s.releaseBrake.errs = s.errs := by
  unfold State.releaseBrake
  split <;> simp

end Sys2Proof.Machine

/-! The model has a function of the name of the theorem below, which therefore stands outside the model's namespace. -/

namespace Sys2Proof

open Machine

/-- Settles O29: each cause engages the brake, and its release waits for VIN alone. -/
theorem brakeEvents : Obligations.BrakeEvents := by
  refine ⟨fun s => ⟨fun hp => ?_, fun hp => if_neg (by simp [hp]), fun k hp hk => ?_, fun k hk => ?_⟩,
    fun s => ⟨fun hpin => if_pos hpin, fun hpin => ?_⟩⟩
  · exact ⟨_, if_pos hp, s.brakeFor_engaged (.inl ⟨rfl, rfl⟩)⟩
  · exact ⟨_, if_pos (by simp [hp, hk]), s.brakeFor_engaged (.inr ⟨rfl, rfl⟩)⟩
  · exact if_neg (by rcases hk with h | h <;> simp [h])
  · obtain ⟨hcur, hhot, hpin', hbrake⟩ := s.causesOff_flags
    rw [hpin] at hpin'
    have hbody : s.causesOff.sameBody s := (State.sameBody_setFlag _ _ _).trans (State.sameBody_setFlag _ _ _)
    have hfree : s.causesOff.brakeFree = !s.power.brakeVin := by simp [State.brakeFree, hcur, hhot, hpin', hbody.power]
    refine ⟨if s.causesOff.brakeFree then s.causesOff.releaseBrake else s.causesOff, if_neg (by simp [hpin]), ?_⟩
    rw [hfree]
    cases hvin : s.power.brakeVin
    · obtain ⟨hoff, hothers⟩ := s.causesOff.releaseBrake_flag
      obtain ⟨hnv, herrs⟩ := s.causesOff.releaseBrake_records
      exact ⟨(State.sameBody_releaseBrake _).trans hbody, (hothers _ (by decide)).trans hcur, (hothers _ (by decide)).trans hhot,
        (hothers _ (by decide)).trans hpin', by simp [hoff], hnv, herrs⟩
    · exact ⟨hbody, hcur, hhot, hpin', by simp [hbrake], rfl, rfl⟩

end Sys2Proof
end

section
/-! SUPPORT. The thermal model, its sensors, and the thermal trip (10 R268, R269; 17 R461; 19 R511). -/

namespace Sys2Proof.Machine

theorem SMap.get_foldl_set {α : Type} [DecidableEq α] (d : α) (f : Nat → α) (k : Nat) : ∀ (l : List Nat) (m : SMap α),
    SMap.get d (l.foldl (fun m k => SMap.set d m k (f k)) m) k = if k ∈ l then f k else SMap.get d m k
  | [], m => by simp
  | j :: l, m => by
    rw [List.foldl_cons, SMap.get_foldl_set d f k l, SMap.get_set]
    by_cases hk : k = j <;> simp [hk]

/-- A table written for each of the first `n` keys. -/
theorem SMap.get_foldl_range {α : Type} [DecidableEq α] (d : α) (f : Nat → α) {k n : Nat} (h : k < n) :
    SMap.get d ((List.range n).foldl (fun m k => SMap.set d m k (f k)) []) k = f k := by
  rw [SMap.get_foldl_set, if_pos (List.mem_range.mpr h)]

theorem State.mdieUp_of_state {s : State} (h : s.power.state ≠ .off) : s.mdieUp = true := by simpa [State.mdieUp] using h

/-! ### The model of a node -/

/-- What the sensors present has been taken; a sensor that presents nothing keeps its reading. -/
def Thermal.sampled (t : Thermal) (x : ThermalIn) : Thermal :=
  { t with sensors := (List.range 600).foldl (fun m k => SMap.set 0 m k (x.sensors.getD k (SMap.get 0 t.sensors k))) [] }

/-- The temperatures of the 152 nodes. -/
def Thermal.nodes (t : Thermal) : List Int := (List.range 152).map (fun i => SMap.get 0 t.temps i)

/-- One step of the model of node `i`. -/
def Thermal.stepNode (t : Thermal) (x : ThermalIn) (theta i : Nat) : Int :=
  Config.thermalStep i (t.nodes.getD i 0) (x.powerMw.getD i 0) t.nodes ((nodeSensors i).map (t.sampled x).reading) theta

theorem Thermal.nodes_getD (t : Thermal) {i : Nat} (h : i < 152) : t.nodes.getD i 0 = SMap.get 0 t.temps i := by
  simp [Thermal.nodes, List.getD, h]

theorem Thermal.sampled_sensors (t : Thermal) (x : ThermalIn) {k : Nat} (h : k < 600) :
    SMap.get 0 (t.sampled x).sensors k = x.sensors.getD k (SMap.get 0 t.sensors k) := by
  rw [Thermal.sampled, SMap.get_foldl_range (0 : Int) (fun k => x.sensors.getD k (SMap.get 0 t.sensors k)) h]

/-- The temperatures after one step of every node. -/
def Thermal.steppedTemps (t : Thermal) (x : ThermalIn) (theta : Nat) : SMap Int :=
  (List.range 152).foldl (fun m i => SMap.set 0 m i (t.stepNode x theta i)) []

theorem Thermal.steppedTemps_get (t : Thermal) (x : ThermalIn) (theta : Nat) {i : Nat} (h : i < 152) :
    SMap.get 0 (t.steppedTemps x theta) i = Config.thermalStep i (SMap.get 0 t.temps i) (x.powerMw.getD i 0) t.nodes
      ((nodeSensors i).map (t.sampled x).reading) theta := by
  rw [Thermal.steppedTemps, SMap.get_foldl_range (0 : Int) (t.stepNode x theta) h, Thermal.stepNode, Thermal.nodes_getD t h]

theorem exec_thermalModelUpdate {s : State} (h : s.power.state ≠ .off) (x : ThermalIn) :
    ∃ t, exec (.thermalModelUpdate x) s = .next { s with thermal := t } ∧ t.masked = s.thermal.masked ∧ t.thetas = s.thermal.thetas
      ∧ t.temps = s.thermal.steppedTemps x (s.fld witTheta)
      ∧ s.thermal.sampled x = { s.thermal with sensors := t.sensors } := by
  show ∃ t, execThermalModelUpdate x s = _ ∧ _
  unfold execThermalModelUpdate
  rw [if_pos (State.mdieUp_of_state h)]
  extract_lets th raw th1 temps next seen th2
  have hraw : s.thermal.sampled x = { s.thermal with sensors := raw } := rfl
  have hnext : s.thermal.steppedTemps x (s.fld witTheta) = next := rfl
  clear_value raw next
  exact ⟨th2, rfl, rfl, rfl, hnext.symm, hraw⟩

/-! ### The thermal trip -/

theorem clearedCores_empty (counts : Bool) (c : Nat) (l : SMap Core) :
    (SMap.get {} (clearedCores counts l) c).mem = [] ∧ (SMap.get {} (clearedCores counts l) c).chuck = [] := by
  obtain ⟨hmem, hchuck, -⟩ := clearedCores_get counts c l
  exact ⟨hmem, hchuck⟩

/-- The state of a part whose thermal trip has been noted, before its registers show it. -/
def State.tripped (s : State) : State :=
  let t := s.log .thermtrip {}
  { t.dropRails with
    thermal := { sensors := t.thermal.sensors, masked := t.thermal.masked }
    sec := { t.sec with pendingOwner := none }
    power := { t.power with state := .tripped, thermtripN := true, recover := List.range 64, configReady := false, brakeVin := false } }

/-- The registers of a part that has tripped. -/
def State.tripShown (s : State) : State :=
  ((((s.setFld devDomains 3).setFlag nviReady false).setFlag tlsBrake false).setFlag tlsCur false).setFlag tlsHot false

theorem exec_thermtrip {s : State} (h : s.powered = true) : exec .thermtrip s = .next s.tripped.tripShown := if_pos h

theorem State.tripShown_regs (s : State) : s.tripShown.fld devDomains = 3 ∧ s.tripShown.flag nviReady = false
    ∧ s.tripShown.flag tlsBrake = false := by
  refine ⟨?_, ?_, ?_⟩ <;> unfold State.tripShown
  · iterate 4 rw [State.fld_setFlag_other _ (by decide) _ (by decide)]
    exact State.fld_setFld s (by decide) 3
  · iterate 3 rw [State.flag_setFlag_other _ (by decide) _ (by decide)]
    exact State.flag_setFlag _ (by decide) rfl false
  · iterate 2 rw [State.flag_setFlag_other _ (by decide) _ (by decide)]
    exact State.flag_setFlag _ (by decide) rfl false

theorem State.tripped_unpowered (s : State) : s.tripped.unpowered s :=
  ⟨fun c => clearedCores_empty false c (s.log .thermtrip {}).cores, rfl, rfl, rfl, rfl, rfl, State.log_host s _ _⟩

theorem State.tripped_tells (s : State) : s.tripped.tells s.turn.number .thermtrip 0 :=
  (State.tells_congr (t := s.tripped) rfl _ _ _).mpr (State.log_tells s .thermtrip {} (by decide))

/-- Settles O30: the model's tables are written node by node, and a trip drops the rails once its record is held. -/
theorem thermalEvents : Obligations.ThermalEvents := by
  refine ⟨fun s hs => ⟨fun x => ?_, fun k => ⟨fun hk => ?_, fun hk => if_pos (.inl (by simpa using hk))⟩, fun rise step ht => ?_⟩,
    fun s => ⟨fun hp => if_neg (by simp [hp]), fun hp => ⟨_, exec_thermtrip hp, ?_⟩⟩⟩
  · obtain ⟨t, hexec, hmasked, hthetas, htemps, hsampled⟩ := exec_thermalModelUpdate hs x
    refine ⟨_, hexec, rfl, hmasked, hthetas, fun k hk => ?_, fun i hi => ?_⟩
    · have hsensor := s.thermal.sampled_sensors x hk
      rwa [hsampled] at hsensor
    · have htemp := s.thermal.steppedTemps_get x (s.fld witTheta) hi
      rwa [← htemps, hsampled] at htemp
  · have hlog := State.sameBody_log { s with thermal := { s.thermal with masked := s.thermal.masked ++ [k.val] } } .tsensor {}
    exact ⟨_, if_neg (by simp [hk, State.mdieUp_of_state hs]), congrArg Thermal.masked hlog.thermal,
      State.log_tells _ .tsensor {} (by decide), hlog.turn, hlog.works, hlog.cores⟩
  · have hp : s.powered = true := by simp [State.powered, hs, ht]
    show execThetaStep rise step s = _
    simp only [execThetaStep, hp, and_true]
    split <;> rfl
  · obtain ⟨hdomains, hready, hbrake⟩ := s.tripped.tripShown_regs
    obtain ⟨hcores, hhbm, hmesh, hplans, hrings, hworks, hhost⟩ := s.tripped_unpowered
    exact ⟨rfl, rfl, hdomains, hready, hbrake, s.tripped_tells, ⟨hcores, hhbm, hmesh, hplans, hrings, hworks, hhost⟩,
      by simp [State.tripShown, State.tripped], by simp [State.tripShown, State.tripped, State.dropRails],
      by simp [State.tripShown, State.tripped]⟩

end Sys2Proof.Machine
end

section
/-! SUPPORT. The turn head (10 R264; 12 R328, R340): what host software stores, and the turn record with which the window opens. -/

namespace Sys2Proof.Machine

theorem State.hostPut_foldl : ∀ (l : List HostWrite) (s : State), l.foldl (fun t w => t.hostPut w.addr w.bytes) s
    = { s with host := l.foldl (fun m w => Mem.writeBytes m w.addr w.bytes) s.host }
  | [], _ => rfl
  | w :: l, s => State.hostPut_foldl l (s.hostPut w.addr w.bytes)

/-- The state once the stores of host software have reached host memory. -/
def State.hostStored (s : State) (h : HeadIn) : State :=
  { s with host := h.stores.foldl (fun m w => Mem.writeBytes m w.addr w.bytes) s.host }

theorem exec_turnHead (h : HeadIn) (s : State) : exec (.turnHead h) s = if s.isReady && decide (s.turn.phase ≠ .window) then
    .next (if s.flag audReplayActive then (s.hostStored h).replayHead h else (s.hostStored h).liveHead h) else .next (s.hostStored h) := by
  show execTurnHead h s = _
  unfold execTurnHead
  rw [State.hostPut_foldl]
  rfl

theorem State.turnRecord_congr {s t : State} (hturn : t.turn = { s.turn with phase := t.turn.phase, partNow := t.turn.partNow })
    (hregs : t.regs = s.regs) (haccepts : t.audit.accepts = s.audit.accepts) (hadmits : t.audit.admits = s.audit.admits) :
    t.turnRecord = s.turnRecord := by
  rw [State.turnRecord, State.turnRecord, State.fld_congr hregs, haccepts, hadmits, hturn]

theorem State.traceItem_audit (s : State) (n : Nat) (x : List Byte) : ∃ l, (s.traceItem n x).audit = { s.audit with turnTrace := l } := by
  unfold State.traceItem
  split <;> exact ⟨_, rfl⟩

theorem State.trace1_audit (s : State) (n : Nat) (x : List Byte) : ∃ l, (s.trace1 n x).audit = { s.audit with turnTrace := l } := by
  unfold State.trace1
  split <;> exact ⟨_, rfl⟩

/-- What the head records in the audit state: the turn record, and the trace. -/
theorem State.recordHead_audit (s : State) : ∃ l, s.recordHead.audit = { s.audit with tr := s.turnRecord, turnTrace := l } := by
  obtain ⟨l, hl⟩ := State.traceItem_audit { s with audit := { s.audit with tr := s.turnRecord } } 0x01 s.turnRecord
  obtain ⟨m, hm⟩ := State.trace1_audit (({ s with audit := { s.audit with tr := s.turnRecord } } : State).traceItem 0x01 s.turnRecord) 0x02
    (({ s with audit := { s.audit with tr := s.turnRecord } } : State).traceItem 0x01 s.turnRecord).budgetRecord
  rw [hl] at hm
  exact ⟨m, hm⟩

/-- The head ends with the window open and the record of the turn that it has set up. -/
theorem State.recordHead_opens (s : State) : s.recordHead.turn.phase = .window ∧ s.recordHead.turn.partNow = []
    ∧ s.recordHead.audit.tr = s.recordHead.turnRecord := by
  refine ⟨rfl, rfl, ?_⟩
  obtain ⟨l, hl⟩ := s.recordHead_audit
  have hrecord : s.recordHead.turnRecord = s.turnRecord :=
    State.turnRecord_congr (by simp [State.recordHead]) (by simp [State.recordHead]) (by rw [hl]) (by rw [hl])
  rw [hrecord, hl]

theorem State.liveHead_opens (s : State) (h : HeadIn) : (s.liveHead h).turn.phase = .window ∧ (s.liveHead h).turn.partNow = []
    ∧ (s.liveHead h).audit.tr = (s.liveHead h).turnRecord := State.recordHead_opens _

theorem State.replayHead_diverged {s : State} (h : s.flag audDiverged = true) (x : HeadIn) : s.replayHead x = s := if_pos h

/-- Settles O24: a head of live work ends by recording the turn, and a diverged replay leaves what host software stored. -/
theorem turnHeadOpensTheWindow : Obligations.TurnHeadOpensTheWindow := by
  intro s h host
  rw [exec_turnHead]
  refine ⟨fun hready hphase hreplay => ?_, fun hready hphase hreplay hdiverged => ?_, fun hno => ?_⟩
  · rw [if_pos (by simp [State.isReady, hready, hphase]), if_neg (by simp [hreplay])]
    exact ⟨_, rfl, (s.hostStored h).liveHead_opens h⟩
  · rw [if_pos (by simp [State.isReady, hready, hphase]), if_pos hreplay]
    exact congrArg Host.Outcome.next (State.replayHead_diverged (s := s.hostStored h) hdiverged h)
  · exact if_neg (by rcases hno with h | h <;> simp [State.isReady, h])

end Sys2Proof.Machine
end

section
/-! SUPPORT. The turn tail (10 R270, R271, R283): the budget that it publishes, and the stretch. -/

namespace Sys2Proof.Machine

/-! ### The terms of the budget -/

theorem kappaOf_bounds (h : List (Nat × Nat)) : 256 ≤ kappaOf h ∧ kappaOf h ≤ 320 := by
  unfold kappaOf
  dsimp only
  split <;> omega

theorem lastOf_length {α : Type} (n : Nat) (l : List α) : (lastOf n l).length ≤ n := by
  rw [lastOf, List.length_drop]
  omega

theorem lastOf_concat {α : Type} {n : Nat} (hn : 0 < n) (l : List α) (x : α) : (lastOf n (l ++ [x])).getLast? = some x := by
  rw [lastOf, List.getLast?_drop, if_neg (by simp; omega), List.getLast?_concat]

theorem foldl_le_init {β : Type} {f : Nat → β → Nat} (h : ∀ n b, f n b ≤ n) : ∀ (l : List β) (n : Nat), l.foldl f n ≤ n
  | [], _ => le_rfl
  | b :: l, n => (foldl_le_init h l (f n b)).trans (h n b)

theorem State.shareLimit_le (s : State) (e : Nat) : s.shareLimit e ≤ e := foldl_le_init (fun _ _ => Nat.min_le_left _ _) _ _

/-- The state with the histories of the turn that ends, and the projection of its temperatures. -/
def State.remembered (s : State) (x : TailIn) (est : Nat) : State :=
  let hist := lastOf 16 (s.turn.fixHist ++ [x.fixUj])
  { s with
    thermal := { s.thermal with
      proj := (List.range 152).map (fun i => (i, Config.thermalProject i ((List.range 152).map (fun i => SMap.get 0 s.thermal.temps i)))) }
    turn := { s.turn with
      fixHist := hist
      kappaHist := lastOf 64 (s.turn.kappaHist ++ [(x.drawnUj - sumNat hist / max 1 hist.length, est)]) } }

/-- E_FIX: the mean of the history of power not driven by slices. -/
def State.eFix (s : State) : Nat := sumNat s.turn.fixHist / max 1 s.turn.fixHist.length

/-- E_CEIL. -/
def State.eCeil (s : State) : Nat := s.fld tlsCeilW * s.turn.ticks / 100

/-- E_IN: input power in mW, held to its cap, over the turn. -/
def State.eIn (s : State) (vinMv : Nat) : Nat :=
  (if s.fld tlsIncapW = 0 then vinMv * 36 else min (vinMv * 36) (1000 * s.fld tlsIncapW)) * s.turn.ticks / 100000

/-- E_NEXT. -/
def State.eNext (s : State) (vinMv : Nat) : Nat := s.shareLimit (min s.eCeil (min s.eTh (s.eIn vinMv)) - s.eFix)

theorem State.eNext_le (s : State) (vinMv : Nat) : s.eNext vinMv ≤ s.eCeil ∧ s.eNext vinMv ≤ s.eIn vinMv := by
  have h := s.shareLimit_le (min s.eCeil (min s.eTh (s.eIn vinMv)) - s.eFix)
  unfold State.eNext
  omega

/-- A quantity as a register of 32 bits shows it. -/
def shown (x : Nat) : Nat := min x 0xFFFFFFFF

theorem shown_mod (x : Nat) : shown x % 2 ^ 32 = shown x := Nat.mod_eq_of_lt (by unfold shown; omega)

theorem shown_le {x y : Nat} (h : x ≤ y) : shown x ≤ shown y := min_le_min_right _ h

/-- The registers of the budget, from the histories in force. -/
def State.showBudget (s : State) (vinMv : Nat) : State :=
  (((((s.setFld tlsECeil (shown s.eCeil)).setFld tlsETh (shown s.eTh)).setFld tlsEIn (shown (s.eIn vinMv))).setFld tlsEFix (shown s.eFix)).setFld
    tlsENext (shown (s.eNext vinMv))).setFld tlsKappa (kappaOf s.turn.kappaHist)

theorem State.publishBudget_eq (s : State) (x : TailIn) (est : Nat) :
    s.publishBudget x est = (s.remembered x est).showBudget x.vinMv := by
  unfold State.publishBudget
  extract_lets temps hist fix turn thermal s1 ceil cap mw ein th word s2
  have hs : s.remembered x est = s1 := rfl
  have hfix : s1.eFix = fix := rfl
  rw [hs]
  clear_value s1
  have hein : s1.eIn x.vinMv = ein := rfl
  unfold State.showBudget State.eNext
  rw [hfix, hein]
  rfl

theorem State.showBudget_flds (s : State) (vinMv : Nat) :
    (s.showBudget vinMv).fld tlsECeil = shown s.eCeil ∧ (s.showBudget vinMv).fld tlsEIn = shown (s.eIn vinMv)
      ∧ (s.showBudget vinMv).fld tlsEFix = shown s.eFix ∧ (s.showBudget vinMv).fld tlsENext = shown (s.eNext vinMv)
      ∧ (s.showBudget vinMv).fld tlsKappa = kappaOf s.turn.kappaHist
      ∧ ∀ g : RegField, g.off < 0x30100 → (s.showBudget vinMv).fld g = s.fld g := by
  have hkappa : kappaOf s.turn.kappaHist % 2 ^ tlsKappa.width = kappaOf s.turn.kappaHist :=
    Nat.mod_eq_of_lt (Nat.lt_of_le_of_lt (kappaOf_bounds _).2 (by decide))
  unfold State.showBudget
  refine ⟨?_, ?_, ?_, ?_, ?_, fun g hg => ?_⟩
  · iterate 5 rw [State.fld_setFld_other _ (by decide) _ (by decide)]
    exact (State.fld_setFld s (by decide) _).trans (shown_mod _)
  · iterate 3 rw [State.fld_setFld_other _ (by decide) _ (by decide)]
    exact (State.fld_setFld _ (by decide) _).trans (shown_mod _)
  · iterate 2 rw [State.fld_setFld_other _ (by decide) _ (by decide)]
    exact (State.fld_setFld _ (by decide) _).trans (shown_mod _)
  · rw [State.fld_setFld_other _ (by decide) _ (by decide)]
    exact (State.fld_setFld _ (by decide) _).trans (shown_mod _)
  · exact (State.fld_setFld _ (by decide) _).trans hkappa
  · have hoff : ∀ n, 0x30100 ≤ n → g.off ≠ n := fun n hn => by omega
    iterate 6 rw [State.fld_setFld_other _ (by decide) _ (.inl (hoff _ (by decide)))]

/-! ### The tail -/

/-- The state in which the tail publishes the budget, once the turn's slices, works and records are dealt with. -/
def State.tailDone (s : State) (x : TailIn) : State :=
  let fails := x.recordFails.map (fun e => e.1.val)
  let t := s.replayAborts.tailAborts.commitSlices
  let u := (t.releaseWords.clearPlaced.adminFinish.settle.publish fails).dropRings
  ((u.chainStep.replayCheck t.ranSlices).sealTail.flushTrace.releaseEvents fails).sendMsix

/-- The registers at the end of the tail. -/
def State.tailShown (s : State) (x : TailIn) : State := (s.showBudget x.vinMv).setFld clkCoreMhz x.coreMhz.toNat

/-- The end of the tail. -/
def State.tailEnd (s : State) (x : TailIn) : State := { s.tailShown x with turn := { (s.tailShown x).turn with phase := .done } }

theorem State.tailBody_eq (s : State) (x : TailIn) : s.tailBody x = ((s.tailDone x).remembered x s.estimated).tailEnd x := by
  unfold State.tailEnd State.tailShown
  rw [← State.publishBudget_eq]
  rfl

theorem State.fld_withTurn (s : State) (t : Turn) (g : RegField) : ({ s with turn := t } : State).fld g = s.fld g := rfl

theorem State.tailEnd_coreMhz (s : State) (x : TailIn) : (s.tailEnd x).fld clkCoreMhz = x.coreMhz.toNat := by
  rw [State.tailEnd, State.fld_withTurn, State.tailShown, State.fld_setFld _ (by decide)]
  exact Nat.mod_eq_of_lt x.coreMhz.isLt

theorem State.tailEnd_fld (s : State) (x : TailIn) {g : RegField} (hg : clkCoreMhz.apart g) :
    (s.tailEnd x).fld g = (s.showBudget x.vinMv).fld g := by
  rw [State.tailEnd, State.fld_withTurn, State.tailShown, State.fld_setFld_other _ (by decide) _ hg]

theorem exec_turnTail (x : TailIn) (s : State) : exec (.turnTail x) s = if s.isReady && decide (s.turn.phase = .window) then
    if s.stretches && !s.turn.stretched then .next s.stretch else .next (s.tailBody x) else .next s := rfl

/-- The histories that the tail keeps, of which its own turn is the last. -/
theorem State.remembered_histories (s : State) (x : TailIn) (est : Nat) :
    (s.remembered x est).turn.kappaHist.length ≤ 64 ∧ (s.remembered x est).turn.fixHist.length ≤ 16
      ∧ (s.remembered x est).turn.fixHist.getLast? = some x.fixUj :=
  ⟨lastOf_length 64 _, lastOf_length 16 _, lastOf_concat (by decide) _ _⟩

theorem State.eFix_of_last {s : State} {y : Nat} (h : s.turn.fixHist.getLast? = some y) :
    s.eFix = sumNat s.turn.fixHist / s.turn.fixHist.length := by
  have hne : s.turn.fixHist ≠ [] := fun he => by simp [he] at h
  rw [State.eFix, Nat.max_eq_right (List.length_pos_iff.mpr hne)]

/-- What the registers show at the end of a tail follows from the histories in force. -/
theorem State.tailEnd_shows {s : State} {x : TailIn} (hlast : s.turn.fixHist.getLast? = some x.fixUj) :
    (s.tailEnd x).fld tlsKappa = kappaOf s.turn.kappaHist
      ∧ (s.tailEnd x).fld tlsEFix = shown (sumNat s.turn.fixHist / s.turn.fixHist.length)
      ∧ (s.tailEnd x).fld tlsECeil = shown ((s.tailEnd x).fld tlsCeilW * s.turn.ticks / 100)
      ∧ (s.tailEnd x).fld tlsEIn = shown ((if (s.tailEnd x).fld tlsIncapW = 0 then x.vinMv * 36
          else min (x.vinMv * 36) (1000 * (s.tailEnd x).fld tlsIncapW)) * s.turn.ticks / 100000)
      ∧ (s.tailEnd x).fld tlsENext ≤ (s.tailEnd x).fld tlsECeil ∧ (s.tailEnd x).fld tlsENext ≤ (s.tailEnd x).fld tlsEIn := by
  obtain ⟨hceil, hein, hfix, hnext, hkappa, hkept⟩ := s.showBudget_flds x.vinMv
  obtain ⟨hnextCeil, hnextIn⟩ := s.eNext_le x.vinMv
  rw [s.tailEnd_fld x (g := tlsKappa) (by decide), s.tailEnd_fld x (g := tlsEFix) (by decide), s.tailEnd_fld x (g := tlsECeil) (by decide),
    s.tailEnd_fld x (g := tlsEIn) (by decide), s.tailEnd_fld x (g := tlsENext) (by decide), s.tailEnd_fld x (g := tlsCeilW) (by decide),
    s.tailEnd_fld x (g := tlsIncapW) (by decide), hkappa, hfix, hceil, hein, hnext, hkept tlsCeilW (by decide), hkept tlsIncapW (by decide),
    State.eFix_of_last hlast]
  exact ⟨rfl, rfl, rfl, rfl, shown_le hnextCeil, shown_le hnextIn⟩

/-! ### The stretch -/

/-- The turn with a second interval, before any slice is charged. -/
def State.overrun (s : State) : State :=
  let t := (s.bump hstTurnOverrun 1).event 0x03 0 0 0 0
  { t with turn := { t.turn with stretched := true } }

theorem State.stretch_eq (s : State) : s.stretch = s.overrun.chargeAll Placed.hasRun 1 := rfl

theorem State.overrun_turn (s : State) : s.overrun.turn = { s.turn with stretched := true } := by simp [State.overrun]

theorem State.charges.statuses {t s : State} (h : t.charges s) : t.turn.placed.map (fun p => p.st) = s.turn.placed.map (fun p => p.st) := by
  refine List.ext_getElem? fun i => ?_
  obtain ⟨l, hl⟩ := h.placed i
  simp only [State.placedAt] at hl
  rw [List.getElem?_map, List.getElem?_map, hl, Option.map_map]
  rfl

/-- Settles O25: the budget is published from the histories with the turn's own entry, and a stretch charges what has run. -/
theorem turnTailEndsTheTurn : Obligations.TurnTailEndsTheTurn := by
  refine ⟨fun s x hready hphase hends => ?_, fun s x => ⟨fun hready hphase hover hfirst => ?_, fun hno => ?_⟩, fun s => ?_⟩
  · refine ⟨s.tailBody x, ?_, ?_⟩
    · rw [exec_turnTail, if_pos (by simp [State.isReady, hready, hphase]), if_neg (by rcases hends with h | h <;> simp [h])]
    · obtain ⟨hkappas, hfixes, hlast⟩ := (s.tailDone x).remembered_histories x s.estimated
      rw [State.tailBody_eq]
      generalize (s.tailDone x).remembered x s.estimated = t at hkappas hfixes hlast
      obtain ⟨hkappa, hfix, hceil, hein, hnextCeil, hnextIn⟩ := State.tailEnd_shows hlast
      obtain ⟨hlow, hhigh⟩ := kappaOf_bounds t.turn.kappaHist
      rw [← hkappa] at hlow hhigh
      exact ⟨rfl, t.tailEnd_coreMhz x, hkappa, hlow, hhigh, hkappas, hfixes, hlast, hfix, hceil, hein, hnextCeil, hnextIn⟩
  · have hcharges := State.charges_chargeAll s.overrun Placed.hasRun 1
    refine ⟨s.overrun.chargeAll Placed.hasRun 1, ?_, ?_, ?_, ?_, ?_, ?_, ?_, ?_, ?_⟩
    · rw [exec_turnTail, if_pos (by simp [State.isReady, hready, hphase]), if_pos (by simp [hover, hfirst]), State.stretch_eq]
    · rw [hcharges.turn, State.overrun_turn]
    · rw [hcharges.turn, State.overrun_turn]
      exact hphase
    · rw [hcharges.fld _ (by decide), ← State.fld_bump s (by decide) 1]
      exact State.fld_congr (by simp [State.overrun]) _
    · rw [hcharges.statuses, State.overrun_turn]
    · exact hcharges.works.trans (by simp [State.overrun])
    · exact hcharges.cores.trans (by simp [State.overrun])
    · exact hcharges.hbm.trans (by simp [State.overrun])
    · exact hcharges.host.trans (by simp [State.overrun])
  · rw [exec_turnTail, if_neg (by rcases hno with h | h <;> simp [State.isReady, h])]
  · show execVoltageRaise s = _
    simp only [execVoltageRaise, State.isReady, State.vddOf, Bool.and_eq_true, decide_eq_true_eq, and_assoc]
    split <;> rfl

end Sys2Proof.Machine
end

section
/-! SUPPORT. The start of a placed slice (10 R263): its cores take it up fresh, each with its own context. -/

namespace Sys2Proof.Machine

/-- Cores of a list, each updated by a function of its place in the list. -/
def State.updEach (s : State) (f : Nat → Nat → Core → Core) (l : List (Nat × Nat)) : State :=
  l.foldl (fun t cj => t.updCore cj.1 (f cj.2 cj.1)) s

theorem State.updEach_only (f : Nat → Nat → Core → Core) : ∀ (l : List (Nat × Nat)) (s : State), ∃ m, s.updEach f l = { s with cores := m }
  | [], s => ⟨s.cores, rfl⟩
  | (c, j) :: l, s => State.updEach_only f l (s.updCore c (f j c))

theorem State.core_updEach_other (f : Nat → Nat → Core → Core) {d : Nat} : ∀ (l : List (Nat × Nat)) (s : State), (∀ e ∈ l, e.1 ≠ d) →
    (s.updEach f l).core d = s.core d
  | [], _, _ => rfl
  | (c, j) :: l, s, h => by
    obtain ⟨hc, hl⟩ := List.forall_mem_cons.mp h
    show ((s.updCore c (f j c)).updEach f l).core d = _
    rw [State.core_updEach_other f l _ hl, State.updCore, State.core_setCore, if_neg (Ne.symm hc)]

theorem State.core_updEach (f : Nat → Nat → Core → Core) {d j : Nat} (l : List (Nat × Nat)) (s : State) (hnodup : (l.map Prod.fst).Nodup)
    (hmem : (d, j) ∈ l) : (s.updEach f l).core d = f j d (s.core d) := by
  induction l generalizing s with
  | nil => exact absurd hmem List.not_mem_nil
  | cons e l ih =>
    obtain ⟨c, n⟩ := e
    obtain ⟨hc, hl⟩ := List.nodup_cons.mp hnodup
    have hother : ∀ e ∈ l, e.1 ≠ c := fun e he h => hc (List.mem_map.mpr ⟨e, he, h⟩)
    show ((s.updCore c (f n c)).updEach f l).core d = _
    rcases List.mem_cons.mp hmem with he | hmem
    · obtain ⟨rfl, rfl⟩ := Prod.mk.inj he
      rw [State.core_updEach_other f l _ hother, State.updCore, State.core_setCore_self]
    · have hne : d ≠ c := hother (d, j) hmem
      rw [ih _ hl hmem, State.updCore, State.core_setCore, if_neg hne]

/-- What the `j`-th core `c` of placed slice `i` becomes as the slice starts. -/
def State.startedCore (s : State) (i : Nat) (q : Placed) (w : Work) (im : Image) (j c : Nat) (k : Core) : Core :=
  let ctx := sliceCtx i j q w im (s.seedOf w + 2 ^ 2048 * q.slice)
  k.startSlice ctx (SMap.get [] w.chain.counters ctx.logical) (if q.fold2 then im.body2 else im.body)
    (if q.fold2 then SMap.get [] w.chain.counters (ctx.logical + 1) else []) (s.bodyAfter i c)

/-- The state with the cores of placed slice `i` started, and the slice running. -/
def State.sliceStarted (s : State) (i : Nat) (q : Placed) (w : Work) (im : Image) : State :=
  (s.updEach (s.startedCore i q w im) (q.cores.zip (List.range q.cores.length))).updPlaced i (fun p => { p with st := .running })

theorem sliceCtx_logical (i j : Nat) (q : Placed) (w : Work) (im : Image) (seed : Nat) :
    (sliceCtx i j q w im seed).logical = (sliceCtx i j q w im).logical := rfl

theorem State.startedCore_counters (s : State) (i : Nat) (q : Placed) (w : Work) (im : Image) (j c : Nat) (k : Core) :
    (s.startedCore i q w im j c k).counters = SMap.get [] w.chain.counters (sliceCtx i j q w im).logical := by
  rw [State.startedCore, sliceCtx_logical]
  rfl

section
variable {s : State} {i : Nat} {q : Placed} {w : Work} {im : Image} (hplaced : s.placedAt i = some q)
include hplaced

/-- Where the brake is engaged a slice is charged as it starts. -/
theorem State.startPlaced_charges (hw : s.findWork q.ring q.seq = some w) (him : s.imageOf w q.slice = some im) (hst : q.st = .placed)
    (hphase : s.turn.phase = .window) (hstretched : s.turn.stretched = false) (hfree : ∀ c ∈ q.cores, s.coreBusy c = false) :
    (s.startPlaced i).charges (s.sliceStarted i q w im) := by
  have hstarts : s.startPlaced i = if s.flag tlsBrake && !(s.flag audReplayActive) then (s.sliceStarted i q w im).ndPlaced i 0
      else s.sliceStarted i q w im := by
    unfold State.startPlaced
    simp only [hplaced, hw, him]
    rw [if_pos ⟨hst, hphase, by simp [hstretched], by simpa using hfree⟩]
    rfl
  rw [hstarts]
  split
  · exact State.charges_ndPlaced _ i 0
  · exact .refl _

theorem State.sliceStarted_placedAt : (s.sliceStarted i q w im).placedAt i = some { q with st := .running } := by
  obtain ⟨m, hm⟩ := State.updEach_only (s.startedCore i q w im) (q.cores.zip (List.range q.cores.length)) s
  simp only [State.placedAt] at hplaced
  simp [State.sliceStarted, hm, State.placedAt, hplaced]

end

theorem State.sliceStarted_rest (s : State) (i : Nat) (q : Placed) (w : Work) (im : Image) :
    (s.sliceStarted i q w im).works = s.works ∧ (s.sliceStarted i q w im).hbm = s.hbm ∧ (s.sliceStarted i q w im).mesh = s.mesh
      ∧ (s.sliceStarted i q w im).host = s.host := by
  obtain ⟨m, hm⟩ := State.updEach_only (s.startedCore i q w im) (q.cores.zip (List.range q.cores.length)) s
  rw [State.sliceStarted, hm]
  exact ⟨rfl, rfl, rfl, rfl⟩

theorem State.sliceStarted_core (s : State) (i : Nat) {q : Placed} (w : Work) (im : Image) (hnodup : q.cores.Nodup) {j c : Nat}
    (hc : q.cores[j]? = some c) : (s.sliceStarted i q w im).core c = s.startedCore i q w im j c (s.core c) := by
  refine State.core_updEach (s.startedCore i q w im) _ s ?_ ?_
  · rwa [List.map_fst_zip (by simp)]
  · obtain ⟨hlt, rfl⟩ := List.getElem?_eq_some_iff.mp hc
    exact List.mem_iff_getElem.mpr ⟨j, by simpa using hlt, by simp⟩

theorem State.sliceStarted_other (s : State) (i : Nat) {q : Placed} (w : Work) (im : Image) {c : Nat} (hc : c ∉ q.cores) :
    (s.sliceStarted i q w im).core c = s.core c :=
  State.core_updEach_other _ _ s fun _ he h => hc (h ▸ (List.of_mem_zip he).1)

/-- Settles O12: the cores are those of `startSlice`, and a charge under the brake touches none of them. -/
theorem sliceStartStarts : Obligations.SliceStartStarts := by
  intro s i q w im hplaced hw him hst hphase hstretched hfree hnodup
  have hcharges := State.startPlaced_charges hplaced hw him hst hphase hstretched hfree
  obtain ⟨l, hl⟩ := hcharges.placed i.val
  obtain ⟨hworks, hhbm, hmesh, hhost⟩ := s.sliceStarted_rest i.val q w im
  have hcore : ∀ c, (s.startPlaced i.val).core c = (s.sliceStarted i.val q w im).core c := fun c => by
    rw [State.core, State.core, hcharges.cores]
  rw [State.sliceStarted_placedAt hplaced] at hl
  refine ⟨s.startPlaced i.val, _, rfl, hl, rfl, rfl, fun j c hc => ?_, fun c hc => ?_, hcharges.works.trans hworks,
    hcharges.hbm.trans hhbm, hcharges.mesh.trans hmesh, hcharges.host.trans hhost⟩
  · rw [hcore, State.sliceStarted_core s i.val w im hnodup hc]
    exact ⟨rfl, rfl, rfl, rfl, rfl, rfl, rfl, rfl, rfl, rfl, rfl, rfl, State.startedCore_counters _ _ _ _ _ _ _ _, rfl, rfl⟩
  · rw [hcore, State.sliceStarted_other s i.val w im hc]

end Sys2Proof.Machine
end

section
/-! SUPPORT. Failures of a core, of the Headstock engine, of the management processor and of a flash (10 R285, R286; 13 R352, R360). -/

namespace Sys2Proof.Machine

/-! ### What the loss of a core costs accepted work -/

theorem foldl_keeps {σ β γ : Type} (g : σ → γ) {f : σ → β → σ} (h : ∀ s b, g (f s b) = g s) (l : List β) (s : σ) :
    g (l.foldl f s) = g s := by
  induction l generalizing s with
  | nil => rfl
  | cons b l ih => rw [List.foldl_cons, ih, h]

/-- Slices end and works change, as in `endsSlices`, and no core enters or leaves service. -/
structure State.costsWork (t s : State) : Prop extends State.endsSlices t s where
  witness : t.witness = s.witness

theorem State.costsWork.refl (s : State) : s.costsWork s := ⟨.refl s, rfl⟩

theorem State.costsWork.trans {a b c : State} (h : c.costsWork b) (g : b.costsWork a) : c.costsWork a :=
  ⟨h.toendsSlices.trans g.toendsSlices, h.witness.trans g.witness⟩

theorem State.costsWork_foldl {β : Type} {f : State → β → State} (h : ∀ s b, (f s b).costsWork s) (l : List β) (s : State) :
    (l.foldl f s).costsWork s :=
  ⟨State.endsSlices_foldl (fun s b => (h s b).toendsSlices) l s, foldl_keeps State.witness (fun s b => (h s b).witness) l s⟩

theorem State.costsWork_updWork (s : State) (r q : Nat) (f : Work → Work) : (s.updWork r q f).costsWork s :=
  ⟨State.endsSlices_updWork s r q f, rfl⟩

theorem State.costsWork_bump (s : State) (f : RegField) (n : Nat) : (s.bump f n).costsWork s := ⟨State.endsSlices_bump s f n, rfl⟩

theorem State.costsWork_event (s : State) (a b c d e : Nat) : (s.event a b c d e).costsWork s :=
  ⟨⟨by simp, by simp, by simp, fun x => by simp [State.core], fun _ _ h => h.congr (by simp) (by simp)⟩, by simp⟩

theorem State.costsWork_disarm (s : State) (w : Work) (l : List Nat) : (s.disarm w l).costsWork s :=
  ⟨State.endsSlices_disarm s w l,
    foldl_keeps State.witness (f := fun t c => t.updCore c fun k => { k with engines := [] }) (fun _ _ => rfl) _ s⟩

theorem State.costsWork_abortSlice (s : State) (i cause : Nat) (st : Option Nat) : (s.abortSlice i cause st).costsWork s := by
  refine ⟨State.endsSlices_abortSlice s i cause st, ?_⟩
  unfold State.abortSlice
  split
  · rfl
  · next p _ =>
    split
    · obtain ⟨m, hm⟩ := State.stopCores_only (fun k => if k.ctx.work = some i then k.stop true else k) p.cores s
      simp [hm]
    · rfl

theorem State.costsWork_abortWork (s : State) (w : Work) (cause : Nat) : (s.abortWork w cause).costsWork s := by
  refine State.costsWork_foldl (fun t i => ?_) _ _
  split
  · split
    · exact State.costsWork_abortSlice t i cause none
    · exact .refl t
  · exact .refl t

theorem State.costsWork_offcutLost (s : State) (w : Work) (segs : List Nat) : (s.offcutLost w segs).costsWork s := by
  unfold State.offcutLost
  split
  · exact .refl s
  · dsimp only
    refine (State.costsWork_updWork _ _ _ _).trans ?_
    split
    · exact State.costsWork_abortWork s w 1
    · exact .refl s

theorem State.costsWork_ndSpare (s : State) (w : Work) (n : Nat) : (s.ndSpare w n).costsWork s :=
  (State.costsWork_updWork _ _ _ _).trans
    (State.costsWork_foldl (fun t _ => (State.costsWork_event _ _ _ _ _ _).trans (State.costsWork_bump t _ _)) _ s)

theorem State.costsWork_restartChain (s : State) (w : Work) : (s.restartChain w).costsWork s :=
  (State.costsWork_bump _ _ _).trans ((State.costsWork_updWork _ _ _ _).trans ((State.costsWork_disarm _ _ _).trans
    ((State.costsWork_ndSpare _ _ _).trans (State.costsWork_abortWork s w 4))))

theorem State.costsWork_pinLost (s : State) (c : Nat) (w : Work) : (s.pinLost c w).costsWork s := by
  unfold State.pinLost
  split
  · exact .refl s
  · split
    · exact .refl s
    · split
      · exact State.costsWork_restartChain s w
      · dsimp only
        refine (State.costsWork_updWork _ _ _ _).trans ?_
        split
        · exact .refl s
        · exact State.costsWork_offcutLost s w _

theorem State.costsWork_ndCarried (s : State) (i k : Nat) : (s.ndCarried i k).costsWork s := by
  unfold State.ndCarried
  split
  · exact (State.costsWork_updWork _ _ _ _).trans ((State.costsWork_event _ _ _ _ _ _).trans (State.costsWork_bump s _ _))
  · exact .refl s

theorem State.ndCarried_placedAt (s : State) (i k j : Nat) : (s.ndCarried i k).placedAt j = s.placedAt j := by
  unfold State.ndCarried
  split <;> simp [State.placedAt, State.nondet]

/-! ### The slices on a core that fails -/

/-- Placed slice `i` aborts where it is active on core `c` (R285); its work carries ND_SPARE. -/
def State.failSlice (c : Nat) (s : State) (i : Nat) : State :=
  match s.placedAt i with
  | some p => if p.cores.contains c && p.active then (s.ndCarried i 5).abortSlice i 4 none else s
  | none => s

theorem State.costsWork_failSlice (c : Nat) (s : State) (i : Nat) : (s.failSlice c i).costsWork s := by
  unfold State.failSlice
  split
  · split
    · exact (State.costsWork_abortSlice _ _ _ _).trans (State.costsWork_ndCarried s i 5)
    · exact .refl s
  · exact .refl s

theorem State.failSlice_other (c : Nat) (s : State) {i j : Nat} (h : j ≠ i) : (s.failSlice c i).placedAt j = s.placedAt j := by
  unfold State.failSlice
  split
  · split
    · rw [(State.abortSlice_turn _ i 4 none).2 j h, State.ndCarried_placedAt]
    · rfl
  · rfl

theorem State.failSlice_aborted {s : State} {c i : Nat} {p : Placed} (hp : s.placedAt i = some p) (ha : p.active = true) (hc : c ∈ p.cores) :
    (s.failSlice c i).aborted i 4 := by
  have hcond : (p.cores.contains c && p.active) = true := by simp [hc, ha]
  simp only [State.failSlice, hp, hcond, if_true]
  exact (State.abortSlice_spec _ i 4 none ((s.ndCarried_placedAt i 5 i).trans hp) ha).1

theorem State.foldl_failSlice_aborted {c i : Nat} {p : Placed} (ha : p.active = true) (hc : c ∈ p.cores) : ∀ (l : List Nat) (s : State),
    s.placedAt i = some p → i ∈ l → (l.foldl (State.failSlice c) s).aborted i 4
  | [], _, _, hi => absurd hi List.not_mem_nil
  | j :: l, s, hp, hi => by
    by_cases hj : i = j
    · subst hj
      exact (State.costsWork_foldl (State.costsWork_failSlice c) l _).aborted i 4 (State.failSlice_aborted hp ha hc)
    · exact State.foldl_failSlice_aborted ha hc l _ ((State.failSlice_other c s hj).trans hp) ((List.mem_cons.mp hi).resolve_left hj)

/-! ### The core itself -/

/-- Core `c` out of service, with its entry in the repair map and the record of it. -/
def State.coreOutNoted (s : State) (c : Nat) : State :=
  ((({ s with witness := { s.witness with coreState := SMap.set 0 s.witness.coreState c 1 } } : State).repair 1 c 0 0).log .coreFailed
    { inst := c })

theorem State.sameBody_coreOutNoted (s : State) (c : Nat) : (s.coreOutNoted c).sameBody
    { s with witness := { s.witness with coreState := SMap.set 0 s.witness.coreState c 1 } } :=
  (State.sameBody_log _ _ _).trans (State.sameBody_repair _ _ _ _ _)

theorem State.coreOutNoted_tells (s : State) (c : Nat) : (s.coreOutNoted c).tells s.turn.number .coreFailed c := by
  have htold := State.log_tells (({ s with witness := { s.witness with coreState := SMap.set 0 s.witness.coreState c 1 } } : State).repair
    1 c 0 0) .coreFailed { inst := c } (by decide)
  rwa [(State.sameBody_repair _ _ _ _ _).turn] at htold

/-- The slices on a core that fails have aborted. -/
def State.coreAborted (s : State) (c : Nat) : State :=
  (List.range (s.coreOutNoted c).turn.placed.length).foldl (State.failSlice c) (s.coreOutNoted c)

/-- What a core's failure leaves: its slices aborted, and what it costs the works whose chains are pinned to it. -/
def State.coreGone (s : State) (c : Nat) : State := (s.coreAborted c).works.foldl (fun t w => t.pinLost c w) (s.coreAborted c)

theorem exec_coreFailed (s : State) (c : Fin 144) :
    exec (.coreFailed c) s = if s.coreOut c.val ≠ 0 then .next s else .next (s.coreGone c.val) := rfl

theorem State.coreGone_costs (s : State) (c : Nat) : (s.coreGone c).costsWork (s.coreAborted c) ∧ (s.coreAborted c).costsWork (s.coreOutNoted c) :=
  ⟨State.costsWork_foldl (fun t w => State.costsWork_pinLost t c w) _ _, State.costsWork_foldl (State.costsWork_failSlice c) _ _⟩

theorem State.coreGone_aborted {s : State} {c i : Nat} {p : Placed} (hp : s.placedAt i = some p) (ha : p.active = true) (hc : c ∈ p.cores) :
    (s.coreGone c).aborted i 4 := by
  have hplaced : (s.coreOutNoted c).placedAt i = some p := by
    rw [State.placedAt, (s.sameBody_coreOutNoted c).turn]
    exact hp
  obtain ⟨hlt, -⟩ := List.getElem?_eq_some_iff.mp hplaced
  exact (s.coreGone_costs c).1.aborted i 4 (State.foldl_failSlice_aborted ha hc _ _ hplaced (List.mem_range.mpr hlt))

theorem State.coreGone_coreOut (s : State) (c d : Nat) : (s.coreGone c).coreOut d = if d = c then 1 else s.coreOut d := by
  obtain ⟨hgone, haborted⟩ := s.coreGone_costs c
  rw [State.coreOut, hgone.witness, haborted.witness, (s.sameBody_coreOutNoted c).witness]
  exact SMap.get_set 0 s.witness.coreState c 1 d

theorem State.coreGone_keeps (s : State) (c : Nat) : (s.coreGone c).tells s.turn.number .coreFailed c
    ∧ ∀ d, ((s.coreGone c).core d).mem = (s.core d).mem := by
  obtain ⟨hgone, haborted⟩ := s.coreGone_costs c
  refine ⟨(State.tells_congr (hgone.errs.trans haborted.errs) _ _ _).mpr (s.coreOutNoted_tells c), fun d => ?_⟩
  rw [hgone.mem, haborted.mem, State.core, (s.sameBody_coreOutNoted c).cores]
  rfl

/-! ### Standbys and flashes -/

/-- The first failure of the Headstock engine: counted, told of, and the standby in. -/
def State.hstTaken (s : State) : State :=
  let t := ((s.bump hstFailovers 1).setFld hstEngine (s.fld hstEngine + 1)).log .hstFailover {}
  { t.event 0x21 0 0 0 0 with power := { t.power with hstDead := true } }

theorem State.hstTaken_tells (s : State) : s.hstTaken.tells s.turn.number .hstFailover 0 :=
  (State.tells_congr (by simp [State.hstTaken]) _ _ _).mpr
    (State.log_tells ((s.bump hstFailovers 1).setFld hstEngine (s.fld hstEngine + 1)) .hstFailover {} (by decide))

theorem State.hstTaken_count (s : State) : s.hstTaken.fld hstFailovers = (s.fld hstFailovers + 1) % 2 ^ hstFailovers.width := by
  have hregs : s.hstTaken.regs = (((s.bump hstFailovers 1).setFld hstEngine (s.fld hstEngine + 1)).log .hstFailover {}).regs := by
    simp [State.hstTaken]
  rw [State.fld_congr hregs, State.fld_log _ _ _ (by decide) (by decide), State.fld_setFld_other _ (by decide) _ (by decide),
    State.fld_bump s (by decide)]

theorem State.hstTaken_body (s : State) : s.hstTaken.sameBody { s with power := { s.power with hstDead := true } } := by
  constructor <;> simp [State.hstTaken]

theorem exec_hstFailover {s : State} (h : s.power.hstDead = false) (afterStep4 : Bool) : exec (.hstFailover afterStep4) s
    = .next (if afterStep4 then s.hstTaken else { s.hstTaken with turn := { s.hstTaken.turn with noSlices := true } }) :=
  if_neg (by simp [h])

/-- The first failure of the management processor: counted, told of, the standby in, and a seal due. -/
def State.mpTaken (s : State) : State :=
  let t := (s.bump errMpTakeovers 1).log .mpTakeover {}
  { t with
    power := { t.power with mpDead := true }
    audit := { t.audit with reasons := t.audit.reasons ++ [3] } }

theorem State.mpTaken_count (s : State) : s.mpTaken.fld errMpTakeovers = (s.fld errMpTakeovers + 1) % 2 ^ errMpTakeovers.width :=
  (State.fld_log (s.bump errMpTakeovers 1) .mpTakeover {} (by decide) (by decide)).trans (State.fld_bump s (by decide) 1)

theorem State.mpTaken_tells (s : State) : s.mpTaken.tells s.turn.number .mpTakeover 0 :=
  State.log_tells (s.bump errMpTakeovers 1) .mpTakeover {} (by decide)

theorem exec_mpTakeover {s : State} (h : s.power.mpDead = false) (hnone : s.nv.activation = none) : exec .mpTakeover s = .next s.mpTaken := by
  have hact : s.mpTaken.nv.activation = none := by simp [State.mpTaken, hnone]
  show execMpTakeover s = _
  unfold execMpTakeover
  rw [if_neg (by simp [h])]
  extract_lets s1 power audit s2
  have hs2 : s2 = s.mpTaken := rfl
  rw [hs2, hact]

/-- A flash is out of service: `x` is the NV image without it, and `g` the flag that showed it. -/
def State.flashLost (s : State) (g : RegField) (x : Nv) : State :=
  ((({ s with nv := x } : State).setFlag g false).setFlag errNvOne true).log .nvDegraded {}

theorem State.flashLost_spec (s : State) {g : RegField} (hg : g = nviFlash0Ok ∨ g = nviFlash1Ok) (x : Nv) :
    (s.flashLost g x).sameBody s ∧ (s.flashLost g x).tells s.turn.number .nvDegraded 0 ∧ (s.flashLost g x).flag errNvOne = true
      ∧ (s.flashLost g x).nv = x ∧ (s.flashLost g x).flag g = false := by
  have hfield : g.fits ∧ g.width = 1 ∧ errNvOne.apart g ∧ errCeDrop.apart g ∧ errNvOverflow.apart g := by
    rcases hg with rfl | rfl <;> decide
  obtain ⟨hfits, hwidth, hone, hdrop, hoverflow⟩ := hfield
  refine ⟨?_, State.log_tells ((({ s with nv := x } : State).setFlag g false).setFlag errNvOne true) .nvDegraded {} (by decide), ?_, ?_, ?_⟩
  · exact (State.sameBody_log _ _ _).trans ((State.sameBody_setFlag _ _ _).trans ((State.sameBody_setFlag _ _ _).trans (State.sameBody_nv s x)))
  · exact (State.flag_log _ _ _ (by decide) (by decide)).trans (State.flag_setFlag _ (by decide) rfl true)
  · simp [State.flashLost]
  · exact (State.flag_log _ _ _ hdrop hoverflow).trans ((State.flag_setFlag_other _ (by decide) true hone).trans
      (State.flag_setFlag _ hfits hwidth false))

theorem exec_nvDegraded (s : State) :
    exec (.nvDegraded 0) s = .next (s.flashLost nviFlash0Ok { s.nv with flash0 := { s.nv.flash0 with ok := false } })
      ∧ exec (.nvDegraded 1) s = .next (s.flashLost nviFlash1Ok { s.nv with flash1 := { s.nv.flash1 with ok := false } }) := ⟨rfl, rfl⟩

/-- Settles O23: a core's slices abort in a state in which it is out of service, and a first failure of a standby's part is not fatal. -/
theorem coresAndStandbysFail : Obligations.CoresAndStandbysFail := by
  refine ⟨fun s c => ⟨fun hout => ?_, fun hin => ?_⟩, fun s => ⟨fun after hfirst => ?_, fun after hdead => ?_, fun hfirst hnone => ?_,
    fun hdead => ?_, Fin.forall_fin_two.mpr ⟨?_, ?_⟩⟩⟩
  · rw [exec_coreFailed, if_pos hout]
  · obtain ⟨htold, hmem⟩ := s.coreGone_keeps c.val
    have hcore : (s.coreGone c.val).coreOut c.val = 1 := by rw [State.coreGone_coreOut, if_pos rfl]
    exact ⟨s.coreGone c.val, by rw [exec_coreFailed, if_neg (by simp [hin])], hcore, by simp [State.inService, hcore],
      fun d hd => by rw [State.coreGone_coreOut, if_neg hd], htold, hmem, fun i p hp ha hc => State.coreGone_aborted hp ha hc⟩
  · have hbody := s.hstTaken_body
    rw [exec_hstFailover hfirst]
    refine ⟨_, rfl, ?_⟩
    cases after
    · exact ⟨hbody.power, s.hstTaken_tells, s.hstTaken_count, congrArg (fun t : Turn => { t with noSlices := true }) hbody.turn,
        hbody.cores, hbody.works, hbody.hbm⟩
    · exact ⟨hbody.power, s.hstTaken_tells, s.hstTaken_count, hbody.turn, hbody.cores, hbody.works, hbody.hbm⟩
  · exact ⟨_, if_pos hdead, State.deviceFatal_started _ _ _⟩
  · refine ⟨_, exec_mpTakeover hfirst hnone, ?_, s.mpTaken_tells, s.mpTaken_count, ?_, ?_, ?_, ?_, ?_⟩ <;> simp [State.mpTaken]
  · exact ⟨_, if_pos hdead, State.deviceFatal_started _ _ _⟩
  · obtain ⟨hbody, htold, hone, hnv, hflag⟩ := s.flashLost_spec (.inl rfl) { s.nv with flash0 := { s.nv.flash0 with ok := false } }
    exact ⟨_, (exec_nvDegraded s).1, hbody, htold, hone, fun _ => ⟨by rw [hnv], by rw [hnv], hflag⟩, fun h => absurd h (by decide)⟩
  · obtain ⟨hbody, htold, hone, hnv, hflag⟩ := s.flashLost_spec (.inr rfl) { s.nv with flash1 := { s.nv.flash1 with ok := false } }
    exact ⟨_, (exec_nvDegraded s).2, hbody, htold, hone, fun h => absurd h (by decide), fun _ => ⟨by rw [hnv], by rw [hnv], hflag⟩⟩

end Sys2Proof.Machine
end

section
/-! SUPPORT. The journal's works, the ring table and the fields of a descriptor (11 R297, R306, R315): what each reads as after an update. -/

namespace Sys2Proof.Machine

/-! ### Works by ring and sequence number -/

theorem State.findWork_congr {s t : State} (h : t.works = s.works) (r q : Nat) : t.findWork r q = s.findWork r q := by
  simp only [State.findWork, h]

/-- Works that change but for their name are found as before. -/
theorem State.findWork_map {s t : State} {f : Work → Work} (hf : ∀ w, (f w).ring = w.ring ∧ (f w).seq = w.seq)
    (h : t.works = s.works.map f) (r q : Nat) : t.findWork r q = (s.findWork r q).map f := by
  simp only [State.findWork, h, List.find?_map, Function.comp_def, hf]

theorem State.findWork_updWork {s : State} {r q : Nat} {w : Work} {f : Work → Work} (h : s.findWork r q = some w)
    (hf : ∀ x, (f x).ring = x.ring ∧ (f x).seq = x.seq) : (s.updWork w.ring w.seq f).findWork r q = some (f w) := by
  rw [State.findWork_map (s := s) (f := fun x => if x.ring = w.ring ∧ x.seq = w.seq then f x else x)
    (fun x => by split <;> simp [hf]) rfl, h, Option.map_some, if_pos ⟨rfl, rfl⟩]

/-! ### Rings -/

theorem State.ring_congr {s t : State} (h : t.rings = s.rings) (n : Nat) : t.ring n = s.ring n := by rw [State.ring, h, State.ring]

theorem State.ring_setRing (s : State) (r : Nat) (x : Ring) (n : Nat) : (s.setRing r x).ring n = if n = r then some x else s.ring n :=
  SMap.get_set none s.rings r (some x) n

theorem State.ring_dropRing (s : State) (r n : Nat) : (s.dropRing r).ring n = if n = r then none else s.ring n :=
  SMap.get_set none s.rings r none n

theorem State.ringOwner_congr {s t : State} (h : t.regs = s.regs) (r : Nat) : t.ringOwner r = s.ringOwner r := by
  unfold State.ringOwner State.vfFirst State.vfCount
  simp only [State.fld_congr h]

theorem State.adminRing_congr {s t : State} (h : t.regs = s.regs) (f : Nat) : t.adminRing f = s.adminRing f := by
  unfold State.adminRing State.vfFirst State.vfCount
  rw [State.fld_congr h, State.fld_congr h]

theorem State.isAdminRing_congr {s t : State} (h : t.regs = s.regs) (r : Nat) : t.isAdminRing r = s.isAdminRing r := by
  rw [State.isAdminRing, State.isAdminRing, State.ringOwner_congr h, State.adminRing_congr h]

/-! ### Host memory -/

theorem Mem.readBytes_writeBytes_self (m : Mem) (a : Nat) (bs : List Byte) : (m.writeBytes a bs).readBytes a bs.length = bs := by
  induction bs generalizing m a with
  | nil => rfl
  | cons b bs ih =>
    refine List.cons_eq_cons.mpr ⟨?_, ih (m.writeByte a b) (a + 1)⟩
    exact (Mem.readByte_writeBytes m a (b :: bs) a).trans (by simp)

theorem Mem.readBytes_writeBytes_below (m : Mem) {a b n : Nat} (h : b + n ≤ a) (bs : List Byte) :
    (m.writeBytes a bs).readBytes b n = m.readBytes b n := by
  induction n generalizing b with
  | zero => rfl
  | succ n ih =>
    refine List.cons_eq_cons.mpr ⟨?_, ih (by omega)⟩
    exact (Mem.readByte_writeBytes m a bs b).trans (if_neg (by omega))

/-! ### Registers of a function's BAR0 -/

/-- A HIF field as it stands in function `f`'s BAR0. -/
def RegField.inFn (g : RegField) (f : Nat) : RegField := { g with off := hifKey f g }

theorem State.hif_setHif (s : State) (f : Nat) {g : RegField} (hg : g.fits) (x : Nat) : (s.setHif f g x).hif f g = x % 2 ^ g.width :=
  State.fld_setFld (f := g.inFn f) s hg x

/-! ### Fields of a descriptor -/

theorem fieldAt_append (l r : List Byte) {o : Nat} (h : l.length ≤ o) (n : Nat) : fieldAt (l ++ r) o n = fieldAt r (o - l.length) n := by
  rw [fieldAt, sliceBytes, List.drop_append, List.drop_eq_nil_of_le h, List.nil_append, fieldAt, sliceBytes]

theorem fieldAt_natToBytes (n x : Nat) (r : List Byte) : fieldAt (natToBytes n x ++ r) 0 n = x % 256 ^ n := by
  rw [fieldAt, sliceBytes, List.drop_zero, List.take_left' (natToBytes_length n x), bytesToNat_natToBytes]

theorem toNat_mod_bytes {w n : Nat} (x : BitVec w) (h : 256 ^ n = 2 ^ w) : x.toNat % 256 ^ n = x.toNat := by
  rw [h, Nat.mod_eq_of_lt x.isLt]

theorem runBytes_seq (d : RunDesc) : fieldAt (runBytes d) 0 8 = d.seq.toNat := by
  simp only [runBytes, List.append_assoc, le64]
  rw [fieldAt_natToBytes, toNat_mod_bytes _ (by norm_num)]

section
variable (op : Nat) (d : AdminDesc)

theorem adminBytes_seq : fieldAt (adminBytes op d) 0 8 = d.seq.toNat := by
  simp only [adminBytes, List.append_assoc, le64]
  rw [fieldAt_natToBytes, toNat_mod_bytes _ (by norm_num)]

theorem adminBytes_a : fieldAt (adminBytes op d) 0x08 4 = d.a.toNat := by
  simp only [adminBytes, List.append_assoc, le64, le32]
  rw [fieldAt_append _ _ (by simp), natToBytes_length, fieldAt_natToBytes, toNat_mod_bytes _ (by norm_num)]

theorem adminBytes_op : fieldAt (adminBytes op d) 0x0C 1 = op % 256 := by
  simp only [adminBytes, List.append_assoc, le64, le32]
  rw [fieldAt_append _ _ (by simp), fieldAt_append _ _ (by simp)]
  simp [fieldAt, sliceBytes, bytesToNat]

theorem adminBytes_b : fieldAt (adminBytes op d) 0x10 8 = d.b.toNat := by
  simp only [adminBytes, List.append_assoc, le64, le32, le16]
  iterate 4 rw [fieldAt_append _ _ (by simp)]
  simp only [natToBytes_length, List.length_cons, List.length_nil]
  rw [fieldAt_natToBytes, toNat_mod_bytes _ (by norm_num)]

theorem adminBytes_c : fieldAt (adminBytes op d) 0x18 8 = d.c.toNat := by
  simp only [adminBytes, List.append_assoc, le64, le32, le16]
  iterate 5 rw [fieldAt_append _ _ (by simp)]
  simp only [natToBytes_length, List.length_cons, List.length_nil]
  rw [fieldAt_natToBytes, toNat_mod_bytes _ (by norm_num)]

theorem adminBytes_d : fieldAt (adminBytes op d) 0x20 8 = d.d.toNat := by
  simp only [adminBytes, List.append_assoc, le64, le32, le16]
  iterate 6 rw [fieldAt_append _ _ (by simp)]
  simp only [natToBytes_length, List.length_cons, List.length_nil]
  rw [fieldAt_natToBytes, toNat_mod_bytes _ (by norm_num)]

end

end Sys2Proof.Machine
end

section
/-! SUPPORT. Staging, copy-back and failed host requests of accepted work (11 R308, R311; 13 R345, R348, R349). -/

namespace Sys2Proof.Machine

section
variable {s : State} {r q : Nat} {w : Work}

/-! ### Inputs (11 R308; 13 R345) -/

/-- The bytes of a work's input regions, as host memory holds them. -/
def State.inputsOf (s : State) (w : Work) (plan : Plan) : Mem :=
  (Work.inputRegions plan).foldl (fun m g => Mem.writeBytes m (g.key % 2 ^ 44) (s.hostBytes (w.argAddr g.arg + g.argOff) g.bytes)) []

theorem State.putInputs_findWork (hw : s.findWork r q = some w) (plan : Plan) (d : List Byte) :
    (s.putInputs w plan d).findWork r q = some { w with staged := true, idig := some d, hostIn := s.inputsOf w plan } := by
  unfold State.putInputs
  rw [State.findWork_congr (State.trace1_works _ _ _)]
  exact State.findWork_updWork hw (fun _ => ⟨rfl, rfl⟩)

theorem State.putInputs_rest (s : State) (w : Work) (plan : Plan) (d : List Byte) :
    (s.putInputs w plan d).host = s.host ∧ (s.putInputs w plan d).hbm = s.hbm ∧ (s.putInputs w plan d).cores = s.cores
      ∧ (s.putInputs w plan d).turn = s.turn ∧ (s.putInputs w plan d).rings = s.rings := by
  simp [State.putInputs]

/-- A work that ends with a record: its result is `st`, and its staging copies are dropped. -/
def State.endsTold (s : State) (w : Work) (st : Nat) (c : Cause) (e : ErrRec) : State :=
  (s.updWork w.ring w.seq (fun x => { x with result := some st, copies := [] })).log c e

theorem State.endsTold_spec (hw : s.findWork r q = some w) (st : Nat) {c : Cause} (hc : c.sev ≠ 0) (e : ErrRec) :
    (s.endsTold w st c e).findWork r q = some { w with result := some st, copies := [] }
      ∧ (s.endsTold w st c e).tells s.turn.number c e.inst ∧ (s.endsTold w st c e).host = s.host
      ∧ (s.endsTold w st c e).hbm = s.hbm ∧ (s.endsTold w st c e).cores = s.cores := by
  refine ⟨?_, State.log_tells (s.updWork w.ring w.seq _) c e hc, ?_, ?_, ?_⟩
  · rw [State.endsTold, State.findWork_congr (State.log_works _ _ _)]
    exact State.findWork_updWork hw (fun _ => ⟨rfl, rfl⟩)
  all_goals simp [State.endsTold]

theorem State.stageInputs_alike {plan : Plan} (h : w.idig = none ∨ w.idig = some (s.inputDigest w plan)) :
    s.stageInputs w plan = s.putInputs w plan (s.inputDigest w plan) := by
  rcases h with h | h <;> simp [State.stageInputs, h]

theorem State.stageInputs_changed {plan : Plan} {d : List Byte} (h : w.idig = some d) (hd : d ≠ s.inputDigest w plan) :
    s.stageInputs w plan = s.endsTold w stInputChanged .inputChanged { ring := w.ring, seq := w.seq } := by
  simp [State.stageInputs, h, hd, State.endsTold]

theorem exec_inputStaged {ring : Fin 65536} {seq : BitVec 64} {plan : Plan} (hw : s.findWork ring.val seq.toNat = some w)
    (hplan : s.planOf w = some plan) (hrun : w.isRun = true) (hresult : w.result = none) (hstaged : w.staged = false)
    (hst : w.st = .accepted) (hopen : s.hostOpen w.fn = true) (hup : s.access.up.contains w.fn = true) :
    exec (.inputStaged ring seq) s = .next (s.stageInputs w plan) := by
  show execInputStaged ring seq s = _
  simp only [execInputStaged, hw, hplan, hrun, hresult, hstaged, hst, hopen, hup]
  rfl

/-! ### Staging copies (13 R348, R349) -/

theorem exec_stagingCopyFilled {ring : Fin 65536} {seq : BitVec 64} (hw : s.findWork ring.val seq.toNat = some w)
    (hresult : w.result = none) (hst : w.st = .accepted) : exec (.stagingCopyFilled ring seq) s = .next (s.fillCopies w) := by
  show execStagingCopyFilled ring seq s = _
  simp [execStagingCopyFilled, hw, hresult, hst]

theorem State.fillCopies_findWork (hw : s.findWork r q = some w) : (s.fillCopies w).findWork r q = some { w with
    copies := w.copies.map (fun c => if c.filled || !(s.copyFree w c) then c else s.filledCopy c) } :=
  State.findWork_updWork hw (fun _ => ⟨rfl, rfl⟩)

/-- HBM with a staging copy written over its region, which is lost no longer. -/
def Hbm.copyOver (h : Hbm) (c : StageCopy) : Hbm :=
  Hbm.unlose (h.store c.base ((List.range c.bytes).map (fun i => Mem.readByte c.data (c.base + i)))) c.base c.bytes

theorem State.copyBack_eq (s : State) (w : Work) : s.copyBack w
    = ({ s with hbm := (w.copies.filter (fun c => !c.inCore)).foldl Hbm.copyOver s.hbm } : State).updWork w.ring w.seq
        (fun x => { x with copies := [], copiedBack := true }) := by
  unfold State.copyBack
  generalize w.copies.filter (fun c => !c.inCore) = cs
  induction cs generalizing s with
  | nil => rfl
  | cons c cs ih => exact ih { s with hbm := s.hbm.copyOver c }

theorem exec_copyBackDone {ring : Fin 65536} {seq : BitVec 64} (hw : s.findWork ring.val seq.toNat = some w)
    (hst : w.st = .committed) (hback : w.copiedBack = false) : exec (.copyBackDone ring seq) s = .next (s.copyBack w) := by
  show execCopyBackDone ring seq s = _
  simp [execCopyBackDone, hw, hst, hback]

theorem State.copyBack_findWork (hw : s.findWork r q = some w) :
    (s.copyBack w).findWork r q = some { w with copies := [], copiedBack := true } := by
  rw [State.copyBack_eq]
  exact State.findWork_updWork ((State.findWork_congr rfl r q).trans hw) (fun _ => ⟨rfl, rfl⟩)

/-! ### Host requests that fail (11 R311) -/

theorem State.aerNote_rest (s : State) (f : Nat) (how : BadCompletion) : (s.aerNote f how).works = s.works
    ∧ (s.aerNote f how).turn = s.turn ∧ (s.aerNote f how).host = s.host ∧ (s.aerNote f how).hbm = s.hbm
    ∧ (s.aerNote f how).cores = s.cores := by
  unfold State.aerNote
  dsimp only
  split <;> exact ⟨rfl, rfl, rfl, rfl, rfl⟩

theorem State.writeSome_rest (s : State) (w : Work) : (s.writeSome w).works = s.works ∧ (s.writeSome w).turn = s.turn
    ∧ (s.writeSome w).hbm = s.hbm ∧ (s.writeSome w).cores = s.cores := by
  unfold State.writeSome
  split <;> exact ⟨rfl, rfl, rfl, rfl⟩

/-- A work whose outputs are partly written: it ends with HOST_DMA, and a record tells of it. -/
def State.writeFails (s : State) (w : Work) (how : BadCompletion) (addr : Nat) : State :=
  ((s.writeSome w).updWork w.ring w.seq (fun x => { x with result := some stHostDma })).log .hostDma (w.dmaRec true how addr)

theorem exec_hostDma_read {ring : Fin 65536} {seq : BitVec 64} (hw : s.findWork ring.val seq.toNat = some w) (hrun : w.isRun = true)
    (hresult : w.result = none) (hstaged : w.staged = false) (hst : w.st = .accepted) (hup : s.access.up.contains w.fn = true)
    (how : BadCompletion) (addr : BitVec 64) : exec (.hostDma ring seq false how addr) s = .next (s.stagingFails w how addr.toNat) := by
  show execHostDma ring seq false how addr s = _
  simp only [execHostDma, hw, hrun, hresult, hstaged, hst, hup]
  rfl

theorem exec_hostDma_write {ring : Fin 65536} {seq : BitVec 64} (hw : s.findWork ring.val seq.toNat = some w) (hst : w.st = .committed)
    (hresult : w.result = some stOk) (how : BadCompletion) (addr : BitVec 64) :
    exec (.hostDma ring seq true how addr) s = .next (s.writeFails w how addr.toNat) := by
  show execHostDma ring seq true how addr s = _
  simp only [execHostDma, hw, hst, hresult]
  rfl

end

/-- Settles O26: inputs are staged where they are those of the first staging, copies are filled from HBM, and a committed work's go back. -/
theorem inputsAreStaged : Obligations.InputsAreStaged := by
  refine ⟨fun s ring seq w plan hw hplan hrun hresult hstaged hst hopen hup => ?_,
    fun s ring seq w hw => ⟨fun hresult hst => ?_, fun hst hback => ?_⟩⟩
  · have hexec := exec_inputStaged hw hplan hrun hresult hstaged hst hopen hup
    refine ⟨fun halike => ?_, fun d hd hne => ?_⟩
    · obtain ⟨hhost, hhbm, hcores, hturn, -⟩ := s.putInputs_rest w plan (s.inputDigest w plan)
      rw [hexec, State.stageInputs_alike halike]
      exact ⟨_, _, rfl, State.putInputs_findWork hw plan _, rfl, rfl, hst, rfl, hhost, hhbm, hcores, hturn⟩
    · obtain ⟨hfind, htold, hhost, hhbm, -⟩ :=
        State.endsTold_spec hw stInputChanged (c := .inputChanged) (by decide) { ring := w.ring, seq := w.seq }
      rw [hexec, State.stageInputs_changed hd hne]
      exact ⟨_, _, rfl, hfind, rfl, rfl, htold, hhost, hhbm⟩
  · exact ⟨_, _, exec_stagingCopyFilled hw hresult hst, State.fillCopies_findWork hw, rfl, rfl, rfl, rfl, rfl⟩
  · refine ⟨_, _, exec_copyBackDone hw hst hback, State.copyBack_findWork hw, rfl, rfl, ?_⟩
    rw [State.copyBack_eq]
    exact ⟨rfl, rfl, rfl, rfl, rfl⟩

/-- Settles O27: a failed read ends the work as an input that changes does, and a failed write ends it once some of its outputs are written. -/
theorem failedHostRequestsEndWork : Obligations.FailedHostRequestsEndWork := by
  intro s ring seq write how addr w hw
  refine ⟨?_, ?_⟩
  · rintro rfl hrun hresult hstaged hst hup
    obtain ⟨hworks, hturn, hhost, hhbm, hcores⟩ := s.aerNote_rest w.fn how
    obtain ⟨hfind, htold, hhost', hhbm', hcores'⟩ := State.endsTold_spec ((State.findWork_congr hworks _ _).trans hw) stHostDma
      (c := .hostDma) (by decide) (w.dmaRec false how addr.toNat)
    refine ⟨_, _, exec_hostDma_read hw hrun hresult hstaged hst hup how addr, hfind, rfl, rfl, ?_, hhost'.trans hhost, hhbm'.trans hhbm,
      hcores'.trans hcores⟩
    rw [hturn] at htold
    exact htold
  · rintro rfl hst hresult
    obtain ⟨hworks, hturn, hhbm, hcores⟩ := s.writeSome_rest w
    refine ⟨s.writeFails w how addr.toNat, { w with result := some stHostDma }, exec_hostDma_write hw hst hresult how addr, ?_, rfl, ?_, ?_, ?_⟩
    · rw [State.writeFails, State.findWork_congr (State.log_works _ _ _)]
      exact State.findWork_updWork ((State.findWork_congr hworks _ _).trans hw) (fun _ => ⟨rfl, rfl⟩)
    · have htold := State.log_tells ((s.writeSome w).updWork w.ring w.seq (fun x => { x with result := some stHostDma })) .hostDma
        (w.dmaRec true how addr.toNat) (by decide)
      rw [State.updWork_turn, hturn] at htold
      exact htold
    · rw [State.writeFails, State.log_hbm]; exact hhbm
    · rw [State.writeFails, State.log_cores]; exact hcores

end Sys2Proof.Machine
end

section
/-! SUPPORT. What the ring engine does with a fetched descriptor (11 R301, R302, R306, R307, R315): the ring takes it or not, and an admin
operation leaves journal entries and ring positions as they are. -/

namespace Sys2Proof.Machine

section
variable {s : State} {r : Nat} {x : Ring} {b : List Byte}

/-! ### The journal (11 R306) -/

theorem State.journal_works (s : State) (r : Nat) (x : Ring) (w : Work) : (s.journal r x w).works = s.works ++ [w] := by
  simp [State.journal, State.putAccepted, State.hostPut, State.setRing]

theorem State.journal_ring (s : State) (r : Nat) (x : Ring) (w : Work) (n : Nat) :
    (s.journal r x w).ring n = if n = r then some { x with acc := x.acc + 1 } else s.ring n := by
  rw [← State.ring_setRing]
  exact State.ring_congr (by simp [State.journal, State.putAccepted, State.hostPut, State.setRing]) n

theorem State.journal_turn (s : State) (r : Nat) (x : Ring) (w : Work) :
    (s.journal r x w).turn = { s.turn with nacc := s.turn.nacc + 1 } := by
  simp [State.journal, State.putAccepted, State.hostPut, State.setRing]

/-- What a journal entry leaves alone. -/
theorem State.journal_rest (s : State) (r : Nat) (x : Ring) (w : Work) : (s.journal r x w).regs = s.regs ∧ (s.journal r x w).hbm = s.hbm
    ∧ (s.journal r x w).cores = s.cores ∧ (s.journal r x w).plans = s.plans := by
  simp [State.journal, State.putAccepted, State.hostPut, State.setRing]

theorem State.journal_findWork {w : Work} {q : Nat} (hr : w.ring = r) (hq : w.seq = q) (h : s.findWork r q = none) :
    (s.journal r x w).findWork r q = some w := by
  unfold State.findWork at h ⊢
  rw [State.journal_works, List.find?_append, h]
  simp [hr, hq]

/-! ### Taking a descriptor (11 R301, R302, R305) -/

theorem State.fetchOne_none (h : s.ring r = none) (b : List Byte) : s.fetchOne r b = s := by simp [State.fetchOne, h]

theorem State.fetchOne_shut (h : s.ring r = some x) (hshut : s.fetchOpen = false ∨ s.fnActive x.fn = false ∨ x.sampled = false)
    (b : List Byte) : s.fetchOne r b = s := by
  have hno : (s.fetchOpen && s.fnActive x.fn && x.sampled) = false := by
    rcases hshut with h | h | h <;> simp [h]
  simp [State.fetchOne, h, hno]

theorem State.fetchOne_open (h : s.ring r = some x) (hfetch : s.fetchOpen = true) (hactive : s.fnActive x.fn = true)
    (hsampled : x.sampled = true) (b : List Byte) : s.fetchOne r b = match s.acceptDesc r x b with
      | .accepted t w => t.processWork w
      | .seqError t => t
      | .full t => t := by
  simp only [State.fetchOne, State.takeDesc, h, hfetch, hactive, hsampled, Bool.and_self, if_true]
  cases s.acceptDesc r x b <;> rfl

theorem State.fetchOne_wrong (h : s.ring r = some x) (hfetch : s.fetchOpen = true) (hactive : s.fnActive x.fn = true)
    (hsampled : x.sampled = true) (hb : fieldAt b 0 8 ≠ x.acc + 1) :
    s.fetchOne r b = s.ringFault r .seq (x.acc + 1) (fieldAt b 0 8) := by
  rw [State.fetchOne_open h hfetch hactive hsampled, State.acceptDesc]
  simp only [if_pos hb]

/-- The fault of a wrong sequence number: the ring is in the error state, and a record tells of it. -/
theorem State.ringFault_seq (h : s.ring r = some x) (expected found : Nat) :
    (s.ringFault r .seq expected found).ring r = some { x with err := some .seq }
      ∧ (s.ringFault r .seq expected found).works = s.works ∧ (s.ringFault r .seq expected found).host = s.host
      ∧ (s.ringFault r .seq expected found).tells s.turn.number .ringSeq 0 := by
  have heq : s.ringFault r .seq expected found = ((s.setRing r { x with err := some .seq }).bumpHif x.fn hifSeqErr).log .ringSeq
      { ring := r, seq := expected, detail := found } := by
    simp only [State.ringFault, State.updRing, h]
  rw [heq]
  refine ⟨?_, by rw [State.log_works]; rfl, by rw [State.log_host]; rfl, ?_⟩
  · rw [State.ring_congr (State.log_rings _ _ _)]
    exact (State.ring_setRing s r _ r).trans (if_pos rfl)
  · exact State.log_tells ((s.setRing r { x with err := some .seq }).bumpHif x.fn hifSeqErr) .ringSeq _ (by decide)

theorem State.processWork_ended {w : Work} (hadmin : s.isAdminRing w.ring = false) {st : Nat} (h : w.result = some st) :
    s.processWork w = s := by
  simp [State.processWork, hadmin, h]

theorem State.processWork_run {w : Work} {plan : Plan} (hadmin : s.isAdminRing w.ring = false) (h : w.result = none)
    (hplan : s.planOf w = some plan) :
    s.processWork w = if (Work.inputRegions plan).isEmpty then s.stageInputs w plan else s := by
  simp [State.processWork, hadmin, h, hplan]

/-- A ring of admin descriptors that takes one: it is journalled, and runs. -/
theorem State.fetchOne_admin (h : s.samples r x (fieldAt b 0 8)) (hadmin : s.isAdminRing r = true) :
    s.fetchOne r b = (s.accepted r x b).adminRun (s.workOf r x b) := by
  have haccept : s.acceptDesc r x b = .accepted (s.journal r x (s.workOf r x b)) (s.workOf r x b) := by
    simp only [State.acceptDesc, h.next, ne_eq, not_true_eq_false, if_false, hadmin, if_true]
  have hstays : (s.journal r x (s.workOf r x b)).isAdminRing (s.workOf r x b).ring = true :=
    (State.isAdminRing_congr (s.journal_rest r x _).1 r).trans hadmin
  rw [State.fetchOne_open h.ring h.fetch h.active h.sampled, haccept]
  exact if_pos hstays

/-- A ring of work descriptors that takes one which a check refuses. -/
theorem State.fetchOne_refused (h : s.samples r x (fieldAt b 0 8)) (hadmin : s.isAdminRing r = false) {st : Nat}
    (hcheck : s.runCheck (s.workOf r x b) = some st) :
    s.fetchOne r b = s.journal r x { s.workOf r x b with result := some st } := by
  have haccept : s.acceptDesc r x b
      = .accepted (s.journal r x { s.workOf r x b with result := some st }) { s.workOf r x b with result := some st } := by
    simp [State.acceptDesc, h.next, hadmin, hcheck]
  rw [State.fetchOne_open h.ring h.fetch h.active h.sampled, haccept]
  exact State.processWork_ended ((State.isAdminRing_congr (s.journal_rest r x _).1 r).trans hadmin) rfl

/-- The work of a descriptor that reserves staging copies of a plan. -/
def State.reservedWork (s : State) (r : Nat) (x : Ring) (b : List Byte) (plan : Plan) : Work :=
  { s.workOf r x b with
    copies := plan.copies (s.workOf r x b).sbase
    rank := { (s.workOf r x b).rank with accTurn := s.turn.ord } }

/-- A ring of work descriptors that takes one whose staging fits: a work without host inputs is staged at once. -/
theorem State.fetchOne_reserved (h : s.samples r x (fieldAt b 0 8)) (hadmin : s.isAdminRing r = false) {plan : Plan}
    (hcheck : s.runCheck (s.workOf r x b) = none) (hplan : s.planOf (s.workOf r x b) = some plan)
    (hfits : s.stageFits plan (s.workOf r x b).sbase = true) :
    s.fetchOne r b = if (Work.inputRegions plan).isEmpty
      then (s.journal r x (s.reservedWork r x b plan)).stageInputs (s.reservedWork r x b plan) plan
      else s.journal r x (s.reservedWork r x b plan) := by
  have haccept : s.acceptDesc r x b = .accepted (s.journal r x (s.reservedWork r x b plan)) (s.reservedWork r x b plan) := by
    simp only [State.acceptDesc, h.next, ne_eq, not_true_eq_false, if_false, hadmin, Bool.false_eq_true, hcheck, hplan, hfits, if_true]
    rfl
  obtain ⟨hregs, -, -, hplans⟩ := s.journal_rest r x (s.reservedWork r x b plan)
  have hstays : (s.journal r x (s.reservedWork r x b plan)).isAdminRing (s.reservedWork r x b plan).ring = false :=
    (State.isAdminRing_congr hregs r).trans hadmin
  have hsame : (s.journal r x (s.reservedWork r x b plan)).planOf (s.reservedWork r x b plan) = some plan := by
    rw [State.planOf, State.findPlan, hplans]
    exact hplan
  rw [State.fetchOne_open h.ring h.fetch h.active h.sampled, haccept]
  exact State.processWork_run hstays rfl hsame

/-- A ring of work descriptors that meets one whose staging does not fit: it is left to the backlog, and counted. -/
theorem State.fetchOne_full (h : s.samples r x (fieldAt b 0 8)) (hadmin : s.isAdminRing r = false) {plan : Plan}
    (hcheck : s.runCheck (s.workOf r x b) = none) (hplan : s.planOf (s.workOf r x b) = some plan)
    (hfull : s.stageFits plan (s.workOf r x b).sbase = false) :
    s.fetchOne r b = (s.setRing r { x with backlog := true }).bumpHif x.fn hifStageFull := by
  have haccept : s.acceptDesc r x b = .full ((s.setRing r { x with backlog := true }).bumpHif x.fn hifStageFull) := by
    simp only [State.acceptDesc, h.next, ne_eq, not_true_eq_false, if_false, hadmin, Bool.false_eq_true, hcheck, hplan, hfull]
  rw [State.fetchOne_open h.ring h.fetch h.active h.sampled, haccept]

end

/-! ### Enabling rings (11 R296) -/

theorem State.enableRing_only (s : State) (n : Nat) : ∃ m h, (s.enableRing n).2 = { s with rings := m, host := h } := by
  unfold State.enableRing
  split
  · exact ⟨_, _, rfl⟩
  · dsimp only
    (repeat' split) <;> exact ⟨_, _, rfl⟩

/-- A ring that is enabled stays as it is when rings are enabled. -/
theorem State.enableRing_keeps {s : State} {k : Nat} {y : Ring} (n : Nat) (h : s.ring k = some y) : (s.enableRing n).2.ring k = some y := by
  unfold State.enableRing
  split
  · exact h
  · next hn =>
    have hk : k ≠ n := fun e => by rw [e, hn] at h; exact absurd h (by simp)
    dsimp only
    split
    · exact h
    · split
      · exact h
      · split
        · exact h
        · exact (State.ring_setRing _ _ _ _).trans ((if_neg hk).trans h)

/-- What enabling one ring keeps, enabling a range keeps. -/
theorem State.enableRange_induct {P : State → Prop} (h : ∀ t n, P t → P (t.enableRing n).2) {s : State} (hs : P s) (first count : Nat) :
    P (s.enableRange first count).2.2 :=
  List.foldlRecOn (motive := fun t : Nat × List Nat × State => P t.2.2) _ _ hs (fun t ht i _ => h t.2.2 (first + i) ht)

theorem State.enableRange_only (s : State) (first count : Nat) :
    ∃ m h, (s.enableRange first count).2.2 = { s with rings := m, host := h } :=
  State.enableRange_induct (P := fun t => ∃ m h, t = { s with rings := m, host := h })
    (fun t n ⟨m, h, ht⟩ => by
      obtain ⟨m', h', ht'⟩ := t.enableRing_only n
      exact ⟨m', h', by rw [ht', ht]⟩) ⟨s.rings, s.host, rfl⟩ first count

theorem State.sameBody_nvStore (s : State) (t : Nat) (v : List Byte) : (s.nvStore t v).1.sameBody s := State.sameBody_nvNote s t v

theorem State.sameBody_storeRings (s : State) (fn : Nat) (rs : List Nat) (on : Bool) : (s.storeRings fn rs on).1.sameBody s :=
  List.foldlRecOn (motive := fun t : State × List Nat => t.1.sameBody s) _ _ (.refl s)
    (fun t ht _ _ => (State.sameBody_nvStore t.1 _ _).trans ht)

/-! ### What every admin operation leaves alone (11 R315) -/

/-- Journal entry `v` is of the same descriptor as `w`. -/
structure Work.sameEntry (v w : Work) : Prop where
  ring : v.ring = w.ring
  seq : v.seq = w.seq
  desc : v.desc = w.desc
  fn : v.fn = w.fn
  epoch : v.epoch = w.epoch

/-- The turn, the entries of the journal, and the positions of the rings that are enabled are as before. -/
structure State.keepsEntries (t s : State) : Prop where
  turn : t.turn = s.turn
  works : ∃ f : Work → Work, (∀ w, (f w).sameEntry w) ∧ t.works = s.works.map f
  rings : ∀ n y, s.ring n = some y → ∃ z, t.ring n = some z ∧ z.acc = y.acc ∧ z.cmp = y.cmp

theorem State.keepsEntries_of {t s : State} (hturn : t.turn = s.turn) (hworks : t.works = s.works) (hrings : t.rings = s.rings) :
    t.keepsEntries s :=
  ⟨hturn, ⟨id, fun _ => ⟨rfl, rfl, rfl, rfl, rfl⟩, by simp [hworks]⟩, fun n y h => ⟨y, (State.ring_congr hrings n).trans h, rfl, rfl⟩⟩

theorem State.keepsEntries.refl (s : State) : s.keepsEntries s := State.keepsEntries_of rfl rfl rfl

theorem State.sameBody.keepsEntries {t s : State} (h : t.sameBody s) : t.keepsEntries s := State.keepsEntries_of h.turn h.works h.rings

theorem State.keepsEntries.trans {a b c : State} (h : c.keepsEntries b) (g : b.keepsEntries a) : c.keepsEntries a := by
  obtain ⟨f, hf, hfw⟩ := h.works
  obtain ⟨k, hk, hkw⟩ := g.works
  refine ⟨h.turn.trans g.turn, ⟨f ∘ k, fun w => ?_, by rw [hfw, hkw, List.map_map]⟩, fun n y hy => ?_⟩
  · exact ⟨(hf _).ring.trans (hk w).ring, (hf _).seq.trans (hk w).seq, (hf _).desc.trans (hk w).desc, (hf _).fn.trans (hk w).fn,
      (hf _).epoch.trans (hk w).epoch⟩
  · obtain ⟨z, hz, hacc, hcmp⟩ := g.rings n y hy
    obtain ⟨z', hz', hacc', hcmp'⟩ := h.rings n z hz
    exact ⟨z', hz', hacc'.trans hacc, hcmp'.trans hcmp⟩

theorem State.keepsEntries_updWork (s : State) (r q : Nat) {f : Work → Work} (hf : ∀ w, (f w).sameEntry w) :
    (s.updWork r q f).keepsEntries s :=
  ⟨rfl, ⟨_, fun w => by split; exacts [hf w, ⟨rfl, rfl, rfl, rfl, rfl⟩], rfl⟩, fun _ y h => ⟨y, h, rfl, rfl⟩⟩

/-- The entry of a work is found as an entry of the same descriptor. -/
theorem State.keepsEntries.findWork {t s : State} (h : t.keepsEntries s) {r q : Nat} {w : Work} (hw : s.findWork r q = some w) :
    ∃ v : Work, t.findWork r q = some v ∧ v.sameEntry w := by
  obtain ⟨f, hf, hworks⟩ := h.works
  exact ⟨f w, by rw [State.findWork_map (fun v => ⟨(hf v).ring, (hf v).seq⟩) hworks, hw]; rfl, hf w⟩

section
variable {t u s : State}

theorem State.keepsEntries.alike (h : u.keepsEntries s) (hturn : t.turn = u.turn) (hworks : t.works = u.works) (hrings : t.rings = u.rings) :
    t.keepsEntries s := (State.keepsEntries_of hturn hworks hrings).trans h

theorem State.keepsEntries.updWork (h : t.keepsEntries s) (r q : Nat) {f : Work → Work} (hf : ∀ w, (f w).sameEntry w) :
    (t.updWork r q f).keepsEntries s := (State.keepsEntries_updWork t r q hf).trans h

theorem State.keepsEntries.setResult (h : t.keepsEntries s) (w : Work) (st : Nat) : (t.setResult w st).keepsEntries s :=
  h.updWork _ _ fun _ => ⟨rfl, rfl, rfl, rfl, rfl⟩

theorem State.keepsEntries.setHostOut (h : t.keepsEntries s) (w : Work) (a : Nat) (bs : List Byte) : (t.setHostOut w a bs).keepsEntries s :=
  h.updWork _ _ fun _ => ⟨rfl, rfl, rfl, rfl, rfl⟩

theorem State.keepsEntries.waits (h : t.keepsEntries s) (w : Work) (a : AdminWait) :
    (t.updWork w.ring w.seq (fun x => { x with admin := a })).keepsEntries s :=
  h.updWork _ _ fun _ => ⟨rfl, rfl, rfl, rfl, rfl⟩

theorem State.keepsEntries.nvStore (h : t.keepsEntries s) (n : Nat) (v : List Byte) : (t.nvStore n v).1.keepsEntries s :=
  (State.sameBody_nvStore t n v).keepsEntries.trans h

end

section
variable (s : State) (w : Work)

theorem State.enableRange_keeps (first count : Nat) : (s.enableRange first count).2.2.keepsEntries s := by
  obtain ⟨m, h, he⟩ := s.enableRange_only first count
  refine ⟨by rw [he], ⟨id, fun _ => ⟨rfl, rfl, rfl, rfl, rfl⟩, by rw [he, List.map_id]⟩, fun n y hy => ⟨y, ?_, rfl, rfl⟩⟩
  exact State.enableRange_induct (P := fun t => t.ring n = some y) (fun t k h => State.enableRing_keeps k h) hy first count

theorem State.adminRingEnable_keeps : (s.adminRingEnable w).keepsEntries s :=
  ((State.sameBody_storeRings _ _ _ _).keepsEntries.trans (s.enableRange_keeps w.fA w.fB)).updWork _ _ fun _ => ⟨rfl, rfl, rfl, rfl, rfl⟩

theorem State.setRing_keeps {n : Nat} {y z : Ring} (hy : s.ring n = some y) (hacc : z.acc = y.acc) (hcmp : z.cmp = y.cmp) :
    (s.setRing n z).keepsEntries s := by
  refine ⟨rfl, ⟨id, fun _ => ⟨rfl, rfl, rfl, rfl, rfl⟩, (List.map_id _).symm⟩, fun m x hx => ?_⟩
  rw [State.ring_setRing]
  split
  · next hm =>
    obtain rfl : y = x := Option.some.inj (hy.symm.trans (hm ▸ hx))
    exact ⟨z, rfl, hacc, hcmp⟩
  · exact ⟨x, hx, rfl, rfl⟩

theorem State.adminRingResume_keeps : (s.adminRingResume w).keepsEntries s := by
  unfold State.adminRingResume
  split
  · exact (State.keepsEntries.refl s).setResult w _
  · next y hy => exact (s.setRing_keeps (z := { y with err := none }) hy rfl rfl).setResult w _

theorem State.planLoad_keeps : (s.planLoad w).2.1.keepsEntries s := by
  unfold State.planLoad
  split
  · exact (State.sameBody_bump s _ _).keepsEntries
  · dsimp only
    split
    · exact .refl s
    · exact State.keepsEntries_of rfl rfl rfl

theorem State.planLoadNow_keeps : (s.planLoadNow w).keepsEntries s := by
  unfold State.planLoadNow
  dsimp only
  split
  · exact (s.planLoad_keeps w).setResult w _
  · exact ((s.planLoad_keeps w).nvStore _ _).updWork _ _ fun _ => ⟨rfl, rfl, rfl, rfl, rfl⟩

theorem State.adminPlanLoad_keeps : (s.adminPlanLoad w).keepsEntries s := by
  unfold State.adminPlanLoad
  split
  · exact (State.keepsEntries.refl s).waits w _
  · exact s.planLoadNow_keeps w

theorem State.adminPlanUnload_keeps : (s.adminPlanUnload w).keepsEntries s := by
  unfold State.adminPlanUnload
  split
  · exact (State.keepsEntries.refl s).setResult w _
  · refine State.keepsEntries.waits ?_ w _
    exact State.keepsEntries_of rfl rfl rfl

theorem State.adminWsetLoad_keeps : (s.adminWsetLoad w).keepsEntries s := by
  unfold State.adminWsetLoad
  refine State.keepsEntries.updWork ?_ _ _ fun _ => ⟨rfl, rfl, rfl, rfl, rfl⟩
  exact State.keepsEntries_of rfl rfl rfl

theorem State.adminEpochStage_keeps : (s.adminEpochStage w).keepsEntries s := by
  unfold State.adminEpochStage State.stageList
  dsimp only
  split
  · refine State.keepsEntries.waits ?_ w _
    exact List.foldlRecOn (motive := fun t : State => t.keepsEntries s) _ _ (.refl s) fun t ht k _ => ht.alike rfl rfl rfl
  · exact (State.keepsEntries.refl s).setResult w _

theorem State.writeSlot_keeps (a n : Nat) : (s.writeSlot a n).2.keepsEntries s := by
  unfold State.writeSlot
  dsimp only
  (repeat' split) <;> exact State.keepsEntries_of rfl rfl rfl

theorem State.startActivation_keeps (slot ring seq : Nat) : (s.startActivation slot ring seq).2.keepsEntries s := by
  unfold State.startActivation
  dsimp only
  (repeat' split) <;> exact State.keepsEntries_of rfl rfl rfl

theorem State.adminSlotActivate_keeps : (s.adminSlotActivate w).keepsEntries s := by
  unfold State.adminSlotActivate
  dsimp only
  split
  · exact (s.startActivation_keeps _ _ _).waits w _
  · exact (s.startActivation_keeps _ _ _).setResult w _

theorem State.adminSessionChallenge_keeps : (s.adminSessionChallenge w).keepsEntries s := by
  refine State.keepsEntries.setResult (State.keepsEntries.setHostOut ?_ w _ _) w _
  exact State.keepsEntries_of rfl rfl rfl

theorem State.authFailed_keeps (kslot : Nat) : (s.authFailed kslot).keepsEntries s := by
  unfold State.authFailed
  extract_lets n _ s1 _ s2
  have h1 : s1.keepsEntries s := (State.sameBody_log _ _ _).keepsEntries.trans (State.keepsEntries_of rfl rfl rfl)
  have h2 : s2.keepsEntries s := h1.alike rfl rfl rfl
  split
  · exact (State.sameBody_log _ _ _).keepsEntries.trans (h2.alike rfl rfl rfl)
  · exact h1

theorem State.openSession_keeps (ring seq fn g : Nat) (resp : List Byte) : (s.openSession ring seq fn g resp).2.keepsEntries s := by
  unfold State.openSession
  split
  · exact .refl s
  · extract_lets _ s1 kslot role step r
    have h1 : s1.keepsEntries s := State.keepsEntries_of rfl rfl rfl
    split
    · exact h1
    · split
      · exact h1
      · split
        · exact h1
        · split
          · have hpassed : (s1.authPassed kslot).keepsEntries s := h1.alike rfl rfl rfl
            exact State.keepsEntries.alike (u := r.1) (hpassed.nvStore _ _) rfl rfl rfl
          · exact (State.authFailed_keeps _ _).trans h1

theorem State.adminSessionOpen_keeps : (s.adminSessionOpen w).keepsEntries s := by
  unfold State.adminSessionOpen
  dsimp only
  split
  · exact (State.keepsEntries.refl s).setResult w _
  · split
    · exact (State.keepsEntries.refl s).setResult w _
    · split
      · exact (s.openSession_keeps _ _ _ _ _).waits w _
      · exact (s.openSession_keeps _ _ _ _ _).setResult w _

theorem State.adminSessionClose_keeps : (s.adminSessionClose w).keepsEntries s := by
  unfold State.adminSessionClose
  split
  · exact (State.keepsEntries.refl s).setResult w _
  · refine State.keepsEntries.waits ?_ w _
    exact State.keepsEntries_of rfl rfl rfl

theorem State.provisionKey_keeps (x : Session) (b : List Byte) : (s.provisionKey x b).2.1.keepsEntries s := by
  unfold State.provisionKey
  dsimp only
  split
  · exact .refl s
  · split
    · exact .refl s
    · split
      · exact .refl s
      · exact (State.keepsEntries.refl s).nvStore _ _

theorem State.adminKeyProvision_keeps : (s.adminKeyProvision w).keepsEntries s := by
  unfold State.adminKeyProvision
  split
  · exact (State.keepsEntries.refl s).setResult w _
  · dsimp only
    split
    · exact (s.provisionKey_keeps _ _).updWork _ _ fun _ => ⟨rfl, rfl, rfl, rfl, rfl⟩
    · exact (s.provisionKey_keeps _ _).setResult w _

theorem State.takeOwnership_keeps (ring seq : Nat) (b : List Byte) : (s.takeOwnership ring seq b).2.keepsEntries s := by
  unfold State.takeOwnership
  split
  · exact .refl s
  · split
    · exact .refl s
    · split
      · exact .refl s
      · extract_lets o k r1 r2
        exact State.keepsEntries.alike (u := r2.1) (((State.keepsEntries.refl s).nvStore _ _).nvStore _ _) rfl rfl rfl

theorem State.adminTakeOwnership_keeps : (s.adminTakeOwnership w).keepsEntries s := by
  unfold State.adminTakeOwnership
  dsimp only
  split
  · exact (s.takeOwnership_keeps _ _ _).waits w _
  · exact (s.takeOwnership_keeps _ _ _).setResult w _

theorem State.adminRun_keeps : (s.adminRun w).keepsEntries s := by
  have hrefl := State.keepsEntries.refl s
  unfold State.adminRun
  split
  · exact hrefl.setResult w _
  · split
    · exact s.adminRingEnable_keeps w
    · exact hrefl.waits w _
    · exact s.adminRingResume_keeps w
    · exact s.adminPlanLoad_keeps w
    · exact s.adminPlanUnload_keeps w
    · exact s.adminWsetLoad_keeps w
    · exact s.adminEpochStage_keeps w
    · exact hrefl.waits w _
    · exact (s.writeSlot_keeps _ _).setResult w _
    · exact s.adminSlotActivate_keeps w
    · exact s.adminSessionChallenge_keeps w
    · exact s.adminSessionOpen_keeps w
    · exact s.adminSessionClose_keeps w
    · exact s.adminKeyProvision_keeps w
    · exact s.adminTakeOwnership_keeps w
    · refine State.keepsEntries.setResult ?_ w _
      exact State.keepsEntries_of rfl rfl rfl
    · exact (hrefl.setHostOut w _ _).setResult w _

end

/-! ### Descriptors as commands -/

theorem exec_adminCmd {i : Instr} {r op : Nat} {d : AdminDesc} (h : adminCmd i = some (r, op, d)) (s : State) :
    exec i s = .next (s.fetchOne r (adminBytes op d)) := by
  unfold adminCmd at h
  split at h
  case h_18 => exact absurd h (by simp)
  all_goals
    simp only [Option.some.injEq, Prod.mk.injEq] at h
    obtain ⟨rfl, rfl, rfl⟩ := h
    rfl

theorem exec_run (r : Fin 65536) (d : RunDesc) (s : State) : exec (.run r d) s = .next (s.fetchOne r.val (runBytes d)) := rfl

theorem exec_admin {i : Instr} {s : State} {r op : Nat} {x : Ring} {d : AdminDesc} (hi : adminCmd i = some (r, op, d))
    (h : s.samples r x d.seq.toNat) (hadmin : s.isAdminRing r = true) :
    exec i s = .next ((s.accepted r x (adminBytes op d)).adminRun (s.workOf r x (adminBytes op d))) := by
  rw [exec_adminCmd hi, State.fetchOne_admin (by rw [adminBytes_seq]; exact h) hadmin]

/-- The entry of an accepted admin descriptor. -/
theorem State.samples.accepted_findWork {s : State} {r : Nat} {x : Ring} {d : AdminDesc} (h : s.samples r x d.seq.toNat) (op : Nat) :
    (s.accepted r x (adminBytes op d)).findWork r d.seq.toNat = some (s.workOf r x (adminBytes op d)) :=
  State.journal_findWork rfl (adminBytes_seq op d) h.fresh

/-- What a journalled work that stages no host input, or waits to, shows. -/
theorem State.fetchOne_run {s : State} {r : Nat} {x : Ring} {d : RunDesc} {plan : Plan} (h : s.samples r x d.seq.toNat)
    (hadmin : s.isAdminRing r = false) (hcheck : s.runCheck (s.workOf r x (runBytes d)) = none)
    (hplan : s.planOf (s.workOf r x (runBytes d)) = some plan) (hfits : s.stageFits plan (s.workOf r x (runBytes d)).sbase = true) :
    ∃ v, (s.fetchOne r (runBytes d)).findWork r d.seq.toNat = some v ∧ v.result = none ∧ v.st = .accepted
      ∧ v.copies = plan.copies (s.workOf r x (runBytes d)).sbase ∧ v.rank.accTurn = s.turn.ord
      ∧ v.staged = (Work.inputRegions plan).isEmpty ∧ (s.fetchOne r (runBytes d)).ring r = some { x with acc := x.acc + 1 }
      ∧ (s.fetchOne r (runBytes d)).turn.nacc = s.turn.nacc + 1 ∧ (s.fetchOne r (runBytes d)).hbm = s.hbm
      ∧ (s.fetchOne r (runBytes d)).cores = s.cores := by
  rw [State.fetchOne_reserved (by rw [runBytes_seq]; exact h) hadmin hcheck hplan hfits]
  generalize hw : s.reservedWork r x (runBytes d) plan = w
  have hfind : (s.journal r x w).findWork r d.seq.toNat = some w := by
    subst hw
    exact State.journal_findWork rfl (runBytes_seq d) h.fresh
  obtain ⟨-, hhbm, hcores, -⟩ := s.journal_rest r x w
  have hring := (s.journal_ring r x w r).trans (if_pos rfl)
  have hnacc : (s.journal r x w).turn.nacc = s.turn.nacc + 1 := by rw [State.journal_turn]
  split
  · next hnone =>
    have hidig : w.idig = none := by rw [← hw]; rfl
    obtain ⟨-, hhbm', hcores', hturn', hrings'⟩ := (s.journal r x w).putInputs_rest w plan ((s.journal r x w).inputDigest w plan)
    rw [State.stageInputs_alike (.inl hidig)]
    refine ⟨_, State.putInputs_findWork hfind plan _, ?_, ?_, ?_, ?_, hnone.symm, (State.ring_congr hrings' r).trans hring,
      (congrArg Turn.nacc hturn').trans hnacc, hhbm'.trans hhbm, hcores'.trans hcores⟩ <;> (rw [← hw]; rfl)
  · next hsome =>
    refine ⟨w, hfind, ?_, ?_, ?_, ?_, ?_, hring, hnacc, hhbm, hcores⟩
    rotate_left 4
    · rw [← hw, Bool.eq_false_iff.mpr hsome]; rfl
    all_goals rw [← hw]; rfl

/-- Settles O47: the ring takes the descriptor that is next, and what an admin operation does leaves its entry and the ring's position. -/
theorem descriptorsAreAccepted : Obligations.DescriptorsAreAccepted := by
  intro s x
  refine ⟨fun i r op d hi h hadmin => ?_, fun i r b hi => ?_, fun r d h hadmin => ⟨fun st hcheck => ?_, fun plan hcheck hplan hfits => ?_,
    fun plan hcheck hplan hfull => ?_⟩⟩
  · have hkeeps := (s.accepted r x (adminBytes op d)).adminRun_keeps (s.workOf r x (adminBytes op d))
    obtain ⟨y, hy, hacc, hcmp⟩ := hkeeps.rings r _ ((s.journal_ring r x (s.workOf r x (adminBytes op d)) r).trans (if_pos rfl))
    obtain ⟨v, hv, hentry⟩ := hkeeps.findWork (h.accepted_findWork op)
    refine ⟨_, y, v, exec_admin hi h hadmin, hy, hacc, hcmp, hv, hentry.desc, hentry.fn, hentry.epoch, ?_, fun st hst => ?_⟩
    · rw [hkeeps.turn, State.accepted, State.journal_turn]
    · have hrun : (s.accepted r x (adminBytes op d)).adminRun (s.workOf r x (adminBytes op d))
          = (s.accepted r x (adminBytes op d)).setResult (s.workOf r x (adminBytes op d)) st := by
        simp only [State.adminRun, hst]
      have hfound := State.findWork_updWork (f := fun w => { w with result := some st }) (h.accepted_findWork op) fun _ => ⟨rfl, rfl⟩
      rw [hrun] at hv ⊢
      obtain rfl : _ = v := Option.some.inj (hfound.symm.trans hv)
      exact ⟨rfl, rfl⟩
  · have hexec : exec i s = .next (s.fetchOne r b) := by
      rcases hi with ⟨op, d, hi, rfl⟩ | ⟨q, d, rfl, rfl, rfl⟩
      · exact exec_adminCmd hi s
      · exact exec_run q d s
    rw [hexec]
    refine ⟨fun hnone => ?_, fun hring hshut => ?_, fun hring hfetch hactive hsampled hseq => ?_⟩
    · rw [State.fetchOne_none hnone]
    · rw [State.fetchOne_shut hring hshut]
    · rw [State.fetchOne_wrong hring hfetch hactive hsampled hseq]
      exact ⟨_, rfl, State.ringFault_seq hring _ _⟩
  · have hfind : (s.journal r.val x { s.workOf r.val x (runBytes d) with result := some st }).findWork r.val d.seq.toNat = _ :=
      State.journal_findWork rfl (runBytes_seq d) h.fresh
    obtain ⟨-, hhbm, hcores, -⟩ := s.journal_rest r.val x { s.workOf r.val x (runBytes d) with result := some st }
    rw [exec_run, State.fetchOne_refused (by rw [runBytes_seq]; exact h) hadmin hcheck]
    exact ⟨_, _, rfl, hfind, rfl, rfl, (s.journal_ring _ _ _ _).trans (if_pos rfl), by rw [State.journal_turn], hhbm, hcores⟩
  · obtain ⟨v, hv⟩ := State.fetchOne_run h hadmin hcheck hplan hfits
    exact ⟨_, v, exec_run r d s, hv⟩
  · rw [exec_run, State.fetchOne_full (by rw [runBytes_seq]; exact h) hadmin hcheck hplan hfull]
    exact ⟨_, rfl, (State.ring_setRing _ _ _ _).trans (if_pos rfl), rfl, rfl, State.hif_setHif _ _ (by decide) _⟩

end Sys2Proof.Machine
end

section
/-! SUPPORT. Admin descriptors of rings, plans and weight sets (11 R296, R302, R315): what each leaves once it has been accepted. -/

namespace Sys2Proof.Machine

theorem State.accepted_rest (s : State) (r : Nat) (x : Ring) (b : List Byte) : (s.accepted r x b).regs = s.regs
    ∧ (s.accepted r x b).hbm = s.hbm ∧ (s.accepted r x b).cores = s.cores ∧ (s.accepted r x b).plans = s.plans := s.journal_rest r x _

/-! ### Results and waits of a work -/

section
variable {s : State} {r q : Nat} {w : Work}

theorem State.updWork_finished {st : Nat} {f : Work → Work} (hw : s.findWork r q = some w)
    (hf : ∀ x, (f x).ring = x.ring ∧ (f x).seq = x.seq) (h : (f w).result = some st) : (s.updWork w.ring w.seq f).finished r q st :=
  ⟨f w, State.findWork_updWork hw hf, h⟩

theorem State.setResult_finished (hw : s.findWork r q = some w) (st : Nat) : (s.setResult w st).finished r q st :=
  State.updWork_finished hw (fun _ => ⟨rfl, rfl⟩) rfl

theorem State.updWork_awaits (hw : s.findWork r q = some w) (hresult : w.result = none) (a : AdminWait) :
    (s.updWork w.ring w.seq (fun x => { x with admin := a })).awaits r q a :=
  ⟨{ w with admin := a }, State.findWork_updWork hw fun _ => ⟨rfl, rfl⟩, hresult, rfl⟩

end

/-! ### The work of an admin descriptor -/

section
variable (s : State) (r : Nat) (x : Ring) (op : Nat) (d : AdminDesc)

theorem State.workOf_op : (s.workOf r x (adminBytes op d)).op = op % 256 := adminBytes_op op d
theorem State.workOf_fA : (s.workOf r x (adminBytes op d)).fA = d.a.toNat := adminBytes_a op d
theorem State.workOf_fB : (s.workOf r x (adminBytes op d)).fB = d.b.toNat := adminBytes_b op d
theorem State.workOf_fC : (s.workOf r x (adminBytes op d)).fC = d.c.toNat := adminBytes_c op d
theorem State.workOf_fD : (s.workOf r x (adminBytes op d)).fD = d.d.toNat := adminBytes_d op d

end

section
variable {s : State} {w : Work} (hcheck : s.adminCheck w = none)
include hcheck

theorem State.adminRun_ringEnable (hop : w.op = 0x10) : s.adminRun w = s.adminRingEnable w := by rw [State.adminRun, hcheck, hop]; rfl
theorem State.adminRun_ringDisable (hop : w.op = 0x11) : s.adminRun w = s.adminRingDisable w := by rw [State.adminRun, hcheck, hop]; rfl
theorem State.adminRun_ringResume (hop : w.op = 0x12) : s.adminRun w = s.adminRingResume w := by rw [State.adminRun, hcheck, hop]; rfl
theorem State.adminRun_planLoad (hop : w.op = 0x20) : s.adminRun w = s.adminPlanLoad w := by rw [State.adminRun, hcheck, hop]; rfl
theorem State.adminRun_planUnload (hop : w.op = 0x21) : s.adminRun w = s.adminPlanUnload w := by rw [State.adminRun, hcheck, hop]; rfl
theorem State.adminRun_wsetLoad (hop : w.op = 0x30) : s.adminRun w = s.adminWsetLoad w := by rw [State.adminRun, hcheck, hop]; rfl

end

/-! ### RING_ENABLE (11 R295, R296) -/

/-- The context entry of a ring, in host memory. -/
def State.ctxEntry (s : State) (n : Nat) : List Byte := s.hostBytes (s.ctxAddr (s.ringOwner n) n) 64

/-- Whether a ring is enabled with SCAN. -/
def isScan (x : Option Ring) : Bool :=
  match x with
  | some y => y.ctx.scan
  | none => false

/-- The number of rings enabled with SCAN. -/
def State.scanRings (s : State) : Nat := (s.rings.filter (fun e => isScan e.2)).length

/-- The ring that a context entry makes. -/
def State.freshRing (s : State) (n : Nat) : Ring :=
  { fn := s.ringOwner n, ctx := readCtx (s.ctxEntry n), acc := (readCtx (s.ctxEntry n)).seqBase - 1,
    cmp := (readCtx (s.ctxEntry n)).seqBase - 1 }

/-- Ring `n` enabled, with its status entry. -/
def State.ringEnabled (s : State) (n : Nat) : State :=
  ((s.setRing n (s.freshRing n)).putAccepted n (s.freshRing n)).putCompleted n (s.freshRing n)

section
variable {s : State} {n : Nat}

theorem State.enableRing_none (hn : s.ring n = none) (hmid : ¬(4 ≤ n ∧ n ≤ 63)) : s.enableRing n =
    if ctxReserved (s.ctxEntry n) then (stRsvdNonzero, s)
    else if !ctxValid (s.ringOwner n) n s.scanRings (readCtx (s.ctxEntry n)) then (stRingConfig, s)
    else (stOk, s.ringEnabled n) := by
  simp only [State.enableRing, hn, if_neg hmid]
  rfl

theorem State.enableRing_reserved (hn : s.ring n = none) (hmid : ¬(4 ≤ n ∧ n ≤ 63)) (h : ctxReserved (s.ctxEntry n) = true) :
    s.enableRing n = (stRsvdNonzero, s) := by
  rw [State.enableRing_none hn hmid, if_pos h]

theorem State.enableRing_valid (hn : s.ring n = none) (hmid : ¬(4 ≤ n ∧ n ≤ 63)) (h : ctxReserved (s.ctxEntry n) = false)
    (hvalid : ctxValid (s.ringOwner n) n s.scanRings (readCtx (s.ctxEntry n)) = true) : s.enableRing n = (stOk, s.ringEnabled n) := by
  rw [State.enableRing_none hn hmid, h, hvalid]
  rfl

theorem State.ringEnabled_ring (s : State) (n m : Nat) :
    (s.ringEnabled n).ring m = if m = n then some (s.freshRing n) else s.ring m := State.ring_setRing s n _ m

/-- The status entry of an enabled ring holds ACCEPTED. -/
theorem State.ringEnabled_accepted (s : State) (n : Nat) :
    (s.ringEnabled n).hostRead (s.rstAddr (s.ringOwner n) n) 8 = ((readCtx (s.ctxEntry n)).seqBase - 1) % 2 ^ 64 := by
  generalize ha : s.rstAddr (s.ringOwner n) n = a
  have hhost : (s.ringEnabled n).host = (s.host.writeBytes a (le64 (s.freshRing n).acc)).writeBytes (a + 8) (le64 (s.freshRing n).cmp) := by
    rw [← ha]; rfl
  have hread := Mem.readBytes_writeBytes_self s.host a (le64 (s.freshRing n).acc)
  rw [le64, natToBytes_length] at hread
  rw [State.hostRead, Mem.readNat, hhost, Mem.readBytes_writeBytes_below _ le_rfl, le64, hread, bytesToNat_natToBytes]
  rfl

end

theorem State.enableRange_rest (s : State) (first count : Nat) : (s.enableRange first count).2.2.works = s.works
    ∧ (s.enableRange first count).2.2.turn = s.turn := by
  obtain ⟨m, h, he⟩ := s.enableRange_only first count
  rw [he]
  exact ⟨rfl, rfl⟩

theorem State.adminRingEnable_spec {s : State} {r q : Nat} {w : Work} (hw : s.findWork r q = some w) :
    (s.adminRingEnable w).finished r q (s.enableRange w.fA w.fB).1
      ∧ (s.adminRingEnable w).rings = (s.enableRange w.fA w.fB).2.2.rings
      ∧ (s.adminRingEnable w).host = (s.enableRange w.fA w.fB).2.2.host := by
  unfold State.adminRingEnable
  extract_lets fresh e on st
  have hbody : st.1.sameBody e.2.2 := State.sameBody_storeRings _ _ _ _
  have hworks : st.1.works = s.works := hbody.works.trans (s.enableRange_rest w.fA w.fB).1
  exact ⟨State.updWork_finished ((State.findWork_congr hworks r q).trans hw) (fun _ => ⟨rfl, rfl⟩) rfl, hbody.rings, hbody.host⟩

/-! ### RING_DISABLE (11 R315) -/

/-- Whether an accepted work is a RING_DISABLE of ring `n`. -/
def Work.disables (w : Work) (n : Nat) : Bool :=
  match w.admin with
  | .ringDisable first count => decide (first ≤ n) && decide (n < first + count)
  | _ => false

theorem SMap.get_map {α β : Type} {d : α} {e : β} {g : Nat → α → β} (hg : ∀ k, g k d = e) (m : SMap α) (k : Nat) :
    SMap.get e (m.map (fun p => (p.1, g p.1 p.2))) k = g k (SMap.get d m k) := by
  induction m with
  | nil => exact (hg k).symm
  | cons p m ih =>
    simp only [List.map_cons, SMap.get]
    split
    · next h => rw [h]
    · exact ih

theorem State.stopRange_ring (s : State) (first count n : Nat) : (s.stopRange first count).ring n
    = (s.ring n).map (fun y => if first ≤ n ∧ n < first + count then { y with stopped := true } else y) :=
  SMap.get_map (α := Option Ring) (β := Option Ring) (d := none)
    (g := fun k o => Option.map (fun y : Ring => if first ≤ k ∧ k < first + count then { y with stopped := true } else y) o)
    (fun _ => rfl) s.rings n

/-- What a work stops, if it is a RING_DISABLE. -/
def State.stopFor (s : State) (w : Work) : State :=
  match w.admin with
  | .ringDisable first count => s.stopRange first count
  | _ => s

theorem State.stopFor_ring (s : State) (w : Work) (n : Nat) : (s.stopFor w).ring n
    = (s.ring n).map (fun y => if w.disables n then { y with stopped := true } else y) := by
  unfold State.stopFor Work.disables
  split
  · rw [State.stopRange_ring]
    simp
  · simp

/-- A ring of a range that an accepted RING_DISABLE names is stopped; the others are as before. -/
theorem State.stopDisabled_ring (s : State) (n : Nat) : s.stopDisabled.ring n
    = (s.ring n).map (fun y => if s.works.any (fun w => w.disables n) then { y with stopped := true } else y) := by
  show (s.works.foldl State.stopFor s).ring n = _
  generalize s.works = l
  induction l generalizing s with
  | nil => simp
  | cons w l ih =>
    rw [List.foldl_cons, ih, State.stopFor_ring, Option.map_map, List.any_cons]
    congr 1
    funext y
    cases w.disables n <;> simp

/-! ### RING_RESUME (11 R302) -/

theorem State.adminRingResume_none {s : State} {w : Work} (h : s.ring w.fA = none) : s.adminRingResume w = s.setResult w stRingConfig := by
  simp only [State.adminRingResume, h]

theorem State.adminRingResume_some {s : State} {w : Work} {y : Ring} (h : s.ring w.fA = some y) :
    s.adminRingResume w = (s.setRing w.fA { y with err := none }).setResult w stOk := by
  simp only [State.adminRingResume, h]

/-! ### PLAN_LOAD and PLAN_UNLOAD (11 R315) -/

/-- Bytes of the ring area that the images of a plan take. -/
def Plan.storeBytes (p : Plan) : Nat := p.images.foldl (fun n im => n + im.storeBytes) 0

/-- The loaded plans without the one of a function and ID. -/
def State.otherPlans (s : State) (fn id : Nat) : List Plan := s.plans.filter (fun p => !(decide (p.fn = fn) && decide (p.id = id)))

section
variable {s : State} {r q : Nat} {w : Work}

theorem State.adminPlanLoad_waits (hw : s.findWork r q = some w) (hresult : w.result = none)
    (h : ((s.findPlan w.fn w.fA).isSome && s.planNamed w.fn w.fA) = true) :
    (s.adminPlanLoad w).awaits r q .planLoad ∧ (s.adminPlanLoad w).plans = s.plans := by
  rw [State.adminPlanLoad, if_pos h]
  exact ⟨State.updWork_awaits hw hresult _, rfl⟩

theorem State.adminPlanLoad_now (h : ((s.findPlan w.fn w.fA).isSome && s.planNamed w.fn w.fA) = false) :
    s.adminPlanLoad w = s.planLoadNow w := by
  rw [State.adminPlanLoad, h]
  exact if_neg Bool.false_ne_true

theorem State.planLoadNow_rejected (hw : s.findWork r q = some w) {st n : Nat} (h : s.loadPlan w.fn w.fA w.fB w.fC = .rejected st n) :
    (s.planLoadNow w).finished r q st ∧ (s.planLoadNow w).fld hstPlanReject = (s.fld hstPlanReject + n) % 2 ^ hstPlanReject.width
      ∧ (s.planLoadNow w).plans = s.plans := by
  have hnow : s.planLoadNow w = (s.bump hstPlanReject n).setResult w st := by simp only [State.planLoadNow, State.planLoad, h]
  rw [hnow]
  exact ⟨State.setResult_finished ((State.findWork_congr (State.bump_works s _ _) r q).trans hw) st, State.fld_bump s (by decide) n, rfl⟩

theorem State.planLoadNow_full (hw : s.findWork r q = some w) {p : Plan} (h : s.loadPlan w.fn w.fA w.fB w.fC = .loaded p)
    (hfull : s.hbm.layout.ringArea < ({ s with plans := s.otherPlans w.fn w.fA } : State).ringAreaUsed + p.storeBytes) :
    (s.planLoadNow w).finished r q stPlanStoreFull ∧ (s.planLoadNow w).plans = s.plans := by
  have hload : s.planLoad w = (stPlanStoreFull, s, none) := by
    simp only [State.planLoad, h]
    exact if_pos hfull
  have hnow : s.planLoadNow w = s.setResult w stPlanStoreFull := by simp only [State.planLoadNow, hload]
  rw [hnow]
  exact ⟨State.setResult_finished hw _, rfl⟩

theorem State.planLoadNow_fits {p : Plan} (hw : s.findWork r q = some w) (h : s.loadPlan w.fn w.fA w.fB w.fC = .loaded p)
    (hfits : ({ s with plans := s.otherPlans w.fn w.fA } : State).ringAreaUsed + p.storeBytes ≤ s.hbm.layout.ringArea) :
    (s.planLoadNow w).finished r q stOk ∧ (s.planLoadNow w).plans = s.otherPlans w.fn w.fA ++ [p] := by
  have hload : s.planLoad w = (stOk, { s with plans := s.otherPlans w.fn w.fA ++ [p] }, some p) := by
    simp only [State.planLoad, h]
    exact if_neg (not_lt.mpr hfits)
  unfold State.planLoadNow
  rw [hload]
  have hbody := State.sameBody_nvStore ({ s with plans := s.otherPlans w.fn w.fA ++ [p] } : State) rtPlan (planValue w.fn w.fA w.fB w.fC p.odig)
  exact ⟨State.updWork_finished ((State.findWork_congr hbody.works r q).trans hw) (fun _ => ⟨rfl, rfl⟩) rfl, hbody.plans⟩

/-- The plan of a function and ID, from now on for no work. -/
def State.unloading (s : State) (fn id : Nat) : State :=
  { s with plans := s.plans.map (fun p => if p.fn = fn ∧ p.id = id then { p with unloading := true } else p) }

theorem State.unloading_findPlan (s : State) (fn id f n : Nat) : (s.unloading fn id).findPlan f n
    = (s.findPlan f n).map (fun p => if p.fn = fn ∧ p.id = id then { p with unloading := true } else p) := by
  have hsame : ∀ p : Plan, (if p.fn = fn ∧ p.id = id then { p with unloading := true } else p).fn = p.fn
      ∧ (if p.fn = fn ∧ p.id = id then { p with unloading := true } else p).id = p.id := fun p => by
    split <;> exact ⟨rfl, rfl⟩
  simp only [State.unloading, State.findPlan, List.find?_map, Function.comp_def, hsame]

theorem State.findPlan_named {fn id : Nat} {p : Plan} (h : s.findPlan fn id = some p) : p.fn = fn ∧ p.id = id := by
  simpa using List.find?_some h

theorem State.adminPlanUnload_none (hw : s.findWork r q = some w) (h : s.findPlan w.fn w.fA = none) :
    (s.adminPlanUnload w).finished r q stPlanUnknown ∧ (s.adminPlanUnload w).plans = s.plans := by
  simp only [State.adminPlanUnload, h]
  exact ⟨State.setResult_finished hw _, rfl⟩

theorem State.adminPlanUnload_some (hw : s.findWork r q = some w) (hresult : w.result = none) {p : Plan}
    (h : s.findPlan w.fn w.fA = some p) : (s.adminPlanUnload w).awaits r q (.planUnload w.fA)
      ∧ (s.adminPlanUnload w).findPlan w.fn w.fA = some { p with unloading := true }
      ∧ ∀ f n, f ≠ w.fn ∨ n ≠ w.fA → (s.adminPlanUnload w).findPlan f n = s.findPlan f n := by
  have hunload : s.adminPlanUnload w
      = (s.unloading w.fn w.fA).updWork w.ring w.seq (fun x => { x with admin := .planUnload w.fA }) := by
    simp only [State.adminPlanUnload, h]
    rfl
  have hplan : ∀ f n, (s.adminPlanUnload w).findPlan f n = (s.unloading w.fn w.fA).findPlan f n := fun f n => by rw [hunload]; rfl
  refine ⟨?_, ?_, fun f n hne => ?_⟩
  · rw [hunload]
    exact State.updWork_awaits (s := s.unloading w.fn w.fA) hw hresult _
  · rw [hplan, State.unloading_findPlan, h, Option.map_some, if_pos (State.findPlan_named h)]
  · rw [hplan, State.unloading_findPlan]
    cases hq : s.findPlan f n with
    | none => rfl
    | some y =>
      obtain ⟨rfl, rfl⟩ := State.findPlan_named hq
      rw [Option.map_some, if_neg fun hboth => hne.elim (fun hf => hf hboth.1) (fun hn => hn hboth.2)]

end

/-! ### WSET_LOAD (11 R315) -/

theorem State.adminWsetLoad_spec {s : State} {r q : Nat} {w : Work} (hw : s.findWork r q = some w) :
    (s.adminWsetLoad w).finished r q stOk
      ∧ (s.adminWsetLoad w).hbm = (s.hbm.store (w.fD % 2 ^ 52) (s.hostBytes w.fB w.fC)).unlose (w.fD % 2 ^ 52) w.fC
      ∧ (w.fA, w.fD % 2 ^ 52, w.fC) ∈ (s.adminWsetLoad w).wsets ∧ (s.adminWsetLoad w).cores = s.cores := by
  unfold State.adminWsetLoad
  refine ⟨State.updWork_finished ?_ (fun _ => ⟨rfl, rfl⟩) rfl, rfl, List.mem_append_right _ (by simp), rfl⟩
  exact (State.findWork_congr rfl r q).trans hw

/-! ### The commands -/

section
variable {s : State} {r : Fin 65536} {x : Ring} {d : AdminDesc}

theorem exec_ringEnable (h : s.runsAdmin r.val x 0x10 d) :
    let e := (s.accepted r.val x (adminBytes 0x10 d)).enableRange d.a.toNat d.b.toNat
    ∃ t, exec (.ringEnable r d) s = .next t ∧ t.finished r.val d.seq.toNat e.1 ∧ t.rings = e.2.2.rings ∧ t.host = e.2.2.host := by
  have hspec := State.adminRingEnable_spec (h.accepted_findWork 0x10)
  rw [State.workOf_fA, State.workOf_fB] at hspec
  exact ⟨_, by rw [exec_admin rfl h.tosamples h.admin, State.adminRun_ringEnable h.passes (State.workOf_op _ _ _ _ _)], hspec⟩

theorem exec_ringDisable (h : s.runsAdmin r.val x 0x11 d) :
    ∃ t, exec (.ringDisable r d) s = .next t ∧ t.awaits r.val d.seq.toNat (.ringDisable d.a.toNat d.b.toNat)
      ∧ t.rings = (s.accepted r.val x (adminBytes 0x11 d)).rings
      ∧ ∀ n y, t.ring n = some y → d.a.toNat ≤ n → n < d.a.toNat + d.b.toNat → t.stopDisabled.ring n = some { y with stopped := true } := by
  have hawaits := State.updWork_awaits (h.accepted_findWork 0x11) rfl (.ringDisable d.a.toNat d.b.toNat)
  refine ⟨_, ?_, hawaits, rfl, fun n y hy hlo hhi => ?_⟩
  · rw [exec_admin rfl h.tosamples h.admin, State.adminRun_ringDisable h.passes (State.workOf_op _ _ _ _ _), State.adminRingDisable,
      State.workOf_fA, State.workOf_fB]
  · obtain ⟨w, hw, -, hadmin⟩ := hawaits
    have hstops : w.disables n = true := by simp [Work.disables, hadmin, hlo, hhi]
    rw [State.stopDisabled_ring, hy, Option.map_some, if_pos (List.any_eq_true.mpr ⟨w, List.mem_of_find?_eq_some hw, hstops⟩)]

theorem exec_ringResume (h : s.runsAdmin r.val x 0x12 d) : exec (.ringResume r d) s
    = .next ((s.accepted r.val x (adminBytes 0x12 d)).adminRingResume (s.workOf r.val x (adminBytes 0x12 d))) := by
  rw [exec_admin rfl h.tosamples h.admin, State.adminRun_ringResume h.passes (State.workOf_op _ _ _ _ _)]

theorem exec_ringResume_none (h : s.runsAdmin r.val x 0x12 d) (hnone : (s.accepted r.val x (adminBytes 0x12 d)).ring d.a.toNat = none) :
    ∃ t, exec (.ringResume r d) s = .next t ∧ t.finished r.val d.seq.toNat stRingConfig
      ∧ t.rings = (s.accepted r.val x (adminBytes 0x12 d)).rings := by
  refine ⟨_, exec_ringResume h, ?_⟩
  rw [← s.workOf_fA r.val x 0x12 d] at hnone
  rw [State.adminRingResume_none hnone]
  exact ⟨State.setResult_finished (h.accepted_findWork 0x12) _, rfl⟩

theorem exec_ringResume_some (h : s.runsAdmin r.val x 0x12 d) {y : Ring}
    (hy : (s.accepted r.val x (adminBytes 0x12 d)).ring d.a.toNat = some y) :
    ∃ t, exec (.ringResume r d) s = .next t ∧ t.finished r.val d.seq.toNat stOk ∧ t.ring d.a.toNat = some { y with err := none }
      ∧ ∀ n, n ≠ d.a.toNat → t.ring n = (s.accepted r.val x (adminBytes 0x12 d)).ring n := by
  refine ⟨_, exec_ringResume h, ?_⟩
  rw [← s.workOf_fA r.val x 0x12 d] at hy ⊢
  rw [State.adminRingResume_some hy]
  refine ⟨State.setResult_finished ((State.findWork_congr rfl _ _).trans (h.accepted_findWork 0x12)) _,
    (State.ring_setRing _ _ _ _).trans (if_pos rfl), fun n hn => (State.ring_setRing _ _ _ _).trans (if_neg hn)⟩

theorem exec_planLoad (h : s.runsAdmin r.val x 0x20 d) : exec (.planLoad r d) s
    = .next ((s.accepted r.val x (adminBytes 0x20 d)).adminPlanLoad (s.workOf r.val x (adminBytes 0x20 d))) := by
  rw [exec_admin rfl h.tosamples h.admin, State.adminRun_planLoad h.passes (State.workOf_op _ _ _ _ _)]

theorem exec_planUnload (h : s.runsAdmin r.val x 0x21 d) : exec (.planUnload r d) s
    = .next ((s.accepted r.val x (adminBytes 0x21 d)).adminPlanUnload (s.workOf r.val x (adminBytes 0x21 d))) := by
  rw [exec_admin rfl h.tosamples h.admin, State.adminRun_planUnload h.passes (State.workOf_op _ _ _ _ _)]

theorem exec_wsetLoad (h : s.runsAdmin r.val x 0x30 d) : exec (.wsetLoad r d) s
    = .next ((s.accepted r.val x (adminBytes 0x30 d)).adminWsetLoad (s.workOf r.val x (adminBytes 0x30 d))) := by
  rw [exec_admin rfl h.tosamples h.admin, State.adminRun_wsetLoad h.passes (State.workOf_op _ _ _ _ _)]

end

/-- Settles O48: each descriptor that passes its checks does what its OP says, on the state that its acceptance leaves. -/
theorem ringAndPlanDescriptors : Obligations.RingAndPlanDescriptors := by
  refine ⟨fun s r x d => ⟨exec_ringEnable, fun n hn hmid => ⟨fun hreserved hvalid => ?_, fun hreserved => ?_⟩, exec_ringDisable,
    fun h => ⟨exec_ringResume_none h, fun y => exec_ringResume_some h⟩⟩, fun s r x d => ⟨fun h => ?_, fun h => ?_, fun h => ?_⟩⟩
  · rw [State.enableRing_valid hn hmid hreserved hvalid]
    exact ⟨rfl, (s.ringEnabled_ring n n).trans (if_pos rfl), fun m hm => (s.ringEnabled_ring n m).trans (if_neg hm),
      fun _ => s.ringEnabled_accepted n⟩
  · rw [State.enableRing_reserved hn hmid hreserved]
    exact ⟨rfl, rfl⟩
  · have hfind := h.accepted_findWork 0x20
    obtain ⟨hregs, hhbm, -, hplans⟩ := s.accepted_rest r.val x (adminBytes 0x20 d)
    have hexec := exec_planLoad h
    rw [← s.workOf_fA r.val x 0x20 d, ← s.workOf_fB r.val x 0x20 d, ← s.workOf_fC r.val x 0x20 d, ← hplans, ← State.fld_congr hregs,
      ← hhbm]
    have hfn : x.fn = (s.workOf r.val x (adminBytes 0x20 d)).fn := rfl
    rw [hfn]
    refine ⟨fun hwaits => ⟨_, hexec, State.adminPlanLoad_waits hfind rfl hwaits⟩, fun st n hwaits hload => ⟨_, hexec, ?_⟩,
      fun p hwaits hload => ⟨fun hfits => ⟨_, hexec, ?_⟩, fun hfull => ⟨_, hexec, ?_⟩⟩⟩
    all_goals rw [State.adminPlanLoad_now hwaits]
    · exact State.planLoadNow_rejected hfind hload
    · exact State.planLoadNow_fits hfind hload (of_decide_eq_true hfits)
    · exact State.planLoadNow_full hfind hload (not_le.mp (of_decide_eq_false hfull))
  · obtain ⟨-, -, -, hplans⟩ := s.accepted_rest r.val x (adminBytes 0x21 d)
    have hsame : ∀ f n, s.findPlan f n = (s.accepted r.val x (adminBytes 0x21 d)).findPlan f n := fun f n => by
      rw [State.findPlan, State.findPlan, hplans]
    have hfind := h.accepted_findWork 0x21
    have hfn : x.fn = (s.workOf r.val x (adminBytes 0x21 d)).fn := rfl
    rw [← s.workOf_fA r.val x 0x21 d, ← hplans, hfn]
    simp only [hsame]
    exact ⟨fun hnone => ⟨_, exec_planUnload h, State.adminPlanUnload_none hfind hnone⟩,
      fun p hp => ⟨_, exec_planUnload h, State.adminPlanUnload_some hfind rfl hp⟩⟩
  · obtain ⟨-, hhbm, hcores, -⟩ := s.accepted_rest r.val x (adminBytes 0x30 d)
    obtain ⟨hfin, hstored, hset, hsame⟩ := State.adminWsetLoad_spec (h.accepted_findWork 0x30)
    rw [State.workOf_fA, State.workOf_fC, State.workOf_fD] at hset
    rw [State.workOf_fB, State.workOf_fC, State.workOf_fD, hhbm] at hstored
    exact ⟨_, exec_wsetLoad h, hfin, hstored, hset, hsame.trans hcores⟩

end Sys2Proof.Machine
end

section
/-! SUPPORT. The host link, power states, configuration requests and MSI-X (11 R289, R291, R292, R316; 15 R408). -/

namespace Sys2Proof.Machine

/-! ### The link (11 R289) -/

theorem State.sameBody_setLink (s : State) (width gen : Nat) : (s.setLink width gen).sameBody s :=
  (State.sameBody_setFld _ _ _).trans (State.sameBody_setFld _ _ _)

/-- A link that has trained shows its width and generation, and nothing else of the part changes. -/
theorem State.setLink_shows (s : State) (width : BitVec 5) (gen : BitVec 4) : (s.setLink width.toNat gen.toNat).sameBody s
    ∧ (s.setLink width.toNat gen.toNat).fld hifLinkWidth = width.toNat ∧ (s.setLink width.toNat gen.toNat).fld hifLinkGen = gen.toNat
    ∧ (s.setLink width.toNat gen.toNat).nv = s.nv ∧ (s.setLink width.toNat gen.toNat).errs = s.errs := by
  refine ⟨s.sameBody_setLink _ _, ?_, ?_, rfl, rfl⟩
  · rw [State.setLink, State.fld_setFld_other _ (by decide) _ (by decide), State.fld_setFld _ (by decide)]
    exact Nat.mod_eq_of_lt width.isLt
  · rw [State.setLink, State.fld_setFld _ (by decide)]
    exact Nat.mod_eq_of_lt gen.isLt

theorem exec_pcieLinkUp (width : BitVec 5) (gen : BitVec 4) (s : State) : exec (.pcieLinkUp width gen) s
    = if s.hostPath && linkShape width.toNat gen.toNat then .next (s.setLink width.toNat gen.toNat) else .next s := rfl

theorem exec_linkNarrow (width : BitVec 5) (gen : BitVec 4) (s : State) : exec (.linkNarrow width gen) s
    = if s.hostPath && decide (width.toNat < s.fld hifLinkWidth) && linkShape width.toNat gen.toNat
      then .next (s.setLink width.toNat gen.toNat) else .next s := rfl

/-! ### Power states (11 R291) -/

theorem mem_insertOnce {a x : Nat} {l : List Nat} : a ∈ insertOnce x l ↔ a = x ∨ a ∈ l := by
  unfold insertOnce
  split
  · next h =>
    have hx : x ∈ l := by simpa using h
    exact ⟨.inr, fun h => h.elim (fun e => e ▸ hx) id⟩
  · simp [or_comm]

/-! ### Configuration requests (15 R408) -/

theorem State.cfgWrite_access (s : State) (f : Nat) (x : CfgField) (v : BitVec 32) : ∃ a, s.cfgWrite f x v = { s with access := a } := by
  unfold State.cfgWrite
  cases x with
  | vfEnable => by_cases hf : f = 0 <;> simp only [hf, if_true, if_false] <;> exact ⟨_, rfl⟩
  | atomicEnable => exact ⟨_, rfl⟩
  | aerStatus => exact ⟨_, rfl⟩
  | aerHeader dword => exact ⟨s.access, rfl⟩
  | other => exact ⟨s.access, rfl⟩

/-- The answer to a configuration read. -/
def State.cfgReply (s : State) (f : Nat) (x : CfgField) : Reply :=
  match s.cfgRead f x with
  | some v => .value v 4
  | none => .configOk

section
variable (f : Fin 64) {s : State} (hpower : s.powered = true) (hready : s.power.configReady = true)
include hpower hready

theorem exec_configRead (x : CfgField) :
    exec (.configurationRequest ⟨f, .read x⟩) s = .next { s with reply := s.cfgReply f.val x } := by
  show execConfigurationRequest ⟨f, .read x⟩ s = _
  simp only [execConfigurationRequest, hpower, hready]
  rfl

theorem exec_configWrite (x : CfgField) (v : BitVec 32) :
    exec (.configurationRequest ⟨f, .write x v⟩) s = .next { (s.cfgWrite f.val x v) with reply := .configOk } := by
  show execConfigurationRequest ⟨f, .write x v⟩ s = _
  simp only [execConfigurationRequest, hpower, hready]
  rfl

end

/-! ### MSI-X (11 R316) -/

theorem State.unmaskVector_open (s : State) (k : Nat × Nat) :
    k ∈ (s.unmaskVector k).access.vecOpen ∧ ∀ j, j ∈ s.access.vecOpen → j ∈ (s.unmaskVector k).access.vecOpen := by
  by_cases h : s.access.vecOpen.contains k = true
  · have hopen : (s.unmaskVector k).access.vecOpen = s.access.vecOpen := if_pos h
    rw [hopen]
    exact ⟨by simpa using h, fun _ => id⟩
  · have hopen : (s.unmaskVector k).access.vecOpen = s.access.vecOpen ++ [k] := if_neg h
    rw [hopen]
    exact ⟨by simp, fun _ => List.mem_append_left _⟩

theorem State.unmaskVector_sends {s : State} {k : Nat × Nat} (h : k ∈ s.access.vecPending) (hopen : s.hostOpen k.1 = true) :
    (s.unmaskVector k).access.sent = [k] ∧ k ∉ (s.unmaskVector k).access.vecPending := by
  simp [State.unmaskVector, h, hopen]

theorem State.unmaskVector_silent {s : State} {k : Nat × Nat} (h : k ∉ s.access.vecPending ∨ s.hostOpen k.1 = false) :
    (s.unmaskVector k).access.sent = [] ∧ (s.unmaskVector k).access.vecPending = s.access.vecPending := by
  rcases h with h | h <;> simp [State.unmaskVector, h]

/-- Settles O42: each event of the link changes what it is about, and answers at once. -/
theorem hostLinkEvents : Obligations.HostLinkEvents := by
  refine fun s => ⟨fun width gen => ⟨fun hpath hshape => ?_, fun hno => ?_⟩, fun width gen => ⟨fun hpath hless hshape => ?_, fun hno => ?_⟩,
    fun f => ⟨_, rfl, ?_, fun g _ hg => mem_insertOnce.mpr (.inr hg), rfl⟩, fun f => ⟨_, rfl, fun g => ?_, rfl⟩,
    fun f q => ⟨fun hpower => ?_, fun hpower hready => ?_, fun hpower hready => ?_⟩, fun f vec => ?_⟩
  · exact ⟨_, by rw [exec_pcieLinkUp, hpath, hshape]; rfl, s.setLink_shows width gen⟩
  · rw [exec_pcieLinkUp]
    rcases hno with h | h <;> simp [h]
  · exact ⟨_, by rw [exec_linkNarrow, hpath, hshape, decide_eq_true hless]; rfl, s.setLink_shows width gen⟩
  · rw [exec_linkNarrow]
    rcases hno with h | h | h
    · simp [h]
    · simp [not_lt.mpr h]
    · simp [h]
  · have hheld : f.val ∈ insertOnce f.val s.access.d3hot := mem_insertOnce.mpr (.inl rfl)
    simp [State.hostOpen, hheld]
  · simp
  · show execConfigurationRequest ⟨f, q⟩ s = _
    simp [execConfigurationRequest, hpower]
  · show execConfigurationRequest ⟨f, q⟩ s = _
    simp [execConfigurationRequest, hpower, hready]
  · cases q with
    | read x =>
      refine ⟨_, exec_configRead f hpower hready x, rfl, fun y hy => ?_, fun _ _ h => absurd h (by simp)⟩
      obtain rfl : x = y := by simpa using hy
      exact ⟨rfl, rfl⟩
    | write x v =>
      obtain ⟨a, ha⟩ := s.cfgWrite_access f.val x v
      exact ⟨_, exec_configWrite f hpower hready x v, by rw [ha], fun _ h => absurd h (by simp), fun _ _ _ => rfl⟩
  · intro k
    obtain ⟨hopen, hopens⟩ := s.unmaskVector_open k
    exact ⟨⟨_, rfl, hopen, hopens, State.unmaskVector_sends, State.unmaskVector_silent, rfl⟩,
      ⟨_, rfl, by simp [k], fun j hj => ⟨fun h => (List.mem_filter.mp h).1, fun h => List.mem_filter.mpr ⟨h, decide_eq_true hj⟩⟩, rfl⟩,
      fun addr data => ⟨_, rfl, SMap.get_set_self _ _ _ _, rfl⟩, fun _ => rfl, rfl⟩

end Sys2Proof.Machine
end

section
/-! SUPPORT. Writes of registers that act (18 R473, R476; 11 R318; 12 R332; 15 R425; 17 R462; 18 R489): the write reaches the register's one
field, and the field acts. -/

namespace Sys2Proof.Machine

section
variable {s : State} {rid : BitVec 16} {f : Fin 64} {off key : Nat}

theorem State.hostWriteReg_off (h : s.hostPath = false) (v : BitVec 32) (o : WriteWith) : s.hostWriteReg rid f off v true o = s := by
  simp [State.hostWriteReg, h]

/-- A write of a register without a guard, in a powered domain. -/
theorem State.hostWriteReg_plain {n : Nat} (hn : f.val = n) (hpath : s.hostPath = true) (hbar : inBar n off = true) (halign : off % 4 = 0)
    (htarget : regTarget n off = (key, .normal)) (hon : (s.countWrite rid.toNat n).domainOn key = true)
    (hguard : guardedReg n key = false) (v : BitVec 32) (o : WriteWith) :
    s.hostWriteReg rid f off v true o = (s.countWrite rid.toNat n).plainWrite n key v o := by
  subst hn
  simp [State.hostWriteReg, State.busWrite, State.isComplement, State.landWrite, hpath, hbar, halign, htarget, hon, hguard]

/-- A register whose one field acts when it is written. -/
theorem State.plainWrite_wo {g : RegField} (h : fieldsOf 0 key = [g]) (hacc : g.acc = .wo) (v : BitVec 32) (o : WriteWith) :
    s.plainWrite 0 key v o = s.actWo key v.toNat o := by
  simp [State.plainWrite, State.putRwAll, h, hacc]

/-- A register whose one field is free to be written, and no key. -/
theorem State.plainWrite_rw {n : Nat} {g : RegField} (h : fieldsOf n key = [g]) (hacc : g.acc = .rw) (hkey : g.key = none) (v : BitVec 32)
    (o : WriteWith) : s.plainWrite n key v o = s.putRw n g (bitField v.toNat g.lsb g.width) := by
  simp [State.plainWrite, State.putRwAll, h, hacc, hkey]

theorem State.countWrite_none {n m : Nat} (h : s.guardOf n m = none) : s.countWrite n m = s := by simp [State.countWrite, h]

end

/-! ### ENABLE (11 R318) -/

theorem fieldsOf_enable (f : Fin 64) : fieldsOf f.val 0x10000 = [hifEnable] := by
  by_cases hf : f.val = 0
  · rw [hf]; decide
  · rw [fieldsOf, if_neg hf]; decide

theorem regTarget_enable : ∀ f : Fin 64, inBar f.val (enableOff f) = true ∧ enableOff f % 4 = 0
    ∧ regTarget f.val (enableOff f) = (0x10000, .normal) := by decide

/-- ENABLE set or cleared: the bit, and the start that a set one asks for. -/
theorem State.setEnable_spec (s : State) (f : Nat) (on : Bool) : (s.setEnable f on).hif f hifEnable = boolNat on
    ∧ (on = true → s.hif f hifEnable = 0 → f ∈ (s.setEnable f on).access.starting)
    ∧ ((on = true → s.hif f hifEnable ≠ 0) → s.setEnable f on = { s with regs := (s.setEnable f on).regs })
    ∧ s.setEnable f on = { s with regs := (s.setEnable f on).regs, access := (s.setEnable f on).access } := by
  have hbit : (s.setHif f hifEnable (boolNat on)).hif f hifEnable = boolNat on :=
    (s.hif_setHif f (by decide) _).trans (by cases on <;> rfl)
  unfold State.setEnable
  by_cases hnew : on = true ∧ s.hif f hifEnable = 0
  · rw [if_pos (by simpa using hnew)]
    exact ⟨hbit, fun _ _ => mem_insertOnce.mpr (.inl rfl), fun h => absurd hnew.2 (h hnew.1), rfl⟩
  · rw [if_neg (by simpa using hnew)]
    exact ⟨hbit, fun hon hwas => absurd ⟨hon, hwas⟩ hnew, fun _ => rfl, rfl⟩

/-! ### Domains (18 R482) -/

section
variable {s : State} (h : s.fld devDomains = 0x3FFF)
include h

theorem State.domainOn_low {key : Nat} (hkey : key < 0x100000) : s.domainOn key = true := by
  have hbit : ∀ i < 14, bitAt 0x3FFF i = true := by decide
  have hlink : bitAt 0x3FFF (if key < 0xA0430 then 4 else 5) = true := by split <;> decide
  have hno : ¬(0x100000 ≤ key ∧ key < 0x190000) := fun hk => absurd hk.1 (not_le.mpr hkey)
  unfold State.domainOn
  rw [h]
  split <;> simp [hbit, hlink, hno]

theorem State.domainOn_core {c : Nat} (hc : c < 144) (hin : s.coreOut c = 0) : s.domainOn (coreWindow c + 4) = true := by
  have hbit : bitAt 0x3FFF 3 = true := by decide
  have hk : (coreWindow c + 4) / 0x10000 = c / 16 + 16 := by unfold coreWindow; omega
  have hc' : (coreWindow c - 0xFFFFC) / 0x1000 = c := by unfold coreWindow; omega
  unfold State.domainOn
  rw [h, hk]
  simp [hbit, hc', hin]

end

/-! ### The core windows (18 R489) -/

theorem regTarget_core {c : Nat} (hc : c < 144) : regTarget 0 (coreWindow c + 4) = (coreWindow c + 4, .normal) := by
  have hlow : ¬(coreWindow c + 4 < 0x100000) := by unfold coreWindow; omega
  have hwin : (coreWindow c + 4) % 0x1000 / 0x400 = 0 := by unfold coreWindow; omega
  have hoff : (coreWindow c + 4) / 0x1000 * 0x1000 + (coreWindow c + 4) % 0x1000 % 0x400 = coreWindow c + 4 := by unfold coreWindow; omega
  simp only [regTarget, ne_eq, not_true_eq_false, if_false, hlow, hwin, hoff]

theorem fieldsOf_core {c : Nat} (hc : c < 144) : fieldsOf 0 (coreWindow c + 4) = [coreCntFreeze c] := by
  have hk : (coreWindow c + 4) / 0x10000 = c / 16 + 16 := by unfold coreWindow; omega
  have hwin : 0x100000 ≤ coreWindow c + 4 ∧ (coreWindow c + 4) % 0x1000 = 4 := by unfold coreWindow; omega
  have hc' : (coreWindow c - 0xFFFFC) / 0x1000 = c := by unfold coreWindow; omega
  rw [fieldsOf, if_pos rfl, regFields, hk]
  simp [hwin, hc']

theorem State.putRw_freeze (s : State) (c x : Nat) : s.putRw 0 (coreCntFreeze c) x = s.setFreeze c (decide (x = 1)) := by
  have hoff : (coreCntFreeze c).off = 0x100004 + 0x1000 * c := by show coreWindow c + 4 = _; unfold coreWindow; omega
  have hother : coreCntFreeze c ≠ hifEnable := fun h => by
    have henable : (coreCntFreeze c).off = 0x10000 := by rw [h]; rfl
    omega
  rw [State.putRw, if_neg hother, if_pos (by omega), show ((coreCntFreeze c).off - 0x100000) / 0x1000 = c by omega]

/-- CNT_FREEZE set or cleared: the flag, and the counters that a set one holds. -/
theorem State.setFreeze_spec (s : State) (c : Nat) (on : Bool) : (s.setFreeze c on).flag (coreCntFreeze c) = on
    ∧ (s.setFreeze c on) = { s with
        regs := (s.setFreeze c on).regs, access := { s.access with frozen := (s.setFreeze c on).access.frozen } }
    ∧ (on = true → s.flag (coreCntFreeze c) = false →
      (s.setFreeze c on).access.frozen = SMap.set [] s.access.frozen c (s.core c).windowCounts) := by
  have hflag : ∀ t : State, t.regs = (s.setFlag (coreCntFreeze c) on).regs → t.flag (coreCntFreeze c) = on := fun t ht =>
    (State.flag_congr ht _).trans (State.flag_setFlag s (show 0 + 1 ≤ 32 by norm_num) rfl on)
  cases on with
  | false => exact ⟨hflag _ rfl, rfl, fun h => absurd h (by decide)⟩
  | true =>
    cases hwas : s.flag (coreCntFreeze c) with
    | true =>
      have heq : s.setFreeze c true = s.setFlag (coreCntFreeze c) true := by simp [State.setFreeze, hwas]
      rw [heq]
      exact ⟨hflag _ rfl, rfl, fun _ h => absurd h (by decide)⟩
    | false =>
      have heq : s.setFreeze c true = { s.setFlag (coreCntFreeze c) true with
          access := { s.access with frozen := SMap.set [] s.access.frozen c (s.core c).windowCounts } } := by
        simp [State.setFreeze, hwas]
        rfl
      rw [heq]
      exact ⟨hflag _ rfl, rfl, fun _ _ => rfl⟩

/-- A core whose counters are held shows those that it held. -/
theorem State.setFreeze_counter {s : State} {c : Nat} (h : s.flag (coreCntFreeze c) = false) (i : Nat) :
    (s.setFreeze c true).coreCounter c i = ((s.core c).windowCounts.getD i 0).toNat := by
  obtain ⟨hflag, hrest, hfrozen⟩ := s.setFreeze_spec c true
  have hlive : (s.setFreeze c true).core c = s.core c := by rw [hrest]; rfl
  have hshown : SMap.get (s.core c).windowCounts (SMap.set [] s.access.frozen c (s.core c).windowCounts) c = (s.core c).windowCounts := by
    unfold SMap.set
    split
    · exact SMap.get_of_absent _ c _ (SMap.not_mem_without c _)
    · exact SMap.get_put_self _ c _ _ (SMap.not_mem_without c _)
  rw [State.coreCounter, hlive, hflag, if_pos rfl, hfrozen rfl h, hshown]

/-! ### MEASURE (15 R425) -/

/-- A store without a wait touches the counters of deferred stores and of records, at most. -/
theorem State.fld_nvNote (s : State) (type : Nat) (value : List Byte) {g : RegField} (h1 : errCeDrop.apart g) (h2 : errNvOverflow.apart g)
    (h3 : nviDefers.apart g) : (s.nvNote type value).fld g = s.fld g := by
  have hpump : ∀ t : State, t.nvPump.fld g = t.fld g := fun t => by
    unfold State.nvPump
    split
    · rfl
    · dsimp only
      split
      · rfl
      · split
        · split
          · rfl
          · exact (State.fld_bump_other _ (by decide) _ h3).trans (State.fld_log _ _ _ h1 h2)
        · rfl
  exact hpump _

theorem State.fld_showBank (s : State) {g : RegField} (h1 : nviHuEmj.apart g) (h2 : nviChunkPages.apart g) (h3 : nviHoldupOk.apart g) :
    s.showBank.fld g = s.fld g :=
  (State.fld_setFlag_other _ (by decide) _ h3).trans ((State.fld_setFld_other _ (by decide) _ h2).trans
    (State.fld_setFld_other _ (by decide) _ h1))

/-- What a measurement of the bank shows. -/
theorem State.measureBank_shows (s : State) (drop step : Nat) (volt : BitVec 16) : (s.measureBank drop step volt.toNat).fld nviHuVolt = volt.toNat
    ∧ (s.measureBank drop step volt.toNat).fld nviHuEsr = min 65535 (5 * step)
    ∧ (s.measureBank drop step volt.toNat).fld nviHuCap = min 65535 (if drop = 0 then 65535 else 4000000 / drop) := by
  generalize hesr : min 65535 (5 * step) = esr
  generalize hcap : min 65535 (if drop = 0 then 65535 else 4000000 / drop) = cap
  have hlast : ∀ {g : RegField}, errCeDrop.apart g → errNvOverflow.apart g → nviDefers.apart g → nviHuEmj.apart g → nviChunkPages.apart g →
      nviHoldupOk.apart g → (s.measureBank drop step volt.toNat).fld g
        = (((s.setFld nviHuCap cap).setFld nviHuEsr esr).setFld nviHuVolt volt.toNat).fld g := fun h1 h2 h3 h4 h5 h6 => by
    unfold State.measureBank
    rw [hesr, hcap]
    dsimp only
    split
    · exact (State.fld_log _ _ _ h1 h2).trans ((State.fld_nvNote _ _ _ h1 h2 h3).trans (State.fld_showBank _ h4 h5 h6))
    · exact (State.fld_nvNote _ _ _ h1 h2 h3).trans (State.fld_showBank _ h4 h5 h6)
  refine ⟨?_, ?_, ?_⟩ <;> rw [hlast (by decide) (by decide) (by decide) (by decide) (by decide) (by decide)]
  · rw [State.fld_setFld _ (by decide)]
    exact Nat.mod_eq_of_lt volt.isLt
  · rw [State.fld_setFld_other _ (by decide) _ (by decide), State.fld_setFld _ (by decide)]
    exact Nat.mod_eq_of_lt (by rw [← hesr]; exact Nat.lt_succ_of_le (Nat.min_le_left _ _))
  · rw [State.fld_setFld_other _ (by decide) _ (by decide), State.fld_setFld_other _ (by decide) _ (by decide), State.fld_setFld _ (by decide)]
    exact Nat.mod_eq_of_lt (by rw [← hcap]; exact Nat.lt_succ_of_le (Nat.min_le_left _ _))

/-! ### The commands -/

section
variable {s : State} {rid : BitVec 16}

/-- A write of a register of the PF whose one field acts. -/
theorem State.hostWriteReg_wo {key : Nat} {g : RegField} (hpath : s.hostPath = true) (halign : key % 4 = 0)
    (htarget : regTarget 0 key = (key, .normal)) (hon : (s.countWrite rid.toNat 0).domainOn key = true) (h : fieldsOf 0 key = [g])
    (hacc : g.acc = .wo) (v : BitVec 32) (o : WriteWith) :
    s.hostWriteReg rid 0 key v true o = (s.countWrite rid.toNat 0).actWo key v.toNat o := by
  have hbar : inBar 0 key = true := by simp [inBar]
  have hguard : guardedReg 0 key = false := by rw [guardedReg, h]; simp [hacc]
  have hn : (0 : Fin 64).val = 0 := rfl
  have h1 := State.hostWriteReg_plain hn hpath hbar halign htarget hon hguard v o
  have h2 := State.plainWrite_wo (s := s.countWrite rid.toNat 0) h hacc v o
  exact h1.trans h2

variable {f : Fin 64} (hpath : s.hostPath = true) (hfree : s.guardOf rid.toNat f.val = none) (hdomains : s.fld devDomains = 0x3FFF)
include hpath hfree hdomains

theorem State.hostWriteReg_enable (v : BitVec 32) :
    s.hostWriteReg rid f (enableOff f) v true {} = s.setEnable f.val (decide (v.toNat % 2 = 1)) := by
  obtain ⟨hbar, halign, htarget⟩ := regTarget_enable f
  have hnone := State.countWrite_none hfree
  rw [State.hostWriteReg_plain rfl hpath hbar halign htarget (by rw [hnone]; exact State.domainOn_low hdomains (by norm_num))
    (by rw [guardedReg, fieldsOf_enable]; decide), hnone, State.plainWrite_rw (fieldsOf_enable f) rfl rfl]
  simp [State.putRw, bitField, hifEnable]

end

section
variable {s : State} {rid : BitVec 16} (hpath : s.hostPath = true) (hfree : s.guardOf rid.toNat 0 = none) (hdomains : s.fld devDomains = 0x3FFF)
include hpath hfree hdomains

/-- A write of a register of the PF that acts, while every domain is powered and the requester holds no guarded value. -/
theorem State.hostWriteReg_act {key : Nat} {g : RegField} (hkey : key < 0x100000) (halign : key % 4 = 0)
    (htarget : regTarget 0 key = (key, .normal)) (h : fieldsOf 0 key = [g]) (hacc : g.acc = .wo) (v : BitVec 32) (o : WriteWith) :
    s.hostWriteReg rid 0 key v true o = s.actWo key v.toNat o := by
  have hnone := State.countWrite_none hfree
  rw [State.hostWriteReg_wo hpath halign htarget (by rw [hnone]; exact State.domainOn_low hdomains hkey) h hacc, hnone]

theorem State.hostWriteReg_freeze {c : Nat} (hc : c < 144) (hin : s.coreOut c = 0) (on : Bool) :
    s.hostWriteReg rid 0 (coreWindow c + 4) (if on then 1 else 0) true {} = s.setFreeze c on := by
  have hnone := State.countWrite_none hfree
  have hn : (0 : Fin 64).val = 0 := rfl
  have hplain := State.hostWriteReg_plain hn hpath (by simp [inBar]) (by unfold coreWindow; omega) (regTarget_core hc)
    (by rw [hnone]; exact State.domainOn_core hdomains hc hin) (by rw [guardedReg, fieldsOf_core hc]; rfl) (if on then 1 else 0) {}
  have hbit : bitField (if on then 1 else 0 : BitVec 32).toNat 0 1 = if on then 1 else 0 := by cases on <;> rfl
  rw [hplain, hnone, State.plainWrite_rw (fieldsOf_core hc) rfl rfl, State.putRw_freeze]
  exact congrArg (s.setFreeze c) ((congrArg (fun x => decide (x = 1)) hbit).trans (by cases on <;> rfl))

end

/-- Settles O46: each write reaches one field, and what the field does is all that it does. -/
theorem registerActions : Obligations.RegisterActions := by
  intro s rid f hpath hfree hdomains
  obtain ⟨hset, hstart, hsame, hsetRest⟩ := s.setEnable_spec f.val true
  obtain ⟨hclear, _, hclearRest, _⟩ := s.setEnable_spec f.val false
  refine ⟨⟨_, congrArg Host.Outcome.next (State.hostWriteReg_enable hpath hfree hdomains 1), hset, hstart rfl,
      fun hwas => (congrArg State.access (hsame fun _ => hwas) :), hsetRest⟩,
    ⟨_, congrArg Host.Outcome.next (State.hostWriteReg_enable hpath hfree hdomains 0), hclear, hclearRest (fun h => absurd h (by decide))⟩,
    ?_, ?_, ?_, ?_⟩
  · rintro rfl
    exact congrArg Host.Outcome.next
      (State.hostWriteReg_act (key := 0x70008) (g := audSealNow) hpath hfree hdomains (by norm_num) rfl rfl (by decide) rfl 1 {})
  · rintro drop step volt rfl
    have hwrite := State.hostWriteReg_act (key := 0x40020) (g := nviMeasure) hpath hfree hdomains (by norm_num) rfl rfl (by decide) rfl 1
      { bank := some (drop, step, volt.toNat) }
    refine ⟨_, congrArg Host.Outcome.next hwrite, (State.sameBody_measureBank _ _ _ _).trans ?_, State.measureBank_shows _ _ _ _⟩
    constructor <;> rfl
  · rintro rfl
    exact congrArg Host.Outcome.next
      (State.hostWriteReg_act (key := 0x80008) (g := witWindowNow) hpath hfree hdomains (by norm_num) rfl rfl (by decide) rfl 1 {})
  · rintro c on rfl hin
    obtain ⟨hflag, hrest, _⟩ := s.setFreeze_spec c.val on
    refine ⟨_, congrArg Host.Outcome.next (State.hostWriteReg_freeze hpath hfree hdomains c.isLt hin on), hflag, hrest, ?_⟩
    rintro rfl hwas i _
    exact State.setFreeze_counter hwas i

end Sys2Proof.Machine
end

section
/-! SUPPORT. Warm resets (11 R291; 13 R350, R374): what a reset of the interface clears, and what it leaves. -/

namespace Sys2Proof.Machine

/-! ### Notices to the other chips (14 R404) -/

theorem State.sendRoute_only (s : State) (f : Flit) : ∃ l, s.sendRoute f = { s with links := l } := by
  unfold State.sendRoute
  split
  · exact ⟨_, rfl⟩
  · exact ⟨_, rfl⟩

theorem State.sendPair_only (s : State) (dst ftype fflags : Nat) (payload : List Byte) :
    ∃ l, s.sendPair dst ftype fflags payload = { s with links := l } := by
  obtain ⟨l, hl⟩ := State.sendRoute_only (s.setPairOut dst { s.pairOut dst with
    next := ((s.pairOut dst).next + 1) % 2 ^ 32
    held := (s.pairOut dst).held ++ [mkFlit ftype fflags s.links.topo.self dst (s.pairOut dst).next payload] })
    (mkFlit ftype fflags s.links.topo.self dst (s.pairOut dst).next payload)
  exact ⟨l, hl⟩

theorem State.noticeAll_only (s : State) : ∃ l, s.noticeAll = { s with links := l } := by
  obtain ⟨l, hl⟩ : ∃ l, ((List.range s.links.topo.size).filter (fun c => decide (c ≠ s.links.topo.self))).foldl
      (fun u c => u.sendPair c ftNotice 0 (le16 u.links.topo.self)) s = { s with links := l } :=
    List.foldlRecOn (motive := fun t : State => ∃ l, t = { s with links := l }) _ _ ⟨s.links, rfl⟩ (fun t ⟨l, ht⟩ c _ => by
      obtain ⟨m, hm⟩ := t.sendPair_only c ftNotice 0 (le16 t.links.topo.self)
      exact ⟨m, by rw [hm, ht]⟩)
  exact ⟨_, by unfold State.noticeAll; rw [hl]⟩

/-! ### ENABLE of every function (11 R318) -/

/-- Where a function's ENABLE and RUNNING stand. -/
theorem hifKey_enable (f : Nat) : hifKey f hifEnable = if f = 0 then 0x10000 else f * 0x4000000 := by
  simp [hifKey, barOf, hifBase, hifEnable]

theorem hifKey_running (f : Nat) : hifKey f hifRunning = if f = 0 then 0x10100 else f * 0x4000000 + 0x100 := by
  simp [hifKey, barOf, hifBase, hifRunning, roField]

/-- ENABLE of one function stands apart from every other's, and from RUNNING. -/
theorem enable_apart_enable {f n : Nat} (h : n ≠ f) : (hifEnable.inFn n).apart (hifEnable.inFn f) := .inl (by
  show hifKey f hifEnable ≠ hifKey n hifEnable
  rw [hifKey_enable, hifKey_enable]
  split <;> split <;> omega)

theorem running_apart_enable (f n : Nat) : (hifRunning.inFn n).apart (hifEnable.inFn f) := .inl (by
  show hifKey f hifEnable ≠ hifKey n hifRunning
  rw [hifKey_enable, hifKey_running]
  split <;> split <;> omega)

theorem enable_running_fit (f : Nat) : (hifEnable.inFn f).fits ∧ (hifRunning.inFn f).fits :=
  ⟨show 0 + 1 ≤ 32 by norm_num, show 0 + 1 ≤ 32 by norm_num⟩

theorem State.clearEnables_only (s : State) : ∃ r, s.clearEnables = { s with regs := r } :=
  List.foldlRecOn (motive := fun t : State => ∃ r, t = { s with regs := r }) _ _ ⟨s.regs, rfl⟩ (fun t ⟨_, ht⟩ n _ =>
    ⟨((t.setHif n hifEnable 0).setHif n hifRunning 0).regs, by subst ht; rfl⟩)

/-- A field apart from ENABLE and RUNNING of every function. -/
theorem State.clearEnables_fld (s : State) {g : RegField} (henable : ∀ f, (hifEnable.inFn f).apart g)
    (hrunning : ∀ f, (hifRunning.inFn f).apart g) : s.clearEnables.fld g = s.fld g :=
  List.foldlRecOn (motive := fun t : State => t.fld g = s.fld g) _ _ rfl (fun _ ht _ _ =>
    (State.fld_setFld_other _ (enable_running_fit _).2 _ (hrunning _)).trans
      ((State.fld_setFld_other _ (enable_running_fit _).1 _ (henable _)).trans ht))

/-- ENABLE of one function, as the enables of functions are cleared in turn. -/
theorem State.hif_clearEnable (s : State) (f n : Nat) : ((s.setHif n hifEnable 0).setHif n hifRunning 0).hif f hifEnable
    = if n = f then 0 else s.hif f hifEnable := by
  have hlast : ((s.setHif n hifEnable 0).setHif n hifRunning 0).hif f hifEnable = (s.setHif n hifEnable 0).hif f hifEnable :=
    State.fld_setFld_other _ (enable_running_fit n).2 _ (running_apart_enable f n)
  rw [hlast]
  split
  · next hn => rw [hn, State.hif_setHif _ _ (by decide), Nat.zero_mod]
  · next hn => exact State.fld_setFld_other _ (enable_running_fit n).1 _ (enable_apart_enable hn)

theorem State.clearEnables_enable (s : State) {f : Nat} (hf : f < 64) : s.clearEnables.hif f hifEnable = 0 := by
  have hall : ∀ (l : List Nat) (t : State), f ∈ l ∨ t.hif f hifEnable = 0 →
      (l.foldl (fun t n => (t.setHif n hifEnable 0).setHif n hifRunning 0) t).hif f hifEnable = 0 := by
    intro l
    induction l with
    | nil => exact fun t h => h.resolve_left List.not_mem_nil
    | cons n l ih =>
      refine fun t h => ih _ ?_
      rw [State.hif_clearEnable]
      rcases h with h | h
      · rcases List.mem_cons.mp h with rfl | h
        · exact .inr (if_pos rfl)
        · exact .inl h
      · exact .inr (by rw [h, ite_self])
  exact hall _ s (.inl (List.mem_range.mpr hf))

/-! ### The warm reset (13 R350) -/

/-- The registers after a warm reset. -/
theorem State.warmReset_fld (s : State) {g : RegField} (hready : nviReady.apart g) (hstage : nviBootStage.apart g)
    (hplan : witReplanning.apart g) : s.warmReset.fld g = s.noticeAll.restartAll.clearEnables.fld g :=
  (State.fld_setFlag_other _ (by decide) _ hplan).trans ((State.fld_setFld_other _ (by decide) _ hstage).trans
    (State.fld_setFlag_other _ (by decide) _ hready))

theorem State.restart_mem_restartAll {s : State} {w : Work} (hw : w ∈ s.works) (hrun : w.interrupted = true) (hone : s.multiChip w = false) :
    w.restart ∈ s.restartAll.works :=
  List.mem_map.mpr ⟨w, hw, by simp [hrun, hone]⟩

/-- What a warm reset changes before it clears the part: links, registers and the works that it starts again. -/
theorem State.restart_only (s : State) : ∃ l r,
    s.noticeAll.restartAll.clearEnables = { s with links := l, regs := r, works := s.restartAll.works } := by
  obtain ⟨l, hl⟩ := s.noticeAll_only
  obtain ⟨r, hr⟩ := s.noticeAll.restartAll.clearEnables_only
  exact ⟨l, r, by rw [hr, hl]; rfl⟩

/-- ENABLE of a function stands apart from the fields that a warm reset sets. -/
theorem nvi_apart_enable (f : Nat) {g : RegField} (hg : g.off = 0x40100 ∨ g.off = 0x80108) : g.apart (hifEnable.inFn f) := .inl (by
  show hifKey f hifEnable ≠ g.off
  rw [hifKey_enable]
  split <;> omega)

theorem State.warmReset_enable (s : State) {f : Nat} (hf : f < 64) : s.warmReset.hif f hifEnable = 0 :=
  (s.warmReset_fld (nvi_apart_enable f (.inl rfl)) (nvi_apart_enable f (.inl rfl)) (nvi_apart_enable f (.inr rfl))).trans
    (State.clearEnables_enable _ hf)

theorem State.warmReset_ready (s : State) : s.warmReset.flag nviReady = false :=
  (State.flag_setFlag_other _ (by decide) _ (by decide)).trans (by
      rw [State.flag, State.fld_setFld_other _ (by decide) _ (by decide), ← State.flag, State.flag_setFlag _ (by decide) rfl])

theorem State.warmReset_stage (s : State) : s.warmReset.fld nviBootStage = 5 :=
  (State.fld_setFlag_other _ (by decide) _ (by decide)).trans (State.fld_setFld _ (by decide) 5)

/-- A warm reset leaves of the part what `u` holds, where `u` is the part with its work started again and its enables clear. -/
theorem State.warmReset_of {s u : State} (h : s.noticeAll.restartAll.clearEnables = u) : s.warmReset.hbm = u.hbm
    ∧ s.warmReset.host = u.host ∧ s.warmReset.plans = u.plans ∧ s.warmReset.rings = u.rings ∧ s.warmReset.sec = u.sec
    ∧ s.warmReset.nv = u.nv ∧ s.warmReset.works = u.works
    ∧ s.warmReset.power = { u.power with state := if s.isReady then .warm else s.power.state } := by
  unfold State.warmReset
  rw [h]
  simp

theorem State.warmReset_started (s : State) : s.warmReset.warmStarted s := by
  obtain ⟨l, r, hpre⟩ := s.restart_only
  obtain ⟨hhbm, hhost, hplans, hrings, hsec, hnv, hworks, hpower⟩ := State.warmReset_of hpre
  exact {
    state := by rw [hpower]; simp [State.isReady]
    ready := s.warmReset_ready
    stage := s.warmReset_stage
    enables := fun _ => s.warmReset_enable
    cores := fun c => clearedCores_get true c _
    mesh := rfl
    guards := rfl
    placed := rfl
    works := fun w hw hrun hone => by rw [hworks]; exact State.restart_mem_restartAll hw hrun hone
    hbm := hhbm
    host := hhost
    plans := hplans
    rings := hrings
    sec := hsec
    nv := hnv }

/-- A warm reset seen from before its cause was taken, where that changed registers and guarded values alone. -/
theorem State.warmStarted.of_body {t u s : State} {a : Access} (h : t.warmStarted u) (hbody : u.sameBody { s with access := a })
    (hnv : u.nv = s.nv) : t.warmStarted s :=
  { h with
    state := h.state.trans (by rw [hbody.power])
    works := fun w hw hrun hone => h.works w (by rw [hbody.works]; exact hw) hrun
      (by rw [← hone]; simp only [State.multiChip, State.planOf, State.findPlan, hbody.plans])
    hbm := h.hbm.trans hbody.hbm
    host := h.host.trans hbody.host
    plans := h.plans.trans hbody.plans
    rings := h.rings.trans hbody.rings
    sec := h.sec.trans hbody.sec
    nv := h.nv.trans hnv }

/-! ### Resets of the interface (11 R291) -/

section
variable {s : State}

theorem exec_hostReset {i : Instr} (h : i = .pcieHotReset ∨ i = .pfFlr ∨ i = .vfFlr 0) : exec i s = .next s.hostReset := by
  rcases h with rfl | rfl | rfl <;> rfl

theorem exec_pcieLinkDown (s : State) : exec .pcieLinkDown s = .next (s.setLink 0 0).hostReset := rfl

theorem State.hostReset_warm (h : s.power.state = .ready ∨ s.power.state = .notReady) : s.hostReset = s.warmReset.unconfigured := by
  unfold State.hostReset
  rw [if_pos h]
  rfl

theorem State.hostReset_held (h : s.power.state ≠ .ready) (h' : s.power.state ≠ .notReady) : s.hostReset = s.unconfigured := by
  unfold State.hostReset
  rw [if_neg (not_or.mpr ⟨h, h'⟩)]
  rfl

theorem State.warmStarted.unconfigured {t : State} (h : t.warmStarted s) : t.unconfigured.warmStarted s := { h with guards := h.guards }

theorem State.hostReset_started (h : s.power.state = .ready ∨ s.power.state = .notReady) : s.hostReset.warmStarted s :=
  State.hostReset_warm h ▸ s.warmReset_started.unconfigured

/-- The link's width and generation stay in a warm reset: RUNNING shares their register, and not their bits. -/
theorem State.warmReset_link (s : State) {g : RegField} (h : g = hifLinkWidth ∨ g = hifLinkGen) : s.warmReset.fld g = s.fld g := by
  have hlow : 0 + 1 ≤ g.lsb := by rcases h with rfl | rfl <;> decide
  have hoff : ∀ f : RegField, f.off ≠ 0x10100 → f.apart g := fun f hf => .inl (by rcases h with rfl | rfl <;> exact hf.symm)
  obtain ⟨l, hl⟩ := s.noticeAll_only
  calc s.warmReset.fld g
      = s.noticeAll.restartAll.clearEnables.fld g := s.warmReset_fld (hoff _ (by decide)) (hoff _ (by decide)) (hoff _ (by decide))
    _ = s.noticeAll.restartAll.fld g := State.clearEnables_fld _ (fun _ => .inr (.inr hlow)) (fun _ => .inr (.inr hlow))
    _ = s.noticeAll.fld g := State.fld_bump_other _ (by decide) _ (hoff _ (by decide))
    _ = s.fld g := by rw [hl]; rfl

end

/-! ### ERR_RESET (13 R374) -/

theorem State.guardFail_body (s : State) (why off n f : Nat) : (s.guardFail why off n f).sameBody s ∧ (s.guardFail why off n f).nv = s.nv := by
  unfold State.guardFail
  exact ⟨(State.sameBody_setFld _ _ _).trans ((State.sameBody_setFld _ _ _).trans ((State.sameBody_setFld _ _ _).trans
    ((State.sameBody_setFld _ _ _).trans ((State.sameBody_bump _ _ _).trans (State.sameBody_setFlag _ _ _))))),
    (State.setFld_nv _ _ _).trans ((State.setFld_nv _ _ _).trans ((State.setFld_nv _ _ _).trans ((State.setFld_nv _ _ _).trans
      ((State.bump_nv _ _ _).trans (State.setFlag_nv _ _ _)))))⟩

/-- A write counted against a guarded value changes registers and guarded values alone. -/
theorem State.countWrite_body (s : State) (n f : Nat) : ∃ a, (s.countWrite n f).sameBody { s with access := a } ∧ (s.countWrite n f).nv = s.nv := by
  unfold State.countWrite
  split
  · exact ⟨_, .refl s, rfl⟩
  · split
    · exact ⟨_, State.guardFail_body (s.dropGuard n f) _ _ _ _⟩
    · exact ⟨_, .refl _, rfl⟩

section
variable {s : State} {rid : BitVec 16}

theorem State.hostWriteReg_reset (hpath : s.hostPath = true) (v : BitVec 32) (o : WriteWith) :
    s.hostWriteReg rid 0 0x60004 v true o = (s.countWrite rid.toNat 0).requestReset (v.toNat % 4) o :=
  State.hostWriteReg_wo (key := 0x60004) (g := errReq) hpath (by norm_num) (by decide) (by simp [State.domainOn]) (by decide) rfl v o

end

end Sys2Proof.Machine
end

section
/-! SUPPORT. FLR of a VF (11 R320; 13 R357): its accepted work is gone at once, and the next head drops its rings. -/

namespace Sys2Proof.Machine

/-! ### Abandoned work -/

/-- `t` has no ring's work that `s` had not, and the rings, plans, sessions and host memory of `s`. -/
structure State.abandons (t s : State) : Prop where
  access : t.access = s.access
  rings : t.rings = s.rings
  plans : t.plans = s.plans
  sec : t.sec = s.sec
  host : t.host = s.host
  works : ∀ w ∈ t.works, ∃ v ∈ s.works, v.ring = w.ring

theorem State.abandons.refl (s : State) : s.abandons s := ⟨rfl, rfl, rfl, rfl, rfl, fun w hw => ⟨w, hw, rfl⟩⟩

theorem State.abandons.trans {a b c : State} (h : c.abandons b) (g : b.abandons a) : c.abandons a where
  access := h.access.trans g.access
  rings := h.rings.trans g.rings
  plans := h.plans.trans g.plans
  sec := h.sec.trans g.sec
  host := h.host.trans g.host
  works w hw := by
    obtain ⟨v, hv, hring⟩ := h.works w hw
    obtain ⟨u, hu, hring'⟩ := g.works v hv
    exact ⟨u, hu, hring'.trans hring⟩

theorem State.abandons_foldl {β : Type} {f : State → β → State} (h : ∀ s b, (f s b).abandons s) (l : List β) (s : State) :
    (l.foldl f s).abandons s :=
  List.foldlRecOn (motive := fun t : State => t.abandons s) l f (.refl s) (fun t ht b _ => (h t b).trans ht)

theorem State.abandons_of_sameBody {t s : State} (h : t.sameBody s) : t.abandons s :=
  ⟨h.access, h.rings, h.plans, h.sec, h.host, fun w hw => ⟨w, h.works ▸ hw, rfl⟩⟩

theorem State.abandons_updWork (s : State) (r q : Nat) {f : Work → Work} (hf : ∀ w, (f w).ring = w.ring) : (s.updWork r q f).abandons s :=
  ⟨rfl, rfl, rfl, rfl, rfl, fun w hw => by
    obtain ⟨v, hv, rfl⟩ := List.mem_map.mp hw
    refine ⟨v, hv, ?_⟩
    split
    · exact (hf v).symm
    · rfl⟩

theorem State.abandons_copyBack (s : State) (w : Work) : (s.copyBack w).abandons s := by
  rw [State.copyBack_eq]
  refine (State.abandons_updWork _ _ _ ?_).trans ⟨rfl, rfl, rfl, rfl, rfl, fun w hw => ⟨w, hw, rfl⟩⟩
  exact fun _ => rfl

theorem State.abandons_abortSlice (s : State) (i cause : Nat) (st : Option Nat) : (s.abortSlice i cause st).abandons s := by
  unfold State.abortSlice
  split
  · exact .refl s
  · next p _ =>
    split
    · obtain ⟨m, hm⟩ := State.stopCores_only (fun k => if k.ctx.work = some i then k.stop true else k) p.cores s
      dsimp only
      rw [hm]
      refine (State.abandons_of_sameBody (State.sameBody_event _ _ _ _ _ _)).trans ((State.abandons_updWork _ _ _ ?_).trans
        ⟨rfl, rfl, rfl, rfl, rfl, fun w hw => ⟨w, hw, rfl⟩⟩)
      exact fun _ => rfl
    · exact .refl s

theorem State.abandons_abortWork (s : State) (w : Work) (cause : Nat) : (s.abortWork w cause).abandons s :=
  State.abandons_foldl (fun t i => by
    split
    · split
      · exact State.abandons_abortSlice t i cause none
      · exact .refl t
    · exact .refl t) _ s

/-- The work of one ring is gone, and no other ring's has come. -/
theorem State.abandonRing_spec (s : State) (r : Nat) (x : Ring) :
    (s.abandonRing r x).abandons s ∧ ∀ w ∈ (s.abandonRing r x).works, w.ring ≠ r := by
  refine ⟨?_, fun w hw => of_decide_eq_true (List.mem_filter.mp hw).2⟩
  have hfilter : ∀ t : State, ({ t with works := t.works.filter (fun w => decide (w.ring ≠ r)) } : State).abandons t := fun t =>
    ⟨rfl, rfl, rfl, rfl, rfl, fun w hw => ⟨w, (List.mem_filter.mp hw).1, rfl⟩⟩
  have hlog : ∀ p : Prop, [Decidable p] → ∀ e, (if p then s.log .vfFlr e else s).abandons s := fun p _ e => by
    split
    · exact State.abandons_of_sameBody (s.sameBody_log _ _)
    · exact .refl s
  refine (hfilter _).trans ((State.abandons_foldl (fun t w => ?_) _ _).trans (hlog _ _))
  split
  · split
    · exact .refl t
    · exact State.abandons_copyBack t w
  · exact State.abandons_abortWork t w 1

/-- Of a list of rings to abandon, none has work left. -/
theorem State.abandonRings_spec (l : List (Nat × Ring)) (s : State) : (l.foldl (fun t e => t.abandonRing e.1 e.2) s).abandons s
    ∧ ∀ w ∈ (l.foldl (fun t e => t.abandonRing e.1 e.2) s).works, ∀ e ∈ l, w.ring ≠ e.1 := by
  induction l generalizing s with
  | nil => exact ⟨.refl s, fun _ _ _ he => absurd he List.not_mem_nil⟩
  | cons e l ih =>
    obtain ⟨hfirst, hgone⟩ := s.abandonRing_spec e.1 e.2
    obtain ⟨hrest, hothers⟩ := ih (s.abandonRing e.1 e.2)
    refine ⟨hrest.trans hfirst, fun w hw d hd => ?_⟩
    rcases List.mem_cons.mp hd with rfl | hd
    · obtain ⟨v, hv, hring⟩ := hrest.works w hw
      exact hring ▸ hgone v hv
    · exact hothers w hw d hd

/-! ### Rings that the next head drops (11 R320) -/

theorem SMap.mem_of_get {α : Type} {d v : α} {k : Nat} (hv : v ≠ d) : ∀ {m : SMap α}, SMap.get d m k = v → (k, v) ∈ m
  | [], h => absurd h.symm hv
  | (j, w) :: m, h => by
    unfold SMap.get at h
    split at h
    · next hj => exact List.mem_cons.mpr (.inl (by rw [hj, h]))
    · exact List.mem_cons_of_mem _ (SMap.mem_of_get hv h)

theorem State.mem_fnRings {s : State} {r : Nat} {x : Ring} (h : s.ring r = some x) : (r, x) ∈ s.fnRings x.fn :=
  List.mem_filterMap.mpr ⟨(r, some x), SMap.mem_of_get (by simp) h, by simp⟩

theorem State.ring_dropRings (rs : List Nat) (s : State) (n : Nat) : (rs.foldl State.dropRing s).ring n = if n ∈ rs then none else s.ring n := by
  induction rs generalizing s with
  | nil => simp
  | cons r rs ih =>
    rw [List.foldl_cons, ih, State.ring_dropRing]
    by_cases hn : n = r <;> simp [hn]

/-- The rings of one function are dropped, and their disabling stored. -/
def State.dropFn (s : State) (v : Nat) : State :=
  ((((s.fnRings v).map (fun e => e.1)).foldl State.dropRing s).storeRings v ((s.fnRings v).map (fun e => e.1)) false).1

theorem State.finishFlr_ring (s : State) (n : Nat) : s.finishFlr.ring n = (s.access.flr.foldl State.dropFn s).ring n := rfl

theorem State.ring_dropFn (s : State) (v n : Nat) : (s.dropFn v).ring n = if n ∈ (s.fnRings v).map (fun e => e.1) then none else s.ring n :=
  (State.ring_congr (State.sameBody_storeRings _ _ _ _).rings n).trans (State.ring_dropRings _ s n)

/-- A ring that is no other function's is gone once its function's rings are dropped. -/
theorem State.ring_dropFns {r v : Nat} (l : List Nat) (s : State) (hfn : ∀ x, s.ring r = some x → x.fn = v)
    (hgone : v ∈ l ∨ s.ring r = none) : (l.foldl State.dropFn s).ring r = none := by
  induction l generalizing s with
  | nil => exact hgone.resolve_left List.not_mem_nil
  | cons u l ih =>
    have hnext : (s.dropFn u).ring r = none ∨ (s.dropFn u).ring r = s.ring r := by
      rw [State.ring_dropFn]
      split
      · exact .inl rfl
      · exact .inr rfl
    refine ih (s.dropFn u) (fun x hx => ?_) ?_
    · rcases hnext with h | h
      · rw [h] at hx; exact absurd hx (by simp)
      · exact hfn x (h ▸ hx)
    · rcases hgone with hv | hnone
      · rcases List.mem_cons.mp hv with rfl | hv
        · refine .inr ?_
          rw [State.ring_dropFn]
          cases hr : s.ring r with
          | none => exact ite_self _
          | some x =>
            have hmem := State.mem_fnRings hr
            rw [hfn x hr] at hmem
            exact if_pos (List.mem_map_of_mem hmem)
        · exact .inl hv
      · rcases hnext with h | h
        · exact .inr h
        · exact .inr (h.trans hnone)

/-! ### The commands -/

theorem exec_vfFlr {v : Fin 64} (hv : v ≠ 0) (s : State) : exec (.vfFlr v) s = .next (s.flrVf v.val) := by
  show execVfFlr v s = _
  exact if_neg hv

/-- What an FLR of a VF ends and keeps. -/
theorem State.flrVf_spec (s : State) (v : Nat) : (s.flrVf v).rings = s.rings ∧ (s.flrVf v).plans = s.plans ∧ (s.flrVf v).sec = s.sec
    ∧ (s.flrVf v).host = s.host ∧ v ∈ (s.flrVf v).access.flr ∧ (∀ w ∈ (s.flrVf v).works, ∀ e ∈ s.fnRings v, w.ring ≠ e.1) := by
  obtain ⟨hkept, hgone⟩ := State.abandonRings_spec (s.fnRings v) s
  exact ⟨hkept.rings, hkept.plans, hkept.sec, hkept.host, mem_insertOnce.mpr (.inl rfl), hgone⟩

theorem State.flrVf_finish {s : State} {v r : Nat} {x : Ring} (h : s.ring r = some x) (hv : x.fn = v) :
    (s.flrVf v).finishFlr.ring r = none := by
  obtain ⟨hrings, _, _, _, hflr, _⟩ := s.flrVf_spec v
  rw [State.finishFlr_ring]
  refine State.ring_dropFns _ _ (fun y hy => ?_) (.inl hflr)
  rw [State.ring_congr hrings, h] at hy
  exact Option.some.inj hy ▸ hv

/-- The function's interface starts again. -/
theorem State.flrVf_interface (s : State) (v : Nat) : (s.flrVf v).hif v hifEnable = 0 ∧ v ∉ (s.flrVf v).access.up
    ∧ v ∉ (s.flrVf v).access.starting ∧ ∀ g ∈ (s.flrVf v).access.guards, g.fn ≠ v :=
  ⟨(State.hif_setHif _ v (by decide) 0).trans (Nat.zero_mod _), fun h => of_decide_eq_true (List.mem_filter.mp h).2 rfl,
    fun h => of_decide_eq_true (List.mem_filter.mp h).2 rfl, fun _ h => of_decide_eq_true (List.mem_filter.mp h).2⟩

/-- A warm reset that a register asks for, of a part that is ready or held back. -/
theorem State.countWrite_warmReset (s : State) (n : Nat) (h : s.power.state = .ready ∨ s.power.state = .notReady) (o : WriteWith) :
    ((s.countWrite n 0).requestReset 1 o).warmStarted s := by
  obtain ⟨a, hbody, hnv⟩ := s.countWrite_body n 0
  have hpower : (s.countWrite n 0).power = s.power := hbody.power
  rw [State.requestReset, if_pos rfl, hpower, if_pos h]
  exact (State.warmReset_started _).of_body hbody hnv

theorem State.countWrite_held (s : State) (n : Nat) (h : s.power.state ≠ .ready) (h' : s.power.state ≠ .notReady) (o : WriteWith) :
    (s.countWrite n 0).requestReset 1 o = s.countWrite n 0 := by
  obtain ⟨a, hbody, _⟩ := s.countWrite_body n 0
  have hpower : (s.countWrite n 0).power = s.power := hbody.power
  rw [State.requestReset, if_pos rfl, hpower, if_neg (not_or.mpr ⟨h, h'⟩)]

theorem State.countWrite_coldReset (s : State) (n : Nat) (hpath : s.hostPath = true) (b : BringUpIn) :
    ((s.countWrite n 0).requestReset 2 { bring := some b }).coldStarted := by
  obtain ⟨a, hbody, _⟩ := s.countWrite_body n 0
  have hpower : (s.countWrite n 0).power = s.power := hbody.power
  have hon : (s.countWrite n 0).powered = true := by
    rw [State.powered, hpower]
    exact (Bool.and_eq_true_iff.mp hpath).1
  rw [State.requestReset, if_neg (by decide), if_pos rfl, if_pos hon]
  exact State.coldReset_started _ b

theorem State.sameBody.unconfigured {t s : State} (h : t.sameBody s) : t.unconfigured.sameBody s.unconfigured :=
  { h with access := by simp only [State.unconfigured, h.access] }

theorem State.linkDown_started (s : State) (h : s.power.state = .ready ∨ s.power.state = .notReady) :
    (s.setLink 0 0).hostReset.warmStarted s :=
  (State.hostReset_started (s := s.setLink 0 0) h).of_body (a := s.access) (s.sameBody_setLink 0 0) rfl

/-- The link is down after its loss, in a part that a warm reset takes and in one that it does not. -/
theorem State.linkDown_shows (s : State) {g : RegField} (h : g = hifLinkWidth ∨ g = hifLinkGen) : (s.setLink 0 0).hostReset.fld g = 0 := by
  obtain ⟨_, hwidth, hgen, _, _⟩ := s.setLink_shows 0 0
  have hzero : (s.setLink 0 0).fld g = 0 := by
    rcases h with rfl | rfl
    · exact hwidth
    · exact hgen
  by_cases hstate : (s.setLink 0 0).power.state = .ready ∨ (s.setLink 0 0).power.state = .notReady
  · rw [State.hostReset_warm hstate]
    exact ((s.setLink 0 0).warmReset_link h).trans hzero
  · obtain ⟨hready, hnot⟩ := not_or.mp hstate
    rw [State.hostReset_held hready hnot]
    exact hzero

/-- Settles O41: the resets of the interface and of the register are one warm reset, told apart by what stands around it; an FLR of a VF
abandons the work of the VF's rings, and leaves the rings to the next head. -/
theorem resetsOfTheHostInterface : Obligations.ResetsOfTheHostInterface := by
  intro s
  refine ⟨fun i hi => ⟨fun h => ⟨_, exec_hostReset hi, State.hostReset_started h⟩,
      fun h h' => (exec_hostReset hi).trans (congrArg _ (State.hostReset_held h h'))⟩,
    fun h => ⟨_, exec_pcieLinkDown s, s.linkDown_started h, s.linkDown_shows (.inl rfl), s.linkDown_shows (.inr rfl)⟩,
    fun h h' => ⟨_, exec_pcieLinkDown s, ?_, s.linkDown_shows (.inl rfl), s.linkDown_shows (.inr rfl)⟩,
    fun rid hpath h => ⟨_, congrArg Host.Outcome.next (State.hostWriteReg_reset hpath 1 {}), s.countWrite_warmReset _ h {}⟩,
    fun rid hpath h h' => (congrArg Host.Outcome.next (State.hostWriteReg_reset hpath 1 {})).trans ?_,
    fun rid b hpath => ⟨_, congrArg Host.Outcome.next (State.hostWriteReg_reset hpath 2 { bring := some b }), ?_⟩,
    fun rid b hpath => ⟨congrArg Host.Outcome.next (State.hostWriteReg_off hpath _ _),
      congrArg Host.Outcome.next (State.hostWriteReg_off hpath _ _)⟩,
    fun v hv _ => ?_⟩
  · rw [State.hostReset_held (s := s.setLink 0 0) h h']
    exact (s.sameBody_setLink 0 0).unconfigured
  · exact congrArg Host.Outcome.next (s.countWrite_held _ h h' {})
  · exact s.countWrite_coldReset _ hpath b
  · obtain ⟨hrings, hplans, hsec, hhost, _, hgone⟩ := s.flrVf_spec v.val
    obtain ⟨henable, hup, hstarting, hguards⟩ := s.flrVf_interface v.val
    refine ⟨_, exec_vfFlr hv s, hrings, fun r x => State.flrVf_finish, fun w hw x hx hfn => ?_, henable, hup, hstarting,
      hguards, hplans, hsec, hhost⟩
    exact hgone w hw _ (hfn ▸ State.mem_fnRings hx) rfl

end Sys2Proof.Machine
end

section
/-! SUPPORT. Seals (12 R332, R333; log entry 36): the end of one signing. -/

namespace Sys2Proof.Machine

/-! ### A 64-bit value in two registers (12 R341) -/

theorem State.fld_setPair_other (s : State) {lo hi g : RegField} (hlo : lo.fits) (hhi : hi.fits) (x : Nat) (hglo : lo.apart g)
    (hghi : hi.apart g) : (s.setPair lo hi x).fld g = s.fld g := by
  rw [State.setPair, State.fld_setFld_other _ hhi _ hghi, State.fld_setFld_other _ hlo _ hglo]

theorem State.flag_setPair_other (s : State) {lo hi g : RegField} (hlo : lo.fits) (hhi : hi.fits) (x : Nat) (hglo : lo.apart g)
    (hghi : hi.apart g) : (s.setPair lo hi x).flag g = s.flag g := by
  rw [State.flag, State.fld_setPair_other s hlo hhi x hglo hghi, State.flag]

/-- Two whole registers hold 64 bits of what is written to them. -/
theorem State.pair_setPair (s : State) {lo hi : RegField} (hlo : lo.fits) (hhi : hi.fits) (hwlo : lo.width = 32)
    (hwhi : hi.width = 32) (hd : hi.apart lo) (x : Nat) : (s.setPair lo hi x).pair lo hi = x % 2 ^ 64 := by
  have hlow : (s.setPair lo hi x).fld lo = x % 2 ^ 32 := by
    rw [State.setPair, State.fld_setFld_other _ hhi _ hd, State.fld_setFld _ hlo, hwlo]
  have hhigh : (s.setPair lo hi x).fld hi = x / 2 ^ 32 % 2 ^ 32 := by
    rw [State.setPair, State.fld_setFld _ hhi, hwhi]
  rw [State.pair, hlow, hhigh]
  omega

/-! ### The end of a signing -/

/-- The seal signed next is the first that waits. -/
def Audit.sealed (a : Audit) (job : SealJob) (sig : List Byte) : Audit :=
  { a with auditQ := a.auditQ ++ recParts job.turn 0x20 (job.body ++ sig), signing := a.waiting.head?, waiting := a.waiting.drop 1 }

/-- The signature that the model draws for the seal in progress. -/
def State.sealSignature (s : State) : List Byte := (List.range 512).map (Config.freeByte 310 s.freeCtr)

theorem State.sealSignature_length (s : State) : s.sealSignature.length = 512 := by
  rw [State.sealSignature, List.length_map, List.length_range]

/-- The state once the seal in progress has its signature, its registers included. -/
def State.sealDone (s : State) (job : SealJob) : State :=
  (({ s.tickFree with audit := s.audit.sealed job s.sealSignature }).setFlag audSigning s.audit.waiting.head?.isSome).setPair
    audSealtLo audSealtHi job.turn

theorem exec_sealSigned_idle {s : State} (h : s.audit.signing = none) : exec .sealSigned s = .next s := by
  change execSealSigned s = _
  rw [execSealSigned, h]

theorem exec_sealSigned {s : State} {job : SealJob} (h : s.audit.signing = some job) :
    exec .sealSigned s = .next (s.sealDone job) := by
  change execSealSigned s = _
  rw [execSealSigned, h]
  rfl

/-- The end of a signing changes the audit state, the registers and the counter of free values. -/
theorem State.sealDone_rest (s : State) (job : SealJob) :
    (s.sealDone job).sameBody s ∧ (s.sealDone job).nv = s.nv ∧ (s.sealDone job).errs = s.errs :=
  ⟨(State.sameBody_setPair _ _ _ _).trans ((State.sameBody_setFlag _ _ _).trans
    ⟨rfl, rfl, rfl, rfl, rfl, rfl, rfl, rfl, rfl, rfl, rfl, rfl, rfl, rfl, rfl, rfl, rfl⟩), rfl, rfl⟩

/-- SIGNING stays set for as long as a seal waits. -/
theorem State.sealDone_signing (s : State) (job : SealJob) : (s.sealDone job).flag audSigning = !s.audit.waiting.isEmpty := by
  rw [State.sealDone, State.flag_setPair_other _ (by decide) (by decide) _ (by decide) (by decide),
    State.flag_setFlag _ (by decide) rfl]
  cases s.audit.waiting with
  | nil => rfl
  | cons next rest => rfl

theorem State.sealDone_turn (s : State) (job : SealJob) : (s.sealDone job).pair audSealtLo audSealtHi = job.turn % 2 ^ 64 :=
  State.pair_setPair _ (by decide) (by decide) rfl rfl (by decide) _

/-- Settles O28: without a seal in progress nothing happens, and one in progress ends as `sealDone` says. -/
theorem sealsComplete : Obligations.SealsComplete := by
  refine fun s => ⟨exec_sealSigned_idle, fun job h => ?_⟩
  obtain ⟨hbody, hnv, herrs⟩ := s.sealDone_rest job
  exact ⟨_, s.sealSignature, exec_sealSigned h, hbody, hnv, herrs, s.sealSignature_length, rfl, rfl, rfl, s.sealDone_signing job,
    s.sealDone_turn job⟩

end Sys2Proof.Machine
end

section
/-! SUPPORT. What the brake leaves alone besides (10 R282): the power state and the records. -/

namespace Sys2Proof.Machine

theorem State.ndPlaced_power (s : State) (i k : Nat) : (s.ndPlaced i k).power = s.power ∧ (s.ndPlaced i k).errs = s.errs := by
  unfold State.ndPlaced
  split <;> simp [State.nondet]

theorem State.chargeOne_power (c : Placed → Bool) (k : Nat) (s : State) (i : Nat) :
    (s.chargeOne c k i).power = s.power ∧ (s.chargeOne c k i).errs = s.errs := by
  unfold State.chargeOne
  split
  · split
    · exact s.ndPlaced_power i k
    · exact ⟨rfl, rfl⟩
  · exact ⟨rfl, rfl⟩

theorem State.chargeAll_power (s : State) (c : Placed → Bool) (k : Nat) :
    (s.chargeAll c k).power = s.power ∧ (s.chargeAll c k).errs = s.errs :=
  List.foldlRecOn (motive := fun t : State => t.power = s.power ∧ t.errs = s.errs) _ _ ⟨rfl, rfl⟩ fun t ⟨hpower, herrs⟩ i _ =>
    ⟨(t.chargeOne_power c k i).1.trans hpower, (t.chargeOne_power c k i).2.trans herrs⟩

theorem State.engageBrake_power (s : State) : s.engageBrake.power = s.power ∧ s.engageBrake.errs = s.errs := by
  cases h : s.flag tlsBrake
  · obtain ⟨hpower, herrs⟩ := s.braking.chargeAll_power Placed.brakes 0
    rw [State.engageBrake_released h, hpower, herrs]
    simp [State.braking]
  · rw [State.engageBrake, if_pos h]
    exact ⟨rfl, rfl⟩

end Sys2Proof.Machine
end

section
/-! SUPPORT. PERST_N (13 R350; 15 R408, R409; 19 R511): bring-up leaves host memory and THERMTRIP_N as they are. -/

namespace Sys2Proof.Machine

/-! ### What bring-up leaves alone -/

/-- Host memory and THERMTRIP_N are as before. -/
structure State.sameHost (t s : State) : Prop where
  host : t.host = s.host
  tripN : t.power.thermtripN = s.power.thermtripN

theorem State.sameHost.refl (s : State) : s.sameHost s := ⟨rfl, rfl⟩

theorem State.sameHost.trans {a b c : State} (h : c.sameHost b) (g : b.sameHost a) : c.sameHost a :=
  ⟨h.host.trans g.host, h.tripN.trans g.tripN⟩

theorem State.sameBody.sameHost {t s : State} (h : t.sameBody s) : t.sameHost s := ⟨h.host, by rw [h.power]⟩

theorem State.sameHost_foldl {β : Type} {f : State → β → State} (h : ∀ s b, (f s b).sameHost s) (l : List β) (s : State) :
    (l.foldl f s).sameHost s :=
  List.foldlRecOn (motive := fun t : State => t.sameHost s) _ _ (.refl s) fun t ht b _ => (h t b).trans ht

theorem State.sameHost_ite {p : Prop} [Decidable p] {a b s : State} (ha : a.sameHost s) (hb : b.sameHost s) :
    (if p then a else b).sameHost s := by
  split
  · exact ha
  · exact hb

section
variable (s : State)

theorem State.sameHost_abortSlice (i cause : Nat) (st : Option Nat) : (s.abortSlice i cause st).sameHost s := by
  unfold State.abortSlice
  split
  · exact .refl s
  · next p _ =>
    split
    · obtain ⟨m, hm⟩ := State.stopCores_only (fun k => if k.ctx.work = some i then k.stop true else k) p.cores s
      constructor <;> simp [hm]
    · exact .refl s

theorem State.sameHost_abortWork (w : Work) (cause : Nat) : (s.abortWork w cause).sameHost s := by
  refine State.sameHost_foldl (fun t i => ?_) _ _
  split
  · exact State.sameHost_ite (t.sameHost_abortSlice _ _ _) (.refl t)
  · exact .refl t

theorem State.sameHost_disarm (w : Work) (l : List Nat) : (s.disarm w l).sameHost s := by
  obtain ⟨m, hm⟩ := State.stopCores_only (fun k => { k with engines := [] }) (l.filter fun c => !(s.pinnedToOthers w).contains c) s
  have hrest : s.disarm w l = { s with cores := m } := hm
  rw [hrest]
  exact ⟨rfl, rfl⟩

theorem State.sameHost_updWork (r q : Nat) (f : Work → Work) : (s.updWork r q f).sameHost s := ⟨rfl, rfl⟩

theorem State.sameHost_offcutLost (w : Work) (segs : List Nat) : (s.offcutLost w segs).sameHost s := by
  unfold State.offcutLost
  split
  · exact .refl s
  · exact (State.sameHost_updWork _ _ _ _).trans (State.sameHost_ite (s.sameHost_abortWork w _) (.refl s))

theorem State.sameHost_overflowLost (w : Work) : (s.overflowLost w).sameHost s := by
  unfold State.overflowLost
  split
  · split
    · exact s.sameHost_offcutLost w _
    · exact .refl s
  · exact .refl s

theorem State.sameHost_hostStageLost (w : Work) : (s.hostStageLost w).sameHost s := by
  unfold State.hostStageLost
  split
  · exact .refl s
  · split
    · exact .refl s
    · split
      · refine State.sameHost_ite (.refl s) (State.sameHost_ite ?_ (s.sameHost_updWork _ _ _))
        exact (State.sameHost_updWork _ _ _ _).trans (State.sameBody_log _ _ _).sameHost
      · refine State.sameHost_ite (.refl s) ((State.sameHost_updWork _ _ _ _).trans ?_)
        exact (State.sameHost_disarm _ _ _).trans (State.sameHost_abortWork _ _ _)

theorem State.sameHost_stageLost (hit : StageCopy → Bool) : (s.stageLost hit).sameHost s := by
  refine State.sameHost_foldl (fun t w => ?_) _ _
  split
  · split
    · refine (State.sameHost_updWork _ _ _ _).trans ((State.sameHost_foldl (fun u c => (State.sameBody_log _ _ _).sameHost) _ _).trans ?_)
      exact State.sameHost_foldl (f := fun (u : State) (c : StageCopy) => { u with hbm := u.hbm.lose c.base c.bytes })
        (fun u c => ⟨rfl, rfl⟩) _ _
    · exact State.sameHost_ite (.refl t) ((State.sameHost_updWork _ _ _ _).trans (State.sameHost_abortWork _ _ _))
  · exact .refl t

theorem State.sameHost_hbm (h : Hbm) : ({ s with hbm := h } : State).sameHost s := ⟨rfl, rfl⟩
theorem State.sameHost_sec (x : Security) : ({ s with sec := x } : State).sameHost s := ⟨rfl, rfl⟩
theorem State.sameHost_witness (x : Witness) : ({ s with witness := x } : State).sameHost s := ⟨rfl, rfl⟩
theorem State.sameHost_bringUp (x : Links) (b : BringUpIn) :
    ({ s with links := x, power := { s.power with bringUp := b } } : State).sameHost s := ⟨rfl, rfl⟩
theorem State.sameHost_setPort (p : Nat) (x : Port) : (s.setPort p x).sameHost s := ⟨rfl, rfl⟩
theorem State.sameHost_sendOn (p : Nat) (f : Flit) : (s.sendOn p f).sameHost s := ⟨rfl, rfl⟩

theorem State.sameHost_applyDegraded : s.applyDegraded.sameHost s := by
  unfold State.applyDegraded
  split
  · exact .refl s
  · exact (State.sameHost_foldl State.sameHost_hostStageLost _ _).trans ((State.sameHost_stageLost _ _).trans
      ((State.sameHost_hbm _ _).trans (State.sameHost_foldl State.sameHost_overflowLost _ s)))

/-! ### Training and self-test -/

theorem State.sameHost_trainLinks (up : List Nat) : (s.trainLinks up).sameHost s := by
  refine (State.sameHost_foldl (fun t p => State.sameHost_ite (t.sameHost_setPort _ _) ?_) _ _).trans ⟨rfl, rfl⟩
  exact (State.sameHost_sendOn _ _ _).trans (t.sameHost_setPort _ _)

theorem State.sameHost_trainHbm (b : BringUpIn) : (s.trainHbm b).sameHost s := by
  have hlost := State.sameHost_foldl (f := fun t k => ({ t with hbm := t.hbm.setStack k { t.hbm.stack k with lost := true } } : State).log
    .stackLost { inst := 32 * k }) (fun t k => (State.sameBody_log _ _ _).sameHost.trans (t.sameHost_hbm _))
    ((b.stackFails.map fun k => k.val).filter fun k => !(s.hbm.stack k).lost) s
  unfold State.trainHbm
  dsimp only
  split
  · exact (State.sameHost_applyDegraded _).trans ((State.sameHost_hbm _ _).trans ((State.sameHost_hbm _ _).trans hlost))
  · exact (State.sameHost_hbm _ _).trans hlost

theorem State.sameHost_selfTest (b : BringUpIn) : (s.selfTest b).sameHost s := by
  refine (State.sameHost_foldl (fun t c => State.sameHost_ite (.refl t) ?_) _ _).trans (State.sameHost_foldl (fun t r => ?_) _ _)
  · exact (State.sameBody_log _ _ _).sameHost.trans ((State.sameBody_repair _ _ _ _ _).sameHost.trans ⟨rfl, rfl⟩)
  · exact ((State.sameBody_log _ _ _).trans (State.sameBody_repair _ _ _ _ _)).sameHost

theorem State.sameHost_train (b : BringUpIn) : (s.train b).sameHost s :=
  (State.sameBody_setFld _ _ _).sameHost.trans ((State.sameHost_selfTest _ b).trans ((State.sameBody_measureBank _ _ _ _).sameHost.trans
    ((State.sameBody_setFld _ _ _).sameHost.trans ((State.sameHost_trainHbm _ b).trans (s.sameHost_trainLinks _)))))

/-! ### The NV image -/

theorem State.sameHost_mirrorFlash : s.mirrorFlash.sameHost s := by
  unfold State.mirrorFlash
  refine State.sameHost_ite (State.sameHost_ite ?_ ?_) (.refl s)
  · exact (State.sameBody_nv s _).sameHost
  · exact ((State.sameBody_log _ _ _).trans (State.sameBody_nv s _)).sameHost

theorem State.sameHost_loadSecurity (b : BringUpIn) : (s.loadSecurity b).sameHost s := by
  unfold State.loadSecurity
  extract_lets owners good s1 keys owner _ s2
  have hlogs : s1.sameHost s := State.sameHost_foldl (fun t _ => (State.sameBody_log _ _ _).sameHost) _ _
  have hsec : s2.sameHost s := (State.sameHost_sec s1 _).trans hlogs
  exact ((State.sameBody_setFlag _ _ _).trans (State.sameBody_setFlag _ _ _)).sameHost.trans hsec

theorem State.sameHost_loadWitness : s.loadWitness.sameHost s := by
  have hfields (g : Nat → RegField) (x : Nat → Nat) (l : List Nat) (t : State) : (l.foldl (fun t i => t.setFld (g i) (x i)) t).sameBody t :=
    State.sameBody_foldl _ (fun t i => t.sameBody_setFld _ _) l t
  unfold State.loadWitness
  split
  · exact s.sameHost_witness _
  · extract_lets v s1 s2 s3 signed fits _
    have hoffsets : s2.sameBody s := (hfields _ _ _ s1).trans (hfields _ _ _ s)
    have htrends : s3.sameBody s2 := (hfields _ _ _ _).trans ((State.sameBody_setFld _ _ _).trans (State.sameBody_setFld _ _ _))
    exact (s3.sameHost_witness _).trans (htrends.trans hoffsets).sameHost

theorem State.sameHost_loadRepairs : s.loadRepairs.sameHost s := by
  refine State.sameHost_foldl (fun t r => ?_) _ _
  iterate 5 refine State.sameHost_ite ⟨rfl, rfl⟩ ?_
  exact .refl t

theorem State.sameHost_loadBadSectors : s.loadBadSectors.sameHost s := State.sameHost_ite (.refl s) (s.sameHost_hbm _)

theorem State.sameHost_bootImage (b : BringUpIn) : (s.bootImage b).sameHost s := by
  unfold State.bootImage
  extract_lets _ _ _ _ s0 s1 one s2 svn s3 choice va vb s4 bad s5' code _ s5 gen s6 epoch boot s7 s8 topo _ _ s9 s10 s11
  have hbad (t : State) (i : Nat) (ok : Bool) : (bad t i ok).sameBody t := State.sameBody_ite (State.sameBody_log _ _ _) (.refl t)
  have h0 : s0.sameHost s := ⟨rfl, rfl⟩
  have h3 : s3.sameHost s0 := ((State.sameBody_setFld _ _ _).trans (State.sameBody_ite (State.sameBody_log _ _ _) (.refl s1))).sameHost.trans
    s0.sameHost_mirrorFlash
  have h4 : s4.sameBody s3 := (State.sameBody_setFld _ _ _).trans ((State.sameBody_setFlag _ _ _).trans ((State.sameBody_setFld _ _ _).trans
    ((State.sameBody_setFlag _ _ _).trans ((State.sameBody_setFlag _ _ _).trans ((State.sameBody_setFlag _ _ _).trans
    ((State.sameBody_setFlag _ _ _).trans (State.sameBody_setFlag _ _ _)))))))
  have h5 : s5.sameBody s4 := (State.sameBody_nv s5' _).trans ((hbad _ _ _).trans (hbad _ _ _))
  have h6 : s6.sameBody s5 := (State.sameBody_loadKeys _).trans (State.sameBody_setPair _ _ _ _)
  have h7 : s7.sameHost s6 :=
    (State.sameHost_loadSecurity _ b).trans ((State.sameBody_setPair _ _ _ _).trans (State.sameBody_setFld _ _ _)).sameHost
  have h8 : s8.sameHost s7 := (State.sameHost_loadBadSectors _).trans ((State.sameHost_loadRepairs _).trans (State.sameHost_loadWitness _))
  have h9 : s9.sameHost s8 := s8.sameHost_bringUp _ _
  have h11 : s11.sameBody s9 := (State.sameBody_lockClocks _).trans ((State.sameBody_setFld _ _ _).trans ((State.sameBody_setFld _ _ _).trans
    ((State.sameBody_setFlag _ _ _).trans (State.sameBody_setFld _ _ _))))
  have hall : s11.sameHost s := h11.sameHost.trans (h9.trans (h8.trans (h7.trans ((h6.trans (h5.trans h4)).sameHost.trans (h3.trans h0)))))
  exact State.sameHost_ite hall ((State.sameBody_log _ _ _).sameHost.trans hall)

/-! ### PERST_N -/

/-- A cold reset leaves host memory and the level of PERST_N. -/
theorem State.coldHold_host (b : BringUpIn) : (s.coldHold b).host = s.host ∧ (s.coldHold b).power.perst = s.power.perst := by
  obtain ⟨l, r, hpre⟩ := s.restart_only
  obtain ⟨-, hhost, -, -, -, -, -, hpower⟩ := State.warmReset_of hpre
  have hperst : s.warmReset.power.perst = s.power.perst := by rw [hpower]
  unfold State.coldHold
  extract_lets s1 kept s2 _ _ _ s3 t _ _ s4
  have hhost : s1.host = s.host := hhost
  have hperst : s1.power.perst = s.power.perst := hperst
  clear_value s1
  have hregs : s2.sameBody { s1 with regs := defaultRegs } :=
    State.sameBody_foldl _ (fun t (e : Nat × BitVec 32) => State.sameBody_setReg t e.1 e.2) _ _
  clear_value s2
  have hshown := (State.sameBody_setFld ((s4.setFlag audSigning s4.audit.signing.isSome).setFld devDomains 0x3FFF) nviBootStage 2).trans
    ((State.sameBody_setFld _ _ _).trans (State.sameBody_setFlag s4 _ _))
  exact ⟨hshown.host.trans ((s3.sameHost_bootImage b).host.trans (hregs.host.trans hhost)),
    (congrArg Power.perst hshown.power).trans ((s3.near_bootImage b).perst.trans ((congrArg Power.perst hregs.power).trans hperst))⟩

end

end Sys2Proof.Machine
end

section
/-! SUPPORT. PERST_N as a command (13 R350; 15 R408, R409; 19 R511). -/

namespace Sys2Proof.Machine

/-- PERST_N is asserted: the configuration state starts again. -/
def State.perstTaken (s : State) : State := { s with
  power := { s.power with perst := true, configReady := false }
  access := { s.access with vfEnable := false, atomicEn := [], msix := [], aer := [] } }

/-- PERST_N is deasserted: the configuration space is ready where the rails are up. -/
def State.perstGone (s : State) : State := { s with power := { s.power with perst := false, configReady := s.powered } }

/-- A part that starts again after a thermal trip, from its bring-up's first step on. -/
def State.tripOver (s : State) : State :=
  let t := levelRegs.foldl (fun t o => t.setReg o (s.reg o)) { s with regs := defaultRegs }
  { t with power := { perst := false, recover := List.range 64, shares := s.power.shares, short := s.power.short } }

section
variable {s : State}

theorem State.powered_iff : s.powered = true ↔ s.power.state ≠ .off ∧ s.power.state ≠ .tripped := by
  simp [State.powered]

theorem exec_perstAssert_powered (hperst : s.power.perst = false) (hpowered : s.powered = true) : exec .perstAssert s
    = .next (s.perstTaken.coldHold { s.power.bringUp with stackFails := [], coreFails := [], rowRepairs := [] }) :=
  (if_neg (by simp [hperst])).trans (if_pos hpowered)

theorem exec_perstAssert_unpowered (hperst : s.power.perst = false) (hpowered : s.powered = false) : exec .perstAssert s
    = .next { s.perstTaken with sec := { s.sec with sessions := [], sbSessions := [], sbChallenges := [], challenges := [] } } :=
  (if_neg (by simp [hperst])).trans (if_neg (by simp [State.powered] at hpowered ⊢; exact hpowered))

theorem exec_perstDeassert_powered (hperst : s.power.perst = true) (hpowered : s.powered = true) (b : BringUpIn) :
    exec (.perstDeassert b) s = .next (({ s.perstGone with power := { s.perstGone.power with bringUp := b } } : State).train b) :=
  (if_pos hperst).trans ((if_neg (State.powered_iff.mp hpowered).2).trans (if_pos hpowered))

theorem exec_perstDeassert_cool (hperst : s.power.perst = true) (htripped : s.power.state = .tripped) (hcool : s.thermal.cool = true)
    (b : BringUpIn) : exec (.perstDeassert b) s = .next (s.perstGone.tripOver.powerUp b) :=
  (if_pos hperst).trans ((if_pos htripped).trans (if_pos hcool))

/-- Without rails, or after a trip that has not cooled, PERST_N has no other effect. -/
theorem exec_perstDeassert_waits (hperst : s.power.perst = true)
    (h : s.power.state = .off ∨ (s.power.state = .tripped ∧ s.thermal.cool = false)) (b : BringUpIn) :
    exec (.perstDeassert b) s = .next { s with power := { s.power with perst := false, configReady := false } } := by
  have hpowered : s.powered = false := by rcases h with h | ⟨h, -⟩ <;> simp [State.powered, h]
  have hgone : s.perstGone = { s with power := { s.power with perst := false, configReady := false } } := by
    rw [State.perstGone, hpowered]
  rw [← hgone]
  rcases h with h | ⟨h, hhot⟩
  · exact (if_pos hperst).trans ((if_neg (by simp [h])).trans (if_neg (by simp [State.powered, h])))
  · exact (if_pos hperst).trans ((if_pos h).trans (if_neg (by simp [hhot])))

/-- With PERST_N deasserted, bring-up goes on to its training. -/
theorem State.powerUp_trains (hperst : s.power.perst = false) (b : BringUpIn) :
    ∃ u : State, s.powerUp b = u.train b ∧ u.power.state = .starting
    ∧ u.power.perst = false ∧ u.power.thermtripN = s.power.thermtripN := by
  unfold State.powerUp
  generalize hbrake : (if s.flag tlsPin then s.engageBrake else s) = v
  have hpower : v.power = s.power := by
    rw [← hbrake]
    split
    · exact s.engageBrake_power.1
    · rfl
  have hoff : (v.bootImage b).power.perst = false := (v.near_bootImage b).perst.trans (by rw [hpower, hperst])
  have htrip := (v.sameHost_bootImage b).tripN
  rw [hpower] at htrip
  generalize v.bootImage b = w at hoff htrip
  extract_lets s1 _ s2
  have hs2 : s2.power.perst = false := hoff
  rw [if_neg (by simp [hs2])]
  exact ⟨s2, rfl, rfl, hs2, htrip⟩

end

/-- Settles O32: an asserted PERST_N is the held part of a cold reset; once it is deasserted, what trains keeps the power state that its
training began in. -/
theorem perstResetsThePart : Obligations.PerstResetsThePart := by
  refine fun s => ⟨fun hperst => if_pos hperst, fun hperst hpowered => ?_, exec_perstAssert_unpowered,
    fun b hperst => if_neg (by simp [hperst]),
    fun b hperst hpowered => ?_, fun b hperst htripped hcool => ?_, fun b hperst h => exec_perstDeassert_waits hperst h b⟩
  · obtain ⟨hhost, hheld⟩ := s.perstTaken.coldHold_host { s.power.bringUp with stackFails := [], coreFails := [], rowRepairs := [] }
    exact ⟨_, exec_perstAssert_powered hperst hpowered, State.coldHold_held _ _, hheld, hhost⟩
  · have hnear := State.near_train { s.perstGone with power := { s.perstGone.power with bringUp := b } } b
    exact ⟨_, exec_perstDeassert_powered hperst hpowered b, hnear.perst, hnear.state, State.train_stage _ b, (State.sameHost_train _ b).host⟩
  · obtain ⟨u, hup, hstate, hlow, htrip⟩ := State.powerUp_trains (s := s.perstGone.tripOver) rfl b
    rw [exec_perstDeassert_cool hperst htripped hcool, hup]
    exact ⟨_, rfl, (u.near_train b).perst.trans hlow, (u.near_train b).state.trans hstate, (u.sameHost_train b).tripN.trans htrip,
      u.train_stage b⟩

end Sys2Proof.Machine
end

section
/-! SUPPORT. VIN, phases and the hold-up bank (13 R350, R365; 15 R425, R427; 19 R497, R500). -/

namespace Sys2Proof.Machine

/-! ### Stores that keep what has been recorded -/

/-- Registers, records and the NV image alone have changed, and every record of severity deferred or higher is still held. -/
structure State.storesOnly (t s : State) : Prop where
  body : t.sameBody s
  held : ∀ r, r.sev ≠ 0 → s.recorded r → t.recorded r

theorem State.storesOnly.refl (s : State) : s.storesOnly s := ⟨.refl s, fun _ _ => id⟩

theorem State.storesOnly.trans {a b c : State} (h : c.storesOnly b) (g : b.storesOnly a) : c.storesOnly a :=
  ⟨h.body.trans g.body, fun r hr => h.held r hr ∘ g.held r hr⟩

theorem State.storesOnly.tells {t s : State} (h : t.storesOnly s) {c : Cause} (hc : c.sev ≠ 0) {n i : Nat} (htold : s.tells n c i) :
    t.tells n c i := by
  obtain ⟨r, hr, hturn, hsev, hrest⟩ := htold
  exact ⟨r, h.held r (by rw [hsev]; exact hc) hr, hturn, hsev, hrest⟩

section
variable (s : State)

theorem State.storesOnly_bump (f : RegField) (n : Nat) : (s.bump f n).storesOnly s := ⟨s.sameBody_bump f n, fun _ _ => id⟩

theorem State.storesOnly_nv (x : Nv) : ({ s with nv := x } : State).storesOnly s := ⟨s.sameBody_nv x, fun _ _ => id⟩

theorem State.storesOnly_log (c : Cause) (r : ErrRec) : (s.log c r).storesOnly s :=
  ⟨s.sameBody_log c r, fun q hq => State.enqueue_keeps s.tickFree _ q hq⟩

theorem State.storesOnly_nvPump : s.nvPump.storesOnly s := by
  unfold State.nvPump
  split
  · exact .refl s
  · split
    · exact .refl s
    · dsimp only
      split
      · split
        · exact .refl s
        · exact (State.storesOnly_bump _ _ _).trans ((State.storesOnly_log _ _ _).trans (s.storesOnly_nv _))
      · exact s.storesOnly_nv _

theorem State.storesOnly_compact : s.compact.storesOnly s := by
  unfold State.compact
  dsimp only
  split
  · exact (State.storesOnly_bump _ _ _).trans (s.storesOnly_nv _)
  · exact .refl s

theorem State.storesOnly_appendLog (type : Nat) (value : List Byte) : (s.appendLog type value).storesOnly s :=
  (State.storesOnly_compact _).trans (s.storesOnly_nv _)

theorem State.storesOnly_chunkDone : s.chunkDone.storesOnly s := by
  unfold State.chunkDone
  split
  · exact .refl s
  · split
    · exact .refl s
    · split
      · exact (State.storesOnly_nvPump _).trans (s.storesOnly_nv _)
      · exact (State.storesOnly_nvPump _).trans ((State.storesOnly_bump _ _ _).trans
          ((State.storesOnly_appendLog _ _ _).trans (s.storesOnly_nv _)))

/-- Firmware's last store before the rails go (15 R427). -/
theorem State.storesOnly_storeHead : s.storeHead.storesOnly s := by
  unfold State.storeHead
  extract_lets s1 _ s2
  have hchunk : s1.storesOnly s := by
    show State.storesOnly (match s.nv.queue with | [] => s | x :: _ => if x.chunk ≠ 0 ∧ x.pages ≤ x.chunk then s.chunkDone else s) s
    split
    · exact .refl s
    · split
      · exact s.storesOnly_chunkDone
      · exact .refl s
  have hqueue : s2.storesOnly s := (s1.storesOnly_nv _).trans hchunk
  split
  · exact hqueue
  · split
    · exact (State.storesOnly_log _ _ _).trans hqueue
    · exact (State.storesOnly_appendLog _ _ _).trans hqueue

/-! ### Loss of VIN (13 R350, R365) -/

/-- The part without rails, before its registers show it; `u` is the part once the chain's head is stored. -/
def State.railsGone (s u : State) : State :=
  { u.dropRails with
    errs := { u.errs with queue := [], overflow := u.errs.overflow ++ u.errs.queue.filter (fun r => decide (r.sev ≠ 0)) }
    regs := defaultRegs
    nv := { u.nv with early := [], activation := none, written := [] }
    power := { state := .off, perst := s.power.perst, recover := List.range 64 } }

theorem State.loseVin_only : ∃ m, s.loseVin = { s.railsGone s.storeHead with regs := m } := by
  have hregs (f : State → Nat → State) (hf : ∀ t n, ∃ m, f t n = { t with regs := m }) (l : List Nat) (t : State) :
      ∃ m, l.foldl f t = { t with regs := m } :=
    List.foldlRecOn (motive := fun u : State => ∃ m, u = { t with regs := m }) _ _ ⟨t.regs, rfl⟩ fun u ⟨_, hu⟩ n _ => by
      obtain ⟨m, hm⟩ := hf u n
      exact ⟨m, by rw [hm, hu]⟩
  unfold State.loseVin
  extract_lets s1 _ _ s2 _ s3 s4 s5
  obtain ⟨m, hlevels⟩ : ∃ m, s4 = { s3 with regs := m } := hregs _ (fun t o => ⟨_, rfl⟩) levelRegs s3
  obtain ⟨m', hpins⟩ :=
    hregs (fun t n => (t.setFlag (pinUnstableF n) false).setFlag (pinStuckF n) false) (fun t n => ⟨_, rfl⟩) [1, 2, 3, 4] s5
  refine ⟨m', hpins.trans ?_⟩
  show ({ (((s4.setFlag tlsBrake false).setFlag tlsCur false).setFlag tlsHot false) with regs := m' } : State) = _
  rw [hlevels]
  rfl

theorem State.railsGone_unpowered (u : State) : (s.railsGone u).unpowered u :=
  ⟨fun c => clearedCores_empty false c u.cores, rfl, rfl, rfl, rfl, rfl, rfl⟩

/-- A record that is held when the rails go is held afterwards. -/
theorem State.railsGone_held (u : State) {r : ErrRec} (hr : r.sev ≠ 0) (h : u.recorded r) : (s.railsGone u).recorded r := by
  refine .inr (List.mem_append.mpr ?_)
  rcases h with h | h
  · exact .inr (List.mem_filter.mpr ⟨h, by simpa using hr⟩)
  · exact .inl h

/-- A loss of VIN takes the rails and drops no record of severity deferred or higher. -/
theorem State.loseVin_spec : s.loseVin.power.state = .off ∧ s.loseVin.unpowered s ∧ s.loseVin.sec.sessions = []
    ∧ s.loseVin.power.perst = s.power.perst ∧ ∀ r, r.sev ≠ 0 → s.recorded r → s.loseVin.recorded r := by
  obtain ⟨m, hm⟩ := s.loseVin_only
  obtain ⟨hbody, hheld⟩ := s.storesOnly_storeHead
  obtain ⟨hcores, hhbm, hmesh, hplans, hrings, hworks, hhost⟩ := s.railsGone_unpowered s.storeHead
  rw [hm]
  exact ⟨rfl, ⟨hcores, hhbm, hmesh, hplans, hrings, hworks, hhost.trans hbody.host⟩, rfl, rfl,
    fun r hr h => s.railsGone_held s.storeHead hr (hheld r hr h)⟩

end

theorem exec_vin_off {s : State} (h : s.power.state = .off) :
    exec .vinLoss s = .next s ∧ exec .vinLow s = .next s ∧ exec .vinOvp s = .next s := by
  have hdown : ¬ s.mdieUp = true := by simp [State.mdieUp, h]
  exact ⟨if_neg hdown, if_neg hdown, if_neg hdown⟩

/-! ### High VIN and the brake (10 R282; 19 R497) -/

/-- High VIN is a cause of the brake, and is told of; the brake is not yet engaged. -/
def State.vinNoted (s : State) : State := ({ s with power := { s.power with brakeVin := true } } : State).log .vinHigh {}

theorem State.vinNoted_body (s : State) : s.vinNoted.sameBody { s with power := { s.power with brakeVin := true } } :=
  State.sameBody_log ({ s with power := { s.power with brakeVin := true } }) .vinHigh {}

theorem State.vinNoted_fld (s : State) {g : RegField} (hdrop : errCeDrop.apart g) (hoverflow : errNvOverflow.apart g) :
    s.vinNoted.fld g = s.fld g :=
  State.fld_log ({ s with power := { s.power with brakeVin := true } }) .vinHigh {} hdrop hoverflow

/-- An engaged brake seen from before its cause was taken, where that changed the power state, records and other registers alone. -/
theorem State.brakeEngaged.of_body {t u s : State} {p : Power} (h : t.brakeEngaged u) (hbody : u.sameBody { s with power := p })
    (hbrake : u.fld tlsBrake = s.fld tlsBrake) (hcount : u.fld tlsBrakeCount = s.fld tlsBrakeCount) : t.brakeEngaged s := by
  have hflag : u.flag tlsBrake = s.flag tlsBrake := by rw [State.flag, hbrake, State.flag]
  have hplaced (i : Nat) : u.placedAt i = s.placedAt i := by rw [State.placedAt, hbody.turn, State.placedAt]
  exact {
    brake := h.brake
    count := by rw [← hflag, ← hcount]; exact h.count
    braked := fun hoff => h.braked (hflag.trans hoff)
    charged := fun hoff i q hq => h.charged (hflag.trans hoff) i q ((hplaced i).trans hq)
    cores := h.cores.trans hbody.cores
    works := h.works.trans hbody.works
    hbm := h.hbm.trans hbody.hbm
    host := h.host.trans hbody.host }

theorem exec_vinHigh {s : State} (hpowered : s.powered = true) (hvin : s.power.brakeVin = false) :
    exec .vinHigh s = .next s.vinNoted.engageBrake :=
  if_pos (by simp [hpowered, hvin])

/-- High VIN is over. -/
def State.vinSettled (s : State) : State := { s with power := { s.power with brakeVin := false } }

theorem exec_vinHighEnd {s : State} (hvin : s.power.brakeVin = true) : exec .vinHighEnd s
    = .next (if s.vinSettled.brakeFree then s.vinSettled.releaseBrake else s.vinSettled) := if_pos hvin

/-- The brake stays engaged where another cause is present. -/
theorem State.vinSettled_brake (s : State) : (if s.vinSettled.brakeFree then s.vinSettled.releaseBrake else s.vinSettled).flag tlsBrake
    = (s.flag tlsBrake && (s.flag tlsCur || s.flag tlsPin || s.flag tlsHot)) := by
  have hfree : s.vinSettled.brakeFree = !(s.flag tlsCur || s.flag tlsPin || s.flag tlsHot) := by
    rw [Bool.not_or, Bool.not_or]
    exact Bool.and_true _
  rw [hfree]
  cases s.flag tlsCur || s.flag tlsPin || s.flag tlsHot
  · rw [Bool.and_false]
    exact s.vinSettled.releaseBrake_flag.1
  · rw [Bool.and_true]
    rfl

theorem State.vinSettled_body (s : State) :
    (if s.vinSettled.brakeFree then s.vinSettled.releaseBrake else s.vinSettled).sameBody s.vinSettled :=
  State.sameBody_ite (State.sameBody_releaseBrake _) (.refl _)

/-! ### Phases (19 R500) -/

/-- The phases of one tile's share of one rail. -/
def State.share (s : State) (tile rail : Nat) : Share := SMap.get {} s.power.shares (16 * tile + rail)

section
variable {s : State}

theorem exec_phaseFault {tile : Fin 4} {rail : Fin 9} (hpowered : s.powered = true) (hshare : hasShare tile.val rail.val = true) :
    exec (.phaseFault tile rail) s = .next (s.phaseFault tile.val rail.val) :=
  if_pos (by simp [hpowered, hshare])

theorem State.phaseFault_spare {tile rail : Nat} (h : (s.share tile rail).used + (s.share tile rail).removed < 2) :
    s.phaseFault tile rail = { s with power := { s.power with
      shares := SMap.set {} s.power.shares (16 * tile + rail) { s.share tile rail with removed := (s.share tile rail).removed + 1 } } } :=
  if_pos h

theorem State.phaseFault_short {tile rail : Nat} (h : 2 ≤ (s.share tile rail).used + (s.share tile rail).removed) :
    s.phaseFault tile rail = ({ s with power := { s.power with short := s.power.short ++ [(tile, rail)] } } : State).log .phaseShort
      { inst := tile, detail := rail } :=
  if_neg (not_lt.mpr h)

end

/-- Settles O33: a loss of the rails keeps every record that is not corrected; high VIN is one more cause of the brake. -/
theorem powerInputs : Obligations.PowerInputs := by
  refine ⟨fun s => ⟨fun hup => ?_, exec_vin_off, fun hup => ?_, fun hup => ?_, fun hpowered hvin => ?_, fun hvin => if_neg (by simp [hvin]),
    fun hvin => ?_, fun hvin => if_neg (by simp [hvin])⟩, fun s => ⟨?_, fun drop step volt hup => ?_⟩⟩
  · obtain ⟨hstate, hgone, hsessions, hperst, hheld⟩ := s.loseVin_spec
    exact ⟨_, if_pos (State.mdieUp_of_state hup), hstate, hgone, hsessions, hperst, fun r hr hsev => hheld r hsev (.inl hr)⟩
  · exact ⟨_, if_pos (State.mdieUp_of_state hup), s.sameBody_log _ _, s.log_tells .vinLow {} (by decide)⟩
  · obtain ⟨hstate, hgone, hsessions, -, hheld⟩ := (s.log .vinOvp {}).loseVin_spec
    obtain ⟨r, hr, hturn, hsev, hrest⟩ := s.log_tells .vinOvp {} (by decide)
    exact ⟨_, if_pos (State.mdieUp_of_state hup), hstate, { hgone with host := hgone.host.trans (s.log_host _ _) }, hsessions,
      ⟨r, hheld r (by rw [hsev]; decide) hr, hturn, hsev, hrest⟩⟩
  · obtain ⟨hpower, herrs⟩ := s.vinNoted.engageBrake_power
    have htold : s.vinNoted.tells s.turn.number .vinHigh 0 := State.log_tells _ .vinHigh {} (by decide)
    exact ⟨_, exec_vinHigh hpowered hvin, s.vinNoted.engageBrake_engaged.of_body s.vinNoted_body (s.vinNoted_fld (by decide) (by decide))
      (s.vinNoted_fld (by decide) (by decide)), by rw [hpower, s.vinNoted_body.power], (State.tells_congr herrs _ _ _).mpr htold⟩
  · have hbody := s.vinSettled_body
    exact ⟨_, exec_vinHighEnd hvin, hbody.power, s.vinSettled_brake, hbody.turn, hbody.works, hbody.cores⟩
  · intro tile rail k x hpowered hshare
    have hexec := exec_phaseFault hpowered hshare
    refine ⟨fun hspare => hexec.trans (congrArg _ (State.phaseFault_spare hspare)), fun hshort => ⟨_, hexec, ?_⟩⟩
    have hlog := State.sameBody_log ({ s with power := { s.power with short := s.power.short ++ [(tile.val, rail.val)] } }) .phaseShort
      { inst := tile.val, detail := rail.val }
    rw [State.phaseFault_short hshort]
    exact ⟨hlog.power, State.log_tells _ .phaseShort _ (by decide), hlog.turn, hlog.works, hlog.cores⟩
  · exact ⟨_, if_pos (State.mdieUp_of_state hup), s.sameBody_measureBank _ _ _, s.measureBank_shows drop step volt⟩

end Sys2Proof.Machine
end

section
/-! SUPPORT. Admin descriptors of epochs, partitions, sessions, seals, keys and user slots (13 R367, R370; 15 R428, R429; 16 R442, R450): what
each leaves once it has been accepted. -/

namespace Sys2Proof.Machine

theorem State.trace1_reasons (s : State) (n : Nat) (p : List Byte) : (s.trace1 n p).audit.reasons = s.audit.reasons := by
  simp only [State.trace1]
  split <;> rfl

/-- A journal entry leaves the NV image, security, epoch steps and the seals that are due. -/
theorem State.accepted_keeps (s : State) (r : Nat) (x : Ring) (b : List Byte) : (s.accepted r x b).nv = s.nv
    ∧ (s.accepted r x b).sec = s.sec
    ∧ (s.accepted r x b).epochs = s.epochs ∧ (s.accepted r x b).audit.reasons = s.audit.reasons := by
  simp [State.accepted, State.journal, State.putAccepted, State.hostPut, State.setRing, State.trace1_reasons]

theorem State.workOf_seq (s : State) (r : Nat) (x : Ring) (op : Nat) (d : AdminDesc) :
    (s.workOf r x (adminBytes op d)).seq = d.seq.toNat := adminBytes_seq op d

section
variable {s : State} {w : Work} (hcheck : s.adminCheck w = none)
include hcheck

theorem State.adminRun_epochStage (hop : w.op = 0x40) : s.adminRun w = s.adminEpochStage w := by rw [State.adminRun, hcheck, hop]; rfl
theorem State.adminRun_partitionReset (hop : w.op = 0x41) : s.adminRun w = s.adminPartitionReset w := by
  rw [State.adminRun, hcheck, hop]; rfl
theorem State.adminRun_slotWrite (hop : w.op = 0x48) : s.adminRun w = s.adminSlotWrite w := by rw [State.adminRun, hcheck, hop]; rfl
theorem State.adminRun_slotActivate (hop : w.op = 0x49) : s.adminRun w = s.adminSlotActivate w := by rw [State.adminRun, hcheck, hop]; rfl
theorem State.adminRun_sessionClose (hop : w.op = 0x52) : s.adminRun w = s.adminSessionClose w := by rw [State.adminRun, hcheck, hop]; rfl
theorem State.adminRun_sealRequest (hop : w.op = 0x56) : s.adminRun w = s.adminSealRequest w := by rw [State.adminRun, hcheck, hop]; rfl
theorem State.adminRun_keyList (hop : w.op = 0x57) : s.adminRun w = s.adminKeyList w := by rw [State.adminRun, hcheck, hop]; rfl

end

/-! ### Epoch steps (13 R370; 16 R442) -/

/-- Steps staged one after another stand behind those that wait. -/
theorem State.foldl_stageEpoch (f : Nat → EpochStep) (ring seq : Nat) (list : Bool) (l : List Nat) (s : State) :
    l.foldl (fun t k => t.stageEpoch (f k) ring seq list) s
      = { s with epochs := s.epochs ++ l.map fun k => ⟨[], f k, ring, seq, list, false⟩ } := by
  induction l generalizing s with
  | nil => simp
  | cons k l ih => rw [List.foldl_cons, ih]; simp [State.stageEpoch]

/-- Steps that a list of epoch entries makes. -/
def epochSteps (b : List Byte) : Nat := (epochList b).foldl (fun n e => max n e.1) 0 + 1

section
variable {s : State} {r q : Nat} {w : Work}

theorem State.adminEpochStage_staged (hw : s.findWork r q = some w) (hresult : w.result = none)
    (hok : s.epochListOk (s.hostBytes w.fB w.fC) = true) :
    (s.adminEpochStage w).awaits r q (.epoch (epochSteps (s.hostBytes w.fB w.fC)))
      ∧ (s.adminEpochStage w).epochs.length = s.epochs.length + epochSteps (s.hostBytes w.fB w.fC)
      ∧ (s.adminEpochStage w).hbm = s.hbm ∧ (s.adminEpochStage w).cores = s.cores := by
  have hstage : s.adminEpochStage w = s.stageList w (s.hostBytes w.fB w.fC) := if_pos hok
  rw [hstage]
  unfold State.stageList
  dsimp only
  rw [State.foldl_stageEpoch]
  refine ⟨State.updWork_awaits ((State.findWork_congr rfl r q).trans hw) hresult _, ?_, rfl, rfl⟩
  simp [epochSteps]

theorem State.adminEpochStage_invalid (hw : s.findWork r q = some w) (hok : s.epochListOk (s.hostBytes w.fB w.fC) = false) :
    (s.adminEpochStage w).finished r q stEpochInvalid ∧ (s.adminEpochStage w).epochs = s.epochs := by
  have hrefused : s.adminEpochStage w = s.setResult w stEpochInvalid := if_neg (by simp [hok])
  rw [hrefused]
  exact ⟨State.setResult_finished hw _, rfl⟩

theorem State.adminSessionClose_none (hw : s.findWork r q = some w) (hnone : SMap.get none s.sec.sessions w.fA = none) :
    (s.adminSessionClose w).finished r q stNoSession ∧ (s.adminSessionClose w).epochs = s.epochs := by
  simp only [State.adminSessionClose, hnone]
  exact ⟨State.setResult_finished hw _, rfl⟩

theorem State.adminSessionClose_some (hw : s.findWork r q = some w) (hresult : w.result = none) {y : Session}
    (hy : SMap.get none s.sec.sessions w.fA = some y) : (s.adminSessionClose w).awaits r q (.epoch 1)
      ∧ (s.adminSessionClose w).epochs = s.epochs ++ [⟨[], .unbind w.fA, w.ring, w.seq, false, false⟩]
      ∧ (s.adminSessionClose w).sec = s.sec := by
  simp only [State.adminSessionClose, hy]
  exact ⟨State.updWork_awaits ((State.findWork_congr rfl r q).trans hw) hresult _, rfl, rfl⟩

/-! ### KEY_LIST (16 R450) -/

theorem length_flatMap_of_forall {a b : Type} {f : a → List b} {n : Nat} (h : ∀ x, (f x).length = n) (l : List a) :
    (l.flatMap f).length = l.length * n := by
  rw [List.length_flatMap, List.map_congr_left fun x _ => h x]
  simp

theorem State.keyList_length (s : State) : s.keyList.length = 2048 := by
  refine (length_flatMap_of_forall (n := 8) (fun i => ?_) _).trans (by simp)
  split <;> simp [le16, zeros]

/-- Bytes that are put where a table holds none. -/
theorem SMap.get_setList_some {a : Type} [DecidableEq a] (bs : List a) (k i : Nat) :
    SMap.get none (SMap.setList none [] k (bs.map some)) (k + i) = bs[i]? := by
  rw [SMap.get_setList, if_pos (Nat.le_add_right k i), Nat.add_sub_cancel_left, List.getElem?_map]
  cases bs[i]? <;> rfl

theorem State.adminKeyList_spec (hw : s.findWork r q = some w) (hout : w.hostOut = []) : ∃ v, (s.adminKeyList w).findWork r q = some v
    ∧ v.result = some stOk ∧ ∀ i, SMap.get none v.hostOut (w.fB + i) = s.keyList[i]? := by
  have hput := State.findWork_updWork (f := fun x => { x with hostOut := SMap.setList none x.hostOut w.fB (s.keyList.map some) }) hw
    fun _ => ⟨rfl, rfl⟩
  have hdone := State.findWork_updWork (f := fun x => { x with result := some stOk }) hput fun _ => ⟨rfl, rfl⟩
  refine ⟨_, hdone, rfl, fun i => ?_⟩
  rw [hout]
  exact SMap.get_setList_some s.keyList w.fB i

end

/-! ### User slots (15 R412, R428) -/

theorem State.slot_congr {s t : State} (h0 : t.nv.flash0 = s.nv.flash0) (h1 : t.nv.flash1 = s.nv.flash1) (i : Nat) :
    t.slot i = s.slot i := by
  rw [State.slot, h0, h1, State.slot]

/-- A slot that is written, on a part with a flash in service. -/
theorem State.slot_setSlot {s : State} (hflash : s.nv.flash0.ok = true ∨ s.nv.flash1.ok = true) (i j : Nat) (x : Slot) :
    (s.setSlot i x).slot j = if i = 0 ↔ j = 0 then x else s.slot j := by
  unfold State.slot State.setSlot
  cases h0 : s.nv.flash0.ok
  · have h1 : s.nv.flash1.ok = true := hflash.resolve_left (by simp [h0])
    by_cases hi : i = 0 <;> by_cases hj : j = 0 <;> simp [h0, h1, hi, hj]
  · by_cases hi : i = 0 <;> by_cases hj : j = 0 <;> simp [h0, hi, hj]

theorem State.slotValid_congr {s t : State} (h : t.regs = s.regs) (x : Slot) (sig : Bool) : t.slotValid x sig = s.slotValid x sig := by
  rw [State.slotValid, State.fld_congr h, State.slotValid]

theorem State.idleSlot_congr {s t : State} (h : t.regs = s.regs) : t.idleSlot = s.idleSlot := by
  rw [State.idleSlot, State.flag_congr h, State.fld_congr h, State.idleSlot]

/-- One of the two slots does not run. -/
theorem State.idleSlot_other (s : State) : ¬(s.idleSlot = 0 ↔ 1 - s.idleSlot = 0) := by
  have hle : s.idleSlot ≤ 1 := by
    rw [State.idleSlot]
    split <;> omega
  omega

/-- The flag that shows whether a slot is valid. -/
def slotFlag (i : Nat) : RegField := if i = 0 then nviSlotAValid else nviSlotBValid

theorem slotFlag_fits (i : Nat) : (slotFlag i).fits ∧ (slotFlag i).width = 1 := by
  unfold slotFlag
  split <;> decide

/-- The slot that does not run takes `x`, and shows as valid or not. -/
def State.putIdle (s : State) (x : Slot) (ok : Bool) : State := (s.setSlot s.idleSlot x).setSlotOk s.idleSlot ok ok

section
variable {s : State} (x : Slot) (ok : Bool)

theorem State.putIdle_slot (hflash : s.nv.flash0.ok = true ∨ s.nv.flash1.ok = true) (j : Nat) :
    (s.putIdle x ok).slot j = if s.idleSlot = 0 ↔ j = 0 then x else s.slot j := by
  rw [← State.slot_setSlot hflash]
  refine State.slot_congr ?_ ?_ j <;> (rw [State.putIdle, State.setSlotOk, State.setFlag_nv]; dsimp only; split <;> rfl)

theorem State.putIdle_flag : (s.putIdle x ok).flag (slotFlag s.idleSlot) = ok :=
  State.flag_setFlag _ (slotFlag_fits _).1 (slotFlag_fits _).2 ok

end

/-- The generation of a slot that is written: one above that of the slot that runs. -/
def State.nextGen (s : State) : Nat := match s.activeSlot with
  | some x => x.gen + 1
  | none => 1

/-- A slot of records, not yet activated. -/
def State.freshSlot (s : State) (recs : List (NvRec × List Byte)) : Slot :=
  { state := 0x7F, gen := s.nextGen, epoch := 0, recs := recs.map fun e => e.1 }

section
variable {s : State}

theorem State.writeSlot_busy (h : s.nv.activation ≠ none) (a n : Nat) : s.writeSlot a n = (stSlotBusy, s) :=
  if_pos (Option.isSome_iff_ne_none.mpr h)

/-- Everything SLOT_WRITE can do while no activation is in progress: the slot holds the signed records that were read, or nothing. -/
theorem State.writeSlot_cases (h : s.nv.activation = none) (a n : Nat) :
    s.writeSlot a n = (stSlotInvalid, s.putIdle {} false)
      ∨ ∃ recs, parseRecs (n / 80 + 2) 0 (s.hostBytes a n) [] = some recs ∧ codeSigned s.sec.owner recs = true
        ∧ s.writeSlot a n = (stOk, s.putIdle (s.freshSlot recs) true) := by
  cases hrecs : parseRecs (n / 80 + 2) 0 (s.hostBytes a n) [] with
  | none => exact .inl (by simp only [State.writeSlot, h, hrecs]; rfl)
  | some recs =>
    have hwrite : s.writeSlot a n = if s.slotValid (s.freshSlot recs) (codeSigned s.sec.owner recs) then
        (stOk, s.putIdle (s.freshSlot recs) true) else (stSlotInvalid, s.putIdle {} false) := by
      simp only [State.writeSlot, h, hrecs]
      rfl
    rw [hwrite]
    split
    · next hvalid =>
      refine .inr ⟨recs, rfl, ?_, rfl⟩
      simp only [State.slotValid, Bool.and_eq_true] at hvalid
      obtain ⟨⟨⟨⟨⟨-, hsigned⟩, -⟩, -⟩, -⟩, -⟩ := hvalid
      exact hsigned
    · exact .inl rfl

variable {r q : Nat} {w : Work} (hw : s.findWork r q = some w)
include hw

theorem State.adminSlotWrite_busy (h : s.nv.activation ≠ none) :
    (s.adminSlotWrite w).finished r q stSlotBusy ∧ (s.adminSlotWrite w).nv = s.nv := by
  rw [State.adminSlotWrite, State.writeSlot_busy h]
  exact ⟨State.setResult_finished hw _, rfl⟩

theorem State.adminSlotWrite_spec (h : s.nv.activation = none) (hflash : s.nv.flash0.ok = true ∨ s.nv.flash1.ok = true) :
    (s.adminSlotWrite w).finished r q (s.writeSlot w.fB w.fC).1
      ∧ (s.adminSlotWrite w).slot (1 - s.idleSlot) = s.slot (1 - s.idleSlot)
      ∧ ((s.writeSlot w.fB w.fC).1 = stOk → ((s.adminSlotWrite w).slot s.idleSlot).state = 0x7F
        ∧ (s.adminSlotWrite w).flag (slotFlag s.idleSlot) = true
        ∧ ∃ recs, parseRecs (w.fC / 80 + 2) 0 (s.hostBytes w.fB w.fC) [] = some recs
          ∧ ((s.adminSlotWrite w).slot s.idleSlot).recs = recs.map (fun e => e.1) ∧ codeSigned s.sec.owner recs = true)
      ∧ ((s.writeSlot w.fB w.fC).1 ≠ stOk → (s.writeSlot w.fB w.fC).1 = stSlotInvalid ∧ (s.adminSlotWrite w).slot s.idleSlot = {}
        ∧ (s.adminSlotWrite w).flag (slotFlag s.idleSlot) = false) := by
  have hput (x : Slot) (ok : Bool) (st : Nat) (hwrite : s.writeSlot w.fB w.fC = (st, s.putIdle x ok)) :
      (s.adminSlotWrite w).finished r q st ∧ (s.adminSlotWrite w).slot (1 - s.idleSlot) = s.slot (1 - s.idleSlot)
        ∧ (s.adminSlotWrite w).slot s.idleSlot = x ∧ (s.adminSlotWrite w).flag (slotFlag s.idleSlot) = ok := by
    have hdone : s.adminSlotWrite w = (s.putIdle x ok).setResult w st := by rw [State.adminSlotWrite, hwrite]
    have hslot (j : Nat) : (s.adminSlotWrite w).slot j = (s.putIdle x ok).slot j := by rw [hdone]; exact State.slot_congr rfl rfl j
    rw [hslot, hslot, State.putIdle_slot x ok hflash, State.putIdle_slot x ok hflash, if_neg s.idleSlot_other, if_pos Iff.rfl, hdone]
    exact ⟨State.setResult_finished ((State.findWork_congr rfl r q).trans hw) st, rfl, rfl, State.putIdle_flag x ok⟩
  rcases State.writeSlot_cases h w.fB w.fC with hwrite | ⟨recs, hrecs, hsigned, hwrite⟩
  · obtain ⟨hfin, hother, hslot, hflag⟩ := hput _ _ _ hwrite
    rw [hwrite]
    exact ⟨hfin, hother, fun hok => absurd hok (show stSlotInvalid ≠ stOk by decide), fun _ => ⟨rfl, hslot, hflag⟩⟩
  · obtain ⟨hfin, hother, hslot, hflag⟩ := hput _ _ _ hwrite
    rw [hwrite]
    exact ⟨hfin, hother, fun _ => ⟨by rw [hslot]; rfl, hflag, recs, hrecs, by rw [hslot]; rfl, hsigned⟩, fun hne => absurd rfl hne⟩

/-! ### Activation of a slot (15 R429) -/

theorem State.adminSlotActivate_busy (h : s.nv.activation ≠ none) :
    (s.adminSlotActivate w).finished r q stSlotBusy ∧ (s.adminSlotActivate w).nv = s.nv := by
  have hstart : s.startActivation w.fA w.ring w.seq = (stSlotBusy, s) := if_pos (Option.isSome_iff_ne_none.mpr h)
  have hdone : s.adminSlotActivate w = s.setResult w stSlotBusy := by
    rw [State.adminSlotActivate, hstart]
    exact if_neg (show ¬stSlotBusy = stOk by decide)
  rw [hdone]
  exact ⟨State.setResult_finished hw _, rfl⟩

theorem State.adminSlotActivate_invalid (h : s.nv.activation = none) (hbad : (s.slot w.fA).state ≠ 0x7F
    ∨ s.slotValid (s.slot w.fA) (if w.fA = 0 then s.nv.slotSigA else s.nv.slotSigB) = false) :
    (s.adminSlotActivate w).finished r q stSlotInvalid ∧ (s.adminSlotActivate w).nv = s.nv := by
  have hstart : s.startActivation w.fA w.ring w.seq = (stSlotInvalid, s) := (if_neg (by simp [h])).trans (if_pos (by simpa using hbad))
  have hdone : s.adminSlotActivate w = s.setResult w stSlotInvalid := by
    rw [State.adminSlotActivate, hstart]
    exact if_neg (show ¬stSlotInvalid = stOk by decide)
  rw [hdone]
  exact ⟨State.setResult_finished hw _, rfl⟩

theorem State.adminSlotActivate_begins (h : s.nv.activation = none) (hresult : w.result = none) (hstate : (s.slot w.fA).state = 0x7F)
    (hvalid : s.slotValid (s.slot w.fA) (if w.fA = 0 then s.nv.slotSigA else s.nv.slotSigB) = true) :
    (s.adminSlotActivate w).awaits r q .activation ∧ (s.adminSlotActivate w).flag nviPending = true
      ∧ (s.adminSlotActivate w).nv = { s.nv with activation := some ⟨w.fA, w.ring, w.seq, none, [], false, 0⟩ } := by
  have hstart : s.startActivation w.fA w.ring w.seq
      = (stOk, ({ s with nv := { s.nv with activation := some ⟨w.fA, w.ring, w.seq, none, [], false, 0⟩ } } : State).setFlag nviPending true) :=
    (if_neg (by simp [h])).trans (if_neg (by simp [hstate, hvalid]))
  have hdone : s.adminSlotActivate w = (({ s with nv := { s.nv with activation := some ⟨w.fA, w.ring, w.seq, none, [], false, 0⟩ } }
      : State).setFlag nviPending true).updWork w.ring w.seq (fun x => { x with admin := .activation }) := by
    rw [State.adminSlotActivate, hstart]
    exact if_pos rfl
  rw [hdone]
  exact ⟨State.updWork_awaits ((State.findWork_congr rfl r q).trans hw) hresult _, State.flag_setFlag _ (by decide) rfl true, rfl⟩

end

/-! ### The commands -/

section
variable {s : State} {r : Fin 65536} {x : Ring} {d : AdminDesc}

theorem exec_epochStage (h : s.runsAdmin r.val x 0x40 d) : exec (.epochStage r d) s
    = .next ((s.accepted r.val x (adminBytes 0x40 d)).adminEpochStage (s.workOf r.val x (adminBytes 0x40 d))) := by
  rw [exec_admin rfl h.tosamples h.admin, State.adminRun_epochStage h.passes (State.workOf_op _ _ _ _ _)]

theorem exec_partitionReset (h : s.runsAdmin r.val x 0x41 d) : exec (.partitionReset r d) s
    = .next ((s.accepted r.val x (adminBytes 0x41 d)).adminPartitionReset (s.workOf r.val x (adminBytes 0x41 d))) := by
  rw [exec_admin rfl h.tosamples h.admin, State.adminRun_partitionReset h.passes (State.workOf_op _ _ _ _ _)]

theorem exec_slotWrite (h : s.runsAdmin r.val x 0x48 d) : exec (.slotWrite r d) s
    = .next ((s.accepted r.val x (adminBytes 0x48 d)).adminSlotWrite (s.workOf r.val x (adminBytes 0x48 d))) := by
  rw [exec_admin rfl h.tosamples h.admin, State.adminRun_slotWrite h.passes (State.workOf_op _ _ _ _ _)]

theorem exec_slotActivate (h : s.runsAdmin r.val x 0x49 d) : exec (.slotActivate r d) s
    = .next ((s.accepted r.val x (adminBytes 0x49 d)).adminSlotActivate (s.workOf r.val x (adminBytes 0x49 d))) := by
  rw [exec_admin rfl h.tosamples h.admin, State.adminRun_slotActivate h.passes (State.workOf_op _ _ _ _ _)]

theorem exec_sessionClose (h : s.runsAdmin r.val x 0x52 d) : exec (.sessionClose r d) s
    = .next ((s.accepted r.val x (adminBytes 0x52 d)).adminSessionClose (s.workOf r.val x (adminBytes 0x52 d))) := by
  rw [exec_admin rfl h.tosamples h.admin, State.adminRun_sessionClose h.passes (State.workOf_op _ _ _ _ _)]

theorem exec_sealRequest (h : s.runsAdmin r.val x 0x56 d) : exec (.sealRequest r d) s
    = .next ((s.accepted r.val x (adminBytes 0x56 d)).adminSealRequest (s.workOf r.val x (adminBytes 0x56 d))) := by
  rw [exec_admin rfl h.tosamples h.admin, State.adminRun_sealRequest h.passes (State.workOf_op _ _ _ _ _)]

theorem exec_keyList (h : s.runsAdmin r.val x 0x57 d) : exec (.keyList r d) s
    = .next ((s.accepted r.val x (adminBytes 0x57 d)).adminKeyList (s.workOf r.val x (adminBytes 0x57 d))) := by
  rw [exec_admin rfl h.tosamples h.admin, State.adminRun_keyList h.passes (State.workOf_op _ _ _ _ _)]

end

/-- Settles O49: each descriptor that passes its checks does what its OP says, on the state that its acceptance leaves. -/
theorem epochAndSlotDescriptors : Obligations.EpochAndSlotDescriptors := by
  intro s r x d
  refine ⟨fun h => ?_, fun h => ?_, fun h => ?_, fun h => ?_, fun h => ?_, fun h => ?_, fun h => ?_⟩
  · obtain ⟨-, hhbm, hcores, -⟩ := s.accepted_rest r.val x (adminBytes 0x40 d)
    obtain ⟨-, -, hepochs, -⟩ := s.accepted_keeps r.val x (adminBytes 0x40 d)
    rw [exec_epochStage h, ← s.workOf_fB r.val x 0x40 d, ← s.workOf_fC r.val x 0x40 d]
    refine ⟨fun hok => ⟨_, rfl, ?_⟩, fun hok => ⟨_, rfl, ?_⟩⟩
    · obtain ⟨hawaits, hlength, hhbm', hcores'⟩ := State.adminEpochStage_staged (h.accepted_findWork 0x40) rfl hok
      exact ⟨hawaits, by rw [hlength, hepochs]; rfl, hhbm'.trans hhbm, hcores'.trans hcores⟩
    · obtain ⟨hfin, hsame⟩ := State.adminEpochStage_invalid (h.accepted_findWork 0x40) hok
      exact ⟨hfin, hsame.trans hepochs⟩
  · obtain ⟨-, hhbm, hcores, -⟩ := s.accepted_rest r.val x (adminBytes 0x41 d)
    obtain ⟨-, -, hepochs, -⟩ := s.accepted_keeps r.val x (adminBytes 0x41 d)
    rw [← s.workOf_fA r.val x 0x41 d]
    exact ⟨_, exec_partitionReset h, State.updWork_awaits (h.accepted_findWork 0x41) rfl _, hepochs, hcores, hhbm⟩
  · obtain ⟨-, hsec, hepochs, -⟩ := s.accepted_keeps r.val x (adminBytes 0x52 d)
    rw [exec_sessionClose h, ← s.workOf_fA r.val x 0x52 d, ← hsec, ← hepochs]
    refine ⟨fun hnone => ⟨_, rfl, State.adminSessionClose_none (h.accepted_findWork 0x52) hnone⟩, fun y hy => ?_⟩
    obtain ⟨hawaits, hstaged, hsame⟩ := State.adminSessionClose_some (h.accepted_findWork 0x52) rfl hy
    exact ⟨_, _, rfl, hawaits, hstaged, rfl, hsame⟩
  · obtain ⟨-, -, -, hreasons⟩ := s.accepted_keeps r.val x (adminBytes 0x56 d)
    exact ⟨_, exec_sealRequest h, State.setResult_finished ((State.findWork_congr rfl _ _).trans (h.accepted_findWork 0x56)) _,
      congrArg (· ++ [2]) hreasons⟩
  · obtain ⟨-, hsec, -, -⟩ := s.accepted_keeps r.val x (adminBytes 0x57 d)
    have hlist : (s.accepted r.val x (adminBytes 0x57 d)).keyList = s.keyList := by rw [State.keyList, hsec, State.keyList]
    obtain ⟨v, hv, hresult, hout⟩ := State.adminKeyList_spec (h.accepted_findWork 0x57) rfl
    rw [State.workOf_fB, hlist] at hout
    exact ⟨_, v, exec_keyList h, hv, hresult, fun i _ => hout i, s.keyList_length, hsec⟩
  · obtain ⟨hregs, -, -, -⟩ := s.accepted_rest r.val x (adminBytes 0x48 d)
    obtain ⟨hnv, hsec, -, -⟩ := s.accepted_keeps r.val x (adminBytes 0x48 d)
    have hslot (i : Nat) : (s.accepted r.val x (adminBytes 0x48 d)).slot i = s.slot i := State.slot_congr (by rw [hnv]) (by rw [hnv]) i
    rw [exec_slotWrite h, ← s.workOf_fB r.val x 0x48 d, ← s.workOf_fC r.val x 0x48 d, ← hnv, ← hsec, ← State.idleSlot_congr hregs]
    refine ⟨fun hbusy => ⟨_, rfl, State.adminSlotWrite_busy (h.accepted_findWork 0x48) hbusy⟩, fun hidle hflash => ⟨_, rfl, ?_⟩⟩
    rw [← hslot]
    exact State.adminSlotWrite_spec (h.accepted_findWork 0x48) hidle hflash
  · obtain ⟨hregs, -, -, -⟩ := s.accepted_rest r.val x (adminBytes 0x49 d)
    obtain ⟨hnv, -, -, -⟩ := s.accepted_keeps r.val x (adminBytes 0x49 d)
    have hslot (i : Nat) : (s.accepted r.val x (adminBytes 0x49 d)).slot i = s.slot i := State.slot_congr (by rw [hnv]) (by rw [hnv]) i
    have hfind := h.accepted_findWork 0x49
    rw [exec_slotActivate h, ← s.workOf_fA r.val x 0x49 d, ← hnv, ← hslot]
    simp only [← State.slotValid_congr hregs]
    refine ⟨fun hbusy => ⟨_, rfl, State.adminSlotActivate_busy hfind hbusy⟩,
      fun hidle hbad => ⟨_, rfl, State.adminSlotActivate_invalid hfind hidle hbad⟩,
      fun hidle hstate hvalid => ⟨_, rfl, ?_⟩⟩
    obtain ⟨hawaits, hpending, hactivation⟩ := State.adminSlotActivate_begins hfind hidle rfl hstate hvalid
    rw [State.workOf_seq] at hactivation
    exact ⟨hawaits, hpending, hactivation⟩

end Sys2Proof.Machine
end

section
/-! SUPPORT. Activations of a user slot (13 R360; 15 R429, R430): the key fields lie in the order of their keys, so each takes its own
slot's value. -/

namespace Sys2Proof.Machine

/-! ### Key fields (15 R520) -/

/-- Field `f` ends before field `g` begins. -/
abbrev RegField.before (f g : RegField) : Prop := 32 * f.off + f.lsb + f.width ≤ 32 * g.off + g.lsb

theorem RegField.apart.symm {f g : RegField} (h : f.apart g) : g.apart f := by
  unfold RegField.apart at *
  omega

theorem RegField.before.apart {f g : RegField} (h : f.before g) : f.apart g ∧ g.apart f := by
  constructor <;> (unfold RegField.apart; omega)

/-- The keys with their fields. -/
def keyEntries : List (Nat × RegField) := (List.range 250).filterMap fun k => (keyFieldOf k).map fun f => (k, f)

theorem mem_keyEntries {k : Nat} {f : RegField} (hk : k < 250) (hf : keyFieldOf k = some f) : (k, f) ∈ keyEntries :=
  List.mem_filterMap.mpr ⟨k, List.mem_range.mpr hk, by rw [hf]; rfl⟩

theorem keyEntries_ordered : keyEntries.Pairwise fun e e' => e.2.before e'.2 := by
  have : IsTrans (Nat × RegField) fun e e' => e.2.before e'.2 := ⟨fun e e' e'' h h' => by unfold RegField.before at *; omega⟩
  exact List.isChain_iff_pairwise.mp (by decide +kernel)

/-- No key field is a counter that an epoch step or its record touches. -/
theorem keyEntries_apart : ∀ e ∈ keyEntries, e.2.fits ∧ errEpoch.apart e.2 ∧ errCeDrop.apart e.2 ∧ errNvOverflow.apart e.2
    ∧ nviDefers.apart e.2 := by
  decide +kernel

/-- Key fields take values, but for those that wait for a cold reset. -/
def State.setKeys (s : State) (v : Nat → Nat) (l : List (Nat × RegField)) : State :=
  l.foldl (fun t e => if e.2.late then t else t.setFld e.2 (v e.1)) s

section
variable (s : State) (v : Nat → Nat)

theorem State.setKeys_only (l : List (Nat × RegField)) : ∃ m, s.setKeys v l = { s with regs := m } :=
  List.foldlRecOn (motive := fun t : State => ∃ m, t = { s with regs := m }) _ _ ⟨s.regs, rfl⟩ fun t ⟨m, ht⟩ e _ => by
    split
    · exact ⟨m, ht⟩
    · exact ⟨_, by rw [ht]; rfl⟩

/-- What one key field's value leaves of a field that stands apart from it. -/
theorem State.setKey_other (e : Nat × RegField) {g : RegField} (hfits : e.2.fits) (happ : e.2.apart g) :
    (if e.2.late then s else s.setFld e.2 (v e.1)).fld g = s.fld g := by
  split
  · rfl
  · exact s.fld_setFld_other hfits _ happ

theorem State.setKeys_other {l : List (Nat × RegField)} {g : RegField} (h : ∀ e ∈ l, e.2.fits ∧ e.2.apart g) :
    (s.setKeys v l).fld g = s.fld g :=
  List.foldlRecOn (motive := fun t : State => t.fld g = s.fld g) _ _ rfl fun t ht e he =>
    (t.setKey_other v e (h e he).1 (h e he).2).trans ht

/-- Of fields in order, each takes its own key's value. -/
theorem State.setKeys_fld {k : Nat} {f : RegField} {l : List (Nat × RegField)} (hfits : ∀ e ∈ l, e.2.fits)
    (hordered : l.Pairwise fun e e' => e.2.before e'.2) (hmem : (k, f) ∈ l) :
    (s.setKeys v l).fld f = if f.late then s.fld f else v k % 2 ^ f.width := by
  induction l generalizing s with
  | nil => exact absurd hmem List.not_mem_nil
  | cons e l ih =>
    obtain ⟨hfirst, hrest⟩ := List.pairwise_cons.mp hordered
    obtain ⟨hfit, hrestFit⟩ := List.forall_mem_cons.mp hfits
    have hcons : s.setKeys v (e :: l) = State.setKeys (if e.2.late then s else s.setFld e.2 (v e.1)) v l := rfl
    rw [hcons]
    rcases List.mem_cons.mp hmem with hkey | hlater
    · have hrefl : e = (k, f) := hkey.symm
      subst hrefl
      rw [State.setKeys_other _ _ (l := l) fun e' he' => ⟨hrestFit e' he', (hfirst e' he').apart.2⟩]
      split
      · rfl
      · exact s.fld_setFld hfit _
    · rw [ih _ hrestFit hrest hlater, s.setKey_other v e hfit (hfirst _ hlater).apart.1]

end

theorem State.setKeys_errEpoch (s : State) (v : Nat → Nat) : (s.setKeys v keyEntries).fld errEpoch = s.fld errEpoch :=
  s.setKeys_other v fun e he => by
    obtain ⟨hfits, hepoch, -⟩ := keyEntries_apart e he
    exact ⟨hfits, hepoch.symm⟩

/-! ### The head that applies the step (15 R429 step 3) -/

/-- What an NV store leaves of the image and of the audit state. -/
theorem State.nvNote_image (s : State) (type : Nat) (value : List Byte) : (s.nvNote type value).nv.flash0 = s.nv.flash0
    ∧ (s.nvNote type value).nv.flash1 = s.nv.flash1 ∧ (s.nvNote type value).nv.activation = s.nv.activation
    ∧ (s.nvNote type value).audit = s.audit := by
  have hpump (t : State) : t.nvPump.nv.flash0 = t.nv.flash0 ∧ t.nvPump.nv.flash1 = t.nv.flash1 ∧ t.nvPump.nv.activation = t.nv.activation
      ∧ t.nvPump.audit = t.audit := by
    unfold State.nvPump
    split
    · exact ⟨rfl, rfl, rfl, rfl⟩
    · split
      · exact ⟨rfl, rfl, rfl, rfl⟩
      · dsimp only
        split
        · split
          · exact ⟨rfl, rfl, rfl, rfl⟩
          · simp
        · exact ⟨rfl, rfl, rfl, rfl⟩
  exact hpump _

section
variable (s : State) (a : Activation)

/-- The activation once its keys are in force. -/
def State.takenOver : Activation := { a with
  takeover := some s.turn.ord
  oldKeys := keyEntries.map fun e => (e.1, s.fld e.2)
  epoch := s.fld errEpoch }

theorem State.applySlot_spec : (s.applySlot a).regs = (s.setKeys (slotKeyVal (s.slot a.slot)) keyEntries).regs
    ∧ (s.applySlot a).nv.activation = some (s.takenOver a) ∧ (s.applySlot a).audit.reasons = s.audit.reasons ++ [3]
    ∧ (s.applySlot a).epochs = s.epochs ∧ (s.applySlot a).cores = s.cores ∧ (s.applySlot a).hbm = s.hbm := by
  obtain ⟨m, hm⟩ := s.setKeys_only (slotKeyVal (s.slot a.slot)) keyEntries
  have hepoch := s.setKeys_errEpoch (slotKeyVal (s.slot a.slot))
  unfold State.applySlot
  extract_lets keys s1 s2
  have hs1 : s1 = s.setKeys (slotKeyVal (s.slot a.slot)) keyEntries := rfl
  rw [← hs1] at hm hepoch ⊢
  clear_value s1
  subst hm
  exact ⟨rfl, congrArg (fun n => some ({ s.takenOver a with epoch := n } : Activation)) hepoch, rfl, rfl, rfl, rfl⟩

end

/-- The part as an epoch step finds it once the step's record is taken: the epoch is one more. -/
def State.epochTaken (s : State) (type : Nat) (value : List Byte) : State :=
  (({ s with epochs := [] } : State).bump errEpoch 1).nvNote type value

theorem State.epochTaken_fld (s : State) (type : Nat) (value : List Byte) :
    (s.epochTaken type value).fld errEpoch = (s.fld errEpoch + 1) % 2 ^ errEpoch.width
      ∧ ∀ e ∈ keyEntries, (s.epochTaken type value).fld e.2 = s.fld e.2 := by
  refine ⟨(State.fld_nvNote _ _ _ (by decide) (by decide) (by decide)).trans (State.fld_bump _ (by decide) 1), fun e he => ?_⟩
  obtain ⟨-, hepoch, hdrop, hoverflow, hdefers⟩ := keyEntries_apart e he
  exact (State.fld_nvNote _ _ _ hdrop hoverflow hdefers).trans (State.fld_bump_other _ (by decide) 1 hepoch)

theorem State.epochTaken_rest (s : State) (type : Nat) (value : List Byte) :
    (∀ i, (s.epochTaken type value).slot i = s.slot i) ∧ (s.epochTaken type value).turn = s.turn
      ∧ (s.epochTaken type value).audit = s.audit ∧ (s.epochTaken type value).nv.activation = s.nv.activation
      ∧ (s.epochTaken type value).epochs = [] ∧ (s.epochTaken type value).cores = s.cores ∧ (s.epochTaken type value).hbm = s.hbm := by
  unfold State.epochTaken
  generalize hu : (({ s with epochs := [] } : State).bump errEpoch 1) = u
  obtain ⟨hflash0, hflash1, hactivation, haudit⟩ := u.nvNote_image type value
  have hbody := u.sameBody_nvNote type value
  subst hu
  exact ⟨fun i => State.slot_congr hflash0 hflash1 i, hbody.turn, haudit, hactivation, hbody.epochs, hbody.cores, hbody.hbm⟩

section
variable {s : State} {x : EpochItem} {a : Activation}

/-- An epoch step takes its record, sets what it sets, and notes it in its work. -/
theorem State.applyEpoch_eq (s : State) (x : EpochItem) :
    ∃ type value f, ({ s with epochs := [] } : State).applyEpoch x = ((s.epochTaken type value).applyStep x.step).updWork x.ring x.seq f :=
  ⟨_, _, _, rfl⟩

/-- A head at which the takeover alone is due. -/
theorem State.applyEpochs_slot (hx : s.epochs = [x]) (hstep : x.step = .slot) (hneeds : x.needs = []) (hpages : s.chunkPages ≠ 0)
    (ha : s.nv.activation = some a) :
    ∃ type value f, s.applyEpochs = ((s.epochTaken type value).applySlot a).updWork x.ring x.seq f := by
  have hdue : State.epochDue { s with epochs := [] } false x = true := by simp [State.epochDue, hneeds]
  have happlied : s.applyEpochs = ({ s with epochs := [] } : State).applyEpoch x := by
    rw [State.applyEpochs, hx, State.applyEpochsGo, hdue]
    exact if_neg hpages
  obtain ⟨type, value, f, htaken⟩ := s.applyEpoch_eq x
  obtain ⟨-, -, -, hactivation, -⟩ := s.epochTaken_rest type value
  refine ⟨type, value, f, happlied.trans (htaken.trans ?_)⟩
  rw [hstep, State.applyStep, hactivation, ha]

/-- At that head the slot's keys apply, and a seal with REASON 3 follows. -/
theorem State.applyEpochs_slot_spec (hx : s.epochs = [x]) (hstep : x.step = .slot) (hneeds : x.needs = []) (hpages : s.chunkPages ≠ 0)
    (ha : s.nv.activation = some a) : ∃ old, let t := s.applyEpochs
      t.epochs = [] ∧ t.fld errEpoch = (s.fld errEpoch + 1) % 2 ^ errEpoch.width ∧ t.audit.reasons = s.audit.reasons ++ [3]
        ∧ t.nv.activation = some { a with takeover := some s.turn.ord, oldKeys := old, epoch := t.fld errEpoch }
        ∧ (∀ k f, k < 250 → keyFieldOf k = some f → t.fld f = if f.late then s.fld f else slotKeyVal (s.slot a.slot) k % 2 ^ f.width)
        ∧ t.cores = s.cores ∧ t.hbm = s.hbm := by
  obtain ⟨type, value, f, happlied⟩ := State.applyEpochs_slot hx hstep hneeds hpages ha
  obtain ⟨hslot, hturn, haudit, -, hnone, hcores, hhbm⟩ := s.epochTaken_rest type value
  obtain ⟨hepoch, hkeys⟩ := s.epochTaken_fld type value
  obtain ⟨hregs, hactivation, hreasons, hepochs, hcores', hhbm'⟩ := (s.epochTaken type value).applySlot_spec a
  rw [happlied]
  generalize s.epochTaken type value = u at hslot hturn haudit hnone hcores hhbm hepoch hkeys hregs hactivation hreasons hepochs hcores' hhbm' ⊢
  generalize u.applySlot a = t at hregs hactivation hreasons hepochs hcores' hhbm' ⊢
  have hstays : t.fld errEpoch = u.fld errEpoch := (State.fld_congr hregs _).trans (u.setKeys_errEpoch _)
  have hkey {k : Nat} {g : RegField} (hk : k < 250) (hg : keyFieldOf k = some g) :
      t.fld g = if g.late then s.fld g else slotKeyVal (s.slot a.slot) k % 2 ^ g.width := by
    have hmem := mem_keyEntries hk hg
    rw [State.fld_congr hregs, State.setKeys_fld _ _ (fun e he => (keyEntries_apart e he).1) keyEntries_ordered hmem, hkeys _ hmem, hslot]
  have hkept : u.takenOver a = { a with
      takeover := some s.turn.ord
      oldKeys := keyEntries.map fun e => (e.1, u.fld e.2)
      epoch := t.fld errEpoch } := by
    rw [hstays, State.takenOver, hturn]
  refine ⟨keyEntries.map fun e => (e.1, u.fld e.2), ?_⟩
  intro w
  have hwregs : w.regs = t.regs := State.updWork_regs _ _ _ _
  have hwepochs : w.epochs = t.epochs := State.updWork_epochs _ _ _ _
  have hwaudit : w.audit = t.audit := State.updWork_audit _ _ _ _
  have hwnv : w.nv = t.nv := State.updWork_nv _ _ _ _
  have hwcores : w.cores = t.cores := State.updWork_cores _ _ _ _
  have hwhbm : w.hbm = t.hbm := State.updWork_hbm _ _ _ _
  clear_value w
  rw [hwepochs, hwaudit, hwnv, hwcores, hwhbm, State.fld_congr hwregs, haudit.symm, ← hkept]
  exact ⟨hepochs.trans hnone, hstays.trans hepoch, hreasons, hactivation,
    fun k g hk hg => (State.fld_congr hwregs g).trans (hkey hk hg), hcores'.trans hcores, hhbm'.trans hhbm⟩

end

/-! ### The work of the activation -/

/-- A work found after an update of its name is one that the update made. -/
theorem State.updWork_found {s : State} {r q : Nat} {f : Work → Work} {v : Work} (h : (s.updWork r q f).findWork r q = some v) :
    ∃ w, v = f w := by
  obtain ⟨w, -, hw⟩ := List.mem_map.mp (List.mem_of_find?_eq_some h)
  have hname : v.ring = r ∧ v.seq = q := by simpa using List.find?_some h
  split at hw
  · exact ⟨w, hw.symm⟩
  · next hother => exact absurd (hw ▸ hname) hother

/-! ### MIN_SVN (15 R429 step 5) -/

theorem bytesToNat_lt (bs : List Byte) : bytesToNat bs < 256 ^ bs.length := by
  induction bs with
  | nil => exact Nat.one_pos
  | cons b bs ih =>
    rw [bytesToNat, List.length_cons, Nat.pow_succ]
    have := b.isLt
    omega

theorem codeSvn_lt (r : NvRec) : codeSvn r < 2 ^ 32 :=
  calc codeSvn r < 256 ^ (sliceBytes r.value 4 4).length := bytesToNat_lt _
    _ ≤ 256 ^ 4 := Nat.pow_le_pow_right (by decide) (List.length_take_le _ _)

/-- The SVN of a slot: the highest of its management firmware. -/
def slotSvn (x : Slot) : Nat := (slotFirmware x).foldl (fun n r => max n (codeSvn r)) 0

theorem slotSvn_lt (x : Slot) : slotSvn x < 2 ^ 32 :=
  List.foldlRecOn (motive := fun n : Nat => n < 2 ^ 32) _ _ (by decide) fun _ hn r _ => max_lt hn (codeSvn_lt r)

theorem codeSvn_le_slotSvn {x : Slot} {r : NvRec} (h : r ∈ slotFirmware x) : codeSvn r ≤ slotSvn x := by
  have hgo (l : List NvRec) (n : Nat) : n ≤ l.foldl (fun n r => max n (codeSvn r)) n
      ∧ ∀ r ∈ l, codeSvn r ≤ l.foldl (fun n r => max n (codeSvn r)) n := by
    induction l generalizing n with
    | nil => exact ⟨le_rfl, by simp⟩
    | cons r l ih =>
      obtain ⟨hfirst, hrest⟩ := ih (max n (codeSvn r))
      exact ⟨(le_max_left _ _).trans hfirst, List.forall_mem_cons.mpr ⟨(le_max_right _ _).trans hfirst, hrest⟩⟩
  exact (hgo _ 0).2 r h

/-- MIN_SVN rises to `svn`, with its record. -/
def State.raiseSvn (s : State) (svn : Nat) : State :=
  if s.fld nviMinSvn < svn then (s.setFld nviMinSvn svn).nvNote rtMinSvn (le32 svn) else s

theorem State.raiseSvn_spec (s : State) {svn : Nat} (h : svn < 2 ^ 32) : (s.raiseSvn svn).sameBody s
    ∧ (s.raiseSvn svn).nv.flash0 = s.nv.flash0 ∧ (s.raiseSvn svn).nv.flash1 = s.nv.flash1
    ∧ (s.raiseSvn svn).nv.activation = s.nv.activation ∧ (s.raiseSvn svn).fld nviMinSvn = max (s.fld nviMinSvn) svn := by
  unfold State.raiseSvn
  split
  · next hlow =>
    obtain ⟨hflash0, hflash1, hactivation, -⟩ := State.nvNote_image (s.setFld nviMinSvn svn) rtMinSvn (le32 svn)
    refine ⟨(State.sameBody_nvNote _ _ _).trans (State.sameBody_setFld _ _ _), hflash0, hflash1, hactivation, ?_⟩
    rw [State.fld_nvNote _ _ _ (by decide) (by decide) (by decide), State.fld_setFld _ (by decide), max_eq_right hlow.le]
    exact Nat.mod_eq_of_lt h
  · next hhigh => exact ⟨.refl s, rfl, rfl, rfl, (max_eq_left (not_lt.mp hhigh)).symm⟩

/-! ### The end of the activation (15 R429 step 5) -/

/-- The activation ends, and leaves its slot as `x`. -/
def State.endActivation (s : State) (a : Activation) (x : Slot) : State :=
  { s.setSlot a.slot x with nv := { (s.setSlot a.slot x).nv with activation := none } }

theorem State.endActivation_slot {s : State} (hflash : s.nv.flash0.ok = true ∨ s.nv.flash1.ok = true) (a : Activation) (x : Slot) :
    (s.endActivation a x).slot a.slot = x :=
  (State.slot_setSlot hflash a.slot a.slot x).trans (if_pos Iff.rfl)

/-- The registers show the slot that runs. -/
def State.showSlot (s : State) (slot gen : Nat) : State :=
  (((s.setFlag nviPending false).setFlag nviNoUser false).setFld nviActiveSlot slot).setPair nviGenLo nviGenHi gen

theorem State.showSlot_body (s : State) (slot gen : Nat) : (s.showSlot slot gen).sameBody s ∧ (s.showSlot slot gen).nv = s.nv :=
  ⟨(State.sameBody_setPair _ _ _ _).trans ((State.sameBody_setFld _ _ _).trans
    ((State.sameBody_setFlag _ _ _).trans (State.sameBody_setFlag _ _ _))), rfl⟩

theorem State.showSlot_fields (s : State) {slot : Nat} (hslot : slot < 2) (gen : Nat) : (s.showSlot slot gen).flag nviPending = false
    ∧ (s.showSlot slot gen).fld nviActiveSlot = slot ∧ (s.showSlot slot gen).flag nviNoUser = false
    ∧ (s.showSlot slot gen).fld nviMinSvn = s.fld nviMinSvn := by
  unfold State.showSlot
  refine ⟨?_, ?_, ?_, ?_⟩
  · rw [State.flag_setPair_other _ (by decide) (by decide) _ (by decide) (by decide), State.flag_setFld_other _ (by decide) _ (by decide),
      State.flag_setFlag_other _ (by decide) _ (by decide), State.flag_setFlag _ (by decide) rfl]
  · rw [State.fld_setPair_other _ (by decide) (by decide) _ (by decide) (by decide), State.fld_setFld _ (by decide)]
    exact Nat.mod_eq_of_lt hslot
  · rw [State.flag_setPair_other _ (by decide) (by decide) _ (by decide) (by decide), State.flag_setFld_other _ (by decide) _ (by decide),
      State.flag_setFlag _ (by decide) rfl]
  · rw [State.fld_setPair_other _ (by decide) (by decide) _ (by decide) (by decide), State.fld_setFld_other _ (by decide) _ (by decide),
      State.fld_setFlag_other _ (by decide) _ (by decide), State.fld_setFlag_other _ (by decide) _ (by decide)]

/-- The microcode `due` waits for a window, and each record of `later` is told of as deferred (15 R431). -/
def State.ucodeNoted (s : State) (due later : List NvRec) : State :=
  later.foldl (fun t _ => t.log .microcodeDefer {}) { s with nv := { s.nv with ucodeDue := due } }

theorem State.ucodeNoted_spec (s : State) (due later : List NvRec) : (s.ucodeNoted due later).sameBody s
    ∧ (s.ucodeNoted due later).nv = { s.nv with ucodeDue := due }
    ∧ (∀ g, errCeDrop.apart g → errNvOverflow.apart g → (s.ucodeNoted due later).fld g = s.fld g) :=
  ⟨(State.sameBody_foldl _ (fun t _ => t.sameBody_log _ _) _ _).trans (s.sameBody_nv _),
    List.foldlRecOn (motive := fun t : State => t.nv = { s.nv with ucodeDue := due }) _ _ rfl fun t ht _ _ => (t.log_nv _ _).trans ht,
    fun g hdrop hoverflow => List.foldlRecOn (motive := fun t : State => t.fld g = s.fld g) _ _ rfl fun t ht _ _ =>
      (t.fld_log _ _ hdrop hoverflow).trans ht⟩

/-- The microcode records of a slot. -/
def slotUcode (x : Slot) : List NvRec := x.recs.filter fun r => decide (r.type = 0x21)

/-- A unit runs the COMPAT that its microcode record asks for. -/
def State.compatRuns (s : State) (r : NvRec) : Bool := decide (codeCompat r = s.runCompat (fieldAt r.value 0 1))

section
variable {s : State} {a : Activation}

/-- The slot as it runs for good. -/
def State.activeSlotOf (s : State) (a : Activation) : Slot := { s.slot a.slot with state := 0x3F, epoch := a.epoch }

/-- The part with the slot ACTIVE and MIN_SVN at least its SVN. -/
def State.activated (s : State) (a : Activation) : State :=
  ((s.endActivation a (s.activeSlotOf a)).raiseSvn (slotSvn (s.slot a.slot))).showSlot a.slot (s.slot a.slot).gen

theorem exec_activateFinal {m : Nat} (ha : s.nv.activation = some a) (hm : a.takeover = some m) (hdue : m + 9999 ≤ s.turn.ord) :
    exec .activateFinal s = .next (((s.activated a).ucodeNoted ((slotUcode (s.slot a.slot)).filter (s.activated a).compatRuns)
      ((slotUcode (s.slot a.slot)).filter fun r => !(s.activated a).compatRuns r)).updWork a.ring a.seq
      fun w => { w with admin := .none, result := some stOk }) := by
  change execActivateFinal s = _
  rw [execActivateFinal, ha]
  dsimp only
  rw [hm]
  exact if_neg (not_lt.mpr hdue)

theorem State.activated_spec (hflash : s.nv.flash0.ok = true ∨ s.nv.flash1.ok = true) (hslot : a.slot < 2) :
    (s.activated a).nv.activation = none ∧ (s.activated a).slot a.slot = s.activeSlotOf a ∧ (s.activated a).flag nviPending = false
      ∧ (s.activated a).fld nviActiveSlot = a.slot ∧ (s.activated a).flag nviNoUser = false
      ∧ (s.activated a).fld nviMinSvn = max (s.fld nviMinSvn) (slotSvn (s.slot a.slot))
      ∧ (s.activated a).cores = s.cores ∧ (s.activated a).hbm = s.hbm := by
  obtain ⟨hraised, hflash0, hflash1, hactivation, hsvn⟩ :=
    (s.endActivation a (s.activeSlotOf a)).raiseSvn_spec (slotSvn_lt (s.slot a.slot))
  obtain ⟨hshown, hnv⟩ :=
    ((s.endActivation a (s.activeSlotOf a)).raiseSvn (slotSvn (s.slot a.slot))).showSlot_body a.slot (s.slot a.slot).gen
  obtain ⟨hpending, hactive, huser, hmin⟩ :=
    ((s.endActivation a (s.activeSlotOf a)).raiseSvn (slotSvn (s.slot a.slot))).showSlot_fields hslot (s.slot a.slot).gen
  have hbody := hshown.trans hraised
  refine ⟨(congrArg Nv.activation hnv).trans hactivation, ?_, hpending, hactive, huser, hmin.trans hsvn, hbody.cores, hbody.hbm⟩
  exact (State.slot_congr ((congrArg Nv.flash0 hnv).trans hflash0) ((congrArg Nv.flash1 hnv).trans hflash1) a.slot).trans
    (State.endActivation_slot hflash a _)

end

/-! ### An activation that fails (15 R430) -/

/-- The activation `a` has failed: its slot is REJECTED, its work has its result, and the failure is told of. -/
structure State.rejects (t s : State) (a : Activation) : Prop where
  activation : t.nv.activation = none
  slot : t.slot a.slot = { s.slot a.slot with state := 0x1F }
  pending : t.flag nviPending = false
  told : t.tells s.turn.number .fwRejected 0
  work : ∀ w, t.findWork a.ring a.seq = some w → w.admin = .none ∧ w.result = some stFwRejected
  epoch : t.fld errEpoch = s.fld errEpoch
  cores : t.cores = s.cores
  hbm : t.hbm = s.hbm

/-- What stores and records leave of a failed activation. -/
theorem State.rejects.stores {u t s : State} {a : Activation} (h : t.rejects s a) (hstores : u.storesOnly t)
    (hflash0 : u.nv.flash0 = t.nv.flash0) (hflash1 : u.nv.flash1 = t.nv.flash1) (hactivation : u.nv.activation = t.nv.activation)
    (hpending : u.fld nviPending = t.fld nviPending) (hepoch : u.fld errEpoch = t.fld errEpoch) : u.rejects s a where
  activation := hactivation.trans h.activation
  slot := (State.slot_congr hflash0 hflash1 a.slot).trans h.slot
  pending := by
    rw [State.flag, hpending]
    exact h.pending
  told := hstores.tells (by decide) h.told
  work := fun w hw => h.work w ((State.findWork_congr hstores.body.works _ _).symm.trans hw)
  epoch := hepoch.trans h.epoch
  cores := hstores.body.cores.trans h.cores
  hbm := hstores.body.hbm.trans h.hbm

section
variable (s : State) (a : Activation)

/-- The part once its activation has failed: the takeover no longer waits. -/
def State.slotRejected : State :=
  let t := s.endActivation a { s.slot a.slot with state := 0x1F }
  let u := { t with epochs := t.epochs.filter fun e => decide (e.step ≠ EpochStep.slot) }
  ((u.setFlag nviPending false).log .fwRejected {}).updWork a.ring a.seq fun w => { w with admin := .none, result := some stFwRejected }

theorem State.slotRejected_rejects (hflash : s.nv.flash0.ok = true ∨ s.nv.flash1.ok = true) : (s.slotRejected a).rejects s a := by
  unfold State.slotRejected
  extract_lets _ t u
  have hnv : ((u.setFlag nviPending false).log .fwRejected {}).nv = t.nv := State.log_nv _ _ _
  exact {
    activation := congrArg Nv.activation hnv
    slot := (State.slot_congr (congrArg Nv.flash0 hnv) (congrArg Nv.flash1 hnv) a.slot).trans (State.endActivation_slot hflash a _)
    pending := (State.flag_log _ _ _ (by decide) (by decide)).trans (State.flag_setFlag _ (by decide) rfl false)
    told := State.log_tells (u.setFlag nviPending false) .fwRejected {} (by decide)
    work := fun w hw => by
      obtain ⟨v, rfl⟩ := State.updWork_found hw
      exact ⟨rfl, rfl⟩
    epoch := (State.fld_log _ _ _ (by decide) (by decide)).trans (State.fld_setFlag_other _ (by decide) _ (by decide))
    cores := State.log_cores _ _ _
    hbm := State.log_hbm _ _ _ }

theorem State.slotRejected_rest : (s.slotRejected a).epochs = s.epochs.filter (fun e => decide (e.step ≠ EpochStep.slot))
    ∧ (s.slotRejected a).audit = s.audit ∧ (s.slotRejected a).turn = s.turn :=
  ⟨State.log_epochs _ _ _, State.log_audit _ _ _, State.log_turn _ _ _⟩

/-- The failure after a takeover: its record, the step that puts the old keys back, and the takeover by the old firmware. -/
def State.takenBack (value : List Byte) (es : List (Nat × Nat)) : State :=
  let u := ((s.slotRejected a).nvNote rtActivate value).stageEpoch (.regs es) a.ring a.seq false
  let t := (u.bump errMpTakeovers 1).log .mpTakeover {}
  { t with audit := { t.audit with reasons := t.audit.reasons ++ [3] } }

theorem State.takenBack_rejects (hflash : s.nv.flash0.ok = true ∨ s.nv.flash1.ok = true) (value : List Byte) (es : List (Nat × Nat)) :
    (s.takenBack a value es).rejects s a := by
  obtain ⟨hflash0, hflash1, hactivation, -⟩ := (s.slotRejected a).nvNote_image rtActivate value
  have hnoted : ((s.slotRejected a).nvNote rtActivate value).rejects s a :=
    (s.slotRejected_rejects a hflash).stores ((State.storesOnly_nvPump _).trans (State.storesOnly_nv _ _)) hflash0 hflash1 hactivation
      (State.fld_nvNote _ _ _ (by decide) (by decide) (by decide)) (State.fld_nvNote _ _ _ (by decide) (by decide) (by decide))
  have hstaged : (((s.slotRejected a).nvNote rtActivate value).stageEpoch (.regs es) a.ring a.seq false).rejects s a := { hnoted with }
  unfold State.takenBack
  extract_lets u t
  have hnv : t.nv = ((s.slotRejected a).nvNote rtActivate value).nv := State.log_nv _ _ _
  have htaken : t.rejects s a :=
    hstaged.stores ((State.storesOnly_log _ _ _).trans (State.storesOnly_bump _ _ _)) (congrArg Nv.flash0 hnv) (congrArg Nv.flash1 hnv)
      (congrArg Nv.activation hnv) ((State.fld_log _ _ _ (by decide) (by decide)).trans (State.fld_bump_other _ (by decide) _ (by decide)))
      ((State.fld_log _ _ _ (by decide) (by decide)).trans (State.fld_bump_other _ (by decide) _ (by decide)))
  exact { htaken with }

theorem State.takenBack_rest (value : List Byte) (es : List (Nat × Nat)) : (s.takenBack a value es).tells s.turn.number .mpTakeover 0
    ∧ (s.takenBack a value es).audit.reasons = s.audit.reasons ++ [3] ∧ (s.takenBack a value es).epochs
      = s.epochs.filter (fun e => decide (e.step ≠ EpochStep.slot)) ++ [⟨[], .regs es, a.ring, a.seq, false, false⟩] := by
  obtain ⟨hepochs, haudit, hturn⟩ := s.slotRejected_rest a
  obtain ⟨-, -, -, hnoteAudit⟩ := (s.slotRejected a).nvNote_image rtActivate value
  have hnote := (s.slotRejected a).sameBody_nvNote rtActivate value
  refine ⟨?_, ?_, ?_⟩
  · rw [← congrArg Turn.number (hnote.turn.trans hturn)]
    exact State.log_tells _ .mpTakeover {} (by decide)
  · exact congrArg (fun y : Audit => y.reasons ++ [3]) ((State.log_audit _ _ _).trans (hnoteAudit.trans haudit))
  · exact (State.log_epochs _ _ _).trans (congrArg (· ++ [_]) (hnote.epochs.trans hepochs))

end

section
variable {s : State} {a : Activation}

theorem State.rejectActivation_eq (ha : s.nv.activation = some a) : s.rejectActivation = if a.takeover.isSome then
    ((s.slotRejected a).nvNote rtActivate (activateValue a.slot (s.slot a.slot).gen ((s.slotRejected a).fld errEpoch) true)).stageEpoch
      (.regs ((s.slotRejected a).restoring a.oldKeys)) a.ring a.seq false
    else s.slotRejected a := by
  rw [State.rejectActivation, ha]
  rfl

theorem exec_fwRejected (ha : s.nv.activation = some a) (hnone : a.takeover = none) : exec .fwRejected s = .next (s.slotRejected a) := by
  have hnot : ¬a.takeover.isSome = true := by simp [hnone]
  change execFwRejected s = _
  rw [execFwRejected, ha]
  dsimp only
  rw [if_neg hnot, State.rejectActivation_eq ha, if_neg hnot]

theorem exec_fwRejected_taken (ha : s.nv.activation = some a) (hsome : a.takeover ≠ none) :
    ∃ value es, exec .fwRejected s = .next (s.takenBack a value es) := by
  have htaken : a.takeover.isSome = true := Option.isSome_iff_ne_none.mpr hsome
  refine ⟨activateValue a.slot (s.slot a.slot).gen ((s.slotRejected a).fld errEpoch) true, (s.slotRejected a).restoring a.oldKeys, ?_⟩
  change execFwRejected s = _
  rw [execFwRejected, ha]
  dsimp only
  rw [if_pos htaken, State.rejectActivation_eq ha, if_pos htaken]
  rfl

end

section
variable {s : State} {a : Activation}

theorem exec_activation_none (h : s.nv.activation = none) :
    exec .activateTakeover s = .next s ∧ exec .activateFinal s = .next s ∧ exec .fwRejected s = .next s := by
  change execActivateTakeover s = _ ∧ execActivateFinal s = _ ∧ execFwRejected s = _
  rw [execActivateTakeover, execActivateFinal, execFwRejected, State.rejectActivation, h]
  exact ⟨rfl, rfl, rfl⟩

theorem exec_activateTakeover_waits (ha : s.nv.activation = some a) (h : a.ready = true ∨ s.power.state ≠ .ready) :
    exec .activateTakeover s = .next s := by
  change execActivateTakeover s = _
  rw [execActivateTakeover, ha]
  exact if_pos (by simpa [State.isReady] using h)

theorem exec_activateTakeover (ha : s.nv.activation = some a) (hready : a.ready = false) (hstate : s.power.state = .ready) :
    exec .activateTakeover s
      = .next (({ s with nv := { s.nv with activation := some { a with ready := true } } } : State).stageEpoch .slot a.ring a.seq false) := by
  change execActivateTakeover s = _
  rw [execActivateTakeover, ha]
  exact if_neg (by simp [State.isReady, hready, hstate])

theorem exec_activateFinal_none (ha : s.nv.activation = some a) (hnone : a.takeover = none) : exec .activateFinal s = .next s := by
  change execActivateFinal s = _
  rw [execActivateFinal, ha]
  dsimp only
  rw [hnone]

theorem exec_activateFinal_early {m : Nat} (ha : s.nv.activation = some a) (hm : a.takeover = some m) (hearly : s.turn.ord < m + 9999) :
    exec .activateFinal s = .next s := by
  change execActivateFinal s = _
  rw [execActivateFinal, ha]
  dsimp only
  rw [hm]
  exact if_pos hearly

end

/-- Settles O51: the takeover's step is due alone at the head, so that each key takes the value of its own slot entry; the end and the
failure of an activation leave the states `activated` and `slotRejected`. -/
theorem activations : Obligations.Activations := by
  intro s
  refine ⟨exec_activation_none, fun a ha => ⟨exec_activateTakeover_waits ha, exec_activateTakeover ha,
    fun x hx hstep hneeds hpages => State.applyEpochs_slot_spec hx hstep hneeds hpages ha,
    fun m hm hearly => exec_activateFinal_early ha hm hearly, exec_activateFinal_none ha,
    fun m hm hdue hflash hslot => ⟨_, exec_activateFinal ha hm hdue, ?_⟩, fun hflash => ?_⟩⟩
  · obtain ⟨hactivation, hactive, hpending, hshown, huser, hmin, hcores, hhbm⟩ := State.activated_spec hflash hslot
    obtain ⟨hbody, hnv, hfld⟩ := (s.activated a).ucodeNoted_spec ((slotUcode (s.slot a.slot)).filter (s.activated a).compatRuns)
      ((slotUcode (s.slot a.slot)).filter fun r => !(s.activated a).compatRuns r)
    generalize State.ucodeNoted (s.activated a) _ _ = t at *
    have hflag (g : RegField) (hdrop : errCeDrop.apart g) (hoverflow : errNvOverflow.apart g) : t.flag g = (s.activated a).flag g := by
      rw [State.flag, hfld g hdrop hoverflow, State.flag]
    have hsvn : t.fld nviMinSvn = max (s.fld nviMinSvn) (slotSvn (s.slot a.slot)) := (hfld _ (by decide) (by decide)).trans hmin
    exact ⟨(congrArg Nv.activation hnv).trans hactivation,
      (State.slot_congr (by rw [State.updWork_nv, hnv]) (by rw [State.updWork_nv, hnv]) a.slot).trans hactive,
      (hflag _ (by decide) (by decide)).trans hpending, (hfld _ (by decide) (by decide)).trans hshown,
      (hflag _ (by decide) (by decide)).trans huser, (le_max_left _ _).trans_eq hsvn.symm,
      fun r hr => (codeSvn_le_slotSvn hr).trans ((le_max_right _ _).trans_eq hsvn.symm),
      fun w hw => by
        obtain ⟨v, rfl⟩ := State.updWork_found hw
        exact ⟨rfl, rfl⟩,
      hbody.cores.trans hcores, hbody.hbm.trans hhbm⟩
  · by_cases htakeover : a.takeover = none
    · obtain ⟨hepochs, haudit, -⟩ := s.slotRejected_rest a
      have h := s.slotRejected_rejects a hflash
      exact ⟨_, exec_fwRejected ha htakeover, h.activation, h.slot, h.pending, h.told, h.work, h.epoch, h.cores, h.hbm,
        fun _ => ⟨hepochs, congrArg Audit.reasons haudit⟩, fun hsome => absurd htakeover hsome⟩
    · obtain ⟨value, es, hexec⟩ := exec_fwRejected_taken ha htakeover
      obtain ⟨htold, hreasons, hepochs⟩ := s.takenBack_rest a value es
      have h := s.takenBack_rejects a hflash value es
      exact ⟨_, hexec, h.activation, h.slot, h.pending, h.told, h.work, h.epoch, h.cores, h.hbm,
        fun hnone => absurd hnone htakeover, fun _ => ⟨htold, hreasons, es, hepochs⟩⟩

end Sys2Proof.Machine
end

section
/-! SUPPORT. One step of the block, and the part before VIN has risen (15 R408, R420). -/

namespace Sys2Proof.Machine

/-- Settles O55: `step` is by definition a split on the queue. -/
theorem stepRunsTheFront : Obligations.StepRunsTheFront := fun s =>
  ⟨fun _ _ => rfl, fun h => by rw [step, h]⟩

/-! ### The part before VIN -/

/-- Before VIN every keyed field stands at its Default column: the registers are `defaultRegs`, and each key's bits lie within its own register. -/
theorem State.reset_keyed : ∀ f ∈ keyedFields, State.reset.fld f = f.dflt := by decide +kernel

/-- Settles O59: all but the keyed fields is as the literal of `State.reset` has it. -/
theorem resetState : Obligations.ResetState :=
  ⟨rfl, rfl, rfl, rfl, rfl, rfl, rfl, fun _ => ⟨rfl, rfl⟩, rfl, State.reset_keyed⟩

end Sys2Proof.Machine
end

section
/-! SUPPORT. What leaves host memory alone: one lemma per operation over the state, in the order of the model's files. -/

namespace Sys2Proof.Machine

@[simp] theorem State.foldl_host {β : Type} {f : State → β → State} (h : ∀ t b, (f t b).host = t.host) :
    ∀ (l : List β) (s : State), (l.foldl f s).host = s.host
  | [], _ => rfl
  | b :: l, s => (State.foldl_host h l (f s b)).trans (h s b)

@[simp] theorem State.ite_host (p : Prop) [Decidable p] (a b : State) : (if p then a else b).host = if p then a.host else b.host :=
  apply_ite State.host p a b

@[simp] theorem State.foldl_fst_host {β γ : Type} {f : State × γ → β → State × γ} (h : ∀ a b, (f a b).1.host = a.1.host) :
    ∀ (l : List β) (a : State × γ), (l.foldl f a).1.host = a.1.host
  | [], _ => rfl
  | b :: l, a => (State.foldl_fst_host h l (f a b)).trans (h a b)


/-! ### Sys2Proof/Machine/Ops.lean -/

@[simp] theorem State.updateService_host (s : State) : s.updateService.host = s.host := by simp [State.updateService]
@[simp] theorem State.pinEvent_host (s : State) (pin event tick : Nat) : (s.pinEvent pin event tick).host = s.host := by
  simp [State.pinEvent]
@[simp] theorem State.disarm_host (s : State) (w : Work) (cores : List Nat) : (s.disarm w cores).host = s.host :=
  State.foldl_host (fun _ _ => by rfl) _ _
@[simp] theorem State.sliceTouch_host (s : State) (i key n : Nat) (writes : Bool) : (s.sliceTouch i key n writes).host = s.host := by
  simp [State.sliceTouch]
@[simp] theorem State.nondet_host (s : State) (i : Nat) (p : Placed) : (s.nondet i p).host = s.host := by simp [State.nondet]
@[simp] theorem State.ndPlaced_host (s : State) (i k : Nat) : (s.ndPlaced i k).host = s.host := by
  unfold State.ndPlaced; (repeat' split) <;> simp
@[simp] theorem State.ndCarried_host (s : State) (i k : Nat) : (s.ndCarried i k).host = s.host := by
  unfold State.ndCarried; (repeat' split) <;> simp
@[simp] theorem State.abortSlice_host (s : State) (i cause : Nat) (status : Option Nat) :
    (s.abortSlice i cause status).host = s.host :=
  by
  unfold State.abortSlice
  split
  · rfl
  · split
    · simp only [State.event_host, State.updWork_host, State.updPlaced_host]
      exact State.foldl_host (fun _ _ => by rfl) _ _
    · rfl
@[simp] theorem State.coreFatal_host (s : State) (c : Nat) (cause : Cause) (r : ErrRec) (status : Option Nat) :
    (s.coreFatal c cause r status).host = s.host :=
  by unfold State.coreFatal; (repeat' split) <;> simp
@[simp] theorem State.wordFault_host (s : State) (c : Nat) (f : WordFault) :
    (s.wordFault c f).host = s.host := by simp [State.wordFault]

/-! ### Sys2Proof/Machine/LinkOps.lean -/

@[simp] theorem State.setPort_host (s : State) (p : Nat) (x : Port) : (s.setPort p x).host = s.host := by simp [State.setPort]
@[simp] theorem State.sendOn_host (s : State) (p : Nat) (f : Flit) : (s.sendOn p f).host = s.host := by simp [State.sendOn]
@[simp] theorem State.sendRoute_host (s : State) (f : Flit) : (s.sendRoute f).host = s.host := by
  unfold State.sendRoute; (repeat' split) <;> simp
@[simp] theorem State.sendWaiting_host (s : State) : s.sendWaiting.host = s.host := by simp [State.sendWaiting]
@[simp] theorem State.setPairOut_host (s : State) (d : Nat) (x : PairOut) :
    (s.setPairOut d x).host = s.host := by simp [State.setPairOut]
@[simp] theorem State.setPairIn_host (s : State) (d : Nat) (x : PairIn) : (s.setPairIn d x).host = s.host := by simp [State.setPairIn]
@[simp] theorem State.sendPair_host (s : State) (dst ftype fflags : Nat) (payload : List Byte) :
    (s.sendPair dst ftype fflags payload).host = s.host :=
  by simp [State.sendPair]
@[simp] theorem State.sendSync_host (s : State) (master turn ticks : Nat) : (s.sendSync master turn ticks).host = s.host :=
  by
  unfold State.sendSync
  exact (State.foldl_host (fun t _ => by split <;> simp) _ _).trans (by simp)
@[simp] theorem sendPieces_host (dst : Nat) :
    ∀ (first : Bool) (l : List (List Byte)) (s : State), (sendPieces dst first l s).host = s.host
  | _, [], _ => rfl
  | _, [_], s => s.sendPair_host _ _ _ _
  | _, _ :: y :: rest, _ => (sendPieces_host dst false (y :: rest) _).trans (State.sendPair_host _ _ _ _ _)
@[simp] theorem State.handOver_host (s : State) (i : Nat) (o : OutWord) : (s.handOver i o).host = s.host := by
  unfold State.handOver; (repeat' split) <;> simp

/-! ### Sys2Proof/Machine/StreamOps.lean -/

@[simp] theorem State.writeExt_host (s : State) (c key : Nat) (bs : List Byte) : (s.writeExt c key bs).host = s.host := by
  unfold State.writeExt; (repeat' split) <;> simp
@[simp] theorem State.touchExt_host (s : State) (c key n : Nat) : (s.touchExt c key n).host = s.host := by
  unfold State.touchExt; (repeat' split) <;> simp
@[simp] theorem State.touchSource_host (s : State) (c : Nat) (addrs : List Nat) : (s.touchSource c addrs).host = s.host :=
  by
  unfold State.touchSource
  exact (State.foldl_host (fun t _ => by split <;> simp) _ _).trans (by simp)

/-! ### Sys2Proof/Machine/RemoteOps.lean -/

@[simp] theorem State.crossChip_host (s : State) (c : Nat) (o : OutWord) : (s.crossChip c o).host = s.host := by
  unfold State.crossChip; (repeat' split) <;> simp
@[simp] theorem State.addCounter_host (s : State) (c k inc : Nat) : (s.addCounter c k inc).host = s.host := by simp [State.addCounter]
@[simp] theorem State.applyLanding_host (s : State) (l : Landing) : (s.applyLanding l).host = s.host := by
  unfold State.applyLanding; (repeat' split) <;> simp
@[simp] theorem State.landOne_host (s : State) (c : Nat) : (s.landOne c).host = s.host := by
  unfold State.landOne; (repeat' split) <;> simp

/-! ### Sys2Proof/Machine/Sequencer.lean -/

@[simp] theorem State.runSeq_host (s : State) (c t : Nat) (w : OpWord) : (s.runSeq c t w).host = s.host := by
  unfold State.runSeq; (repeat' split) <;> simp
/-- What a word that begins leaves of host memory; one that waits or faults has not touched the state. -/
def Start.keepsHost (h : Mem) : Start → Prop
  | .go b => b.s.host = h
  | _ => True

@[simp] theorem Start.keepsHost_go (h : Mem) (b : Begun) : (Start.go b).keepsHost h ↔ b.s.host = h := Iff.rfl

@[simp] theorem Start.keepsHost_wait (h : Mem) (q : Option Nat) : (Start.wait q).keepsHost h := trivial

@[simp] theorem Start.keepsHost_fault (h : Mem) (f : WordFault) : (Start.fault f).keepsHost h := trivial

theorem State.beginTree_host (s : State) (c : Nat) (w : TreeWord) : (s.beginTree c w).keepsHost s.host := by
  fun_cases State.beginTree <;> simp +zetaDelta
  all_goals (repeat' split) <;> simp

theorem State.beginPut_host (s : State) (c : Nat) (d : Dispatched) (w : RemoteWord) : (s.beginPut c d w).keepsHost s.host := by
  fun_cases State.beginPut <;> simp +zetaDelta

theorem State.beginGet_host (s : State) (c : Nat) (d : Dispatched) (w : RemoteWord) : (s.beginGet c d w).keepsHost s.host := by
  fun_cases State.beginGet <;> simp +zetaDelta
  case case6 hgo => cases hgo; rfl

theorem State.beginQadd_host (s : State) (c : Nat) (d : Dispatched) (w : RemoteWord) : (s.beginQadd c d w).keepsHost s.host := by
  fun_cases State.beginQadd <;> simp +zetaDelta

theorem State.beginSignal_host (s : State) (c : Nat) (w : SignalWord) : (s.beginSignal c w).keepsHost s.host := by
  fun_cases State.beginSignal <;> simp +zetaDelta

theorem State.beginWait_host (s : State) (c : Nat) (w : WaitWord) : (s.beginWait c w).keepsHost s.host := by
  fun_cases State.beginWait <;> simp +zetaDelta

theorem State.beginFence_host (s : State) (c : Nat) : (s.beginFence c).keepsHost s.host := by
  fun_cases State.beginFence <;> simp

theorem State.beginStream_host (s : State) (c : Nat) (d : Dispatched) : (s.beginStream c d).keepsHost s.host := by
  fun_cases State.beginStream <;> simp +zetaDelta

theorem State.startWord_host {s : State} {c : Nat} {u : UnitId} {d : Dispatched} {b : Begun} (h : s.startWord c u d = .go b) :
    b.s.host = s.host := by
  unfold State.startWord at h
  dsimp only at h
  split at h
  · cases h
  · split at h
    case h_1 b0 hb0 =>
      cases h
      rw [State.updCore_host]
      have hk : (Start.go b0).keepsHost (s.setCore c (s.core c).ahead).host := by
        rw [← hb0]
        split
        · exact State.beginTree_host _ _ _
        · exact State.beginPut_host _ _ _ _
        · exact State.beginGet_host _ _ _ _
        · exact State.beginQadd_host _ _ _ _
        · exact State.beginSignal_host _ _ _
        · exact State.beginWait_host _ _ _
        · exact State.beginFence_host _ _
        iterate 4 exact State.beginStream_host _ _ _
        · (repeat' split) <;> simp
      exact hk
    case h_2 hno => exact absurd h (hno b)

theorem State.tryBegin_host {s t : State} {c now : Nat} {u : UnitId} (h : s.tryBegin c u now = some t) : t.host = s.host := by
  unfold State.tryBegin at h
  dsimp only at h
  (repeat' split at h) <;> cases h
  all_goals simp only [State.setCore_host, State.updCore_host, State.wordFault_host]
  all_goals exact State.startWord_host ‹_›

theorem State.unitTurn_host (c now : Nat) (r : State × Bool) (u : UnitId) : (State.unitTurn c now r u).1.host = r.1.host := by
  unfold State.unitTurn
  split
  case h_1 s' hbegin => exact State.tryBegin_host hbegin
  case h_2 => rfl

theorem State.dispatch_host {s t : State} {c : Nat} {w : OpWord} (h : s.dispatch c w = some t) : t.host = s.host := by
  unfold State.dispatch at h
  split at h
  · cases h; rfl
  · dsimp only at h
    split at h
    · cases h
    · cases h; simp

theorem State.tryEnd_host {s t : State} {c : Nat} (h : s.tryEnd c = some t) : t.host = s.host := by
  have keeps : ∀ u, s.tryEnd c = some u → u.host = s.host := by
    fun_cases State.tryEnd <;> simp +zetaDelta
  exact keeps t h

@[simp] theorem State.pumpRound_host (s : State) (c now : Nat) : (s.pumpRound c now).1.host = s.host := by
  have hturns : ((List.range 22).foldl (State.unitTurn c now) (s, false)).1.host = s.host :=
    State.foldl_fst_host (State.unitTurn_host c now) _ _
  unfold State.pumpRound
  generalize (List.range 22).foldl (State.unitTurn c now) (s, false) = r at hturns
  dsimp only
  split
  case h_1 s' hend =>
    refine (State.tryEnd_host hend).trans ?_
    split
    · exact hturns
    · split
      case h_1 hd => exact (State.updCore_host _ _ _).trans ((State.dispatch_host hd).trans hturns)
      case h_2 => exact hturns
  case h_2 =>
    split
    · exact hturns
    · split
      case h_1 hd => exact (State.updCore_host _ _ _).trans ((State.dispatch_host hd).trans hturns)
      case h_2 => exact hturns
@[simp] theorem State.pumpFuel_host : ∀ (n : Nat) (s : State) (c now : Nat), (State.pumpFuel n s c now).host = s.host
  | 0, _, _, _ => rfl
  | n + 1, s, c, now => by
    unfold State.pumpFuel
    dsimp only
    split
    · exact (State.pumpFuel_host n _ c now).trans (s.pumpRound_host c now)
    · exact s.pumpRound_host c now
@[simp] theorem State.pump_host (s : State) (c now : Nat) : (s.pump c now).host = s.host := by simp [State.pump]
@[simp] theorem State.issue_host (s : State) (c : Nat) (w : OpWord) : (s.issue c w).host = s.host := by simp [State.issue]

/-! ### Sys2Proof/Machine/ArrayWords.lean -/

@[simp] theorem State.residueCheck_host (s : State) (c : Nat) (residue : Option (Fin 256)) :
    (s.residueCheck c residue).host = s.host :=
  by unfold State.residueCheck; (repeat' split) <;> simp

/-! ### Sys2Proof/Machine/CoreEvents.lean -/

@[simp] theorem State.startPlaced_host (s : State) (i : Nat) : (s.startPlaced i).host = s.host :=
  by
  unfold State.startPlaced
  dsimp only
  (repeat' split) <;> simp <;> exact State.foldl_host (fun _ _ => by rfl) _ _
@[simp] theorem State.deliver_host (s : State) (c : Nat) (u : UnitId) : (s.deliver c u).host = s.host := by simp [State.deliver]
@[simp] theorem State.endWait_host (s : State) (c t : Nat) : (s.endWait c t).host = s.host :=
  by
  unfold State.endWait
  dsimp only
  (repeat' split) <;> simp
theorem State.streamWrite_host {s t : State} {c e : Nat} {p : Pass} {ga : Nat} {b : Byte} (h : s.streamWrite c e p ga b = some t) :
    t.host = s.host := by
  unfold State.streamWrite at h
  split at h <;> cases h
  all_goals simp

theorem State.streamWrites_host {c e : Nat} {p : Pass} :
    ∀ {l : List (Nat × Byte)} {s t : State}, s.streamWrites c e p l = some t → t.host = s.host
  | [], _, _, h => by cases h; rfl
  | (a, b) :: rest, s, t, h => by
    unfold State.streamWrites at h
    split at h
    case h_1 s' hone => exact (State.streamWrites_host h).trans (State.streamWrite_host hone)
    case h_2 => cases h

theorem State.retireRequest_host {s t : State} {c e : Nat} {p : Pass} {o : Bool} (h : s.retireRequest c e p = .moved t o) :
    t.host = s.host := by
  unfold State.retireRequest at h
  dsimp only at h
  (repeat' split at h) <;> cases h
  all_goals
    rw [State.updCore_host]
    exact (State.streamWrites_host (by assumption)).trans (State.touchSource_host _ _ _)

@[simp] theorem State.streamRetire_host (s : State) (c e t : Nat) : (s.streamRetire c e t).host = s.host := by
  unfold State.streamRetire
  dsimp only
  split
  · rfl
  · split
    · rfl
    · simp
    case h_3 h => simp [State.retireRequest_host h]
@[simp] theorem State.noteRow_host (s : State) (kind c row : Nat) : (s.noteRow kind c row).host = s.host := by simp [State.noteRow]
@[simp] theorem State.chainMemLost_host (s : State) (c a : Nat) : (s.chainMemLost c a).host = s.host := by
  unfold State.chainMemLost; (repeat' split) <;> simp

/-! ### Sys2Proof/Machine/HbmOps.lean -/

@[simp] theorem State.abortWork_host (s : State) (w : Work) (cause : Nat) : (s.abortWork w cause).host = s.host :=
  by
  unfold State.abortWork
  exact (State.foldl_host (fun t _ => by (repeat' split) <;> simp) _ _).trans (by simp)
@[simp] theorem State.offcutLost_host (s : State) (w : Work) (segs : List Nat) : (s.offcutLost w segs).host = s.host := by
  unfold State.offcutLost; (repeat' split) <;> simp
@[simp] theorem State.overflowLost_host (s : State) (w : Work) : (s.overflowLost w).host = s.host := by
  unfold State.overflowLost; (repeat' split) <;> simp
@[simp] theorem State.poolLost_host (s : State) : s.poolLost.host = s.host := by simp [State.poolLost]
@[simp] theorem State.stageLost_host (s : State) (hit : StageCopy → Bool) :
    (s.stageLost hit).host = s.host := by simp [State.stageLost]
@[simp] theorem State.hostStageLost_host (s : State) (w : Work) : (s.hostStageLost w).host = s.host := by
  unfold State.hostStageLost; (repeat' split) <;> simp
@[simp] theorem State.declareLost_host (s : State) (k : Nat) : (s.declareLost k).host = s.host := by simp [State.declareLost]
@[simp] theorem State.applyDegraded_host (s : State) : s.applyDegraded.host = s.host := by
  unfold State.applyDegraded; (repeat' split) <;> simp

/-! ### Sys2Proof/Machine/NvStore.lean -/

@[simp] theorem State.compact_host (s : State) : s.compact.host = s.host := (State.sameBody_compact _).host
@[simp] theorem State.showBank_host (s : State) : s.showBank.host = s.host := (State.sameBody_showBank _).host
@[simp] theorem State.appendLog_host (s : State) (type : Nat) (value : List Byte) : (s.appendLog type value).host = s.host :=
  (State.sameBody_appendLog _ _ _).host
@[simp] theorem State.nvPump_host (s : State) : s.nvPump.host = s.host := (State.sameBody_nvPump _).host
@[simp] theorem State.nvStore_host (s : State) (type : Nat) (value : List Byte) : (s.nvStore type value).1.host = s.host := by
  simp [State.nvStore]
@[simp] theorem State.nvNote_host (s : State) (type : Nat) (value : List Byte) : (s.nvNote type value).host = s.host := by
  simp [State.nvNote]
@[simp] theorem State.chunkDone_host (s : State) : s.chunkDone.host = s.host := by unfold State.chunkDone; (repeat' split) <;> simp
@[simp] theorem State.nvRetry_host (s : State) : s.nvRetry.host = s.host := by simp [State.nvRetry]
@[simp] theorem State.stageEpoch_host (s : State) (step : EpochStep) (ring seq : Nat) (list : Bool) (needs : List Nat) :
    (s.stageEpoch step ring seq list needs).host = s.host :=
  by simp [State.stageEpoch]
@[simp] theorem State.repair_host (s : State) (kind inst sub dst : Nat) : (s.repair kind inst sub dst).host = s.host := by
  simp [State.repair]
@[simp] theorem State.measureBank_host (s : State) (dropMv stepMv volt : Nat) : (s.measureBank dropMv stepMv volt).host = s.host :=
  (State.sameBody_measureBank _ _ _ _).host

/-! ### Sys2Proof/Machine/KeyOps.lean -/

@[simp] theorem State.setSlot_host (s : State) (i : Nat) (x : Slot) : (s.setSlot i x).host = s.host := by simp [State.setSlot]
@[simp] theorem State.loadKeys_host (s : State) : s.loadKeys.host = s.host := (State.sameBody_loadKeys s).host

/-! ### Sys2Proof/Machine/BootOps.lean -/

@[simp] theorem State.mirrorFlash_host (s : State) : s.mirrorFlash.host = s.host := (State.sameHost_mirrorFlash s).host
@[simp] theorem State.loadSecurity_host (s : State) (b : BringUpIn) : (s.loadSecurity b).host = s.host :=
  (State.sameHost_loadSecurity s b).host
@[simp] theorem State.loadWitness_host (s : State) : s.loadWitness.host = s.host := (State.sameHost_loadWitness s).host
@[simp] theorem State.loadRepairs_host (s : State) : s.loadRepairs.host = s.host := (State.sameHost_loadRepairs s).host
@[simp] theorem State.loadBadSectors_host (s : State) : s.loadBadSectors.host = s.host := by simp [State.loadBadSectors]
@[simp] theorem State.lockClocks_host (s : State) : s.lockClocks.host = s.host := by simp [State.lockClocks]
@[simp] theorem State.bootImage_host (s : State) (b : BringUpIn) : (s.bootImage b).host = s.host := (State.sameHost_bootImage s b).host
@[simp] theorem State.trainLinks_host (s : State) (up : List Nat) : (s.trainLinks up).host = s.host := by simp [State.trainLinks]
@[simp] theorem State.selfTest_host (s : State) (b : BringUpIn) : (s.selfTest b).host = s.host := by simp [State.selfTest]
@[simp] theorem State.trainHbm_host (s : State) (b : BringUpIn) : (s.trainHbm b).host = s.host :=
  by
  fun_cases State.trainHbm <;> simp +zetaDelta
@[simp] theorem State.train_host (s : State) (b : BringUpIn) : (s.train b).host = s.host := by simp [State.train]
@[simp] theorem State.latchLayout_host (s : State) : s.latchLayout.host = s.host := by simp [State.latchLayout]
@[simp] theorem State.becomeReady_host (s : State) : s.becomeReady.host = s.host :=
  by
  unfold State.becomeReady
  dsimp only
  split
  · (repeat' split) <;> simp only [State.log_host, State.setFld_host, State.setFlag_host]
  · simp only [State.setPair_host, State.setFld_host, State.setFlag_host, State.ite_host, State.latchLayout_host,
      State.bump_host, State.appendLog_host, ite_self]
@[simp] theorem State.restartAll_host (s : State) : s.restartAll.host = s.host := by simp [State.restartAll]
@[simp] theorem State.noticeAll_host (s : State) : s.noticeAll.host = s.host := by simp [State.noticeAll]
@[simp] theorem State.clearEnables_host (s : State) : s.clearEnables.host = s.host := State.foldl_host (fun _ _ => by rfl) _ _
@[simp] theorem State.warmReset_host (s : State) : s.warmReset.host = s.host := by simp [State.warmReset]
@[simp] theorem State.hostReset_host (s : State) : s.hostReset.host = s.host := by simp [State.hostReset]
@[simp] theorem State.setLink_host (s : State) (width gen : Nat) : (s.setLink width gen).host = s.host := by simp [State.setLink]
@[simp] theorem State.coldReset_host (s : State) (b : BringUpIn) : (s.coldReset b).host = s.host :=
  by
  unfold State.coldReset
  dsimp only
  split <;> simp [State.coldHold_host s b]
@[simp] theorem State.fatalTakeover_host (s : State) : s.fatalTakeover.host = s.host := by simp [State.fatalTakeover]
@[simp] theorem State.deviceFatal_host (s : State) (cause : Cause) (r : ErrRec) : (s.deviceFatal cause r).host = s.host := by
  simp [State.deviceFatal]
@[simp] theorem State.journalLost_host (s : State) (r : ErrRec) : (s.journalLost r).host = s.host := by simp [State.journalLost]
@[simp] theorem State.storeHead_host (s : State) : s.storeHead.host = s.host := by unfold State.storeHead; (repeat' split) <;> simp
@[simp] theorem State.dropRails_host (s : State) : s.dropRails.host = s.host := by simp [State.dropRails]
@[simp] theorem State.loseVin_host (s : State) : s.loseVin.host = s.host :=
  by
  obtain ⟨m, hm⟩ := s.loseVin_only
  rw [hm]
  exact State.storeHead_host s

/-! ### Sys2Proof/Machine/HbmEvents.lean -/

@[simp] theorem State.secondLost_host (s : State) (k : Nat) : (s.secondLost k).host = s.host := by simp [State.secondLost]
@[simp] theorem State.loseStack_host (s : State) (k : Nat) : (s.loseStack k).host = s.host := by simp [State.loseStack]
@[simp] theorem State.takeOver_host (s : State) (k lch : Nat) : (s.takeOver k lch).host = s.host := by simp [State.takeOver]
@[simp] theorem State.spareChannel_host (s : State) (k lch : Nat) (readable : Bool) : (s.spareChannel k lch readable).host = s.host :=
  by simp [State.spareChannel]
@[simp] theorem State.hbmCorrected_host (s : State) (stack pch sector : Nat) : (s.hbmCorrected stack pch sector).host = s.host := by
  simp [State.hbmCorrected]
@[simp] theorem State.noteUe_host (s : State) (stack lch sector : Nat) : (s.noteUe stack lch sector).host = s.host := by
  simp [State.noteUe]
@[simp] theorem State.listSector_host (s : State) (stack soff : Nat) : (s.listSector stack soff).host = s.host := by
  simp [State.listSector]
@[simp] theorem State.sectorLost_host (s : State) (stack soff : Nat) : (s.sectorLost stack soff).host = s.host := by
  unfold State.sectorLost; (repeat' split) <;> simp
@[simp] theorem State.sectorScrubbed_host (s : State) (stack soff : Nat) : (s.sectorScrubbed stack soff).host = s.host := by
  unfold State.sectorScrubbed; (repeat' split) <;> simp
@[simp] theorem State.sectorUe_host (s : State) (stack soff : Nat) (scrub : Bool) : (s.sectorUe stack soff scrub).host = s.host :=
  by unfold State.sectorUe; (repeat' split) <;> simp
@[simp] theorem State.restage_host (s : State) (w : Work) (mirrored : Bool) : (s.restage w mirrored).host = s.host := by
  simp [State.restage]
@[simp] theorem State.endLost_host (s : State) (w : Work) : (s.endLost w).host = s.host := by simp [State.endLost]
@[simp] theorem State.readLost_host (s : State) (i stack soff : Nat) : (s.readLost i stack soff).host = s.host := by
  unfold State.readLost; (repeat' split) <;> simp

/-! ### Sys2Proof/Machine/FaultEvents.lean -/

@[simp] theorem State.ndSpare_host (s : State) (w : Work) (n : Nat) : (s.ndSpare w n).host = s.host := by simp [State.ndSpare]
@[simp] theorem State.restartChain_host (s : State) (w : Work) : (s.restartChain w).host = s.host := by simp [State.restartChain]
@[simp] theorem State.pinLost_host (s : State) (c : Nat) (w : Work) : (s.pinLost c w).host = s.host := by
  unfold State.pinLost; (repeat' split) <;> simp
@[simp] theorem State.rejectActivation_host (s : State) : s.rejectActivation.host = s.host := by
  unfold State.rejectActivation; (repeat' split) <;> simp

/-! ### Sys2Proof/Machine/RingOps.lean -/

@[simp] theorem State.setRing_host (s : State) (r : Nat) (x : Ring) : (s.setRing r x).host = s.host := by simp [State.setRing]
@[simp] theorem State.dropRing_host (s : State) (r : Nat) : (s.dropRing r).host = s.host := by simp [State.dropRing]
@[simp] theorem State.updRing_host (s : State) (r : Nat) (f : Ring → Ring) : (s.updRing r f).host = s.host := by
  unfold State.updRing; (repeat' split) <;> simp
@[simp] theorem State.ringFault_host (s : State) (r : Nat) (why : RingFault) (expected found : Nat) :
    (s.ringFault r why expected found).host = s.host :=
  by unfold State.ringFault; (repeat' split) <;> simp

/-! ### Sys2Proof/Machine/SessionOps.lean -/

@[simp] theorem State.endSession_host (s : State) (g : Nat) : (s.endSession g).host = s.host := by simp [State.endSession]
@[simp] theorem State.endSessions_host (s : State) (p : Nat → Session → Bool) : (s.endSessions p).host = s.host := by
  simp [State.endSessions]
@[simp] theorem State.putKeyed_host (s : State) (off v : Nat) : (s.putKeyed off v).host = s.host := by simp [State.putKeyed]
@[simp] theorem State.applySlot_host (s : State) (a : Activation) : (s.applySlot a).host = s.host := by simp [State.applySlot]
@[simp] theorem State.applyStep_host (s : State) (step : EpochStep) : (s.applyStep step).host = s.host := by
  unfold State.applyStep; (repeat' split) <;> simp
@[simp] theorem State.applyEpoch_host (s : State) (x : EpochItem) : (s.applyEpoch x).host = s.host := by simp [State.applyEpoch]
@[simp] theorem State.holdEpoch_host (s : State) (x : EpochItem) (rest : List EpochItem) : (s.holdEpoch x rest).host = s.host := by
  simp [State.holdEpoch]
@[simp] theorem State.applyEpochsGo_host :
    ∀ (l : List EpochItem) (listDone : Bool) (s : State), (State.applyEpochsGo l listDone s).host = s.host
  | [], _, _ => rfl
  | x :: rest, listDone, s => by
    unfold State.applyEpochsGo
    split
    · exact State.applyEpochsGo_host rest listDone _
    · split
      · simp
      · exact (State.applyEpochsGo_host rest _ _).trans (s.applyEpoch_host x)
@[simp] theorem State.applyEpochs_host (s : State) : s.applyEpochs.host = s.host := State.applyEpochsGo_host _ _ _
@[simp] theorem State.newChallenge_host (s : State) : s.newChallenge.2.host = s.host := by simp [State.newChallenge]
@[simp] theorem State.authFailed_host (s : State) (kslot : Nat) : (s.authFailed kslot).host = s.host := by simp [State.authFailed]
@[simp] theorem State.authPassed_host (s : State) (kslot : Nat) : (s.authPassed kslot).host = s.host := by simp [State.authPassed]
@[simp] theorem State.openSession_host (s : State) (ring seq fn g : Nat) (resp : List Byte) :
    (s.openSession ring seq fn g resp).2.host = s.host :=
  by fun_cases State.openSession <;> simp +zetaDelta
@[simp] theorem State.applyKey_host (s : State) (kslot : Nat) : (s.applyKey kslot).host = s.host := by
  unfold State.applyKey; (repeat' split) <;> simp
@[simp] theorem State.takeOwnership_host (s : State) (ring seq : Nat) (b : List Byte) : (s.takeOwnership ring seq b).2.host = s.host :=
  by unfold State.takeOwnership; (repeat' split) <;> simp

/-! ### Sys2Proof/Machine/SlotOps.lean -/

@[simp] theorem State.setSlotOk_host (s : State) (i : Nat) (sig valid : Bool) : (s.setSlotOk i sig valid).host = s.host := by
  simp [State.setSlotOk]
@[simp] theorem State.writeSlot_host (s : State) (a n : Nat) : (s.writeSlot a n).2.host = s.host := by
  fun_cases State.writeSlot <;> simp +zetaDelta
@[simp] theorem State.startActivation_host (s : State) (slot ring seq : Nat) : (s.startActivation slot ring seq).2.host = s.host := by
  fun_cases State.startActivation <;> simp +zetaDelta

/-! ### Sys2Proof/Machine/AdminOps.lean -/

@[simp] theorem State.storeRings_host (s : State) (fn : Nat) (rs : List Nat) (on : Bool) : (s.storeRings fn rs on).1.host = s.host :=
  State.foldl_fst_host (fun t _ => by exact t.1.nvStore_host _ _) _ _
@[simp] theorem State.stopRange_host (s : State) (first count : Nat) : (s.stopRange first count).host = s.host := by
  simp [State.stopRange]
@[simp] theorem State.stopDisabled_host (s : State) : s.stopDisabled.host = s.host :=
  by
  unfold State.stopDisabled
  exact (State.foldl_host (fun t _ => by split <;> simp) _ _).trans (by simp)
@[simp] theorem State.stageList_host (s : State) (w : Work) (b : List Byte) :
    (s.stageList w b).host = s.host := by simp [State.stageList]
@[simp] theorem State.setResult_host (s : State) (w : Work) (st : Nat) : (s.setResult w st).host = s.host := by simp [State.setResult]
@[simp] theorem State.setHostOut_host (s : State) (w : Work) (a : Nat) (bs : List Byte) : (s.setHostOut w a bs).host = s.host := by
  simp [State.setHostOut]
@[simp] theorem State.adminRingDisable_host (s : State) (w : Work) : (s.adminRingDisable w).host = s.host := by
  simp [State.adminRingDisable]
@[simp] theorem State.adminRingResume_host (s : State) (w : Work) : (s.adminRingResume w).host = s.host := by
  unfold State.adminRingResume; (repeat' split) <;> simp
theorem State.planLoad_host (s : State) (w : Work) : (s.planLoad w).2.1.host = s.host := by
  fun_cases State.planLoad <;> simp +zetaDelta

@[simp] theorem State.planLoadNow_host (s : State) (w : Work) : (s.planLoadNow w).host = s.host := by
  fun_cases State.planLoadNow <;> simp +zetaDelta [State.planLoad_host]
@[simp] theorem State.adminPlanLoad_host (s : State) (w : Work) : (s.adminPlanLoad w).host = s.host := by simp [State.adminPlanLoad]
@[simp] theorem State.adminPlanUnload_host (s : State) (w : Work) : (s.adminPlanUnload w).host = s.host := by
  unfold State.adminPlanUnload; (repeat' split) <;> simp
@[simp] theorem State.adminWsetLoad_host (s : State) (w : Work) : (s.adminWsetLoad w).host = s.host := by simp [State.adminWsetLoad]
@[simp] theorem State.adminEpochStage_host (s : State) (w : Work) :
    (s.adminEpochStage w).host = s.host := by simp [State.adminEpochStage]
@[simp] theorem State.adminPartitionReset_host (s : State) (w : Work) : (s.adminPartitionReset w).host = s.host := by
  simp [State.adminPartitionReset]
@[simp] theorem State.adminSlotWrite_host (s : State) (w : Work) : (s.adminSlotWrite w).host = s.host := by simp [State.adminSlotWrite]
@[simp] theorem State.adminSlotActivate_host (s : State) (w : Work) : (s.adminSlotActivate w).host = s.host := by
  simp [State.adminSlotActivate]
@[simp] theorem State.adminSessionChallenge_host (s : State) (w : Work) : (s.adminSessionChallenge w).host = s.host := by
  simp [State.adminSessionChallenge]
@[simp] theorem State.adminSessionOpen_host (s : State) (w : Work) : (s.adminSessionOpen w).host = s.host := by
  simp [State.adminSessionOpen]
@[simp] theorem State.adminSessionClose_host (s : State) (w : Work) : (s.adminSessionClose w).host = s.host := by
  unfold State.adminSessionClose; (repeat' split) <;> simp
theorem State.provisionKey_host (s : State) (x : Session) (b : List Byte) : (s.provisionKey x b).2.1.host = s.host := by
  unfold State.provisionKey
  dsimp only
  (repeat' split) <;> simp

@[simp] theorem State.adminKeyProvision_host (s : State) (w : Work) : (s.adminKeyProvision w).host = s.host := by
  fun_cases State.adminKeyProvision <;> simp +zetaDelta [State.provisionKey_host]
@[simp] theorem State.adminKeyList_host (s : State) (w : Work) : (s.adminKeyList w).host = s.host := by simp [State.adminKeyList]
@[simp] theorem State.adminSealRequest_host (s : State) (w : Work) : (s.adminSealRequest w).host = s.host := by
  simp [State.adminSealRequest]
@[simp] theorem State.adminTakeOwnership_host (s : State) (w : Work) : (s.adminTakeOwnership w).host = s.host := by
  simp [State.adminTakeOwnership]

/-! ### Sys2Proof/Machine/HostOps.lean -/

@[simp] theorem State.putInputs_host (s : State) (w : Work) (plan : Plan) (idig : List Byte) :
    (s.putInputs w plan idig).host = s.host :=
  by simp [State.putInputs]
@[simp] theorem State.stageInputs_host (s : State) (w : Work) (plan : Plan) : (s.stageInputs w plan).host = s.host := by
  unfold State.stageInputs; (repeat' split) <;> simp
@[simp] theorem State.fillCopies_host (s : State) (w : Work) : (s.fillCopies w).host = s.host := by simp [State.fillCopies]
@[simp] theorem State.copyBack_host (s : State) (w : Work) : (s.copyBack w).host = s.host := by simp [State.copyBack]
@[simp] theorem State.aerNote_host (s : State) (f : Nat) (how : BadCompletion) : (s.aerNote f how).host = s.host := by
  simp [State.aerNote]
@[simp] theorem State.stagingFails_host (s : State) (w : Work) (how : BadCompletion) (addr : Nat) :
    (s.stagingFails w how addr).host = s.host :=
  by simp [State.stagingFails]

/-! ### Sys2Proof/Machine/EnableOps.lean -/

@[simp] theorem State.reloadPlans_host (s : State) (f : Nat) : (s.reloadPlans f).1.host = s.host :=
  State.foldl_fst_host (fun _ _ => by (repeat' split) <;> rfl) _ _
@[simp] theorem State.finishFlr_host (s : State) : s.finishFlr.host = s.host := by simp [State.finishFlr]

/-! ### Sys2Proof/Machine/HeadSample.lean -/

@[simp] theorem State.doorbellBit_host (s : State) (f r : Nat) : (s.doorbellBit f r).1.host = s.host := by
  unfold State.doorbellBit; (repeat' split) <;> simp
theorem State.gather_host {step : State → Nat → State × List Nat} (h : ∀ t n, (step t n).1.host = t.host) :
    ∀ (l : List Nat) (s : State), (State.gather step l s).1.host = s.host
  | [], _ => rfl
  | x :: rest, s => (State.gather_host h rest _).trans (h s x)
@[simp] theorem State.addHif_host (s : State) (f : Nat) (g : RegField) (n : Nat) : (s.addHif f g n).host = s.host := by
  simp [State.addHif]
@[simp] theorem State.fallBack_host (s : State) (f : Nat) : (s.fallBack f).host = s.host := by simp [State.fallBack]
@[simp] theorem State.noteDoorbell_host (s : State) (r pi : Nat) : (s.noteDoorbell r pi).host = s.host := by simp [State.noteDoorbell]
@[simp] theorem State.readConsumed_host (s : State) (r : Nat) : (s.readConsumed r).host = s.host := by
  unfold State.readConsumed; (repeat' split) <;> simp
@[simp] theorem State.stageOr_host (s : State) (h : HeadIn) (w : Work) (plan : Plan) : (s.stageOr h w plan).host = s.host :=
  by
  fun_cases State.stageOr <;> simp
@[simp] theorem State.stageHead_host (h : HeadIn) :
    ∀ (l : List Work) (left : Nat) (s : State), (State.stageHead h l left s).host = s.host
  | [], _, _ => rfl
  | w :: rest, left, s => by
    unfold State.stageHead
    split
    · exact State.stageHead_host h rest left s
    · split
      · rfl
      · exact (State.stageHead_host h rest _ _).trans (s.stageOr_host h w _)
@[simp] theorem State.stageFree_host (s : State) : s.stageFree.host = s.host :=
  by
  unfold State.stageFree
  exact (State.foldl_host (fun t _ => by (repeat' split) <;> simp) _ _).trans (by simp)
@[simp] theorem State.stageLat_host (s : State) (h : HeadIn) (old : Nat) : (s.stageLat h old).host = s.host := by simp [State.stageLat]

/-! ### Sys2Proof/Machine/HeadOps.lean -/

@[simp] theorem State.applyToCore_host (s : State) (w : LinkWord) (x : Work) (c : Nat) : (s.applyToCore w x c).host = s.host := by
  simp [State.applyToCore]
@[simp] theorem State.applyToHbm_host (s : State) (w : LinkWord) (x : Work) : (s.applyToHbm w x).host = s.host := by
  fun_cases State.applyToHbm <;> simp +zetaDelta
theorem State.applyWord_host {s t : State} {w : LinkWord} (h : s.applyWord w = .gone t ∨ s.applyWord w = .done t) :
    t.host = s.host := by
  unfold State.applyWord at h
  (repeat' split at h) <;> obtain h | h := h <;> cases h <;> simp

theorem State.applyDue_host : ∀ (l held : List LinkWord) (s : State), (State.applyDue l held s).1.host = s.host
  | [], _, _ => rfl
  | w :: rest, held, s => by
    have word {s1 : State} {a : Applied} (ha : (if w.waitsFor held then Applied.waits else s.applyWord w) = a)
        (h : a = .gone s1 ∨ a = .done s1) : s1.host = s.host := by
      subst ha
      split at h
      · simp at h
      · exact State.applyWord_host h
    unfold State.applyDue
    split
    case h_1 => exact State.applyDue_host rest _ s
    case h_2 h => exact (State.applyDue_host rest _ _).trans (word h (.inl rfl))
    case h_3 h => exact (State.applyDue_host rest _ _).trans (word h (.inr rfl))
@[simp] theorem State.applyLinks_host (s : State) : s.applyLinks.host = s.host :=
  by
  unfold State.applyLinks
  refine (State.foldl_host (fun _ _ => by exact State.trace1_host _ _ _) _ _).trans ((State.foldl_host (fun _ _ => by rfl) _ _).trans ?_)
  exact (State.applyDue_host _ _ _).trans (State.bump_host _ _ _)
@[simp] theorem State.resetPartition_host (s : State) (f : Nat) : (s.resetPartition f).host = s.host :=
  by
  simp only [State.resetPartition, State.log_host, State.bump_host]
  exact State.foldl_host (fun _ _ => by rfl) _ _
@[simp] theorem State.resetPartitions_host (s : State) : s.resetPartitions.host = s.host := by simp [State.resetPartitions]
@[simp] theorem State.applyKeys_host (s : State) : s.applyKeys.host = s.host :=
  by
  unfold State.applyKeys
  exact (State.foldl_host (fun t _ => by (repeat' split) <;> simp) _ _).trans (by simp)
@[simp] theorem State.resumeActivation_host (s : State) : s.resumeActivation.host = s.host := by simp [State.resumeActivation]
@[simp] theorem State.stateLost_host (s : State) : s.stateLost.host = s.host := by simp [State.stateLost]
@[simp] theorem State.swapPhases_host (s : State) : s.swapPhases.host = s.host := by simp [State.swapPhases]
@[simp] theorem State.joinSpares_host (s : State) : s.joinSpares.host = s.host := by simp [State.joinSpares]
@[simp] theorem State.phaseFault_host (s : State) (tile rail : Nat) :
    (s.phaseFault tile rail).host = s.host := by simp [State.phaseFault]
@[simp] theorem State.replacePhases_host (s : State) : s.replacePhases.host = s.host := by simp [State.replacePhases]
@[simp] theorem State.openWindow_host (s : State) : s.openWindow.host = s.host := by simp [State.openWindow]
@[simp] theorem State.windowStep_host (s : State) (again : Bool) : (s.windowStep again).host = s.host := by
  fun_cases State.windowStep <;> simp +zetaDelta
@[simp] theorem State.windowHead_host (s : State) (again : Bool) : (s.windowHead again).host = s.host := by simp [State.windowHead]
@[simp] theorem State.spareLaneIn_host (s : State) (p lane : Nat) (noted : Bool) : (s.spareLaneIn p lane noted).host = s.host := by
  simp [State.spareLaneIn]
@[simp] theorem State.retireLanes_host (s : State) : s.retireLanes.host = s.host :=
  by
  unfold State.retireLanes
  exact (State.foldl_host (fun t _ => by (repeat' split) <;> simp) _ _).trans (by simp)
@[simp] theorem State.loadUcode_host (s : State) : s.loadUcode.host = s.host := by unfold State.loadUcode; (repeat' split) <;> simp
@[simp] theorem State.applyOffsets_host (s : State) : s.applyOffsets.host = s.host :=
  by
  unfold State.applyOffsets
  dsimp only
  split
  · split
    · simp only [State.setFlag_host, State.loadUcode_host, State.retireLanes_host]
      exact (State.foldl_host (fun _ _ => by exact State.setFld_host _ _ _) _ _).trans
        (State.foldl_host (fun _ _ => by exact State.setFld_host _ _ _) _ _)
    · rfl
  · rfl
@[simp] theorem State.applyTheta_host (s : State) : s.applyTheta.host = s.host := by unfold State.applyTheta; (repeat' split) <;> simp
@[simp] theorem State.retireCores_host (s : State) : s.retireCores.host = s.host := by simp [State.retireCores]
@[simp] theorem State.takeChannels_host (s : State) : s.takeChannels.host = s.host := by simp [State.takeChannels]
@[simp] theorem State.treatLost_host (s : State) (e : Option Nat) : (s.treatLost e).host = s.host := by
  unfold State.treatLost; (repeat' split) <;> simp
@[simp] theorem State.applyScrubbed_host (s : State) : s.applyScrubbed.host = s.host := by simp [State.applyScrubbed]
@[simp] theorem State.alignHead_host (s : State) (first : Bool) : (s.alignHead first).host = s.host := by
  fun_cases State.alignHead <;> simp +zetaDelta
@[simp] theorem State.masterSync_host (s : State) : s.masterSync.host = s.host := by simp [State.masterSync]
@[simp] theorem State.applyRearm_host (s : State) : s.applyRearm.host = s.host := by simp [State.applyRearm]
@[simp] theorem State.fillPass_host : ∀ (n : Nat) (s : State) (c e left : Nat), (State.fillPass n s c e left).1.host = s.host
  | 0, _, _, _, _ => rfl
  | n + 1, s, c, e, left => by
    unfold State.fillPass
    split
    · rfl
    · split
      · rfl
      · split
        · rfl
        · simp
        case h_3 h => exact (State.fillPass_host n _ c e _).trans (State.retireRequest_host h)
@[simp] theorem State.fillEngine_host (s : State) (c : Nat) (old : List EdgeDef) (p : Placed) (e left : Nat) :
    (s.fillEngine c old p e left).1.host = s.host :=
  by fun_cases State.fillEngine <;> simp +zetaDelta
@[simp] theorem State.fillPlaced_host (s : State) (i : Nat) : (s.fillPlaced i).host = s.host :=
  by
  unfold State.fillPlaced
  split
  · rfl
  · split
    · refine State.foldl_host (fun t cj => ?_) _ _
      dsimp only
      split
      · rfl
      · exact (State.foldl_fst_host (fun _ _ => by exact State.fillEngine_host _ _ _ _ _ _) _ _).trans (State.setCore_host _ _ _)
    · rfl
@[simp] theorem State.persistFill_host (s : State) : s.persistFill.host = s.host := by simp [State.persistFill]

/-! ### Sys2Proof/Machine/Trends.lean -/

@[simp] theorem State.addFit_host (s : State) (i : Nat) (y : Int) : (s.addFit i y).host = s.host := by simp [State.addFit]
@[simp] theorem State.noteRisk_host (s : State) : s.noteRisk.host = s.host := by simp [State.noteRisk]

/-! ### Sys2Proof/Machine/TurnHead.lean -/

@[simp] theorem State.beginTurn_host (s : State) (n : Nat) (ptm : Option Nat) : (s.beginTurn n ptm).host = s.host := by
  simp [State.beginTurn]
@[simp] theorem State.setPoint_host (s : State) (ticks p : Nat) : (s.setPoint ticks p).host = s.host := by simp [State.setPoint]
@[simp] theorem State.holdChain_host (s : State) (c : Cand) (q : Placed) : (s.holdChain c q).host = s.host := by simp [State.holdChain]
@[simp] theorem State.putPlaced_host (s : State) (e : Cand × Placed) : (s.putPlaced e).host = s.host := by simp [State.putPlaced]
@[simp] theorem State.notePassed_host (s : State) (c : Cand) : (s.notePassed c).host = s.host := by simp [State.notePassed]
@[simp] theorem State.noteDeferred_host (s : State) (cs : List Cand) :
    (s.noteDeferred cs).host = s.host := by simp [State.noteDeferred]
@[simp] theorem State.putAll_host (s : State) (a : Adm) : (s.putAll a).host = s.host := by simp [State.putAll]
@[simp] theorem State.commitPlacement_host (s : State) (cs : List Cand) (a : Adm) : (s.commitPlacement cs a).host = s.host :=
  by
  simp only [State.commitPlacement]
  refine (State.foldl_host (fun _ _ => by rfl) _ _).trans ?_
  simp
@[simp] theorem State.logOnce_host (s : State) (c : Cand) (key : Nat) (cause : Cause) : (s.logOnce c key cause).host = s.host := by
  unfold State.logOnce; (repeat' split) <;> simp
@[simp] theorem State.noteBarred_host (s : State) (ready : List Cand) (p : Nat) (a : Adm) :
    (s.noteBarred ready p a).host = s.host := by
  simp [State.noteBarred]
@[simp] theorem State.admitSlices_host (s : State) : s.admitSlices.host = s.host := by simp [State.admitSlices]
@[simp] theorem State.recordHead_host (s : State) : s.recordHead.host = s.host := by simp [State.recordHead]

/-! ### Sys2Proof/Machine/AuditOps.lean -/

@[simp] theorem State.flushTrace_host (s : State) : s.flushTrace.host = s.host := by unfold State.flushTrace; (repeat' split) <;> simp
@[simp] theorem State.chainStep_host (s : State) : s.chainStep.host = s.host := by simp [State.chainStep]
@[simp] theorem State.startSeal_host (s : State) (reason : Nat) : (s.startSeal reason).host = s.host := by simp [State.startSeal]
@[simp] theorem State.sealTail_host (s : State) : s.sealTail.host = s.host := by simp [State.sealTail]
@[simp] theorem State.refillErrs_host (s : State) : s.refillErrs.host = s.host := by simp [State.refillErrs]

/-! ### Sys2Proof/Machine/Publish.lean -/

@[simp] theorem State.breakDeadlock_host (s : State) (i : Nat) (p : Placed) (r : ErrRec) : (s.breakDeadlock i p r).host = s.host := by
  simp [State.breakDeadlock]
@[simp] theorem State.tailAbort_host (s : State) (i : Nat) : (s.tailAbort i).host = s.host := by
  unfold State.tailAbort; (repeat' split) <;> simp
@[simp] theorem State.tailAborts_host (s : State) : s.tailAborts.host = s.host := by simp [State.tailAborts]
@[simp] theorem State.commitOverlay_host (s : State) (w : Work) (p : Placed) (im : Image) : (s.commitOverlay w p im).host = s.host :=
  by
  simp only [State.commitOverlay]
  refine (State.foldl_host (fun _ _ => by rfl) _ _).trans ((State.foldl_host (fun _ _ => by exact State.hbmStore_host _ _ _) _ _).trans ?_)
  simp
@[simp] theorem State.certCheck_host (s : State) (p : Placed) (im : Image) (n : Nat) : (s.certCheck p im n).host = s.host := by
  simp [State.certCheck]
@[simp] theorem State.traceSlice_host (s : State) (p : Placed) (sdig : List Byte) : (s.traceSlice p sdig).host = s.host := by
  simp [State.traceSlice]
@[simp] theorem State.endChain_host (s : State) (w : Work) (cores : List Nat) : (s.endChain w cores).host = s.host := by
  simp [State.endChain]
@[simp] theorem State.commitSlice_host (s : State) (i m : Nat) (p0 : Placed) : (s.commitSlice i m p0).host = s.host := by
  unfold State.commitSlice; (repeat' split) <;> simp
@[simp] theorem State.commitAt_host (s : State) (i : Nat) : (s.commitAt i).host = s.host := by
  fun_cases State.commitAt <;> simp +zetaDelta
@[simp] theorem State.commitSlices_host (s : State) : s.commitSlices.host = s.host := by simp [State.commitSlices]
@[simp] theorem State.releaseTo_host (s : State) (dst : Nat) : (s.releaseTo dst).host = s.host := by simp [State.releaseTo]
@[simp] theorem State.releaseWords_host (s : State) : s.releaseWords.host = s.host := by simp [State.releaseWords]
@[simp] theorem State.clearPlaced_host (s : State) : s.clearPlaced.host = s.host :=
  State.foldl_host (fun _ _ => State.foldl_host (fun _ _ => by rfl) _ _) _ _
@[simp] theorem State.settle_host (s : State) : s.settle.host = s.host := by simp [State.settle]
@[simp] theorem State.adminFinish_host (s : State) : s.adminFinish.host = s.host :=
  by
  unfold State.adminFinish
  exact (State.foldl_host (fun t _ => by (repeat' split) <;> simp) _ _).trans (by simp)
@[simp] theorem State.dropRings_host (s : State) : s.dropRings.host = s.host := by simp [State.dropRings]
@[simp] theorem State.sendMsix_host (s : State) : s.sendMsix.host = s.host := by simp [State.sendMsix]

/-! ### Sys2Proof/Machine/Replay.lean -/

@[simp] theorem State.divergeIn_host (s : State) (turn kind ring seq slice : Nat) :
    (s.divergeIn turn kind ring seq slice).host = s.host :=
  by simp [State.divergeIn]
@[simp] theorem State.diverge_host (s : State) (kind ring seq slice : Nat) : (s.diverge kind ring seq slice).host = s.host := by
  simp [State.diverge]
theorem State.replayAdmitOne_host (ready : List Cand) (p : Nat) (r : State × Adm) (e : List Byte) :
    (State.replayAdmitOne ready p r e).1.host = r.1.host := by
  fun_cases State.replayAdmitOne <;> simp +zetaDelta

@[simp] theorem State.replayAdmit_host (s : State) (l : List RingRec) : (s.replayAdmit l).host = s.host :=
  (State.putAll_host _ _).trans (State.foldl_fst_host (State.replayAdmitOne_host _ _) _ _)
@[simp] theorem State.replayBrake_host (s : State) (l : List RingRec) : (s.replayBrake l).host = s.host := by simp [State.replayBrake]
@[simp] theorem State.chargeBrake_host (s : State) (on : Bool) (l : List RingRec) : (s.chargeBrake on l).host = s.host :=
  by
  unfold State.chargeBrake
  exact (State.foldl_host (fun t _ => by (repeat' split) <;> simp) _ _).trans (by simp)
@[simp] theorem State.replayLinks_host (s : State) (l : List RingRec) : (s.replayLinks l).host = s.host := by simp [State.replayLinks]
@[simp] theorem State.replayAborts_host (s : State) : s.replayAborts.host = s.host :=
  by
  unfold State.replayAborts
  split
  · exact State.foldl_host (fun _ _ => by split <;> simp) _ _
  · rfl
@[simp] theorem State.replayStaged_host (s : State) : s.replayStaged.host = s.host :=
  by
  unfold State.replayStaged
  dsimp only
  split <;> simp
@[simp] theorem State.replayCheck_host (s : State) (done : List (Nat × Nat × Nat)) : (s.replayCheck done).host = s.host :=
  by
  unfold State.replayCheck
  dsimp only
  (repeat' split) <;> simp

/-! ### Sys2Proof/Machine/TurnTail.lean -/

@[simp] theorem State.stretch_host (s : State) : s.stretch.host = s.host :=
  by
  unfold State.stretch
  exact (State.foldl_host (fun t _ => by (repeat' split) <;> simp) _ _).trans (by simp)
@[simp] theorem State.publishBudget_host (s : State) (t : TailIn) (est : Nat) : (s.publishBudget t est).host = s.host := by
  simp [State.publishBudget]

/-! ### Sys2Proof/Machine/PowerEvents.lean -/

@[simp] theorem State.engageBrake_host (s : State) : s.engageBrake.host = s.host :=
  by
  unfold State.engageBrake
  split
  · rfl
  · exact (State.foldl_host (fun _ _ => by (repeat' split) <;> simp) _ _).trans (by simp)
@[simp] theorem State.releaseBrake_host (s : State) : s.releaseBrake.host = s.host := by simp [State.releaseBrake]
@[simp] theorem State.powerUp_host (s : State) (b : BringUpIn) : (s.powerUp b).host = s.host := by simp [State.powerUp]
@[simp] theorem State.dropPort_host (s : State) (p : Nat) : (s.dropPort p).host = s.host := by simp [State.dropPort]
@[simp] theorem State.driveLevel_host (s : State) (pin : PinId) (asserted : Bool) : (s.driveLevel pin asserted).host = s.host := by
  simp [State.driveLevel]

/-! ### Sys2Proof/Machine/LinkEvents.lean -/

@[simp] theorem State.sendLinkAck_host (s : State) (p : Nat) (nak : Bool) (n : Nat) : (s.sendLinkAck p nak n).host = s.host := by
  simp [State.sendLinkAck]
@[simp] theorem State.hopReceive_host (s : State) (ft p : Nat) (f : Flit) : (s.hopReceive ft p f).1.host = s.host := by
  fun_cases State.hopReceive <;> simp +zetaDelta
@[simp] theorem State.routeIn_host (s : State) (f : Flit) : (s.routeIn f).1.host = s.host := by
  unfold State.routeIn; (repeat' split) <;> simp
@[simp] theorem State.sendE2eAck_host (s : State) (src : Nat) : (s.sendE2eAck src).host = s.host := s.sendRoute_host _
@[simp] theorem State.takeData_host (s : State) (src : Nat) (f : Flit) : (s.takeData src f).host = s.host := by
  fun_cases State.takeData <;> simp +zetaDelta
@[simp] theorem State.takeRelease_host (s : State) (src : Nat) (f : Flit) : (s.takeRelease src f).host = s.host := by
  simp [State.takeRelease]
@[simp] theorem State.endTargetReset_host (s : State) (hit : Work → Bool) : (s.endTargetReset hit).host = s.host := by
  simp [State.endTargetReset]
@[simp] theorem State.chipReset_host (s : State) (c : Nat) : (s.chipReset c).host = s.host := by simp [State.chipReset]
@[simp] theorem State.takeNotice_host (s : State) (f : Flit) : (s.takeNotice f).host = s.host := by simp [State.takeNotice]
@[simp] theorem State.takeUp_host (s : State) (src : Nat) (f : Flit) : (s.takeUp src f).host = s.host := by simp [State.takeUp]
@[simp] theorem State.drainAhead_host : ∀ (n : Nat) (s : State) (src : Nat), (State.drainAhead n s src).host = s.host
  | 0, _, _ => rfl
  | n + 1, s, src => by
    unfold State.drainAhead
    dsimp only
    split
    · rfl
    · exact (State.drainAhead_host n _ src).trans (by simp)
@[simp] theorem State.pairReceive_host (s : State) (f : Flit) : (s.pairReceive f).host = s.host := by simp [State.pairReceive]
@[simp] theorem State.recvRouted_host (s : State) (ft p : Nat) (f : Flit) : (s.recvRouted ft p f).host = s.host := by
  simp [State.recvRouted]
@[simp] theorem State.takeE2eAck_host (s : State) (f : Flit) : (s.takeE2eAck f).host = s.host := by simp [State.takeE2eAck]
@[simp] theorem State.countReplay_host (s : State) (p : Nat) : (s.countReplay p).host = s.host := by simp [State.countReplay]
@[simp] theorem State.takePeer_host (s : State) (p : Nat) (f : Flit) : (s.takePeer p f).host = s.host := by simp [State.takePeer]
@[simp] theorem State.takePhase_host (s : State) (e : Int) : (s.takePhase e).host = s.host := by simp [State.takePhase]
@[simp] theorem State.takeSync_host (s : State) (f : Flit) (err : Int) : (s.takeSync f err).host = s.host := by simp [State.takeSync]

/-! ### Sys2Proof/Machine/RegAccess.lean -/

@[simp] theorem State.read4_host (s : State) (rid f off : Nat) : (s.read4 rid f off).1.host = s.host := by
  fun_cases State.read4 <;> simp +zetaDelta
@[simp] theorem State.read8_host (s : State) (rid f off : Nat) : (s.read8 rid f off).1.host = s.host := by simp [State.read8]
@[simp] theorem State.hostReadReg_host (s : State) (rid f off size : Nat) : (s.hostReadReg rid f off size).host = s.host := by
  simp [State.hostReadReg]

/-! ### Sys2Proof/Machine/RegWrites.lean -/

@[simp] theorem State.guardFail_host (s : State) (why off rid f : Nat) : (s.guardFail why off rid f).host = s.host :=
  (s.guardFail_body why off rid f).1.host
@[simp] theorem State.dropGuard_host (s : State) (rid f : Nat) : (s.dropGuard rid f).host = s.host := by simp [State.dropGuard]
@[simp] theorem State.badWrite_host (s : State) : s.badWrite.host = s.host := by simp [State.badWrite]
@[simp] theorem State.countWrite_host (s : State) (rid f : Nat) : (s.countWrite rid f).host = s.host := by
  unfold State.countWrite; (repeat' split) <;> simp
@[simp] theorem State.setFnFld_host (s : State) (f : Nat) (g : RegField) (x : Nat) : (s.setFnFld f g x).host = s.host := by
  simp [State.setFnFld]
@[simp] theorem State.noteEarly_host (s : State) (g : RegField) : (s.noteEarly g).host = s.host := by
  unfold State.noteEarly; (repeat' split) <;> simp
@[simp] theorem State.setEnable_host (s : State) (f : Nat) (on : Bool) : (s.setEnable f on).host = s.host := by simp [State.setEnable]
@[simp] theorem State.setFreeze_host (s : State) (c : Nat) (on : Bool) : (s.setFreeze c on).host = s.host := by simp [State.setFreeze]
@[simp] theorem State.putRw_host (s : State) (f : Nat) (g : RegField) (x : Nat) :
    (s.putRw f g x).host = s.host := by simp [State.putRw]
@[simp] theorem State.putRwAll_host (s : State) (f key v : Nat) : (s.putRwAll f key v).host = s.host := by simp [State.putRwAll]
@[simp] theorem State.requestReset_host (s : State) (req : Nat) (o : WriteWith) : (s.requestReset req o).host = s.host := by
  simp [State.requestReset]
@[simp] theorem State.actWo_host (s : State) (key v : Nat) (o : WriteWith) : (s.actWo key v o).host = s.host := by simp [State.actWo]
@[simp] theorem State.putGuarded_host (s : State) (f key v : Nat) : (s.putGuarded f key v).host = s.host := by simp [State.putGuarded]
@[simp] theorem State.commitGuard_host (s : State) (rid f : Nat) (g : Guard) : (s.commitGuard rid f g).host = s.host := by
  fun_cases State.commitGuard <;> simp +zetaDelta
@[simp] theorem State.complementWrite_host (s : State) (rid f off : Nat) (v : BitVec 32) :
    (s.complementWrite rid f off v).host = s.host :=
  by unfold State.complementWrite; (repeat' split) <;> simp
@[simp] theorem State.stageGuard_host (s : State) (rid f off : Nat) (v : BitVec 32) : (s.stageGuard rid f off v).host = s.host :=
  by
  unfold State.stageGuard
  dsimp only
  split
  · exact State.guardFail_host _ _ _ _ _
  · rfl
@[simp] theorem State.plainWrite_host (s : State) (f key : Nat) (v : BitVec 32) (o : WriteWith) :
    (s.plainWrite f key v o).host = s.host :=
  by simp [State.plainWrite]
@[simp] theorem State.landWrite_host (s : State) (rid f off : Nat) (v : BitVec 32) (o : WriteWith) :
    (s.landWrite rid f off v o).host = s.host :=
  by fun_cases State.landWrite <;> simp +zetaDelta
@[simp] theorem State.busWrite_host (s : State) (rid f off : Nat) (v : BitVec 32) (whole : Bool) (o : WriteWith) :
    (s.busWrite rid f off v whole o).host = s.host :=
  by simp [State.busWrite]
@[simp] theorem State.hostWriteReg_host (s : State) (rid : BitVec 16) (f : Fin 64) (off : Nat) (v : BitVec 32) (whole : Bool) (o : WriteWith) :
    (s.hostWriteReg rid f off v whole o).host = s.host :=
  by simp [State.hostWriteReg]

/-! ### Sys2Proof/Machine/HostResets.lean -/

@[simp] theorem State.abandonRing_host (s : State) (r : Nat) (x : Ring) :
    (s.abandonRing r x).host = s.host := by simp [State.abandonRing]
@[simp] theorem State.flrVf_host (s : State) (v : Nat) : (s.flrVf v).host = s.host := by simp [State.flrVf]
@[simp] theorem State.cfgWrite_host (s : State) (f : Nat) (x : CfgField) (v : BitVec 32) : (s.cfgWrite f x v).host = s.host := by
  unfold State.cfgWrite; (repeat' split) <;> simp
@[simp] theorem State.unmaskVector_host (s : State) (k : Nat × Nat) : (s.unmaskVector k).host = s.host := by simp [State.unmaskVector]

/-! ### Sys2Proof/Machine/Sideband.lean -/

@[simp] theorem State.answer_host (s : State) (r : Reply) : (s.answer r).host = s.host := by simp [State.answer]
@[simp] theorem State.sbAnswer_host (s : State) (status : Nat) (body : List Byte) : (s.sbAnswer status body).host = s.host := by
  simp [State.sbAnswer]
@[simp] theorem State.sbChallengeOp_host (s : State) (kslot : Nat) : (s.sbChallengeOp kslot).host = s.host := by
  simp [State.sbChallengeOp]
@[simp] theorem State.sbOpenOp_host (s : State) (kslot role : Nat) (mac : List Byte) : (s.sbOpenOp kslot role mac).host = s.host := by
  fun_cases State.sbOpenOp <;> simp +zetaDelta
@[simp] theorem State.sbEnd_host (s : State) (handle : Nat) : (s.sbEnd handle).host = s.host := by simp [State.sbEnd]
@[simp] theorem State.sbValues_host : ∀ (n : Nat) (s : State) (handle off : Nat), (State.sbValues n s handle off).1.host = s.host
  | 0, _, _, _ => rfl
  | n + 1, _, handle, off => (State.sbValues_host n _ handle (off + 4)).trans (State.read4_host _ _ _ _)
@[simp] theorem State.sbReadOp_host (s : State) (handle off count : Nat) : (s.sbReadOp handle off count).host = s.host := by
  simp [State.sbReadOp]
@[simp] theorem State.sbWriteOp_host (s : State) (handle off value : Nat) : (s.sbWriteOp handle off value).host = s.host := by
  simp [State.sbWriteOp]
@[simp] theorem State.spdm_host (s : State) (p : SpdmPort) (code : Nat) (body : List Byte) : (s.spdm p code body).host = s.host := by
  simp [State.spdm]
@[simp] theorem State.spdmError_host (s : State) (p : SpdmPort) (why : Nat) : (s.spdmError p why).host = s.host := by
  simp [State.spdmError]
@[simp] theorem State.notReadyYet_host (s : State) (p : SpdmPort) : (s.notReadyYet p).host = s.host := by simp [State.notReadyYet]

/-! ### Sys2Proof/Machine/Maintenance.lean -/

@[simp] theorem State.takeMargins_host (s : State) (r : ReplanIn) : (s.takeMargins r).host = s.host := by simp [State.takeMargins]
@[simp] theorem State.logRaises_host (s : State) (old new : List Nat) (unit : Nat → Nat) : (s.logRaises old new unit).host = s.host :=
  by simp [State.logRaises]
@[simp] theorem State.judgeDies_host (s : State) (m : List Int) : (s.judgeDies m).host = s.host := by simp [State.judgeDies]
@[simp] theorem State.judgeLanes_host (s : State) (l : List (Fin 104 × Int × Nat)) : (s.judgeLanes l).host = s.host :=
  by
  unfold State.judgeLanes
  exact (State.foldl_host (fun t _ => by dsimp only; (repeat' split) <;> simp) _ _).trans (by simp)
@[simp] theorem State.judgeChannels_host (s : State) (l : List (Fin 256 × Int)) : (s.judgeChannels l).host = s.host := by
  simp [State.judgeChannels]
@[simp] theorem State.judgeTheta_host (s : State) : s.judgeTheta.host = s.host := by simp [State.judgeTheta]
@[simp] theorem State.showLife_host (s : State) (rl : List Nat) : (s.showLife rl).host = s.host :=
  by
  have hcaps : ((List.range 6).foldl (fun t i => t.setFld (witRl i) (rl.getD i 0)) s).host = s.host :=
    State.foldl_host (fun t i => t.setFld_host _ _) _ _
  unfold State.showLife
  dsimp only
  split
  · rw [State.log_host, State.setFld_host, hcaps]
  · rw [State.setFld_host, hcaps]
@[simp] theorem State.spareRow_host (s : State) (kind c row : Nat) : (s.spareRow kind c row).1.host = s.host := by
  fun_cases State.spareRow <;> simp +zetaDelta
@[simp] theorem State.spareRows_host (s : State) : s.spareRows.1.host = s.host := by simp [State.spareRows]
@[simp] theorem State.readOnDie_host (s : State) : s.readOnDie.host = s.host := by simp [State.readOnDie]
@[simp] theorem State.replan_host (s : State) (r : ReplanIn) : (s.replan r).host = s.host := by simp [State.replan]
end Sys2Proof.Machine
end

section
/-! SUPPORT. What writes host memory keeps its canonical form: ring operations, a turn's head and tail, and the accesses of a work. -/

namespace Sys2Proof.Machine

theorem State.foldl_wf {β : Type} {f : State → β → State} (hf : ∀ t b, Mem.wf t.host = true → Mem.wf (f t b).host = true) :
    ∀ (l : List β) {s : State}, Mem.wf s.host = true → Mem.wf (l.foldl f s).host = true
  | [], _, h => h
  | b :: l, _, h => State.foldl_wf hf l (hf _ b h)

theorem State.foldl_proj_wf {β γ : Type} {p : γ → State} {f : γ → β → γ}
    (hf : ∀ t b, Mem.wf (p t).host = true → Mem.wf (p (f t b)).host = true) :
    ∀ (l : List β) {a : γ}, Mem.wf (p a).host = true → Mem.wf (p (l.foldl f a)).host = true
  | [], _, h => h
  | b :: l, _, h => State.foldl_proj_wf hf l (hf _ b h)

/-- Bytes put one by one, each where the entry says, keep memory canonical. -/
theorem Mem.wf_foldl {β : Type} {f : Mem → β → Mem} (hf : ∀ m b, Mem.wf m = true → Mem.wf (f m b) = true) :
    ∀ (l : List β) {m : Mem}, Mem.wf m = true → Mem.wf (l.foldl f m) = true
  | [], _, h => h
  | b :: l, _, h => Mem.wf_foldl hf l (hf _ b h)

/-- The state after a descriptor, taken, refused or left for want of room. -/
def Accept.state : Accept → State
  | .accepted s _ => s
  | .seqError s => s
  | .full s => s

section
variable {s : State} (h : Mem.wf s.host = true)
include h

/-! ### Rings -/

@[simp] theorem State.hostPut_wf (a : Nat) (bs : List Byte) : Mem.wf (s.hostPut a bs).host = true := Mem.wf_writeBytes h a bs
@[simp] theorem State.putAccepted_wf (r : Nat) (x : Ring) : Mem.wf (s.putAccepted r x).host = true := State.hostPut_wf h _ _
@[simp] theorem State.putCompleted_wf (r : Nat) (x : Ring) : Mem.wf (s.putCompleted r x).host = true := State.hostPut_wf h _ _

@[simp] theorem State.enableRing_wf (r : Nat) : Mem.wf (s.enableRing r).2.host = true := by
  unfold State.enableRing
  dsimp only
  (repeat' split) <;> simp [h]

@[simp] theorem State.journal_wf (r : Nat) (x : Ring) (w : Work) : Mem.wf (s.journal r x w).host = true := by
  simp [State.journal, h]

theorem State.acceptDesc_wf (r : Nat) (x : Ring) (desc : List Byte) : Mem.wf (s.acceptDesc r x desc).state.host = true := by
  unfold State.acceptDesc
  dsimp only
  (repeat' split) <;> simp [Accept.state, h]

theorem State.enableRange_wf (first count : Nat) : Mem.wf (s.enableRange first count).2.2.host = true :=
  State.foldl_proj_wf (p := fun t : Nat × List Nat × State => t.2.2) (fun _ _ ht => State.enableRing_wf ht _) _ h

theorem State.adminRingEnable_wf (w : Work) : Mem.wf (s.adminRingEnable w).host = true := by
  simp [State.adminRingEnable, State.enableRange_wf h]

/-- Of the administration descriptors only RING_ENABLE writes host memory as it runs. -/
@[simp] theorem State.adminRun_wf (w : Work) : Mem.wf (s.adminRun w).host = true := by
  unfold State.adminRun
  split
  · simpa using h
  · split
    · exact State.adminRingEnable_wf h w
    all_goals simpa using h

@[simp] theorem State.processWork_wf (w : Work) : Mem.wf (s.processWork w).host = true := by
  unfold State.processWork
  (repeat' split) <;> simp [h]

@[simp] theorem State.takeDesc_wf (r : Nat) (desc : List Byte) : Mem.wf (s.takeDesc r desc).1.host = true := by
  unfold State.takeDesc
  split
  · exact h
  · have hacc := State.acceptDesc_wf h r ‹Ring› desc
    split <;> rename_i heq <;> rw [heq] at hacc
    · exact State.processWork_wf hacc _
    · exact hacc
    · exact hacc

@[simp] theorem State.fetchOne_wf (r : Nat) (desc : List Byte) : Mem.wf (s.fetchOne r desc).host = true := by
  unfold State.fetchOne
  (repeat' split) <;> simp [h]

/-! ### Outputs of a work -/

@[simp] theorem State.writeOutputs_wf (w : Work) : Mem.wf (s.writeOutputs w).host = true := by
  unfold State.writeOutputs
  split
  · refine Mem.wf_foldl (fun m e hm => ?_) _ h
    split
    · exact Mem.wf_writeByte hm _ _
    · exact hm
  · split
    · exact h
    · exact Mem.wf_foldl (fun m e hm => Mem.wf_writeByte hm _ _) _ h

@[simp] theorem State.writeSome_wf (w : Work) : Mem.wf (s.writeSome w).host = true := by
  unfold State.writeSome
  split
  · exact h
  · refine Mem.wf_foldl (fun m e hm => ?_) _ h
    split
    · exact Mem.wf_writeByte hm _ _
    · exact hm

/-! ### Functions that become active -/

@[simp] theorem State.recoverSeq_wf (r q : Nat) (bad : List Nat) : Mem.wf (s.recoverSeq r q bad).host = true := by
  unfold State.recoverSeq
  split
  · exact h
  · exact State.processWork_wf (by exact h) _

@[simp] theorem State.recoverRing_wf (f r : Nat) (bad : List Nat) : Mem.wf (s.recoverRing f r bad).host = true := by
  unfold State.recoverRing
  dsimp only
  split
  · split <;> simp [h]
  · split
    · exact State.foldl_wf (fun t i ht => State.recoverSeq_wf ht r _ bad) _ (by simpa using h)
    · simp [h]

@[simp] theorem State.discardRing_wf (f r : Nat) : Mem.wf (s.discardRing f r).host = true := by
  unfold State.discardRing
  dsimp only
  (repeat' split) <;> simp [h]

@[simp] theorem State.enableFn_wf (f : Nat) : Mem.wf (s.enableFn f).host = true := by
  unfold State.enableFn
  dsimp only
  split
  · split
    · exact State.foldl_wf (fun t r ht => State.discardRing_wf ht f r) _ h
    · exact State.foldl_wf (fun t r ht => State.recoverRing_wf ht f r _) _ (by simpa using h)
  · exact State.foldl_wf (fun t r ht => State.enableRing_wf ht r) _ h

@[simp] theorem State.enableFns_wf : Mem.wf s.enableFns.host = true := by
  refine State.foldl_wf (fun t f ht => ?_) _ (by simpa using h)
  split
  · exact State.enableFn_wf ht f
  · exact ht

/-! ### The head of a turn -/

end

theorem State.gather_wf {step : State → Nat → State × List Nat} (hstep : ∀ t n, Mem.wf t.host = true → Mem.wf (step t n).1.host = true) :
    ∀ (l : List Nat) {s : State}, Mem.wf s.host = true → Mem.wf (State.gather step l s).1.host = true
  | [], _, h => h
  | x :: rest, _, h => State.gather_wf hstep rest (hstep _ x h)

section
variable {s : State} (h : Mem.wf s.host = true)
include h

theorem State.sampleWord_wf (d : HeadIn) (f w : Nat) : Mem.wf (State.sampleWord d f s w).1.host = true := by
  unfold State.sampleWord
  dsimp only
  split
  · exact h
  · exact State.gather_wf (fun t b ht => by simpa using ht) _ (by simp [h])

theorem State.sampleFn_wf (d : HeadIn) (f : Nat) : Mem.wf (State.sampleFn d s f).1.host = true := by
  have hwords : Mem.wf (State.gather (State.sampleWord d f) (List.range ((s.ringRange f).2 / 64)) s).1.host = true :=
    State.gather_wf (fun t w ht => State.sampleWord_wf ht d f w) _ h
  unfold State.sampleFn
  dsimp only
  (repeat' split) <;> simp [h, hwords]

end

@[simp] theorem State.takeMany_wf (r : Nat) :
    ∀ (l : List (List Byte)) {s : State}, Mem.wf s.host = true → Mem.wf (s.takeMany r l).1.host = true
  | [], _, h => h
  | d :: rest, s, h => by
    unfold State.takeMany
    split
    · exact State.takeMany_wf r rest (State.takeDesc_wf h r d)
    · exact State.takeDesc_wf h r d

/-- Stated for a state by name, so that no check of a pair unfolds how the state came about. -/
theorem State.pair_wf {γ : Type} {t : State} (ht : Mem.wf t.host = true) (n : γ) : Mem.wf (t, n).1.host = true := ht

section
variable {s : State} (h : Mem.wf s.host = true)
include h

/-- What the doorbell makes of a ring writes nothing; the descriptors that it tells of may. -/
@[simp] theorem State.fetchNew_wf (d : HeadIn) (most r : Nat) (x : Ring) (pi : Nat) :
    Mem.wf (s.fetchNew d most r x pi).1.host = true := by
  unfold State.fetchNew
  extract_lets p n descs s1 s2 late
  have h2 : Mem.wf s2.host = true := by
    simp only [s2, s1, State.ite_host, State.bumpHif_host, State.updRing_host, State.noteDoorbell_host, ite_self]
    exact h
  have h3 (i : Nat) : Mem.wf ((s2.addHif x.fn hifLateRead late.length).takeMany r (descs.take i)).1.host = true :=
    State.takeMany_wf r _ (by rwa [State.addHif_host])
  split
  · rwa [State.noteDoorbell_host, State.ringFault_host]
  · split
    · rwa [State.updRing_host]
    · split
      · exact State.pair_wf (State.takeMany_wf r descs h2) n
      · dsimp only
        split
        · rw [State.updRing_host]
          exact h3 _
        · exact h3 _

@[simp] theorem State.fetchRing_wf (d : HeadIn) (most : Option Nat) (r : Nat) : Mem.wf (s.fetchRing d most r).1.host = true := by
  have hheld (l : List (List Byte)) : Mem.wf ((s.updRing r (fun y => { y with held := [] })).takeMany r l).1.host = true :=
    State.takeMany_wf r l (by simpa using h)
  unfold State.fetchRing
  dsimp only
  (repeat' split) <;> simp [h, hheld]
end

theorem State.serveRings_wf (d : HeadIn) : ∀ (l : List Nat) {s : State} (most : Option Nat) (last : Nat), Mem.wf s.host = true →
    Mem.wf (State.serveRings d l s most last).1.host = true
  | [], _, _, _, h => h
  | r :: rest, _, _, _, h => State.serveRings_wf d rest _ _ (State.fetchRing_wf h d _ r)

section
variable {s : State} (h : Mem.wf s.host = true)
include h

@[simp] theorem State.sampleAll_wf (d : HeadIn) : Mem.wf (s.sampleAll d).host = true := by
  unfold State.sampleAll
  dsimp only
  refine State.serveRings_wf d _ _ _ (State.serveRings_wf d _ _ _ ?_)
  have hsampled : Mem.wf (State.gather (State.sampleFn d) s.sampledFns s.stopDisabled).1.host = true :=
    State.gather_wf (fun t f ht => State.sampleFn_wf ht d f) _ (by simpa using h)
  (repeat' split) <;> simp [hsampled]

@[simp] theorem State.stepOne_wf (again : Bool) : Mem.wf (s.stepOne again).host = true := by
  simp [State.stepOne, h]

@[simp] theorem State.headBody_wf (d : HeadIn) : Mem.wf (s.headBody d).host = true := by
  simp [State.headBody, h]

@[simp] theorem State.liveHead_wf (d : HeadIn) : Mem.wf (s.liveHead d).host = true := by
  unfold State.liveHead
  dsimp only
  refine State.headBody_wf ?_ _
  rw [State.setPoint_host]
  refine State.stepOne_wf ?_ _
  rw [State.masterSync_host, State.alignHead_host, State.beginTurn_host]
  exact h

/-! ### Publishing at the tail -/

@[simp] theorem State.putEvent_wf (r : Nat) (f : Nat → List Byte) : Mem.wf (s.putEvent r f).host = true := by
  unfold State.putEvent
  split <;> simp [h]

@[simp] theorem State.releaseRecs_wf (r : Nat) (l : List RingRec) : Mem.wf (s.releaseRecs r l).host = true :=
  State.foldl_wf (fun _ _ ht => State.putEvent_wf ht _ _) _ h
end

@[simp] theorem State.releaseErrs_wf : ∀ (n : Nat) {s : State}, Mem.wf s.host = true → Mem.wf (State.releaseErrs n s).host = true
  | 0, _, h => h
  | n + 1, s, h => by
    unfold State.releaseErrs
    split
    · exact h
    · refine State.releaseErrs_wf n ?_
      dsimp only
      exact State.putEvent_wf h _ _

section
variable {s : State} (h : Mem.wf s.host = true)
include h

@[simp] theorem State.releaseEvents_wf (fails : List Nat) : Mem.wf (s.releaseEvents fails).host = true := by
  unfold State.releaseEvents
  extract_lets bad s1 s2 n2 s3 a4 s4 n3 s5
  have hbad (t : State) (r : Nat) (waits : Bool) : (bad t r waits).host = t.host := by
    simp only [bad]
    split <;> simp
  have h2 : Mem.wf s2.host = true := by
    rw [State.refillErrs_host]
    refine State.releaseErrs_wf _ ?_
    simpa only [s1, hbad] using h
  have h3 : Mem.wf s3.host = true := State.releaseRecs_wf h2 2 _
  exact State.releaseRecs_wf (s := s4) h3 3 _

@[simp] theorem State.publishOne_wf (w : Work) (x : Ring) (fails : Bool) : Mem.wf (s.publishOne w x fails).host = true := by
  have hout : Mem.wf (if w.result = some stOk then s.writeOutputs w else s).host = true := by
    split
    · exact State.writeOutputs_wf h w
    · exact h
  unfold State.publishOne
  dsimp only
  split
  · rw [State.ringFault_host]
    exact hout
  · rw [State.trace1_host]
    exact State.putCompleted_wf (State.hostPut_wf hout _ _) _ _

@[simp] theorem State.provisional_wf (r : Nat) : Mem.wf (s.provisional r).host = true := by
  unfold State.provisional
  (repeat' split) <;> simp [h]
end

@[simp] theorem State.publishRing_wf (fails : List Nat) (r : Nat) : ∀ (n : Nat) {s : State} (left : Nat), Mem.wf s.host = true →
    Mem.wf (State.publishRing n s fails r left).1.host = true
  | 0, _, _, h => h
  | n + 1, s, left, h => by
    unfold State.publishRing
    dsimp only
    split
    · exact h
    · split
      · exact h
      · split
        · by_cases hfails : fails.contains r = true
          · rw [if_pos hfails]
            exact State.publishOne_wf h _ _ _
          · rw [if_neg hfails]
            exact State.publishRing_wf fails r n _ (State.publishOne_wf h _ _ _)
        · exact h

section
variable {s : State} (h : Mem.wf s.host = true)
include h

@[simp] theorem State.publish_wf (fails : List Nat) : Mem.wf (s.publish fails).host = true := by
  refine State.foldl_wf (fun t r ht => State.provisional_wf ht r) _ ?_
  exact State.foldl_proj_wf (p := Prod.fst) (fun a r ht => State.publishRing_wf fails r _ _ ht) _ h

@[simp] theorem State.tailBody_wf (t : TailIn) : Mem.wf (s.tailBody t).host = true := by
  unfold State.tailBody
  dsimp only
  rw [State.setFld_host, State.publishBudget_host, State.sendMsix_host]
  refine State.releaseEvents_wf ?_ _
  rw [State.flushTrace_host, State.sealTail_host, State.replayCheck_host, State.chainStep_host, State.dropRings_host]
  refine State.publish_wf ?_ _
  rw [State.settle_host, State.adminFinish_host, State.clearPlaced_host, State.releaseWords_host, State.commitSlices_host,
    State.tailAborts_host, State.replayAborts_host]
  exact h

/-! ### Replay -/

theorem State.replayAccept_wf (p : List Byte) : Mem.wf (s.replayAccept p).host = true := by
  unfold State.replayAccept
  dsimp only
  (repeat' split) <;> simp [h]

@[simp] theorem State.consumeTrace_wf (n : Nat) : Mem.wf (s.consumeTrace n).host = true := by
  unfold State.consumeTrace
  split <;> simp [h]

@[simp] theorem State.replayTurn_wf (d : HeadIn) (l : List RingRec) : Mem.wf (s.replayTurn d l).host = true := by
  unfold State.replayTurn
  dsimp only
  refine State.consumeTrace_wf ?_ _
  rw [State.recordHead_host, State.replayLinks_host, State.applyLinks_host, State.persistFill_host, State.chargeBrake_host,
    State.replayAdmit_host, State.applyRearm_host, State.stateLost_host, State.stageLat_host]
  refine State.foldl_wf (fun t p ht => State.replayAccept_wf ht p) _ ?_
  rw [State.readConsumed_host, State.replayBrake_host, State.setPoint_host, State.setFld_host]
  refine State.stepOne_wf ?_ _
  rw [State.alignHead_host]
  dsimp only
  rw [State.beginTurn_host]
  exact h

@[simp] theorem State.replayHead_wf (d : HeadIn) : Mem.wf (s.replayHead d).host = true := by
  unfold State.replayHead
  (repeat' split) <;> simp [h]

end
end Sys2Proof.Machine
end

section
/-! SUPPORT. Host memory stays canonical (log entry 21): each command, and so each step. -/

namespace Sys2Proof.Machine

/-- What a command goes on with has a canonical host memory. -/
def keepsCanonical (o : Host.Outcome State Fault Refusal) : Prop := ∀ t, o = .next t → Mem.wf t.host = true

@[simp] theorem keepsCanonical_next {t : State} : keepsCanonical (.next t) ↔ Mem.wf t.host = true :=
  ⟨fun h => h t rfl, fun h _ hu => by cases hu; exact h⟩

@[simp] theorem keepsCanonical_refused (r : Refusal) : keepsCanonical (.refused r) := fun _ h => by cases h

section
variable {s : State} (h : Mem.wf s.host = true)
include h

theorem State.wordCmd_canonical (c : Nat) (w : OpWord) (m : String) : keepsCanonical (s.wordCmd c w m) := by
  unfold State.wordCmd
  split <;> simp [h]

theorem State.arrayCmd_canonical (c : Nat) (w : OpWord) (r : Option (Fin 256)) (m : String) : keepsCanonical (s.arrayCmd c w r m) := by
  unfold State.arrayCmd
  split <;> simp [h]

/-- A command that carries an operation word gives it to a core, and cores write no host memory. -/
theorem exec_word_canonical {i : Instr} {w : OpWord} (hw : i.word = some w) : keepsCanonical (exec i s) := by
  cases i
  all_goals cases hw
  case streamStart c x => exact State.wordCmd_canonical h c.val (.streamStart x) "STREAM_START"
  case streamStop c x n =>
    exact State.wordCmd_canonical (s := s.updCore c.val _) h c.val (.streamStop x) "STREAM_STOP"
  case mma => exact State.arrayCmd_canonical h _ _ _ _
  case mmaT => exact State.arrayCmd_canonical h _ _ _ _
  case conv => exact State.arrayCmd_canonical h _ _ _ _
  case gradPair => exact State.arrayCmd_canonical h _ _ _ _
  all_goals exact State.wordCmd_canonical h _ _ _

theorem execTurnHead_canonical (d : HeadIn) : keepsCanonical (execTurnHead d s) := by
  have hstores : Mem.wf (d.stores.foldl (fun t w => t.hostPut w.addr w.bytes) s).host = true :=
    State.foldl_wf (fun t w ht => State.hostPut_wf ht _ _) _ h
  unfold execTurnHead
  dsimp only
  (repeat' split) <;> simp [hstores]

theorem execCoreFailed_canonical (c : Fin 144) : keepsCanonical (execCoreFailed c s) := by
  unfold execCoreFailed
  split
  · simpa using h
  · rw [keepsCanonical_next, State.foldl_host (fun t w => t.pinLost_host c.val w),
      State.foldl_host (fun t i => by (repeat' split) <;> simp), State.log_host, State.repair_host]
    exact h

theorem execPerstAssert_canonical : keepsCanonical (execPerstAssert s) := by
  unfold execPerstAssert
  dsimp only
  (repeat' split) <;> simp [h, State.coldHold_host]

theorem execPerstDeassert_canonical (b : BringUpIn) : keepsCanonical (execPerstDeassert b s) := by
  have hregs (t : State) (r : Nat → BitVec 32) : (levelRegs.foldl (fun t o => t.setReg o (r o)) t).host = t.host :=
    State.foldl_host (fun t o => t.setReg_host _ _) _ _
  unfold execPerstDeassert
  dsimp only
  (repeat' split) <;> simp [h, hregs]

/-- Every other command, in each of its cases. -/
theorem exec_no_word_canonical {i : Instr} (hw : i.word = none) : keepsCanonical (exec i s) := by
  cases i
  all_goals cases hw
  case turnHead d => exact execTurnHead_canonical h d
  case coreFailed c => exact execCoreFailed_canonical h c
  case perstAssert => exact execPerstAssert_canonical h
  case perstDeassert b => exact execPerstDeassert_canonical h b
  all_goals
    simp only [exec, execSliceStart, execArrayOpDone, execRemoteLanding, execWaitComplete, execStreamRetire, execDeadlockBreak, execProgEcc,
      execCmemCe, execCmemEcc, execChuckCe, execChuckEcc, execProfEcc, execHbmCe, execHbmUe, execPatrolScrub, execHbmSpare,
      execChannelCopyDone, execStackLost, execJournalMoveDone, execHstFailover, execMpTakeover, execNvDegraded, execTurnTail,
      execSealSigned, execVoltageRaise, execThermalModelUpdate, execTsensor, execInputStaged, execCopyBackDone, execHostDma,
      execBrakeTrip, execBrakeHot, execBrakeRelease, execThermtrip, execThetaStep, execPowerUp, execDeviceReady, execVinLoss,
      execVinLow, execVinHigh, execVinHighEnd, execVinOvp, execPhaseFault, execHoldupMeasure, execSysclkLost, execRefclkLnkLoss,
      execRefclkPcieLoss, execPpsInPulse, execPinTransition, execPinUnstable, execPinUnstableClear, execPinStuck, execTurnSyncPulse,
      execSyncLost, execResync, execBackupMasterTakeover, execPcieHotReset, execPcieLinkDown, execPfFlr, execVfFlr, execD3hotEntry,
      execD0Return, execLinkNarrow, execErrResetWarm, execErrResetCold, execRegWrite, execGuardedWriteStage, execGuardedWriteCommit,
      execGuardExpire, execSetAliasWrite, execClearAliasWrite, execToggleAliasWrite, execW1cWrite, execLoReadLatch, execHifEnableSet,
      execHifEnableClear, execDbmodeWrite, execSealNow, execMeasure, execWindowNow, execCntFreeze, execRun, execRingEnable,
      execRingDisable, execRingResume, execPlanLoad, execPlanUnload, execWsetLoad, execEpochStage, execPartitionReset, execSlotWrite,
      execSlotActivate, execActivateTakeover, execActivateFinal, execFwRejected, execSessionChallenge, execSessionOpen,
      execSessionClose, execChallengeExpire, execLockoutExpire, execKeyProvision, execKeyList, execSealRequest, execTakeOwnership,
      execSbChallenge, execSbOpen, execSbRead, execSbWrite, execSbClose, execSbIdleTimeout, execGetVersion, execGetCapabilities,
      execNegotiateAlgorithms, execGetDigests, execGetCertificate, execChallenge, execGetMeasurements, execData, execRelease,
      execE2eAck, execLinkAck, execSync, execPeer, execNotice, execIdle, execE2eTimeout, execPortDownNotice, execLaneSpared,
      execRouteLost, execLinkOrphan, execLinkTrainRetry, execMaintWindowOpen, execReplan, execRetireWaitExpire, execPpsInLoss,
      execNvStoreDone, execStagingCopyFilled, execWordResultsDelivered, execConfigurationRequest, execPcieLinkUp, execRegRead,
      execMctpControlMessage, execAlertResponseAddress, execMsixUnmask, execPllLossOfLock]
    (repeat' split) <;> simp [h]

end

theorem exec_canonical (i : Instr) {s : State} (h : Mem.wf s.host = true) : keepsCanonical (exec i s) := by
  cases hi : i.word with
  | none => exact exec_no_word_canonical h hi
  | some w => exact exec_word_canonical h hi

/-- Settles O58: an idle step changes nothing, and every command keeps host memory canonical. -/
theorem hostMemoryStaysCanonical : Obligations.HostMemoryStaysCanonical := fun s t h hstep => by
  unfold step at hstep
  split at hstep
  · cases hstep; exact h
  · exact exec_canonical _ (by exact h) t hstep

end Sys2Proof.Machine
end

section
/-! SUPPORT. The hop level of the links (14 R379, R380): what a port makes of a flit, and what sending one changes. -/

namespace Sys2Proof.Machine

/-! ### What moves in the links -/

/-- Nothing but the links differs. -/
def State.linksMove (s t : State) : Prop := t = { s with links := t.links }

/-- Nothing but the ports of the links differs. -/
def State.portsMove (s t : State) : Prop := t = { s with links := { s.links with ports := t.links.ports } }

theorem State.linksMove.refl (s : State) : s.linksMove s := rfl

theorem State.linksMove.trans {s t u : State} (h : s.linksMove t) (g : t.linksMove u) : s.linksMove u := by
  rw [State.linksMove, h] at g
  exact g

theorem State.linksMove_foldl {β : Type} {f : State → β → State} (h : ∀ (s : State) b, s.linksMove (f s b)) (l : List β) (s : State) :
    s.linksMove (l.foldl f s) :=
  List.foldlRecOn (motive := fun t : State => s.linksMove t) l f (.refl s) (fun t ht b _ => ht.trans (h t b))

theorem State.portsMove.refl (s : State) : s.portsMove s := rfl

theorem State.portsMove.trans {s t u : State} (h : s.portsMove t) (g : t.portsMove u) : s.portsMove u := by
  rw [State.portsMove, h] at g
  exact g

theorem State.portsMove.links {s t : State} (h : s.portsMove t) : s.linksMove t := by
  rw [State.portsMove] at h
  rw [State.linksMove, h]

theorem State.portsMove.pairIn {s t : State} (h : s.portsMove t) (d : Nat) : t.pairIn d = s.pairIn d := by rw [h]; rfl
theorem State.portsMove.pairOut {s t : State} (h : s.portsMove t) (d : Nat) : t.pairOut d = s.pairOut d := by rw [h]; rfl

/-! ### Ports -/

@[simp] theorem State.port_setPort_self (s : State) (p : Nat) (x : Port) : (s.setPort p x).port p = x := SMap.get_set_self _ _ _ _

theorem State.port_setPort (s : State) (p q : Nat) (x : Port) : (s.setPort p x).port q = if q = p then x else s.port q :=
  SMap.get_set _ _ _ _ _

theorem State.portsMove_setPort (s : State) (p : Nat) (x : Port) : s.portsMove (s.setPort p x) := rfl

/-- A port after flits were sent on it: the next LSEQ and the retry buffer are all that differs. -/
def Port.sent (x y : Port) : Prop := y = { x with txSeq := y.txSeq, retry := y.retry }

theorem Port.sent.refl (x : Port) : x.sent x := rfl

theorem Port.sent.trans {x y z : Port} (h : x.sent y) (g : y.sent z) : x.sent z := by
  rw [Port.sent, h] at g
  exact g

section
variable {x y : Port} (h : x.sent y)
include h

theorem Port.sent.rxSeq : y.rxSeq = x.rxSeq := by rw [h]
theorem Port.sent.nakSent : y.nakSent = x.nakSent := by rw [h]
theorem Port.sent.found : y.found = x.found := by rw [h]
theorem Port.sent.state : y.state = x.state := by rw [h]
theorem Port.sent.lanes : y.lanes = x.lanes := by rw [h]
theorem Port.sent.down : y.down = x.down := by rw [h]
end

theorem State.portsMove_sendOn (s : State) (p : Nat) (f : Flit) : s.portsMove (s.sendOn p f) := rfl

theorem State.sent_sendOn (s : State) (p : Nat) (f : Flit) (q : Nat) : (s.port q).sent ((s.sendOn p f).port q) := by
  rw [State.sendOn, State.port_setPort]
  split
  case isTrue h => simp only [Port.sent, h]
  case isFalse => exact .refl _

theorem State.linksMove_sendRoute (s : State) (f : Flit) : s.linksMove (s.sendRoute f) := by
  unfold State.sendRoute
  split <;> rfl

theorem State.sent_sendRoute (s : State) (f : Flit) (q : Nat) : (s.port q).sent ((s.sendRoute f).port q) := by
  unfold State.sendRoute
  split
  · exact s.sent_sendOn _ f q
  · exact .refl _

@[simp] theorem State.pairIn_sendRoute (s : State) (f : Flit) (d : Nat) : (s.sendRoute f).pairIn d = s.pairIn d := by
  unfold State.sendRoute
  split <;> rfl

@[simp] theorem State.pairOut_sendRoute (s : State) (f : Flit) (d : Nat) : (s.sendRoute f).pairOut d = s.pairOut d := by
  unfold State.sendRoute
  split <;> rfl

@[simp] theorem State.pairIn_setPairIn_self (s : State) (d : Nat) (x : PairIn) : (s.setPairIn d x).pairIn d = x := SMap.get_set_self _ _ _ _

@[simp] theorem State.pairOut_setPairOut_self (s : State) (d : Nat) (x : PairOut) : (s.setPairOut d x).pairOut d = x :=
  SMap.get_set_self _ _ _ _

/-! ### A flit arrives -/

/-- A port once the flit that it awaited has come. -/
def Port.hopped (x : Port) : Port := { x with rxSeq := (x.rxSeq + 1) % 4096, nakSent := false }

/-- The state once port `p` has taken the flit of type `ft` that it awaited. -/
def State.hopped (s : State) (ft p : Nat) : State :=
  if ackedType ft then (s.setPort p (s.port p).hopped).sendLinkAck p false (((s.port p).rxSeq + 1) % 4096) else s.setPort p (s.port p).hopped

theorem State.portsMove_hopped (s : State) (ft p : Nat) : s.portsMove (s.hopped ft p) := by
  unfold State.hopped
  split <;> rfl

theorem State.sent_hopped (s : State) (ft p : Nat) : (s.port p).hopped.sent ((s.hopped ft p).port p) := by
  unfold State.hopped
  split
  · have h := (s.setPort p (s.port p).hopped).sent_sendOn p (mkFlit ftLinkAck 0 s.links.topo.self s.links.topo.self 0
      ([if false then 1 else 0] ++ le16 (((s.port p).rxSeq + 1) % 4096))) p
    rwa [State.port_setPort_self] at h
  · rw [State.port_setPort_self]
    exact .refl _

theorem State.hopped_rxSeq (s : State) (ft p : Nat) : ((s.hopped ft p).port p).rxSeq = ((s.port p).rxSeq + 1) % 4096 := (s.sent_hopped ft p).rxSeq

section
variable {s : State} {ft p : Nat} {f : Flit}

theorem State.hopReceive_stopped (h : (s.port p).lanes = [] ∨ (s.port p).down = true ∨ (s.port p).state < 5) :
    s.hopReceive ft p f = (s, false) := by
  unfold State.hopReceive
  refine if_pos ?_
  simpa [or_assoc] using h

section
variable (hlanes : (s.port p).lanes ≠ []) (hdown : (s.port p).down = false) (hstate : 5 ≤ (s.port p).state)
include hlanes hdown hstate

/-- A wrong CRC: the port asks for a replay from the flit that it awaits. -/
theorem State.hopReceive_crc (hcrc : flitCrcOk f = false) :
    s.hopReceive ft p f = ((s.setPort p { s.port p with nakSent := true }).sendLinkAck p true (s.port p).rxSeq, false) := by
  unfold State.hopReceive
  simp [hlanes, hdown, hstate, hcrc]

/-- The awaited flit: taken, and passed on where it is of the type named with no reserved bit set. -/
theorem State.hopReceive_next (hcrc : flitCrcOk f = true) (hlseq : f.lseq.toNat % 4096 = (s.port p).rxSeq) :
    s.hopReceive ft p f
      = if f.ftype.toNat ≠ ft ∨ flitReserved f = true then ((s.hopped ft p).bump lnkFlitBad 1, false) else (s.hopped ft p, true) := by
  unfold State.hopReceive State.hopped Port.hopped
  simp [hlanes, hdown, hstate, hcrc, hlseq]

end

theorem State.hopReceive_hops (h : s.hops ft p f) : s.hopReceive ft p f = (s.hopped ft p, true) := by
  rw [State.hopReceive_next h.lanes h.down h.state h.crc h.lseq, if_neg (by simp [h.ftype, h.reserved])]

/-- A flit that the hop level does not pass on does nothing further, whatever its command. -/
theorem exec_flitCmd_ends {i : Instr} (hi : flitCmd i = some (ft, p, f)) (h : (s.hopReceive ft p f).2 = false) :
    exec i s = .next (s.hopReceive ft p f).1 := by
  cases i
  all_goals cases hi
  all_goals simp [exec, execData, execRelease, execE2eAck, execLinkAck, execSync, execPeer, execNotice, execIdle, State.recvRouted, h]

end

/-- Settles O36: a port's answer to a flit is `State.hopReceive`, and no flit command goes beyond it where it passes nothing on. -/
theorem flitsAtTheHop : Obligations.FlitsAtTheHop := by
  intro s i ft p f hi
  refine ⟨fun hstopped => ?_, fun hlanes hdown hstate hcrc => ?_, fun hlanes hdown hstate hcrc hlseq hbad => ?_⟩
  · have hhop := State.hopReceive_stopped (ft := ft) (f := f) hstopped
    rw [exec_flitCmd_ends hi (by rw [hhop]), hhop]
  · have hhop := State.hopReceive_crc (ft := ft) hlanes hdown hstate hcrc
    have hsent := (s.setPort p { s.port p with nakSent := true }).sent_sendOn p (mkFlit ftLinkAck 0 s.links.topo.self s.links.topo.self 0
      ([if true then 1 else 0] ++ le16 (s.port p).rxSeq)) p
    rw [State.port_setPort_self] at hsent
    refine ⟨_, ?_, hsent.rxSeq, hsent.nakSent, (s.portsMove_setPort p _).trans (State.portsMove_sendOn _ p _)⟩
    rw [exec_flitCmd_ends hi (by rw [hhop]), hhop]
    rfl
  · have hhop := State.hopReceive_next (ft := ft) hlanes hdown hstate hcrc hlseq
    rw [if_pos hbad] at hhop
    have hmove := s.portsMove_hopped ft p
    refine ⟨(s.hopped ft p).bump lnkFlitBad 1, by rw [exec_flitCmd_ends hi (by rw [hhop]), hhop], s.hopped_rxSeq ft p, ?_, ?_⟩
    · rw [State.fld_bump _ (by decide), hmove]
      rfl
    · rw [State.portsMove] at hmove
      rw [hmove]
      rfl

end Sys2Proof.Machine
end

section
/-! SUPPORT. Routed flits (14 R382, R385, R387, R404): what the end-to-end level makes of the flit that a pair awaits. -/

namespace Sys2Proof.Machine

/-! ### Work that ends with TARGET_RESET (14 R404) -/

/-- The works of `s` stand in `t` with the results that they had. -/
def State.resultsStand (t s : State) : Prop := ∀ w ∈ s.works, ∃ v ∈ t.works, v.ring = w.ring ∧ v.seq = w.seq ∧ v.result = w.result

theorem State.resultsStand.refl (s : State) : s.resultsStand s := fun w hw => ⟨w, hw, rfl, rfl, rfl⟩

theorem State.resultsStand.trans {a b c : State} (h : c.resultsStand b) (g : b.resultsStand a) : c.resultsStand a := fun w hw => by
  obtain ⟨v, hv, hring, hseq, hresult⟩ := g w hw
  obtain ⟨u, hu, hring', hseq', hresult'⟩ := h v hv
  exact ⟨u, hu, hring'.trans hring, hseq'.trans hseq, hresult'.trans hresult⟩

/-- An abort without a status leaves the results of the works as they are. -/
theorem State.resultsStand_abortSlice (s : State) (i cause : Nat) : (s.abortSlice i cause none).resultsStand s := by
  by_cases h : ∃ p, s.placedAt i = some p ∧ p.active = true
  · obtain ⟨p, hp, ha⟩ := h
    obtain ⟨-, -, -, -, -, hworks, -⟩ := s.abortSlice_spec i cause none hp ha
    intro w hw
    refine ⟨_, by rw [hworks]; exact List.mem_map_of_mem hw, ?_⟩
    split <;> exact ⟨rfl, rfl, rfl⟩
  · rw [s.abortSlice_none i cause none fun p hp => Bool.eq_false_iff.mpr fun ha => h ⟨p, hp, ha⟩]
    exact .refl s

@[simp] theorem State.abortSlice_links (s : State) (i cause : Nat) (st : Option Nat) : (s.abortSlice i cause st).links = s.links := by
  unfold State.abortSlice
  split
  · rfl
  · next p _ =>
    split
    · obtain ⟨m, hm⟩ := State.stopCores_only (fun k => if k.ctx.work = some i then k.stop true else k) p.cores s
      simp [hm]
    · rfl

theorem State.endTargetReset_links (s : State) (hit : Work → Bool) : (s.endTargetReset hit).links = s.links := by
  unfold State.endTargetReset
  rw [State.bump_links, foldl_keeps State.links (fun t i => t.abortSlice_links i 1 none)]

/-- What an end with TARGET_RESET leaves, and the results that it gives. -/
theorem State.endTargetReset_spec (s : State) (hit : Work → Bool) :
    (s.endTargetReset hit).hbm = s.hbm ∧ (s.endTargetReset hit).turn.number = s.turn.number
      ∧ ∀ w ∈ s.works, w.interrupted = true → hit w = true →
        ∃ v ∈ (s.endTargetReset hit).works, v.ring = w.ring ∧ v.seq = w.seq ∧ v.result = some stTargetReset := by
  unfold State.endTargetReset
  extract_lets n s1 idx
  have hends := State.endsSlices_foldl (fun (t : State) i => State.endsSlices_abortSlice t i 1 none) idx s1
  have hstand : ∀ (l : List Nat) (t : State), (l.foldl (fun (t : State) i => t.abortSlice i 1 none) t).resultsStand t := fun l t =>
    List.foldlRecOn (motive := fun u : State => u.resultsStand t) l _ (.refl t) fun u hu i _ => (u.resultsStand_abortSlice i 1).trans hu
  refine ⟨hends.hbm, hends.number, fun w hw hopen hhit => ?_⟩
  obtain ⟨v, hv, hring, hseq, hresult⟩ := hstand idx s1 _ (List.mem_map_of_mem (f := fun w =>
    if w.interrupted && hit w then { w with result := some stTargetReset, copies := [] } else w) hw)
  rw [if_pos (by simp [hopen, hhit])] at hring hseq hresult
  exact ⟨v, hv, hring, hseq, hresult⟩

/-- Another chip's reset: told of, its works end, and its pair starts again. -/
theorem State.chipReset_spec (s : State) (c : Nat) : (s.chipReset c).tells s.turn.number .peerReset 0
    ∧ (∀ w ∈ s.works, w.interrupted = true → s.multiChip w = true → s.groupHas w c = true →
        ∃ v ∈ (s.chipReset c).works, v.ring = w.ring ∧ v.seq = w.seq ∧ v.result = some stTargetReset)
    ∧ (s.chipReset c).hbm = s.hbm := by
  obtain ⟨hhbm, hnumber, hworks⟩ := s.endTargetReset_spec (fun w => s.multiChip w && s.groupHas w c)
  refine ⟨?_, fun w hw hopen hmulti hgroup => ?_, ?_⟩
  · rw [← hnumber]
    exact State.log_tells _ .peerReset {} (by decide)
  · obtain ⟨v, hv, h⟩ := hworks w hw hopen (by simp [hmulti, hgroup])
    exact ⟨v, by rw [State.chipReset, State.log_works]; exact hv, h⟩
  · rw [State.chipReset, State.log_hbm]
    exact hhbm

/-- The pair with a chip that reset starts again; every other stays. -/
theorem State.pairIn_chipReset (s : State) (c d : Nat) : (s.chipReset c).pairIn d = if d = c then {} else s.pairIn d := by
  unfold State.pairIn State.chipReset
  rw [State.log_links, SMap.get_set, State.endTargetReset_links]

/-! ### Up to the pair (14 R385) -/

section
variable {s : State} {ft p : Nat} {f : Flit}

theorem State.routeIn_here (h : f.dst.toNat = s.links.topo.self) : s.routeIn f = (s, true) := if_pos h

theorem State.pairs.of_portsMove {t : State} (h : s.pairs f) (hmove : s.portsMove t) : t.pairs f := by
  obtain ⟨hdst, heseq, hahead, hroom⟩ := h
  rw [hmove]
  exact ⟨hdst, heseq, hahead, hroom⟩

theorem State.drainAhead_nil {src : Nat} (h : (s.pairIn src).ahead = []) (n : Nat) : State.drainAhead n s src = s := by
  cases n with
  | zero => rfl
  | succ n => simp [State.drainAhead, h]

/-- The flit that the pair awaits goes up and is acknowledged. -/
theorem State.pairReceive_next (h : s.pairs f) (hahead : ((s.takeUp f.src.toNat f).pairIn f.src.toNat).ahead = []) :
    s.pairReceive f = (s.takeUp f.src.toNat f).sendE2eAck f.src.toNat := by
  have hnext : (f.eseq.toNat + 2 ^ 32 - (s.pairIn f.src.toNat).expect) % 2 ^ 32 = 0 := by rw [← h.eseq]; simp
  simp only [State.pairReceive, h.room, Bool.false_eq_true, if_false, hnext, if_true, State.drainAhead_nil hahead]

/-- A routed flit for this chip, in order at the hop and in its pair. -/
theorem State.recvRouted_next (hhop : s.hops ft p f) (hpair : s.pairs f)
    (hahead : (((s.hopped ft p).takeUp f.src.toNat f).pairIn f.src.toNat).ahead = []) :
    s.recvRouted ft p f = ((s.hopped ft p).takeUp f.src.toNat f).sendE2eAck f.src.toNat := by
  have hup := hpair.of_portsMove (s.portsMove_hopped ft p)
  simp only [State.recvRouted, State.hopReceive_hops hhop, if_true, State.routeIn_here hup.dst, State.pairReceive_next hup hahead]

/-! ### What goes up (14 R382, R387) -/

theorem State.setPairIn_setPairIn (d : Nat) (x y : PairIn) : (s.setPairIn d x).setPairIn d y = s.setPairIn d y := by
  simp [State.setPairIn, SMap.set_set]

/-- The inbound half of a pair once a flit in order has gone up. -/
def PairIn.next (x : PairIn) : PairIn := { x with expect := (x.expect + 1) % 2 ^ 32 }

/-- A word in one flit. -/
theorem State.takeUp_data {src : Nat} {w : LinkWord} (hft : f.ftype.toNat = ftData) (hfirst : f.fflags.getLsbD 0 = true)
    (hlast : f.fflags.getLsbD 1 = true) (hw : parseWord src f.payload = some w) :
    s.takeUp src f = s.setPairIn src { (s.pairIn src).next with
      partialWord := none
      words := (s.pairIn src).words ++ [{ w with data := if w.isSignal then [] else (f.payload.drop 48).take w.len }] } := by
  simp only [State.takeUp, if_pos hft, State.takeData, hfirst, hlast, hw, State.pairIn_setPairIn_self, Option.map_some, if_true,
    State.setPairIn_setPairIn, PairIn.next]

/-- The release that a RELEASE flit's payload spells (R387). -/
def releaseOf (f : Flit) : ReleaseIn :=
  ⟨fieldAt f.payload 0 8, (List.range (fieldAt f.payload 8 2)).map (fun i => (fieldAt f.payload (12 + 14 * i) 1,
    fieldAt f.payload (12 + 14 * i + 2) 2, fieldAt f.payload (12 + 14 * i + 4) 8, fieldAt f.payload (12 + 14 * i + 12) 2)),
    f.fflags.getLsbD 1⟩

theorem State.takeUp_release {src : Nat} (hft : f.ftype.toNat = ftRelease) (hcount : fieldAt f.payload 8 2 ≤ 16)
    (hreserved : fieldAt f.payload 10 2 = 0) (htail : fieldAt f.payload 0xEC 4 = 0)
    (hentries : ∀ i, i < fieldAt f.payload 8 2 → fieldAt f.payload (13 + 14 * i) 1 = 0) :
    s.takeUp src f = s.setPairIn src { (s.pairIn src).next with releases := (s.pairIn src).releases ++ [releaseOf f] } := by
  have hall : (List.range (fieldAt f.payload 8 2)).all (fun i => decide (fieldAt f.payload (13 + 14 * i) 1 = 0)) = true := by
    simpa using hentries
  simp only [State.takeUp, hft, ftRelease, ftData, State.takeRelease, hcount, hreserved, htail, hall, State.pairIn_setPairIn_self,
    State.setPairIn_setPairIn, PairIn.next, releaseOf]
  simp

/-- A NOTICE that another chip resets. -/
theorem State.takeUp_notice {src : Nat} (hft : f.ftype.toNat = ftNotice) (hkind : fieldAt f.payload 2 1 = 0) :
    s.takeUp src f = (s.setPairIn src (s.pairIn src).next).chipReset (fieldAt f.payload 0 2) := by
  simp only [State.takeUp, hft, ftNotice, ftData, ftRelease, State.takeNotice, hkind, PairIn.next]
  simp

theorem State.linksMove_sendE2eAck (s : State) (src : Nat) : s.linksMove (s.sendE2eAck src) := s.linksMove_sendRoute _

@[simp] theorem State.pairIn_sendE2eAck (s : State) (src d : Nat) : (s.sendE2eAck src).pairIn d = s.pairIn d := s.pairIn_sendRoute _ d

/-- What a flit that leaves no flit ahead makes of its pair, where it changes nothing but the pair. -/
theorem State.recvRouted_setPairIn (hhop : s.hops ft p f) (hpair : s.pairs f) {y : PairIn} (hy : y.ahead = [])
    (hup : (s.hopped ft p).takeUp f.src.toNat f = (s.hopped ft p).setPairIn f.src.toNat y) :
    s.linksMove (s.recvRouted ft p f) ∧ (s.recvRouted ft p f).pairIn f.src.toNat = y
      ∧ ((s.recvRouted ft p f).port p).rxSeq = ((s.port p).rxSeq + 1) % 4096 := by
  rw [State.recvRouted_next hhop hpair (by rw [hup, State.pairIn_setPairIn_self, hy]), hup]
  refine ⟨(s.portsMove_hopped ft p).links.trans (State.linksMove.trans (t := (s.hopped ft p).setPairIn f.src.toNat y) rfl
    (State.linksMove_sendE2eAck _ _)), by simp, ?_⟩
  exact (State.sent_sendRoute _ _ p).rxSeq.trans (s.hopped_rxSeq ft p)

end

/-- Settles O37: past the hop the flit goes up, by the kind of its type, and the pair acknowledges it. -/
theorem routedFlitsPassUp : Obligations.RoutedFlitsPassUp := by
  intro s p f hpair x
  have hx (ft : Nat) : (s.hopped ft p.val).pairIn f.src.toNat = x := (s.portsMove_hopped ft p.val).pairIn _
  refine ⟨fun w hhop hfirst hlast hw => ?_, fun hhop hcount hreserved htail hentries => ?_, fun hhop hkind => ?_⟩
  · obtain ⟨hmove, hin, hport⟩ := State.recvRouted_setPairIn hhop hpair (by rw [hx]; exact hpair.ahead)
      (State.takeUp_data hhop.ftype hfirst hlast hw)
    refine ⟨_, rfl, hport, by rw [hin, hx]; rfl, by rw [hin, hx], ?_⟩
    rw [hmove]
    exact ⟨rfl, rfl, rfl, rfl⟩
  · obtain ⟨hmove, hin, -⟩ := State.recvRouted_setPairIn hhop hpair (by rw [hx]; exact hpair.ahead)
      (State.takeUp_release hhop.ftype hcount hreserved htail hentries)
    refine ⟨_, releaseOf f, rfl, by rw [hin, hx]; rfl, by rw [hin, hx], ?_⟩
    rw [hmove]
    exact ⟨rfl, rfl, rfl⟩
  · have hup := State.takeUp_notice (s := s.hopped ftNotice p.val) (src := f.src.toNat) hhop.ftype hkind
    have hahead : (((s.hopped ftNotice p.val).takeUp f.src.toNat f).pairIn f.src.toNat).ahead = [] := by
      rw [hup, State.pairIn_chipReset, State.pairIn_setPairIn_self, hx]
      split
      · rfl
      · exact hpair.ahead
    have hmove := s.portsMove_hopped ftNotice p.val
    generalize hpre : (s.hopped ftNotice p.val).setPairIn f.src.toNat _ = t at hup
    have ht : t = { s with links := { s.links with ports := (s.hopped ftNotice p.val).links.ports, ins := t.links.ins } } := by
      rw [← hpre, hmove]
      rfl
    obtain ⟨htold, hworks, hhbm⟩ := t.chipReset_spec (fieldAt f.payload 0 2)
    refine ⟨_, rfl, ?_⟩
    rw [State.recvRouted_next hhop hpair hahead, hup, State.linksMove_sendE2eAck]
    refine ⟨?_, fun w hw hopen hmulti hgroup => ?_, ?_, ?_⟩
    · have hnumber : t.turn.number = s.turn.number := by rw [ht]
      rw [hnumber] at htold
      exact htold
    · refine hworks w (by rw [ht]; exact hw) hopen ?_ ?_
      · rw [ht]; exact hmulti
      · rw [ht]; exact hgroup
    · exact hhbm.trans (by rw [ht])
    · exact (t.chipReset_host _).trans (by rw [ht])

end Sys2Proof.Machine
end

section
/-! SUPPORT. The flits that steer the links (14 R380, R381, R385, R398): E2E_ACK, LINK_ACK, IDLE and PEER. -/

namespace Sys2Proof.Machine

/-! ### LINK_ACK (14 R380) -/

theorem State.countReplay_links (s : State) (p : Nat) :
    (s.countReplay p).links = { s.links with replays := (s.countReplay p).links.replays } := by
  unfold State.countReplay
  extract_lets s1 span l put
  split
  · rw [State.log_links]
    rfl
  · rfl

/-- A replay is counted, whether or not it is one too many within its second. -/
theorem State.countReplay_fld (s : State) (p : Nat) :
    (s.countReplay p).fld lnkReplay = (s.fld lnkReplay + 1) % 2 ^ lnkReplay.width := by
  have hput (x : List Nat) : ({ s.bump lnkReplay 1 with links := { (s.bump lnkReplay 1).links with
      replays := SMap.set [] (s.bump lnkReplay 1).links.replays p x } } : State).fld lnkReplay
        = (s.fld lnkReplay + 1) % 2 ^ lnkReplay.width := State.fld_bump s (by decide) 1
  unfold State.countReplay
  dsimp only
  split
  · rw [State.fld_log _ _ _ (by decide) (by decide)]
    exact hput []
  · exact hput _

theorem State.countReplay_rest (s : State) (p : Nat) : (s.countReplay p).works = s.works ∧ (s.countReplay p).cores = s.cores := by
  unfold State.countReplay
  dsimp only
  split
  · rw [State.log_works, State.log_cores]
    exact ⟨rfl, rfl⟩
  · exact ⟨rfl, rfl⟩

/-- IDLE and LINK_ACK are not acknowledged. -/
theorem State.hopped_unacked (s : State) {ft : Nat} (p : Nat) (h : ackedType ft = false) : s.hopped ft p = s.setPort p (s.port p).hopped :=
  if_neg (by simp [h])

/-! ### PEER (14 R398) -/

theorem State.sendWaiting_spec (s : State) : s.linksMove s.sendWaiting ∧ ∀ q, (s.port q).sent (s.sendWaiting.port q) :=
  ⟨State.linksMove.trans (t := { s with links := { s.links with waiting := [] } }) rfl
      (State.linksMove_foldl State.linksMove_sendRoute _ _),
    fun q => List.foldlRecOn (motive := fun t : State => (s.port q).sent (t.port q)) _ _ (.refl _)
      fun t ht f _ => ht.trans (t.sent_sendRoute f q)⟩

/-- The peer that a PEER flit names, with whether it spells this system. -/
def State.peerOf (s : State) (f : Flit) : Nat × Nat × Bool :=
  (fieldAt f.payload 0 2, fieldAt f.payload 2 1, decide (sliceBytes f.payload 11 32 = s.sysdig))

theorem State.takePeer_spec (s : State) (p : Nat) (f : Flit) : s.linksMove (s.takePeer p f)
    ∧ ((s.takePeer p f).port p).found = some (s.peerOf f)
    ∧ ((s.takePeer p f).port p).state = if (s.port p).state = 5 then 6 else (s.port p).state := by
  unfold State.takePeer
  extract_lets b chip boot x s1 y paired links s2
  have hfound : s1.port p = { x with found := some (s.peerOf f), state := if x.state = 5 then 6 else x.state } := s.port_setPort_self p _
  have hport : s2.port p = s1.port p := by
    simp only [s2]
    split <;> rfl
  have hmove : s.linksMove s2 := by
    simp only [s2]
    split <;> rfl
  obtain ⟨hsend, hports⟩ := s2.sendWaiting_spec
  have hsent := hports p
  rw [hport, hfound] at hsent
  exact ⟨hmove.trans hsend, hsent.found, hsent.state⟩

/-- Settles O38: each of the four goes up from the hop to its own effect. -/
theorem linkControlFlits : Obligations.LinkControlFlits := by
  intro s p f
  refine ⟨fun hhop hdst => ?_, fun hhop => ?_, fun hhop => ?_, fun hhop => ?_⟩
  · have hmove := s.portsMove_hopped ftE2eAck p.val
    have hhere : f.dst.toNat = (s.hopped ftE2eAck p.val).links.topo.self := by rw [hmove]; exact hdst
    refine ⟨(s.hopped ftE2eAck p.val).takeE2eAck f, ?_, ?_, ?_⟩
    · simp only [exec, execE2eAck, State.hopReceive_hops hhop, if_true, State.routeIn_here hhere]
    · simp only [State.takeE2eAck, State.pairOut_setPairOut_self, hmove.pairOut, ← decide_not, not_lt]
    · exact hmove.links.trans (t := s.hopped ftE2eAck p.val) rfl
  · have hhopped := s.hopped_unacked p.val (ft := ftLinkAck) rfl
    have hport : (s.hopped ftLinkAck p.val).port p.val = (s.port p.val).hopped := by rw [hhopped, State.port_setPort_self]
    by_cases hnak : fieldAt f.payload 0 1 = 1 ∧ ∃ g ∈ (s.port p.val).retry, g.lseq.toNat = fieldAt f.payload 1 2
    · obtain ⟨hone, g, hg, hseq⟩ := hnak
      have hany : (s.port p.val).hopped.retry.any (fun g => decide (g.lseq.toNat = fieldAt f.payload 1 2)) = true :=
        List.any_eq_true.mpr ⟨g, hg, by simpa using hseq⟩
      obtain ⟨hworks, hcores⟩ := (s.hopped ftLinkAck p.val).countReplay_rest p.val
      refine ⟨(s.hopped ftLinkAck p.val).countReplay p.val, ?_, ?_, fun hne => absurd hone hne, fun _ _ => ?_, ?_, ?_⟩
      · simp only [exec, execLinkAck, State.hopReceive_hops hhop, hport, hany, hone, decide_true, Bool.and_self, if_true]
      · have hports : ((s.hopped ftLinkAck p.val).countReplay p.val).port p.val = (s.hopped ftLinkAck p.val).port p.val := by
          rw [State.port, State.countReplay_links]
          rfl
        rw [hports, hport]
        rfl
      · rw [State.countReplay_fld, hhopped]
        rfl
      · rw [hworks, hhopped]; rfl
      · rw [hcores, hhopped]; rfl
    · refine ⟨s.hopped ftLinkAck p.val, ?_, s.hopped_rxSeq _ _, fun _ => (s.portsMove_hopped _ _).links,
        fun hone hex => absurd ⟨hone, hex⟩ hnak, by rw [hhopped]; rfl, by rw [hhopped]; rfl⟩
      simp only [exec, execLinkAck, State.hopReceive_hops hhop, hport]
      refine if_neg fun h => hnak ?_
      simpa [Port.hopped] using h
  · simp only [exec, execIdle, State.hopReceive_hops hhop, s.hopped_unacked p.val (ft := 0) rfl]
    rfl
  · have hmove := s.portsMove_hopped ftPeer p.val
    obtain ⟨hlinks, hfound, hstate⟩ := (s.hopped ftPeer p.val).takePeer_spec p.val f
    refine ⟨(s.hopped ftPeer p.val).takePeer p.val f, ?_, ?_, ?_, hmove.links.trans hlinks⟩
    · simp only [exec, execPeer, State.hopReceive_hops hhop, if_true]
    · rw [hfound, State.peerOf, hmove]
      rfl
    · rw [hstate, (s.sent_hopped ftPeer p.val).state]
      rfl

end Sys2Proof.Machine
end

section
/-! SUPPORT. Turn alignment (14 R394 to R397): a master's SYNC, the pulse, and the states of synchronisation. -/

namespace Sys2Proof.Machine

theorem State.portsMove_sendSync (s : State) (master turn ticks : Nat) : s.portsMove (s.sendSync master turn ticks) :=
  List.foldlRecOn (motive := fun t : State => s.portsMove t) _ _ (.refl s) fun t ht n _ => by
    split
    · exact ht.trans (t.portsMove_sendOn _ _)
    · exact ht

/-- A pin's event is traced; nothing but the trace differs. -/
theorem State.pinEvent_regs (s : State) (pin event tick : Nat) : (s.pinEvent pin event tick).regs = s.regs := State.trace1_regs s _ _
theorem State.pinEvent_errs (s : State) (pin event tick : Nat) : (s.pinEvent pin event tick).errs = s.errs := State.trace1_errs s _ _

theorem State.isReady_of_state {s : State} (h : s.power.state = .ready) : s.isReady = true := by simp [State.isReady, h]

/-- A valid sync leaves the master and its turn, and every register but the phase error. -/
theorem State.takePhase_spec (s : State) (e : Int) :
    (s.takePhase e).links.sync.masterSturn = s.links.sync.masterSturn ∧ (s.takePhase e).links.sync.master = s.links.sync.master
      ∧ (s.takePhase e).flag lnkMaster = s.flag lnkMaster ∧ s.takePhase e = { s with links := (s.takePhase e).links, regs := (s.takePhase e).regs } :=
  ⟨rfl, rfl, State.flag_setFld_other _ (by decide) _ (by decide), rfl⟩

/-- A SYNC that the chip heeds: of the master or the backup, and not of a master that the backup has replaced. -/
theorem State.takeSync_spec (s : State) (f : Flit) (err : Int)
    (hsender : fieldAt f.payload 12 2 = s.links.topo.master ∨ fieldAt f.payload 12 2 = s.links.topo.backup)
    (hheeded : s.links.sync.master ≠ s.links.topo.backup ∨ fieldAt f.payload 12 2 = s.links.topo.backup) :
    (s.takeSync f err).links.sync.masterSturn = fieldAt f.payload 0 8 ∧ (s.takeSync f err).links.sync.master = fieldAt f.payload 12 2
      ∧ (s.takeSync f err).flag lnkMaster = decide (fieldAt f.payload 12 2 = s.links.topo.self)
      ∧ s.takeSync f err = { s with links := (s.takeSync f err).links, regs := (s.takeSync f err).regs } := by
  unfold State.takeSync
  extract_lets b m t links sync s1 s2 s3
  rw [if_neg (by tauto), if_neg (by grind)]
  have hmove := s3.portsMove_sendSync m (fieldAt b 0 8) (fieldAt b 8 4)
  have hmaster : s2.flag lnkMaster = decide (m = t.self) := State.flag_setFlag _ (by decide) (by decide) _
  obtain ⟨hturn, hname, hflag, hrest⟩ : s3.links.sync.masterSturn = fieldAt b 0 8 ∧ s3.links.sync.master = m
      ∧ s3.flag lnkMaster = decide (m = t.self) ∧ s3 = { s with links := s3.links, regs := s3.regs } := by
    simp only [s3]
    split
    · obtain ⟨hturn, hname, hflag, hrest⟩ := s2.takePhase_spec err
      exact ⟨hturn, hname, hflag.trans hmaster, hrest⟩
    · exact ⟨rfl, rfl, hmaster, rfl⟩
  rw [State.portsMove] at hmove
  rw [hmove]
  exact ⟨hturn, hname, hflag, by rw [hrest]⟩

/-- Settles O39: the conditions of each command decide its one branch. -/
theorem turnAlignment : Obligations.TurnAlignment := by
  intro s
  refine ⟨fun p f err hhop hsender hheeded => ?_, fun since err hready hfollows hmode => ⟨fun hon => ?_, fun hrate hearly => ?_⟩,
    fun hready hfollows hlost hcounts => ?_, fun err hready hlost hgood herr => ?_, fun hready hlost hbackup hmaster hturns => ?_⟩
  · have hmove := s.portsMove_hopped ftSync p.val
    rw [State.portsMove] at hmove
    obtain ⟨hturn, hname, hflag, hrest⟩ := (s.hopped ftSync p.val).takeSync_spec f err (by rw [hmove]; exact hsender)
      (by rw [hmove]; exact hheeded)
    refine ⟨(s.hopped ftSync p.val).takeSync f err, ?_, hturn, hname, by rw [hflag, hmove], ?_⟩
    · simp only [exec, execSync, State.hopReceive_hops hhop, if_true]
    · rw [hrest, hmove]
      exact ⟨rfl, rfl, rfl⟩
  · refine ⟨s.takePhase err, ?_, rfl, rfl, rfl⟩
    simp only [exec, execTurnSyncPulse, State.isReady_of_state hready, hfollows, hmode, decide_true, Bool.and_self, if_true]
    exact if_neg fun h => by simp at h; rcases hon with h' | h' <;> [simp [h'] at h; omega]
  · simp only [exec, execTurnSyncPulse, State.isReady_of_state hready, hfollows, hmode, hrate, hearly, decide_true, Bool.and_self, if_true]
  · have hfired : (s.isReady && s.follows && !(s.flag lnkSyncLost) && (decide (3 ≤ s.links.sync.missed) || decide (3 ≤ s.links.sync.overLim)))
        = true := by
      simpa [State.isReady_of_state hready, hfollows, hlost] using hcounts
    refine ⟨_, if_pos hfired, ?_, ?_, ?_, ?_⟩
    · rw [State.flag_congr (State.pinEvent_regs _ _ _ _), State.flag_log _ _ _ (by decide) (by decide)]
      exact State.flag_setFlag _ (by decide) (by decide) _
    · rw [State.tells_congr (State.pinEvent_errs _ _ _ _)]
      exact State.log_tells _ .syncLost {} (by decide)
    · simp [State.pinEvent]
    · simp [State.pinEvent]
  · simp only [exec, execResync, State.isReady_of_state hready, hlost, hgood, herr, decide_true, Bool.and_self, if_true]
  · have hfired : (s.isReady && s.flag lnkSyncLost && decide (s.links.topo.backup = s.links.topo.self)
        && decide (s.links.sync.master ≠ s.links.topo.self) && decide (10 ≤ s.links.sync.lostTurns)) = true := by
      simp [State.isReady_of_state hready, hlost, hbackup, hmaster, hturns]
    refine ⟨_, if_pos hfired, ?_, ?_, by simp only [State.setFlag_links], by simp only [State.setFlag_works],
      by simp only [State.setFlag_cores], by simp only [State.setFlag_turn]⟩
    · rw [State.flag_setFlag_other _ (by decide) _ (by decide)]
      exact State.flag_setFlag _ (by decide) (by decide) _
    · exact State.flag_setFlag _ (by decide) (by decide) _

end Sys2Proof.Machine
end

section
/-! SUPPORT. Lanes, ports and timers of the links (14 R384, R385, R393, R398 to R400, R404). -/

namespace Sys2Proof.Machine

/-! ### A lane gives way (14 R399, R400) -/

/-- The links once the free spare of its group has taken a lane's place in port `p`. -/
def State.laneSpared (s : State) (p lane : Nat) : State :=
  let s1 := { s with links := { s.links with
    deadLanes := insertOnce lane s.links.deadLanes
    spares := SMap.set none s.links.spares (portSpare p) (some lane) } }
  s1.setPort p { s.port p with
    lanes := (s.port p).lanes.filter (fun l => decide (l ≠ lane)) ++ [spareLane (portSpare p)]
    spareIn := true }

/-- The links once a lane without a spare has left port `p`. -/
def State.laneGone (s : State) (p lane : Nat) : State :=
  let left := (s.port p).lanes.filter (fun l => decide (l ≠ lane))
  let s1 := { s with links := { s.links with deadLanes := insertOnce lane s.links.deadLanes } }
  s1.setPort p { s.port p with
    lanes := left
    spareIn := left.contains (spareLane (portSpare p))
    state := if left.isEmpty then 7 else (s.port p).state }

theorem State.laneSpared_only (s : State) (p lane : Nat) : s.linksMove (s.laneSpared p lane) := rfl
theorem State.laneGone_only (s : State) (p lane : Nat) : s.linksMove (s.laneGone p lane) := rfl

theorem State.spareLaneIn_free {s : State} {p lane : Nat} (h : s.spareFree lane (portSpare p) = true) :
    s.spareLaneIn p lane false
      = (((s.laneSpared p lane).repair 7 lane 0 (portSpare p)).bump lnkLanesSpared 1).log .laneSpared { inst := lane } := by
  unfold State.spareLaneIn
  rw [if_pos h]
  rfl

theorem State.spareLaneIn_used {s : State} {p lane : Nat} (h : s.spareFree lane (portSpare p) = false) :
    s.spareLaneIn p lane false = if ((s.port p).lanes.filter (fun l => decide (l ≠ lane))).isEmpty
      then (s.laneGone p lane).log .portDown { inst := lane } else (s.laneGone p lane).log .portNarrow { inst := lane } := by
  unfold State.spareLaneIn
  rw [if_neg (by simp [h])]
  rfl

/-- The body of a lane that gives way: the links of one of the two outcomes, and all else but records and stores as before. -/
theorem State.spareLaneIn_body (s : State) (p lane : Nat) :
    (s.spareLaneIn p lane false).sameBody (if s.spareFree lane (portSpare p) then s.laneSpared p lane else s.laneGone p lane) := by
  split
  case isTrue h =>
    rw [State.spareLaneIn_free h]
    exact (State.sameBody_log _ _ _).trans ((State.sameBody_bump _ _ _).trans (State.sameBody_repair _ _ _ _ _))
  case isFalse h =>
    rw [State.spareLaneIn_used (by simpa using h)]
    split <;> exact State.sameBody_log _ _ _

theorem State.sameBody.port {t s : State} (h : t.sameBody s) (p : Nat) : t.port p = s.port p := by rw [State.port, h.links, State.port]

theorem State.spareLaneIn_spec (s : State) (p lane : Nat) : lane ∈ (s.spareLaneIn p lane false).links.deadLanes
    ∧ (s.spareLaneIn p lane false).works = s.works ∧ (s.spareLaneIn p lane false).cores = s.cores
    ∧ (s.spareLaneIn p lane false).turn = s.turn := by
  have hbody := s.spareLaneIn_body p lane
  rw [hbody.links, hbody.works, hbody.cores, hbody.turn]
  split <;> exact ⟨mem_insertOnce.mpr (.inl rfl), rfl, rfl, rfl⟩

/-- The spare that is free and works takes the lane's place, and is told of. -/
theorem State.spareLaneIn_takes {s : State} {p lane : Nat} (h : s.spareFree lane (portSpare p) = true) :
    SMap.get none (s.spareLaneIn p lane false).links.spares (portSpare p) = some lane
      ∧ (s.spareLaneIn p lane false).tells s.turn.number .laneSpared lane
      ∧ ((s.spareLaneIn p lane false).port p).lanes = (s.port p).lanes.filter (fun l => decide (l ≠ lane)) ++ [spareLane (portSpare p)] := by
  have hbody := s.spareLaneIn_body p lane
  rw [if_pos h] at hbody
  refine ⟨?_, ?_, ?_⟩
  · rw [hbody.links]
    exact SMap.get_set_self none s.links.spares (portSpare p) (some lane)
  · have hturn : ((s.laneSpared p lane).repair 7 lane 0 (portSpare p)).turn = s.turn := (State.sameBody_repair _ _ _ _ _).turn
    rw [State.spareLaneIn_free h, ← hturn]
    exact State.log_tells _ .laneSpared _ (by decide)
  · rw [hbody.port]
    exact congrArg Port.lanes (State.port_setPort_self _ p _)

/-- Without a spare the port narrows or goes down, and either is told of. -/
theorem State.spareLaneIn_narrows {s : State} {p lane : Nat} (h : s.spareFree lane (portSpare p) = false) :
    ((s.spareLaneIn p lane false).port p).lanes = (s.port p).lanes.filter (fun l => decide (l ≠ lane))
      ∧ (if ((s.spareLaneIn p lane false).port p).lanes = [] then (s.spareLaneIn p lane false).tells s.turn.number .portDown lane
          else (s.spareLaneIn p lane false).tells s.turn.number .portNarrow lane) := by
  have hbody := s.spareLaneIn_body p lane
  rw [if_neg (by simp [h])] at hbody
  have hlanes : ((s.spareLaneIn p lane false).port p).lanes = (s.port p).lanes.filter (fun l => decide (l ≠ lane)) := by
    rw [hbody.port]
    exact congrArg Port.lanes (State.port_setPort_self _ p _)
  refine ⟨hlanes, ?_⟩
  rw [hlanes, State.spareLaneIn_used h]
  simp only [List.isEmpty_iff]
  split
  · exact State.log_tells (s.laneGone p lane) .portDown { inst := lane } (by decide)
  · exact State.log_tells (s.laneGone p lane) .portNarrow { inst := lane } (by decide)

/-! ### A lane trains (14 R398) -/

/-- A port once a lane that trained has joined it; a port that was down starts its sequences again. -/
def Port.joined (x : Port) (lane : Nat) : Port :=
  { x with
    lanes := x.lanes ++ [lane]
    down := false
    state := if x.lanes.isEmpty then 5 else x.state
    txSeq := if x.lanes.isEmpty then 0 else x.txSeq
    rxSeq := if x.lanes.isEmpty then 0 else x.rxSeq
    retry := if x.lanes.isEmpty then [] else x.retry }

/-- The state once the lane carries flits. -/
def State.laneJoined (s : State) (p lane : Nat) : State :=
  let s1 := s.setPort p ((s.port p).joined lane)
  if (s.port p).lanes.isEmpty then s1.sendOn p (s1.peerFlit p) else s1

theorem State.laneJoined_spec (s : State) (p lane : Nat) :
    s.linksMove (s.laneJoined p lane) ∧ ((s.port p).joined lane).sent ((s.laneJoined p lane).port p) := by
  have hport := s.port_setPort_self p ((s.port p).joined lane)
  unfold State.laneJoined
  dsimp only
  split
  · refine ⟨rfl, ?_⟩
    have hsent := (s.setPort p ((s.port p).joined lane)).sent_sendOn p ((s.setPort p ((s.port p).joined lane)).peerFlit p) p
    rwa [hport] at hsent
  · rw [hport]
    exact ⟨rfl, .refl _⟩

theorem execLinkTrainRetry_active {s : State} {lane : Fin 104} {p : Nat} (hp : lanePort lane.val = some p) (hpowered : s.powered = true)
    (hnew : lane.val ∉ (s.port p).lanes) (hlive : lane.val ∉ s.links.deadLanes) (hroom : (s.port p).lanes.length < 4) :
    execLinkTrainRetry lane .active s = .next (s.laneJoined p lane.val) := by
  have hjoins : (s.powered && !((s.port p).lanes.contains lane.val) && !(s.links.deadLanes.contains lane.val)
      && decide ((s.port p).lanes.length < 4)) = true := by simp [hpowered, hnew, hlive, hroom]
  simp only [execLinkTrainRetry, hp]
  rw [if_pos hjoins]
  rfl

/-! ### Sending what a notice or a timer sends -/

theorem State.linksMove_sendPair (s : State) (dst ftype fflags : Nat) (payload : List Byte) :
    s.linksMove (s.sendPair dst ftype fflags payload) :=
  State.linksMove.trans (t := s.setPairOut dst { s.pairOut dst with
    next := ((s.pairOut dst).next + 1) % 2 ^ 32
    held := (s.pairOut dst).held ++ [mkFlit ftype fflags s.links.topo.self dst (s.pairOut dst).next payload] }) rfl
    (State.linksMove_sendRoute _ _)

/-- A neighbour whose ports are all down counts as reset, and the others are told. -/
theorem execPortDownNotice_spec {s : State} {p : Fin 24} (hwired : (s.links.topo.ports.getD p.val (0, 0, 0)).2.2 ≠ 0)
    (hdown : s.upOf (s.links.topo.portsTo (s.links.topo.ports.getD p.val (0, 0, 0)).1) = []) :
    ∃ t, execPortDownNotice p s = .next t ∧ (s.chipReset (s.links.topo.ports.getD p.val (0, 0, 0)).1).linksMove t := by
  refine ⟨_, if_pos ?_, State.linksMove_foldl (fun u c => u.linksMove_sendPair _ _ _ _) _ _⟩
  rw [Bool.and_eq_true]
  exact ⟨decide_eq_true hwired, List.isEmpty_iff.mpr hdown⟩

/-! ### Timers of the pairs (14 R384, R385, R393) -/

section
variable {s : State} {d : BitVec 12}

/-- The oldest flit that a pair holds goes out again. -/
theorem execE2eTimeout_resends {f : Flit} {rest : List Flit} (h : (s.pairOut d.toNat).held = f :: rest) :
    ∃ t, execE2eTimeout d s = .next t ∧ (t.pairOut d.toNat).retries = (s.pairOut d.toNat).retries + 1
      ∧ (t.pairOut d.toNat).held = f :: rest ∧ t.fld lnkE2eRetx = (s.fld lnkE2eRetx + 1) % 2 ^ lnkE2eRetx.width
      ∧ t = { s with links := t.links, regs := t.regs } := by
  let counted := (s.setPairOut d.toNat { s.pairOut d.toNat with retries := (s.pairOut d.toNat).retries + 1 }).bump lnkE2eRetx 1
  have hpair : (counted.sendRoute f).pairOut d.toNat = { s.pairOut d.toNat with retries := (s.pairOut d.toNat).retries + 1 } := by
    rw [State.pairOut_sendRoute]
    exact State.pairOut_setPairOut_self s d.toNat _
  have hmove := counted.linksMove_sendRoute f
  refine ⟨counted.sendRoute f, ?_, by rw [hpair], by rw [hpair]; exact h, ?_, ?_⟩
  · unfold execE2eTimeout
    dsimp only
    split
    case h_1 hnil => rw [h] at hnil; cases hnil
    case h_2 hcons => rw [h] at hcons; cases hcons; rfl
  · rw [hmove]
    exact State.fld_bump (s.setPairOut d.toNat _) (by decide) 1
  · rw [State.linksMove] at hmove
    rw [hmove]
    rfl

theorem execE2eTimeout_idle (h : (s.pairOut d.toNat).held = []) : execE2eTimeout d s = .next s := by simp only [execE2eTimeout, h]

theorem execRouteLost_idle (h : (s.pairOut d.toNat).held = []) : execRouteLost d s = .next s := if_pos (.inl (by rw [h]; rfl))

/-- What a lost route held is abandoned, counted and told of. -/
theorem execRouteLost_abandons (hheld : (s.pairOut d.toNat).held ≠ []) (hroute : s.routePort s.links.topo.self d.toNat = none) :
    ∃ t, execRouteLost d s = .next t ∧ (t.pairOut d.toNat).held = []
      ∧ t.fld lnkRouteLoss = (s.fld lnkRouteLoss + 1) % 2 ^ lnkRouteLoss.width
      ∧ t.tells s.turn.number .routeLost 0 ∧ t.cores = s.cores ∧ t.turn = s.turn ∧ t.hbm = s.hbm := by
  have hlost : ¬((s.pairOut d.toNat).held.isEmpty = true ∨ (s.routePort s.links.topo.self d.toNat).isSome = true) := by
    simp [hheld, hroute]
  refine ⟨_, if_neg hlost, ?_, ?_, State.log_tells _ .routeLost {} (by decide), ?_, ?_, ?_⟩
  · rw [State.pairOut, State.log_links]
    exact congrArg PairOut.held (SMap.get_set_self _ _ _ _)
  · rw [State.fld_log _ _ _ (by decide) (by decide), State.fld_bump _ (by decide)]
    rfl
  · rw [State.log_cores]; rfl
  · rw [State.log_turn]; rfl
  · rw [State.log_hbm]; rfl

/-- A due word that has waited LINK_HOLD turns is discarded, counted and told of. -/
theorem execLinkOrphan_discards {index m : Nat} {w : LinkWord} (hw : (s.pairIn d.toNat).words[index]? = some w) (hdue : w.due = some m)
    (hwaited : m + s.fld lnkLinkHold ≤ s.sturn) :
    ∃ t, execLinkOrphan d index s = .next t ∧ (t.pairIn d.toNat).words = (s.pairIn d.toNat).words.eraseIdx index
      ∧ t.fld lnkOrphan = (s.fld lnkOrphan + 1) % 2 ^ lnkOrphan.width ∧ t.tells s.turn.number .linkOrphan 0
      ∧ t.works = s.works ∧ t.cores = s.cores ∧ t.turn = s.turn := by
  let gone := (s.setPairIn d.toNat { s.pairIn d.toNat with words := (s.pairIn d.toNat).words.eraseIdx index }).bump lnkOrphan 1
  refine ⟨gone.log .linkOrphan { ring := w.ring, seq := w.seq, slice := w.slice, lcore := w.score }, ?_, ?_, ?_,
    State.log_tells gone .linkOrphan _ (by decide), ?_, ?_, ?_⟩
  · simp only [execLinkOrphan, hw, hdue]
    exact if_pos (by simp [hwaited])
  · rw [State.pairIn, State.log_links]
    exact congrArg PairIn.words (SMap.get_set_self _ _ _ _)
  · rw [State.fld_log _ _ _ (by decide) (by decide)]
    exact State.fld_bump (s.setPairIn d.toNat _) (by decide) 1
  · rw [State.log_works]; rfl
  · rw [State.log_cores]; rfl
  · rw [State.log_turn]; rfl

end

/-- Settles O40: one lemma per lane command and per timer. -/
theorem lanesPortsAndTimers : Obligations.LanesPortsAndTimers := by
  refine ⟨fun s => ⟨fun lane p hp => ?_, fun lane p hp hpowered hnew hlive hroom => ?_, fun lane => rfl, fun p => ?_⟩,
    fun s d => ⟨fun f rest h => execE2eTimeout_resends h, fun h => ⟨execE2eTimeout_idle h, execRouteLost_idle h⟩,
      execRouteLost_abandons, fun index w m hw hdue hwaited => execLinkOrphan_discards hw hdue hwaited⟩⟩
  · obtain ⟨hdead, hworks, hcores, hturn⟩ := s.spareLaneIn_spec p lane.val
    refine ⟨s.spareLaneIn p lane.val false, ?_, hdead, fun hnone hne hlive => ?_, fun hused => ?_, hworks, hcores, hturn⟩
    · simp only [exec, execLaneSpared, hp]
    · exact State.spareLaneIn_takes (by simp [State.spareFree, hnone, hne, hlive])
    · exact State.spareLaneIn_narrows (by simp [State.spareFree, hused])
  · obtain ⟨hmove, hsent⟩ := s.laneJoined_spec p lane.val
    refine ⟨s.laneJoined p lane.val, execLinkTrainRetry_active hp hpowered hnew hlive hroom, hsent.lanes, hsent.down, fun hempty => ?_, hmove⟩
    rw [hsent.state, Port.joined, hempty]
    rfl
  · intro e hwired hdown
    obtain ⟨t, hexec, hmove⟩ := execPortDownNotice_spec hwired hdown
    obtain ⟨htold, -, hhbm⟩ := s.chipReset_spec e.1
    refine ⟨t, hexec, ?_⟩
    rw [hmove]
    exact ⟨htold, hhbm, s.chipReset_host e.1⟩

end Sys2Proof.Machine
end

section
/-! SUPPORT. Register reads (18 R475, R477, R482): what a read of 4 bytes and one of 8 give, and the latch of a register pair. -/

namespace Sys2Proof.Machine

/-! ### Offsets -/

/-- The two registers of an aligned 8-byte access stand side by side in one window. -/
theorem regTarget_next (f : Nat) {off : Nat} (h : off % 8 = 0) :
    regTarget f (off + 4) = ((regTarget f off).1 + 4, (regTarget f off).2) := by
  unfold regTarget
  by_cases hf : f ≠ 0
  · have hq : (off + 4) % 0x10000 / 0x2000 = off % 0x10000 / 0x2000 := by omega
    have hr : (off + 4) % 0x10000 % 0x2000 = off % 0x10000 % 0x2000 + 4 := by omega
    simp only [if_pos hf, hq, hr]
    split <;> simp only [Nat.add_assoc]
  by_cases hlow : off < 0x100000
  · have hlow' : off + 4 < 0x100000 := by omega
    have hb : (off + 4) / 0x10000 = off / 0x10000 := by omega
    have hq : (off + 4) % 0x10000 / 0x2000 = off % 0x10000 / 0x2000 := by omega
    have hr : (off + 4) % 0x10000 % 0x2000 = off % 0x10000 % 0x2000 + 4 := by omega
    simp only [if_neg hf, if_pos hlow, if_pos hlow', hb, hq, hr]
    split <;> simp only [Nat.add_assoc]
  · have hlow' : ¬ off + 4 < 0x100000 := by omega
    have hb : (off + 4) / 0x1000 = off / 0x1000 := by omega
    have hq : (off + 4) % 0x1000 / 0x400 = off % 0x1000 / 0x400 := by omega
    have hr : (off + 4) % 0x1000 % 0x400 = off % 0x1000 % 0x400 + 4 := by omega
    simp only [if_neg hf, if_neg hlow, if_neg hlow', hb, hq, hr]
    split <;> simp only [Nat.add_assoc]

theorem regTarget_lt (f : Nat) (off : BitVec 25) : (regTarget f off.toNat).1 < 2 ^ 26 := by
  have hoff : off.toNat < 2 ^ 25 := off.isLt
  unfold regTarget
  dsimp only
  split
  · split <;> (simp only [hifBase]; omega)
  · split <;> split <;> (dsimp only; omega)

/-- A requester's latches stand apart from every other's. -/
theorem latchKey_ne {rid rid' f f' key key' : Nat} (hf : f < 64) (hf' : f' < 64) (hkey : key < 2 ^ 26) (hkey' : key' < 2 ^ 26) (h : rid ≠ rid') :
    latchKey rid f key ≠ latchKey rid' f' key' := by
  unfold latchKey fnReg barOf
  omega

section
variable {s : State} {rid f off : Nat}

theorem State.hostReadReg_silent (hpath : s.hostPath = false) (size : Nat) : s.hostReadReg rid f off size = { s with reply := .silent } := by
  simp [State.hostReadReg, hpath]

theorem State.hostReadReg_unsupported (hpath : s.hostPath = true) {size : Nat}
    (h : inBar f off = false ∨ (size ≠ 4 ∧ size ≠ 8) ∨ off % size ≠ 0) : s.hostReadReg rid f off size = { s with reply := .unsupported } := by
  have hbad : (!inBar f off) = true ∨ (!(decide (size = 4) || decide (size = 8))) = true ∨ off % size ≠ 0 := by
    rcases h with h | ⟨h4, h8⟩ | h
    · exact .inl (by simp [h])
    · exact .inr (.inl (by simp [h4, h8]))
    · exact .inr (.inr h)
  unfold State.hostReadReg
  simp only [hpath, Bool.not_true, Bool.false_eq_true, if_false]
  exact if_pos (by simpa using hbad)

section
variable (hpath : s.hostPath = true) (hbar : inBar f off = true)
include hpath hbar

theorem State.hostReadReg_four (halign : off % 4 = 0) :
    s.hostReadReg rid f off 4 = { (s.read4 rid f off).1 with reply := .value (s.read4 rid f off).2.toNat 4 } := by
  simp [State.hostReadReg, hpath, hbar, halign]

theorem State.hostReadReg_eight (halign : off % 8 = 0) :
    s.hostReadReg rid f off 8 = { (s.read8 rid f off).1 with reply := .value (s.read8 rid f off).2 8 } := by
  simp [State.hostReadReg, hpath, hbar, halign]

end

/-- Between the windows, and in the complement port, a read gives 0. -/
theorem State.read4_between (h : (regTarget f off).2 = .complement ∨ (regTarget f off).2 = .none) : s.read4 rid f off = (s, 0) := by
  unfold State.read4
  rcases h with h | h <;> simp [h]

section
variable (hcomp : (regTarget f off).2 ≠ .complement) (hnone : (regTarget f off).2 ≠ .none)
include hcomp hnone

/-- A read in a window of registers. -/
theorem State.read4_window : s.read4 rid f off =
    if !(s.domainOn (regTarget f off).1) then (s.setFlag devDomainOff true, 0xFFFFFFFF)
    else if loRegs.contains (regTarget f off).1 then
      ({ s with access := { s.access with
          latches := SMap.set none s.access.latches (latchKey rid f ((regTarget f off).1 + 4))
            (some (s.regValue rid f ((regTarget f off).1 + 4))) } }, s.regValue rid f (regTarget f off).1)
    else (s, (SMap.get none s.access.latches (latchKey rid f (regTarget f off).1)).getD (s.regValue rid f (regTarget f off).1)) := by
  unfold State.read4
  dsimp only
  split
  · next h => exact absurd h hcomp
  · next h => exact absurd h hnone
  · rfl

theorem State.read8_window (halign : off % 8 = 0) (hon : s.domainOn (regTarget f off).1 = true)
    (hon' : s.domainOn ((regTarget f off).1 + 4) = true) :
    s.read8 rid f off
      = (s, (s.regValue rid f (regTarget f off).1).toNat + 2 ^ 32 * (s.regValue rid f ((regTarget f off).1 + 4)).toNat) := by
  unfold State.read8
  dsimp only
  simp only [regTarget_next f halign]
  generalize (regTarget f off).2 = w at hcomp hnone
  cases w <;> simp_all
end
end

/-- Settles O43: one lemma for each kind of read. -/
theorem registerReads : Obligations.RegisterReads := by
  intro s rid f off o key win
  refine ⟨fun size hpath => ?_, fun size hpath h => ?_, fun hpath hbar halign => ⟨fun h => ?_, fun hcomp hnone hoff => ?_,
    fun hcomp hnone hon hhi hfree => ?_, fun v hcomp hnone hon hhi hheld => ?_, fun hcomp hnone hon hlo => ?_⟩,
    fun hpath hbar halign hcomp hnone hon hon' => ?_⟩
  · exact congrArg _ (State.hostReadReg_silent hpath _)
  · exact congrArg _ (State.hostReadReg_unsupported hpath h)
  · refine congrArg _ ((State.hostReadReg_four hpath hbar halign).trans ?_)
    rw [State.read4_between h]
    rfl
  · refine congrArg _ ((State.hostReadReg_four hpath hbar halign).trans ?_)
    rw [State.read4_window hcomp hnone, if_pos (by simp only [key] at hoff; simp [hoff])]
    rfl
  · refine congrArg _ ((State.hostReadReg_four hpath hbar halign).trans ?_)
    rw [State.read4_window hcomp hnone, if_neg (by simp only [key] at hon; simp [hon]), if_neg (by simpa using hhi), hfree]
    rfl
  · refine congrArg _ ((State.hostReadReg_four hpath hbar halign).trans ?_)
    rw [State.read4_window hcomp hnone, if_neg (by simp only [key] at hon; simp [hon]), if_neg (by simpa using hhi), hheld]
    rfl
  · have hread : s.read4 rid.toNat f.val o = ({ s with access := { s.access with
        latches := SMap.set none s.access.latches (latchKey rid.toNat f.val (key + 4)) (some (s.regValue rid.toNat f.val (key + 4))) } },
        s.regValue rid.toNat f.val key) := by
      rw [State.read4_window hcomp hnone, if_neg (by simp only [key] at hon; simp [hon]), if_pos (by simpa using hlo)]
    refine ⟨_, congrArg Host.Outcome.next ((State.hostReadReg_four hpath hbar halign).trans (by rw [hread])), rfl, rfl, ?_,
      fun rid' f' off' hne => ?_⟩
    · simp only [SMap.get_set_self]
    dsimp only
    refine SMap.get_set_ne _ _ _ _ ?_
    have hkey : key + 4 < 2 ^ 26 := by
      simp only [loRegs, List.mem_cons, List.not_mem_nil, or_false] at hlo
      omega
    exact latchKey_ne f'.isLt f.isLt (regTarget_lt f'.val off') hkey fun h => hne (BitVec.eq_of_toNat_eq h)
  · refine congrArg _ ((State.hostReadReg_eight hpath hbar halign).trans ?_)
    rw [State.read8_window hcomp hnone halign hon hon']

end Sys2Proof.Machine
end

section
/-! SUPPORT. Register writes without a guarded value (18 R473, R475, R476, R482): where a write lands, and what SCRATCH, the W1C bits of
DEV_STATUS and a keyed register do with it. -/

namespace Sys2Proof.Machine

/-! ### One register -/

theorem State.reg_setFld_ne (s : State) {g : RegField} (x : Nat) {k : Nat} (h : k ≠ g.off) : (s.setFld g x).reg k = s.reg k :=
  (s.reg_setReg _ _ _).trans (if_neg h)

/-- A word that is written whole reads as what was written. -/
theorem State.reg_setFld_word (s : State) {g : RegField} (hl : g.lsb = 0) (hw : g.width = 32) (x : Nat) :
    (s.setFld g x).reg g.off = BitVec.ofNat 32 x := by
  rw [State.setFld, State.reg_setReg, if_pos rfl, hl, hw]
  apply BitVec.eq_of_toNat_eq
  rw [putField_toNat _ (by norm_num)]
  simp [Nat.div_eq_of_lt (s.reg g.off).isLt, Nat.mod_one]

theorem State.noteEarly_regs (s : State) (g : RegField) : (s.noteEarly g).regs = s.regs := by
  unfold State.noteEarly
  split <;> rfl

theorem State.sameBody_noteEarly (s : State) (g : RegField) : (s.noteEarly g).sameBody s := by
  unfold State.noteEarly
  split
  · exact State.sameBody_nv _ _
  · exact .refl s

/-! ### Where a write lands -/

section
variable {s : State} {rid : BitVec 16} {f : Fin 64} {off key : Nat} {v : BitVec 32} {o : WriteWith}

theorem State.hostWriteReg_unreached (h : s.hostPath = false ∨ inBar f.val off = false) (whole : Bool) :
    s.hostWriteReg rid f off v whole o = s := by
  unfold State.hostWriteReg
  rcases h with h | h <;> simp [h]

theorem State.hostWriteReg_bus (hpath : s.hostPath = true) (hbar : inBar f.val off = true) (whole : Bool) :
    s.hostWriteReg rid f off v whole o = s.busWrite rid.toNat f.val off v whole o := by
  simp [State.hostWriteReg, hpath, hbar]

/-- A write that is not of 4 aligned bytes is dropped and counted. -/
theorem State.busWrite_partial {n m : Nat} {whole : Bool} (h : whole = false ∨ off % 4 ≠ 0) :
    s.busWrite n m off v whole o = (s.countWrite n m).badWrite := by
  unfold State.busWrite
  exact if_pos (by simpa using h)

theorem State.busWrite_lands {n m : Nat} (halign : off % 4 = 0) (hwin : (regTarget m off).2 ≠ .complement) :
    s.busWrite n m off v true o = (s.countWrite n m).landWrite n m off v o := by
  have hno : s.isComplement m off = false := by
    unfold State.isComplement
    split
    · next h => exact absurd h hwin
    · rfl
  simp [State.busWrite, halign, hno]

/-- A write of a requester that holds no guarded value, outside the complement port. -/
theorem State.hostWriteReg_lands (hpath : s.hostPath = true) (hbar : inBar f.val off = true) (halign : off % 4 = 0)
    (hwin : (regTarget f.val off).2 ≠ .complement) (hfree : s.guardOf rid.toNat f.val = none) :
    s.hostWriteReg rid f off v true o = s.landWrite rid.toNat f.val off v o := by
  rw [State.hostWriteReg_bus hpath hbar, State.busWrite_lands halign hwin, State.countWrite_none hfree]

section
variable {n m : Nat}

theorem State.landWrite_off (hwin : (regTarget m off).2 ≠ .none) (hoff : s.domainOn (regTarget m off).1 = false) :
    s.landWrite n m off v o = (s.setFlag devDomainOff true).bump devDomainDrops 1 := by
  simp [State.landWrite, hwin, hoff]

theorem State.landWrite_normal (h : regTarget m off = (key, .normal)) (hon : s.domainOn key = true) (hguard : guardedReg m key = false) :
    s.landWrite n m off v o = s.plainWrite m key v o := by
  simp [State.landWrite, h, hon, hguard]

/-- A write through the set, clear or toggle window of a register. -/
theorem State.landWrite_alias {w : RegWindow} (h : regTarget m off = (key, w)) (hw : w = .set ∨ w = .clear ∨ w = .toggle)
    (hon : s.domainOn key = true) : s.landWrite n m off v o = if guardedReg m key then s.guardFail 8 off n m
      else s.putRwAll m key (aliasValue w (s.regValue n m key) v).toNat := by
  rcases hw with rfl | rfl | rfl <;> simp [State.landWrite, h, hon]

end
end

/-! ### Registers of RW fields -/

section
variable {s : State} {m key : Nat} (hrw : ∀ g ∈ fieldsOf m key, g.acc = .rw)
include hrw

theorem State.putRwAll_rw (v : Nat) : s.putRwAll m key v = if s.afterReady && (fieldsOf m key).any (fun g => g.key.isSome)
    then s.bump nviKeyDrop 1 else (fieldsOf m key).foldl (fun t g => t.putRw m g (bitField v g.lsb g.width)) s := by
  rw [State.putRwAll, List.filter_eq_self.mpr fun g hg => decide_eq_true (hrw g hg)]

theorem State.plainWrite_rwAll (v : BitVec 32) (o : WriteWith) : s.plainWrite m key v o = s.putRwAll m key v.toNat := by
  have hw1c : ((fieldsOf m key).filter fun g => decide (g.acc = .w1c)) = [] :=
    List.filter_eq_nil_iff.mpr fun g hg => by simp [hrw g hg]
  have hwo : ((fieldsOf m key).any fun g => decide (g.acc = .wo)) = false :=
    List.any_eq_false.mpr fun g hg => by simp [hrw g hg]
  rw [State.plainWrite, hw1c, hwo]
  rfl

end

/-! ### SCRATCH -/

theorem fieldsOf_scratch : fieldsOf 0 0x8 = [devScratch] := by decide

theorem State.regValue_scratch (s : State) (rid : Nat) : s.regValue rid 0 0x8 = s.reg 0x8 := by
  simp [State.regValue]

/-- What a write of SCRATCH leaves. -/
theorem State.putRwAll_scratch (s : State) (v : BitVec 32) : s.putRwAll 0 0x8 v.toNat = s.setFld devScratch v.toNat := by
  have hfull : bitField v.toNat 0 32 = v.toNat := by simp [bitField, Nat.mod_eq_of_lt v.isLt]
  have hok : fieldOk devScratch v.toNat = true := by
    have hv : v.toNat < 2 ^ 32 := v.isLt
    rw [fieldOk, if_neg (by decide)]
    exact (Bool.and_eq_true _ _).mpr ⟨decide_eq_true (Nat.zero_le _), decide_eq_true (Nat.le_of_lt_succ hv)⟩
  have hput : s.putRw 0 devScratch v.toNat = s.setFld devScratch v.toNat := by
    rw [State.putRw, if_neg (by decide), if_neg (by decide), if_neg (by decide), if_pos hok]
    rfl
  rw [State.putRwAll_rw (by rw [fieldsOf_scratch]; decide), fieldsOf_scratch, if_neg (by simp [devScratch])]
  exact (congrArg (s.putRw 0 devScratch) hfull).trans hput

theorem State.scratch_spec (s : State) (v : BitVec 32) : (s.setFld devScratch v.toNat).reg 0x8 = v
    ∧ (s.setFld devScratch v.toNat).sameBody s ∧ ∀ k, k ≠ 0x8 → (s.setFld devScratch v.toNat).reg k = s.reg k :=
  ⟨(s.reg_setFld_word rfl rfl _).trans (by simp), s.sameBody_setFld _ _, fun _ hk => s.reg_setFld_ne _ hk⟩

theorem State.plainWrite_scratch (s : State) (v : BitVec 32) (o : WriteWith) : s.plainWrite 0 0x8 v o = s.setFld devScratch v.toNat := by
  rw [State.plainWrite_rwAll (by rw [fieldsOf_scratch]; decide), s.putRwAll_scratch v]

/-! ### Bits that a 1 clears -/

/-- What a write does to one W1C field. -/
def State.clearBits (s : State) (v : Nat) (g : RegField) : State := if bitField v g.lsb g.width = 0 then s else s.setFld g 0

section
variable (s : State) (v : BitVec 32)

theorem State.clearBits_reg (x : Nat) {g : RegField} {k : Nat} (h : k ≠ g.off) : (s.clearBits x g).reg k = s.reg k := by
  unfold State.clearBits
  split
  · rfl
  · exact s.reg_setFld_ne _ h

theorem State.sameBody_clearBits (x : Nat) (g : RegField) : (s.clearBits x g).sameBody s := by
  unfold State.clearBits
  split
  · exact .refl s
  · exact s.sameBody_setFld _ _

theorem State.clearBits_flag_other (x : Nat) {g h : RegField} (hg : g.fits) (hd : g.apart h) : (s.clearBits x g).flag h = s.flag h := by
  unfold State.clearBits
  split
  · rfl
  · exact State.flag_setFld_other _ hg _ hd

theorem State.clearBits_flag {g : RegField} (hg : g.fits) (hw : g.width = 1) :
    (s.clearBits v.toNat g).flag g = (s.flag g && !v.getLsbD g.lsb) := by
  have hbit : v.getLsbD g.lsb = decide (bitField v.toNat g.lsb g.width ≠ 0) := by
    rw [hw, bitField, BitVec.getLsbD, Nat.testBit_eq_decide_div_mod_eq]
    simp only [pow_one, decide_eq_decide]
    omega
  unfold State.clearBits
  rw [hbit]
  by_cases h : bitField v.toNat g.lsb g.width = 0
  · simp [h]
  · rw [if_neg h, State.flag, State.fld_setFld _ hg]
    simp [h]

/-- A write of DEV_STATUS clears the bits that it has set. -/
theorem State.plainWrite_status (o : WriteWith) : s.plainWrite 0 0x100 v o
    = ((s.clearBits v.toNat devDomainOff).clearBits v.toNat devGuardFail).clearBits v.toNat devBadWrite := by
  have hfields : fieldsOf 0 0x100 = [devDomainOff, devGuardFail, devBadWrite] := by decide
  have hrw : s.putRwAll 0 0x100 v.toNat = s := by simp [State.putRwAll, hfields, devDomainOff, devGuardFail, devBadWrite]
  simp only [State.plainWrite, hrw, hfields]
  rfl

theorem State.status_spec {t : State}
    (ht : t = ((s.clearBits v.toNat devDomainOff).clearBits v.toNat devGuardFail).clearBits v.toNat devBadWrite) :
    t.sameBody s ∧ t.flag devDomainOff = (s.flag devDomainOff && !v.getLsbD 0)
      ∧ t.flag devGuardFail = (s.flag devGuardFail && !v.getLsbD 1) ∧ t.flag devBadWrite = (s.flag devBadWrite && !v.getLsbD 2)
      ∧ ∀ k, k ≠ 0x100 → t.reg k = s.reg k := by
  subst ht
  refine ⟨(State.sameBody_clearBits ..).trans ((State.sameBody_clearBits ..).trans (State.sameBody_clearBits ..)), ?_, ?_, ?_,
    fun k hk => ?_⟩
  · rw [State.clearBits_flag_other _ _ (by decide) (by decide), State.clearBits_flag_other _ _ (by decide) (by decide),
      State.clearBits_flag _ _ (by decide) rfl]
    rfl
  · rw [State.clearBits_flag_other _ _ (by decide) (by decide), State.clearBits_flag _ _ (by decide) rfl,
      State.clearBits_flag_other _ _ (by decide) (by decide)]
    rfl
  · rw [State.clearBits_flag _ _ (by decide) rfl, State.clearBits_flag_other _ _ (by decide) (by decide),
      State.clearBits_flag_other _ _ (by decide) (by decide)]
    rfl
  · rw [State.clearBits_reg _ _ hk, State.clearBits_reg _ _ hk, State.clearBits_reg _ _ hk]

end

/-! ### A keyed register: the weights of the classes 1 to 4 -/

theorem fieldsOf_weights : fieldsOf 0 0x2000C = [hstWeight 1, hstWeight 2, hstWeight 3, hstWeight 4] := by decide

/-- A weight takes a value; 0 stores 1. -/
def State.putWeight (s : State) (g : RegField) (v : BitVec 32) : State := s.putRw 0 g (bitField v.toNat g.lsb g.width)

section
variable (s : State) (v : BitVec 32)

theorem State.putWeight_eq {g : RegField} (hoff : g.off = 0x2000C) :
    s.putWeight g v = (s.setFld g (max 1 (bitField v.toNat g.lsb g.width))).noteEarly g := by
  have hother : g ≠ hifEnable := fun h => by rw [h] at hoff; exact absurd hoff (by decide)
  rw [State.putWeight, State.putRw, if_neg hother, if_neg (by rw [hoff]; decide), if_pos (.inl hoff)]
  rfl

theorem State.putWeight_regs {g : RegField} (hoff : g.off = 0x2000C) :
    (s.putWeight g v).regs = (s.setFld g (max 1 (bitField v.toNat g.lsb g.width))).regs := by
  rw [s.putWeight_eq v hoff, State.noteEarly_regs]

theorem State.putWeight_fld {g : RegField} (hoff : g.off = 0x2000C) (hg : g.fits) (hw : g.width = 8) :
    (s.putWeight g v).fld g = max 1 (bitField v.toNat g.lsb 8) := by
  have hlt : bitField v.toNat g.lsb 8 < 2 ^ 8 := bitField_lt _ _ _
  rw [State.fld_congr (s.putWeight_regs v hoff), State.fld_setFld _ hg, hw]
  exact Nat.mod_eq_of_lt (by omega)

theorem State.putWeight_fld_other {g h : RegField} (hoff : g.off = 0x2000C) (hg : g.fits) (hd : g.apart h) :
    (s.putWeight g v).fld h = s.fld h := by
  rw [State.fld_congr (s.putWeight_regs v hoff), State.fld_setFld_other _ hg _ hd]

theorem State.putWeight_reg {g : RegField} (hoff : g.off = 0x2000C) {k : Nat} (hk : k ≠ 0x2000C) :
    (s.putWeight g v).reg k = s.reg k :=
  (congrArg (fun m => SMap.get 0 m k) (s.putWeight_regs v hoff)).trans (s.reg_setFld_ne _ (hoff ▸ hk))

theorem State.sameBody_putWeight {g : RegField} (hoff : g.off = 0x2000C) : (s.putWeight g v).sameBody s := by
  rw [s.putWeight_eq v hoff]
  exact (State.sameBody_noteEarly _ _).trans (s.sameBody_setFld _ _)

/-- The register of four weights takes a write before ready only. -/
theorem State.plainWrite_weights (o : WriteWith) : s.plainWrite 0 0x2000C v o = if s.afterReady then s.bump nviKeyDrop 1
    else (((s.putWeight (hstWeight 1) v).putWeight (hstWeight 2) v).putWeight (hstWeight 3) v).putWeight (hstWeight 4) v := by
  have hrw : ∀ g ∈ fieldsOf 0 0x2000C, g.acc = .rw := by rw [fieldsOf_weights]; decide
  have hkeyed : ((fieldsOf 0 0x2000C).any fun g => g.key.isSome) = true := by rw [fieldsOf_weights]; decide
  rw [State.plainWrite_rwAll hrw, State.putRwAll_rw hrw, hkeyed, Bool.and_true, fieldsOf_weights]
  rfl

theorem State.weights_spec {t : State} (ht : t = (((s.putWeight (hstWeight 1) v).putWeight (hstWeight 2) v).putWeight
      (hstWeight 3) v).putWeight (hstWeight 4) v) :
    t.sameBody s ∧ t.fld (hstWeight 1) = max 1 (bitField v.toNat 0 8) ∧ t.fld (hstWeight 2) = max 1 (bitField v.toNat 8 8)
      ∧ t.fld (hstWeight 3) = max 1 (bitField v.toNat 16 8) ∧ t.fld (hstWeight 4) = max 1 (bitField v.toNat 24 8)
      ∧ ∀ k, k ≠ 0x2000C → t.reg k = s.reg k := by
  subst ht
  refine ⟨(State.sameBody_putWeight _ v rfl).trans ((State.sameBody_putWeight _ v rfl).trans ((State.sameBody_putWeight _ v rfl).trans
    (State.sameBody_putWeight _ v rfl))), ?_, ?_, ?_, ?_, fun k hk => ?_⟩
  · rw [State.putWeight_fld_other _ v rfl (by decide) (by decide), State.putWeight_fld_other _ v rfl (by decide) (by decide),
      State.putWeight_fld_other _ v rfl (by decide) (by decide), State.putWeight_fld _ v rfl (by decide) rfl]
    rfl
  · rw [State.putWeight_fld_other _ v rfl (by decide) (by decide), State.putWeight_fld_other _ v rfl (by decide) (by decide),
      State.putWeight_fld _ v rfl (by decide) rfl]
    rfl
  · rw [State.putWeight_fld_other _ v rfl (by decide) (by decide), State.putWeight_fld _ v rfl (by decide) rfl]
    rfl
  · rw [State.putWeight_fld _ v rfl (by decide) rfl]
    rfl
  · rw [State.putWeight_reg _ v rfl hk, State.putWeight_reg _ v rfl hk, State.putWeight_reg _ v rfl hk, State.putWeight_reg _ v rfl hk]

end

/-! ### The settlement -/

theorem State.badWrite_spec (s : State) : s.badWrite.sameBody s ∧ s.badWrite.flag devBadWrite = true
    ∧ s.badWrite.fld devBadWrites = (s.fld devBadWrites + 1) % 2 ^ devBadWrites.width
    ∧ ∀ k, k ≠ 0x100 → k ≠ 0x114 → s.badWrite.reg k = s.reg k := by
  refine ⟨(State.sameBody_bump _ _ _).trans (State.sameBody_setFlag _ _ _), ?_, ?_, fun k h1 h2 => ?_⟩
  · exact (State.flag_bump_other _ (by decide) _ (by decide)).trans (State.flag_setFlag _ (by decide) rfl _)
  · exact (State.fld_bump _ (by decide) _).trans (by rw [State.fld_setFlag_other _ (by decide) _ (by decide)])
  · exact (State.reg_setFld_ne _ _ h2).trans (State.reg_setFld_ne _ _ h1)

/-- A write of SCRATCH through one of those windows. -/
theorem State.scratch_alias {s : State} {rid : BitVec 16} {off : Nat} {w : RegWindow} (hpath : s.hostPath = true)
    (hfree : s.guardOf rid.toNat 0 = none) (halign : off % 4 = 0) (htarget : regTarget 0 off = (0x8, w))
    (hw : w = .set ∨ w = .clear ∨ w = .toggle) (v : BitVec 32) {x : BitVec 32} (hx : aliasValue w (s.reg 0x8) v = x) :
    ∃ t, s.hostWriteReg rid 0 off v true {} = t ∧ t.reg 0x8 = x ∧ t.sameBody s ∧ ∀ k, k ≠ 0x8 → t.reg k = s.reg k := by
  have hwin : (regTarget 0 off).2 ≠ .complement := by rw [htarget]; rcases hw with rfl | rfl | rfl <;> decide
  refine ⟨s.setFld devScratch x.toNat, ?_, s.scratch_spec x⟩
  have hland := State.hostWriteReg_lands (f := 0) (v := v) (o := {}) hpath (by simp [inBar]) halign hwin hfree
  rw [hland]
  refine (State.landWrite_alias htarget hw rfl).trans ?_
  rw [if_neg (by decide), State.regValue_scratch, hx, State.putRwAll_scratch]

/-- A plain write of a register of the PF. -/
theorem State.hostWriteReg_pf {s : State} {rid : BitVec 16} {key : Nat} (hpath : s.hostPath = true) (hfree : s.guardOf rid.toNat 0 = none)
    (halign : key % 4 = 0) (htarget : regTarget 0 key = (key, .normal)) (hon : s.domainOn key = true) (hguard : guardedReg 0 key = false)
    (v : BitVec 32) : s.hostWriteReg rid 0 key v true {} = s.plainWrite 0 key v {} :=
  (State.hostWriteReg_lands (f := 0) hpath (by simp [inBar]) halign (by
    rw [show ((0 : Fin 64).val) = 0 from rfl, htarget]; exact fun h => RegWindow.noConfusion h) hfree).trans
    (State.landWrite_normal htarget hon hguard)

/-- Settles O44: the write lands in its register's fields, one lemma for each kind of field. -/
theorem registerWrites : Obligations.RegisterWrites := by
  intro s rid f off v o key win hfree
  refine ⟨fun whole h => congrArg Host.Outcome.next (State.hostWriteReg_unreached h whole),
    fun whole hpath hbar h => ⟨_, congrArg Host.Outcome.next ((State.hostWriteReg_bus hpath hbar whole).trans (State.busWrite_partial h)),
      ?_⟩, ?_, ?_, ?_, ?_, ?_, ?_, ?_, fun hpath hbar halign hnone hcomp hoff => ?_, fun i hi hpath hbar halign hwin hon hguard => ?_⟩
  · rw [State.countWrite_none hfree]
    exact s.badWrite_spec
  · rintro hpath rfl
    exact ⟨_, congrArg Host.Outcome.next ((State.hostWriteReg_pf (key := 0x8) hpath hfree rfl rfl rfl (by decide) v).trans
      (s.plainWrite_scratch v _)), s.scratch_spec v⟩
  · rintro hpath rfl
    obtain ⟨t, ht, hspec⟩ := State.scratch_alias (off := 0x4008) hpath hfree rfl rfl (.inl rfl) v rfl
    exact ⟨t, congrArg Host.Outcome.next ht, hspec⟩
  · rintro hpath rfl
    obtain ⟨t, ht, hspec⟩ := State.scratch_alias (off := 0x8008) hpath hfree rfl rfl (.inr (.inl rfl)) v rfl
    exact ⟨t, congrArg Host.Outcome.next ht, hspec⟩
  · rintro hpath rfl
    obtain ⟨t, ht, hspec⟩ := State.scratch_alias (off := 0xC008) hpath hfree rfl rfl (.inr (.inr rfl)) v rfl
    exact ⟨t, congrArg Host.Outcome.next ht, hspec⟩
  · rintro hpath rfl
    exact ⟨_, congrArg Host.Outcome.next (State.hostWriteReg_pf (key := 0x100) hpath hfree rfl rfl rfl (by decide) v),
      s.status_spec v (s.plainWrite_status v _)⟩
  · rintro hpath rfl hon hafter
    refine ⟨_, congrArg Host.Outcome.next ((State.hostWriteReg_pf (key := 0x2000C) hpath hfree rfl rfl hon (by decide) v).trans
      ((s.plainWrite_weights v _).trans (if_pos hafter))), State.sameBody_bump _ _ _, State.fld_bump _ (by decide) _,
      fun k hk => State.reg_setFld_ne _ _ hk⟩
  · rintro hpath rfl hon hafter
    exact ⟨_, congrArg Host.Outcome.next (State.hostWriteReg_pf (key := 0x2000C) hpath hfree rfl rfl hon (by decide) v),
      s.weights_spec v ((s.plainWrite_weights v _).trans (if_neg (by simp [hafter])))⟩
  · exact congrArg Host.Outcome.next ((State.hostWriteReg_lands hpath hbar halign hcomp hfree).trans (State.landWrite_off hnone hoff))
  · have hcomp : (regTarget f.val off.toNat).2 ≠ .complement := by
      rcases hwin with h | h | h <;> exact fun hc => by rw [show win = (regTarget f.val off.toNat).2 from rfl, hc] at h; cases h
    have hexec : exec i s = .next (s.hostWriteReg rid f off.toNat v true {}) := by rcases hi with rfl | rfl | rfl <;> rfl
    rw [hexec, State.hostWriteReg_lands hpath hbar halign hcomp hfree]
    exact congrArg Host.Outcome.next ((State.landWrite_alias rfl hwin hon).trans (if_pos hguard))

end Sys2Proof.Machine
end

section
/-! SUPPORT. The guarded sequence (18 R478 to R480): the value that a requester holds for a function, and what the writes of the sequence do
with it and with every other pair's. -/

namespace Sys2Proof.Machine

/-! ### Held values -/

section
variable (s : State) (n m : Nat)

/-- A held value is of the pair it is held for. -/
theorem State.guardOf_pair {s : State} {n m : Nat} {g : Guard} (h : s.guardOf n m = some g) : g.rid = n ∧ g.fn = m := by
  simpa using List.find?_some h

theorem State.guardOf_congr {s t : State} (h : s.access = t.access) (n m : Nat) : s.guardOf n m = t.guardOf n m := by
  simp only [State.guardOf, h]

theorem State.dropGuard_guardOf_self : (s.dropGuard n m).guardOf n m = none := by
  simp only [State.guardOf, State.dropGuard, List.find?_filter, List.find?_eq_none]
  intro g _
  cases decide (g.rid = n) && decide (g.fn = m) <;> simp

theorem State.dropGuard_guardOf_other {n' m' : Nat} (h : n' ≠ n ∨ m' ≠ m) : (s.dropGuard n m).guardOf n' m' = s.guardOf n' m' := by
  simp only [State.guardOf, State.dropGuard, List.find?_filter]
  refine congrArg (fun p => List.find? p _) (funext fun g => ?_)
  by_cases hg : g.rid = n' ∧ g.fn = m'
  · obtain ⟨hr, hf⟩ := hg
    rcases h with h | h <;> simp [hr, hf, h]
  · rw [not_and_or] at hg
    rcases hg with hg | hg <;> simp [hg]

theorem State.guardFail_guardOf (why off a b : Nat) : (s.guardFail why off a b).guardOf n m = s.guardOf n m :=
  State.guardOf_congr (s.guardFail_body why off a b).1.access n m

/-- A held value once a further write has been counted. -/
def Guard.counted (n m : Nat) (g : Guard) : Guard := if g.rid = n ∧ g.fn = m then { g with left := g.left - 1 } else g

theorem Guard.counted_pair (g : Guard) : (g.counted n m).rid = g.rid ∧ (g.counted n m).fn = g.fn := by
  unfold Guard.counted
  split <;> exact ⟨rfl, rfl⟩

/-- A further write of a requester that holds a value. -/
theorem State.countWrite_some {s : State} {n m : Nat} {g : Guard} (h : s.guardOf n m = some g) : s.countWrite n m =
    if g.left ≤ 1 then (s.dropGuard n m).guardFail 2 g.off n m
    else { s with access := { s.access with guards := s.access.guards.map (Guard.counted n m) } } := by
  simp only [State.countWrite, h]
  rfl

theorem State.counted_guardOf (n' m' : Nat) :
    ({ s with access := { s.access with guards := s.access.guards.map (Guard.counted n m) } } : State).guardOf n' m'
      = (s.guardOf n' m').map (Guard.counted n m) := by
  simp only [State.guardOf, List.find?_map]
  refine congrArg (fun p => Option.map _ (List.find? p _)) (funext fun g => ?_)
  obtain ⟨hr, hf⟩ := Guard.counted_pair n m g
  simp [hr, hf]

theorem State.countWrite_last {s : State} {n m : Nat} {g : Guard} (h : s.guardOf n m = some g) (hleft : g.left ≤ 1) :
    s.countWrite n m = (s.dropGuard n m).guardFail 2 g.off n m := (State.countWrite_some h).trans (if_pos hleft)

theorem State.countWrite_guardOf_self {s : State} {n m : Nat} {g : Guard} (h : s.guardOf n m = some g) (hleft : 1 < g.left) :
    (s.countWrite n m).guardOf n m = some { g with left := g.left - 1 } := by
  rw [State.countWrite_some h, if_neg (by omega), State.counted_guardOf, h, Option.map_some, Guard.counted, if_pos (State.guardOf_pair h)]

theorem State.countWrite_regs {s : State} {n m : Nat} {g : Guard} (h : s.guardOf n m = some g) (hleft : 1 < g.left) :
    (s.countWrite n m).regs = s.regs := by
  rw [State.countWrite_some h, if_neg (by omega)]

theorem State.countWrite_guardOf_other {n' m' : Nat} (hne : n' ≠ n ∨ m' ≠ m) : (s.countWrite n m).guardOf n' m' = s.guardOf n' m' := by
  cases h : s.guardOf n m with
  | none => rw [State.countWrite_none h]
  | some g =>
    rw [State.countWrite_some h]
    split
    · rw [State.guardFail_guardOf, State.dropGuard_guardOf_other s n m hne]
    · rw [State.counted_guardOf]
      cases hg : s.guardOf n' m' with
      | none => rfl
      | some x =>
        obtain ⟨hr, hf⟩ := State.guardOf_pair hg
        rw [Option.map_some, Guard.counted, if_neg (by rintro ⟨rfl, rfl⟩; rcases hne with h | h <;> simp_all)]

end

/-! ### A failure of the guard -/

theorem State.guardFail_spec (s : State) {why : Nat} (a : Nat) (rid : BitVec 16) (f : Fin 64) (hwhy : why < 16) :
    (s.guardFail why a rid.toNat f.val).flag devGuardFail = true
    ∧ (s.guardFail why a rid.toNat f.val).fld devGuardFails = (s.fld devGuardFails + 1) % 2 ^ devGuardFails.width
    ∧ (s.guardFail why a rid.toNat f.val).fld devGuardOff = a % 2 ^ 25 ∧ (s.guardFail why a rid.toNat f.val).fld devGuardRid = rid.toNat
    ∧ (s.guardFail why a rid.toNat f.val).fld devGuardWhy = why ∧ (s.guardFail why a rid.toNat f.val).fld devGuardFn = f.val
    ∧ (s.guardFail why a rid.toNat f.val).sameBody s := by
  refine ⟨?_, ?_, ?_, ?_, ?_, ?_, (s.guardFail_body ..).1⟩ <;> unfold State.guardFail
  · rw [State.flag_setFld_other _ (by decide) _ (by decide), State.flag_setFld_other _ (by decide) _ (by decide),
      State.flag_setFld_other _ (by decide) _ (by decide), State.flag_setFld_other _ (by decide) _ (by decide),
      State.flag_bump_other _ (by decide) _ (by decide), State.flag_setFlag _ (by decide) rfl]
  · rw [State.fld_setFld_other _ (by decide) _ (by decide), State.fld_setFld_other _ (by decide) _ (by decide),
      State.fld_setFld_other _ (by decide) _ (by decide), State.fld_setFld_other _ (by decide) _ (by decide),
      State.fld_bump _ (by decide), State.fld_setFlag_other _ (by decide) _ (by decide)]
  · rw [State.fld_setFld_other _ (by decide) _ (by decide), State.fld_setFld_other _ (by decide) _ (by decide),
      State.fld_setFld_other _ (by decide) _ (by decide), State.fld_setFld _ (by decide)]
    rfl
  · rw [State.fld_setFld_other _ (by decide) _ (by decide), State.fld_setFld_other _ (by decide) _ (by decide),
      State.fld_setFld _ (by decide)]
    exact Nat.mod_eq_of_lt rid.isLt
  · rw [State.fld_setFld_other _ (by decide) _ (by decide), State.fld_setFld _ (by decide)]
    exact Nat.mod_eq_of_lt hwhy
  · rw [State.fld_setFld _ (by decide)]
    exact Nat.mod_eq_of_lt f.isLt

/-- A failure of the guard touches no block's power. -/
theorem State.guardFail_domainOn (s : State) (why a n m key : Nat) : (s.guardFail why a n m).domainOn key = s.domainOn key := by
  have hout : (s.guardFail why a n m).coreOut = s.coreOut := by
    funext c
    rw [State.coreOut, (s.guardFail_body why a n m).1.witness]
    rfl
  have hdom : (s.guardFail why a n m).fld devDomains = s.fld devDomains := by
    unfold State.guardFail
    rw [State.fld_setFld_other _ (by decide) _ (by decide), State.fld_setFld_other _ (by decide) _ (by decide),
      State.fld_setFld_other _ (by decide) _ (by decide), State.fld_setFld_other _ (by decide) _ (by decide),
      State.fld_bump_other _ (by decide) _ (by decide), State.fld_setFlag_other _ (by decide) _ (by decide)]
  unfold State.domainOn
  rw [hdom, hout]

theorem State.countWrite_domainOn (s : State) (n m key : Nat) : (s.countWrite n m).domainOn key = s.domainOn key := by
  cases h : s.guardOf n m with
  | none => rw [State.countWrite_none h]
  | some g =>
    rw [State.countWrite_some h]
    split
    · exact State.guardFail_domainOn _ _ _ _ _ _
    · rfl

/-! ### A first write -/

section
variable (s : State) (n m off : Nat) (v : BitVec 32)

/-- What a first write takes the place of. -/
def State.unstaged (s : State) (n m : Nat) : State :=
  match s.guardOf n m with
  | some g => (s.dropGuard n m).guardFail 3 g.off n m
  | none => s

theorem State.stageGuard_eq : s.stageGuard n m off v = { s.unstaged n m with
    access := { (s.unstaged n m).access with guards := (s.unstaged n m).access.guards ++ [⟨n, m, off, v, 16⟩] } } := rfl

theorem State.unstaged_self : (s.unstaged n m).guardOf n m = none := by
  unfold State.unstaged
  split
  · rw [State.guardFail_guardOf, State.dropGuard_guardOf_self]
  · next h => exact h

theorem State.unstaged_other {n' m' : Nat} (hne : n' ≠ n ∨ m' ≠ m) : (s.unstaged n m).guardOf n' m' = s.guardOf n' m' := by
  unfold State.unstaged
  split
  · rw [State.guardFail_guardOf, State.dropGuard_guardOf_other s n m hne]
  · rfl

theorem State.stageGuard_guardOf (n' m' : Nat) : (s.stageGuard n m off v).guardOf n' m'
    = ((s.unstaged n m).guardOf n' m').or (if n = n' ∧ m = m' then some ⟨n, m, off, v, 16⟩ else none) := by
  rw [State.stageGuard_eq]
  simp only [State.guardOf, List.find?_append]
  refine congrArg _ ?_
  by_cases h : n = n' ∧ m = m'
  · simp [h.1, h.2]
  · have hno : (decide (n = n') && decide (m = m')) = false := by simpa using h
    rw [if_neg h, List.find?_cons_of_neg (by simp [hno]), List.find?_nil]

end

/-! ### The commit -/

section
variable (s : State) (f key v : Nat)

/-- A field that a commit writes. -/
def State.commitField (s : State) (f : Nat) (v : Nat) (t : State) (g : RegField) : State :=
  let u := t.setFnFld f g (bitField v g.lsb g.width)
  if s.afterReady then u else u.noteEarly g

theorem State.sameBody_setFnFld (t : State) (g : RegField) (x : Nat) : (t.setFnFld f g x).sameBody t := by
  unfold State.setFnFld
  split
  · exact State.sameBody_setFld _ _ _
  · exact State.sameBody_setReg _ _ _

theorem State.sameBody_commitField (t : State) (g : RegField) : (s.commitField f v t g).sameBody t := by
  unfold State.commitField
  exact State.sameBody_ite (State.sameBody_setFnFld _ _ _ _)
    ((State.sameBody_noteEarly _ _).trans (State.sameBody_setFnFld _ _ _ _))

theorem State.commitField_regs (t : State) (g : RegField) :
    (s.commitField f v t g).regs = (t.setFnFld f g (bitField v g.lsb g.width)).regs := by
  unfold State.commitField
  dsimp only
  split
  · rfl
  · exact State.noteEarly_regs _ _

/-- The fields that a commit writes. -/
def State.committed (s : State) (f key v : Nat) : State :=
  ((fieldsOf f key).filter fun g => decide (g.acc = .rw) || decide (g.acc = .rwg)).foldl (s.commitField f v) s

theorem State.putGuarded_eq : s.putGuarded f key v =
    let u := (s.committed f key v).endSessions fun n _ => decide ((s.committed f key v).ringOwner (16 * n) ≠ s.ringOwner (16 * n))
    if key = hifDbmode.off then { u with access := { u.access with fallback := [] } } else u := rfl

/-- What a commit leaves beside its fields, the sessions that it ends and doorbell fallback. -/
theorem State.putGuarded_keeps : (s.putGuarded f key v).regs = (s.committed f key v).regs
    ∧ (s.putGuarded f key v).access.guards = s.access.guards ∧ (s.putGuarded f key v).hbm = s.hbm
    ∧ (s.putGuarded f key v).works = s.works ∧ (s.putGuarded f key v).cores = s.cores := by
  have hbody : (s.committed f key v).sameBody s := State.sameBody_foldl _ (s.sameBody_commitField f v) _ _
  have hguards : (s.committed f key v).access.guards = s.access.guards := congrArg Access.guards hbody.access
  rw [State.putGuarded_eq]
  dsimp only
  split <;> exact ⟨rfl, hguards, hbody.hbm, hbody.works, hbody.cores⟩

theorem State.putGuarded_guardOf (n m : Nat) : (s.putGuarded f key v).guardOf n m = s.guardOf n m := by
  obtain ⟨_, hguards, _⟩ := s.putGuarded_keeps f key v
  simp only [State.guardOf, hguards]

/-- What a write of the complement port does where the requester holds a value. -/
theorem State.complementWrite_some {s : State} {n m off : Nat} {v : BitVec 32} {g : Guard} (h : s.guardOf n m = some g) :
    s.complementWrite n m off v = if off = g.off + 0x2000 ∧ v = ~~~g.value then s.commitGuard n m g
      else (s.dropGuard n m).guardFail 1 g.off n m := by
  simp only [State.complementWrite, h]

theorem State.complementWrite_none {s : State} {n m off : Nat} {v : BitVec 32} (h : s.guardOf n m = none) :
    s.complementWrite n m off v = s.guardFail 4 off n m := by
  simp only [State.complementWrite, h]

section
variable {s : State} {n m : Nat} {g : Guard}

theorem State.commitGuard_none (h : (s.dropGuard n m).commitFault m (regTarget m g.off).1 g.value.toNat = none) :
    s.commitGuard n m g = (s.dropGuard n m).putGuarded m (regTarget m g.off).1 g.value.toNat := by
  simp only [State.commitGuard, h]

theorem State.commitGuard_at {key x : Nat} (hkey : (regTarget m g.off).1 = key) (hx : g.value.toNat = x)
    (h : (s.dropGuard n m).commitFault m key x = none) : s.commitGuard n m g = (s.dropGuard n m).putGuarded m key x := by
  subst hkey hx
  exact State.commitGuard_none h

theorem State.commitGuard_fault {why : Nat} (h : (s.dropGuard n m).commitFault m (regTarget m g.off).1 g.value.toNat = some why)
    (hwhy : why ≠ 0) : s.commitGuard n m g = (s.dropGuard n m).guardFail why g.off n m := by
  cases why with
  | zero => exact absurd rfl hwhy
  | succ k => simp only [State.commitGuard, h]

theorem State.commitGuard_keyed (h : (s.dropGuard n m).commitFault m (regTarget m g.off).1 g.value.toNat = some 0) :
    s.commitGuard n m g = (s.dropGuard n m).bump nviKeyDrop 1 := by
  simp only [State.commitGuard, h]

end

/-- No write of the complement port touches another pair's value. -/
theorem State.complementWrite_guardOf_other (n m off : Nat) (w : BitVec 32) {n' m' : Nat} (hne : n' ≠ n ∨ m' ≠ m) :
    (s.complementWrite n m off w).guardOf n' m' = s.guardOf n' m' := by
  have hdrop := State.dropGuard_guardOf_other s n m hne
  cases h : s.guardOf n m with
  | none => rw [State.complementWrite_none h, State.guardFail_guardOf]
  | some g =>
    rw [State.complementWrite_some h]
    split
    · cases hfault : (s.dropGuard n m).commitFault m (regTarget m g.off).1 g.value.toNat with
      | none => rw [State.commitGuard_none hfault, State.putGuarded_guardOf, hdrop]
      | some why =>
        by_cases hwhy : why = 0
        · rw [State.commitGuard_keyed (hwhy ▸ hfault), State.guardOf_congr (State.sameBody_bump _ _ _).access, hdrop]
        · rw [State.commitGuard_fault hfault hwhy, State.guardFail_guardOf, hdrop]
    · rw [State.guardFail_guardOf, hdrop]

end

/-! ### DBMODE (11 R304) -/

theorem State.committed_dbmode (s : State) (v : Nat) : (s.committed 0 0x10004 v).fld hifDbmode = bitField v 0 1
    ∧ (s.committed 0 0x10004 v).fld hifDevFetch = bitField v 1 12 := by
  have hfields : (fieldsOf 0 0x10004).filter (fun g => decide (g.acc = .rw) || decide (g.acc = .rwg)) = [hifDbmode, hifDevFetch] := by
    decide
  have hregs : (s.committed 0 0x10004 v).regs
      = (((s.commitField 0 v s hifDbmode)).setFld hifDevFetch (bitField v 1 12)).regs := by
    unfold State.committed
    rw [hfields]
    exact s.commitField_regs 0 v _ hifDevFetch
  rw [State.fld_congr hregs, State.fld_congr hregs]
  constructor
  · rw [State.fld_setFld_other _ (by decide) _ (by decide), State.fld_congr (s.commitField_regs 0 v _ hifDbmode)]
    exact (State.fld_setFld _ (by decide) _).trans (Nat.mod_eq_of_lt (bitField_lt _ _ _))
  · exact (State.fld_setFld _ (by decide) _).trans (Nat.mod_eq_of_lt (bitField_lt _ _ _))

theorem State.putGuarded_dbmode (s : State) (v : Nat) : (s.putGuarded 0 0x10004 v).access.fallback = [] := by
  have hoff : 0x10004 = hifDbmode.off := rfl
  rw [State.putGuarded_eq, if_pos hoff]

theorem regTarget_dbmode : regTarget 0 0x10004 = (0x10004, .normal) := rfl

/-! ### The writes of the sequence -/

section
variable {s : State} {rid : BitVec 16} {f : Fin 64} {off : Nat} {v : BitVec 32} (hpath : s.hostPath = true) (hbar : inBar f.val off = true)
  (halign : off % 4 = 0) (hon : s.domainOn (regTarget f.val off).1 = true)
include hpath hbar halign hon

theorem State.hostWriteReg_stage (hwin : (regTarget f.val off).2 = .normal) (hguard : guardedReg f.val (regTarget f.val off).1 = true) :
    s.hostWriteReg rid f off v true {} = (s.countWrite rid.toNat f.val).stageGuard rid.toNat f.val off v := by
  rw [State.hostWriteReg_bus hpath hbar, State.busWrite_lands halign (by rw [hwin]; exact fun h => RegWindow.noConfusion h)]
  simp [State.landWrite, hwin, hguard, State.countWrite_domainOn, hon]

theorem State.hostWriteReg_complement (hwin : (regTarget f.val off).2 = .complement) :
    s.hostWriteReg rid f off v true {} = s.complementWrite rid.toNat f.val off v := by
  rw [State.hostWriteReg_bus hpath hbar]
  simp [State.busWrite, halign, State.isComplement, hwin, hon]

end

/-- A further write, of SCRATCH. -/
theorem State.hostWriteReg_scratch {s : State} {rid : BitVec 16} (hpath : s.hostPath = true) (v : BitVec 32) :
    s.hostWriteReg rid 0 0x8 v true {} = (s.countWrite rid.toNat 0).setFld devScratch v.toNat := by
  refine (State.hostWriteReg_plain (f := 0) (key := 0x8) rfl hpath rfl rfl rfl rfl (by decide) v {}).trans ?_
  exact State.plainWrite_scratch _ v _

section
variable {s : State} {n m off : Nat} {v : BitVec 32}

/-- A value held before is discarded, and the guard fails for it. -/
theorem State.stage_replaces {g : Guard} (h : s.guardOf n m = some g) (hleft : 1 < g.left) (rid : BitVec 16) (f : Fin 64)
    (hn : n = rid.toNat) (hm : m = f.val) : ((s.countWrite n m).stageGuard n m off v).fld devGuardWhy = 3
      ∧ ((s.countWrite n m).stageGuard n m off v).fld devGuardOff = g.off % 2 ^ 25 := by
  subst hn hm
  have hheld := State.countWrite_guardOf_self h hleft
  have hregs : ((s.countWrite rid.toNat f.val).stageGuard rid.toNat f.val off v).regs
      = (((s.countWrite rid.toNat f.val).dropGuard rid.toNat f.val).guardFail 3 g.off rid.toNat f.val).regs := by
    rw [State.stageGuard_eq, State.unstaged, hheld]
  obtain ⟨_, _, hoff, _, hwhy, _⟩ := State.guardFail_spec ((s.countWrite rid.toNat f.val).dropGuard rid.toNat f.val) g.off rid f
    (why := 3) (by norm_num)
  exact ⟨(State.fld_congr hregs _).trans hwhy, (State.fld_congr hregs _).trans hoff⟩

theorem State.stage_first (h : s.guardOf n m = none) : ∃ gs, (s.countWrite n m).stageGuard n m off v
    = { s with access := { s.access with guards := gs } } := by
  have hun : s.unstaged n m = s := by simp only [State.unstaged, h]
  exact ⟨_, by rw [State.countWrite_none h, State.stageGuard_eq, hun]⟩

end

/-- The complement of a value that is held for DBMODE commits it. -/
theorem State.dbmode_commits {s : State} {rid : BitVec 16} {left : Nat} {v : BitVec 32} (hpath : s.hostPath = true)
    (hon : s.domainOn 0x10004 = true) (hheld : s.guardOf rid.toNat 0 = some ⟨rid.toNat, 0, 0x10004, v, left⟩)
    (hok : (s.dropGuard rid.toNat 0).commitFault 0 0x10004 v.toNat = none) :
    s.hostWriteReg rid 0 0x12004 (~~~v) true {} = (s.dropGuard rid.toNat 0).putGuarded 0 0x10004 v.toNat
      ∧ ((s.dropGuard rid.toNat 0).putGuarded 0 0x10004 v.toNat).fld hifDbmode = bitField v.toNat 0 1
      ∧ ((s.dropGuard rid.toNat 0).putGuarded 0 0x10004 v.toNat).fld hifDevFetch = bitField v.toNat 1 12
      ∧ ((s.dropGuard rid.toNat 0).putGuarded 0 0x10004 v.toNat).access.fallback = []
      ∧ ((s.dropGuard rid.toNat 0).putGuarded 0 0x10004 v.toNat).guardOf rid.toNat 0 = none := by
  have hport : regTarget (0 : Fin 64).val 0x12004 = (0x10004, .complement) := rfl
  have hwrite := State.hostWriteReg_complement (s := s) (rid := rid) (f := 0) (off := 0x12004) (v := ~~~v) hpath (by simp [inBar])
    (by norm_num) (by rw [hport]; exact hon) (by rw [hport])
  have hcommit : s.commitGuard rid.toNat 0 ⟨rid.toNat, 0, 0x10004, v, left⟩ = (s.dropGuard rid.toNat 0).putGuarded 0 0x10004 v.toNat :=
    State.commitGuard_at (congrArg Prod.fst regTarget_dbmode) rfl hok
  obtain ⟨hregs, _⟩ := (s.dropGuard rid.toNat 0).putGuarded_keeps 0 0x10004 v.toNat
  obtain ⟨hmode, hfetch⟩ := (s.dropGuard rid.toNat 0).committed_dbmode v.toNat
  refine ⟨hwrite.trans ((State.complementWrite_some hheld).trans ((if_pos ⟨by norm_num, rfl⟩).trans hcommit)),
    (State.fld_congr hregs _).trans hmode, (State.fld_congr hregs _).trans hfetch, State.putGuarded_dbmode _ _,
    (State.putGuarded_guardOf ..).trans (State.dropGuard_guardOf_self ..)⟩

/-- Settles O45: one lemma for each write of the sequence, and for each that the sequence leaves out. -/
theorem guardedWrites : Obligations.GuardedWrites := by
  intro s rid f off v o key win hpath hbar halign hon
  refine ⟨fun hwin hguard => ?_, fun r' f' hne => ?_, ?_, fun hwin hnone => ?_, fun why a hwhy => ?_, ?_, ?_⟩
  · refine ⟨_, congrArg Host.Outcome.next (State.hostWriteReg_stage hpath hbar halign hon hwin hguard), ?_, fun hnone => ?_,
      fun g hg hleft => State.stage_replaces hg hleft rid f rfl rfl⟩
    · rw [State.stageGuard_guardOf, State.unstaged_self, if_pos ⟨rfl, rfl⟩]
      rfl
    · obtain ⟨gs, hgs⟩ := State.stage_first (off := off.toNat) (v := v) hnone
      rw [hgs]
  · have hpair : r' ≠ rid.toNat ∨ f'.val ≠ f.val := hne.imp_right fun h hv => h (Fin.ext hv)
    refine ⟨fun hwin hguard => ⟨_, congrArg Host.Outcome.next (State.hostWriteReg_stage hpath hbar halign hon hwin hguard), ?_⟩,
      fun hwin => ⟨_, congrArg Host.Outcome.next (State.hostWriteReg_complement hpath hbar halign hon hwin),
        State.complementWrite_guardOf_other _ _ _ _ _ hpair⟩⟩
    rw [State.stageGuard_guardOf, State.unstaged_other _ _ _ hpair, State.countWrite_guardOf_other _ _ _ hpair, if_neg, Option.or_none]
    rintro ⟨hr, hf⟩
    exact hpair.elim (fun h => h hr.symm) fun h => h hf.symm
  · intro g hwin hheld k u
    have hwrite := (State.hostWriteReg_complement (rid := rid) (v := v) hpath hbar halign hon hwin).trans (State.complementWrite_some hheld)
    refine ⟨fun hoff hv => ?_, fun hbad => ?_⟩
    · rw [if_pos ⟨hoff, hv⟩] at hwrite
      refine ⟨fun hok => ?_, fun why hfault hwhy => congrArg Host.Outcome.next (hwrite.trans (State.commitGuard_fault hfault hwhy)),
        fun hfault => congrArg Host.Outcome.next (hwrite.trans (State.commitGuard_keyed hfault))⟩
      obtain ⟨_, hguards, hhbm, hworks, hcores⟩ := u.putGuarded_keeps f.val k g.value.toNat
      exact ⟨_, congrArg Host.Outcome.next (hwrite.trans (State.commitGuard_none hok)),
        (State.putGuarded_guardOf ..).trans (State.dropGuard_guardOf_self ..), rfl, hhbm, hworks, hcores⟩
    · exact congrArg Host.Outcome.next (hwrite.trans (if_neg fun h => hbad.elim (fun hb => hb h.1) fun hb => hb h.2))
  · exact congrArg Host.Outcome.next ((State.hostWriteReg_complement hpath hbar halign hon hwin).trans (State.complementWrite_none hnone))
  · exact ⟨_, rfl, s.guardFail_spec a rid f hwhy⟩
  · rintro g rfl hpf
    have hheld : s.guardOf rid.toNat 0 = some g := hpf
    have hwrite := congrArg (Host.Outcome.next (φ := Fault) (ρ := Refusal)) (State.hostWriteReg_scratch (rid := rid) hpath v)
    have hscratch := (State.scratch_spec (s.countWrite rid.toNat 0) v).1
    have hbody := (State.scratch_spec (s.countWrite rid.toNat 0) v).2.1
    refine ⟨fun hleft => ⟨_, hwrite, ?_, ?_, ?_, hscratch⟩, fun hleft => ⟨_, hwrite, hscratch, ?_⟩⟩
    · rw [State.guardOf_congr hbody.access, State.countWrite_last hheld hleft, State.guardFail_guardOf]
      exact State.dropGuard_guardOf_self ..
    · rw [State.fld_setFld_other _ (by decide) _ (by decide), State.countWrite_last hheld hleft]
      exact (State.guardFail_spec _ g.off rid 0 (by norm_num)).2.2.2.2.1
    · rw [State.fld_setFld_other _ (by decide) _ (by decide), State.countWrite_last hheld hleft]
      exact (State.guardFail_spec _ g.off rid 0 (by norm_num)).2.2.1
    · rw [State.guardOf_congr hbody.access]
      exact State.countWrite_guardOf_self hheld hleft
  · rintro left rfl hon' hheld hok
    obtain ⟨hwrite, hspec⟩ := State.dbmode_commits hpath hon' hheld hok
    exact ⟨_, congrArg Host.Outcome.next hwrite, hspec⟩

end Sys2Proof.Machine
end

section
/-! SUPPORT. Losses of clocks (18 R488; 19 R502, R503): the timebase, the link reference and its die's ports, the PCIe reference. -/

namespace Sys2Proof.Machine

theorem State.mdieUp_of {s : State} (h : s.power.state ≠ .off) : s.mdieUp = true := by simp [State.mdieUp, h]

theorem State.mdieUp_off {s : State} (h : s.power.state = .off) : s.mdieUp = false := by simp [State.mdieUp, h]

/-! ### Ports that a loss takes down -/

/-- A port that is taken down, and what it leaves. -/
theorem State.dropPort_spec (s : State) (p : Nat) : ((s.dropPort p).port p).up = false
    ∧ (∀ q, q ≠ p → (s.dropPort p).port q = s.port q)
    ∧ (s.dropPort p).works = s.works ∧ (s.dropPort p).cores = s.cores ∧ (s.dropPort p).turn = s.turn
    ∧ ∀ g, errCeDrop.apart g → errNvOverflow.apart g → (s.dropPort p).flag g = s.flag g := by
  unfold State.dropPort
  dsimp only
  split
  · next h =>
    exact ⟨by simp [Port.up, (Bool.and_eq_true_iff.mp h).2], fun _ _ => rfl, rfl, rfl, rfl, fun _ _ _ => rfl⟩
  · split
    · exact ⟨by rw [(State.sameBody_log _ _ _).port, State.port_setPort_self]; rfl,
        fun q hq => by rw [(State.sameBody_log _ _ _).port, State.port_setPort, if_neg hq],
        (State.sameBody_log _ _ _).works, (State.sameBody_log _ _ _).cores, (State.sameBody_log _ _ _).turn,
        fun g h1 h2 => State.flag_log _ _ _ h1 h2⟩
    · exact ⟨by rw [State.port_setPort_self]; rfl, fun q hq => by rw [State.port_setPort, if_neg hq], rfl, rfl, rfl, fun _ _ _ => rfl⟩

/-- The ports of a list that are taken down in turn. -/
def State.dropPorts (s : State) (ps : List Nat) : State := ps.foldl State.dropPort s

theorem State.dropPorts_other (ps : List Nat) : ∀ (s : State) {q : Nat}, q ∉ ps → (s.dropPorts ps).port q = s.port q := by
  induction ps with
  | nil => exact fun s q _ => rfl
  | cons p ps ih =>
    intro s q hq
    exact (ih (s.dropPort p) (List.not_mem_of_not_mem_cons hq)).trans ((s.dropPort_spec p).2.1 q (List.ne_of_not_mem_cons hq))

theorem State.dropPorts_down (ps : List Nat) : ∀ (s : State) {q : Nat}, q ∈ ps → ((s.dropPorts ps).port q).up = false := by
  induction ps with
  | nil => exact fun s q hq => absurd hq List.not_mem_nil
  | cons p ps ih =>
    intro s q hq
    by_cases hqs : q ∈ ps
    · exact ih (s.dropPort p) hqs
    · obtain rfl : q = p := (List.mem_cons.mp hq).resolve_right hqs
      exact (congrArg Port.up (State.dropPorts_other ps (s.dropPort q) hqs)).trans (s.dropPort_spec q).1

theorem State.dropPorts_keeps (ps : List Nat) (s : State) : (s.dropPorts ps).works = s.works ∧ (s.dropPorts ps).cores = s.cores
    ∧ (s.dropPorts ps).turn = s.turn
    ∧ ∀ g, errCeDrop.apart g → errNvOverflow.apart g → (s.dropPorts ps).flag g = s.flag g :=
  ⟨foldl_keeps State.works (fun t p => (t.dropPort_spec p).2.2.1) ps s, foldl_keeps State.cores (fun t p => (t.dropPort_spec p).2.2.2.1) ps s,
    foldl_keeps State.turn (fun t p => (t.dropPort_spec p).2.2.2.2.1) ps s,
    fun g h1 h2 => foldl_keeps (fun t => t.flag g) (fun t p => (t.dropPort_spec p).2.2.2.2.2 g h1 h2) ps s⟩

/-- The ports of a die. -/
def diePorts (east : Bool) : List Nat := (List.range 12).map fun i => if east then i else 12 + i

theorem mem_diePorts {east : Bool} {i : Nat} (h : i < 12) : (if east then i else 12 + i) ∈ diePorts east :=
  List.mem_map.mpr ⟨i, List.mem_range.mpr h, rfl⟩

theorem not_mem_diePorts {east : Bool} {i : Nat} (h : i < 12) : (if east then 12 + i else i) ∉ diePorts east := by
  intro hmem
  obtain ⟨j, hj, heq⟩ := List.mem_map.mp hmem
  have hj : j < 12 := List.mem_range.mp hj
  cases east <;> simp at heq <;> omega

theorem exec_refclkLnkLoss (east : Bool) (s : State) : exec (.refclkLnkLoss east) s =
    .next (if s.powered then (s.setFlag (clkLnkLock (if east then 0 else 1)) false).dropPorts (diePorts east) else s) := by
  have hfold : ∀ t : State, (List.range 12).foldl (fun t i => t.dropPort (if east then i else 12 + i)) t = t.dropPorts (diePorts east) :=
    fun t => List.foldl_map.symm
  show (if s.powered then Host.Outcome.next _ else Host.Outcome.next s) = _
  cases hp : s.powered with
  | false => rfl
  | true => exact congrArg Host.Outcome.next (hfold _)

/-! ### The PCIe reference -/

/-- The link down and the PCIe reference lost. -/
def State.refclkDown (s : State) : State := (s.setFlag clkPcieLock false).setLink 0 0

theorem State.refclkDown_body (s : State) : s.refclkDown.sameBody s :=
  (State.sameBody_setLink _ _ _).trans (State.sameBody_setFlag _ _ _)

/-- A loss of the PCIe reference is a warm reset of a part that is ready, or that waits for its host. -/
theorem State.refclkDown_reset (s : State) : s.refclkDown.hostReset.power.state = (if s.power.state = .ready then .warm else s.power.state)
    ∧ (s.power.state = .ready ∨ s.power.state = .notReady → s.refclkDown.hostReset.mesh = [] ∧ s.refclkDown.hostReset.access.guards = []
      ∧ s.refclkDown.hostReset.flag nviReady = false ∧ s.refclkDown.hostReset.fld nviBootStage = 5)
    ∧ (s.power.state ≠ .ready → s.power.state ≠ .notReady → s.refclkDown.hostReset.sameBody s.unconfigured) := by
  have hheld : s.power.state ≠ .ready → s.power.state ≠ .notReady → s.refclkDown.hostReset.sameBody s.unconfigured := fun h h' => by
    rw [State.hostReset_held (s := s.refclkDown) h h']
    exact s.refclkDown_body.unconfigured
  have hwarm : s.power.state = .ready ∨ s.power.state = .notReady → s.refclkDown.hostReset.warmStarted s := fun h =>
    (State.hostReset_started (s := s.refclkDown) h).of_body (a := s.access) s.refclkDown_body rfl
  refine ⟨?_, fun h => ⟨(hwarm h).mesh, (hwarm h).guards, (hwarm h).ready, (hwarm h).stage⟩, hheld⟩
  by_cases h : s.power.state = .ready ∨ s.power.state = .notReady
  · exact (hwarm h).state
  · obtain ⟨hready, hnot⟩ := not_or.mp h
    rw [(hheld hready hnot).power, if_neg hready]
    rfl

/-! ### The settlement -/

theorem pllBit_spec (pll : Pll) : (pllBit pll).fits ∧ (pllBit pll).width = 1 ∧ clkLoss.apart (pllBit pll) ∧ (pllBit pll).apart clkLoss := by
  cases pll <;> decide

/-- Settles O34: the state that each clock's loss leaves. -/
theorem clockEvents : Obligations.ClockEvents := by
  intro s
  refine ⟨fun hup hosc => ?_, fun hosc => ?_, fun east hp => ?_, fun hp => ?_, fun hp => ⟨fun east => ?_, ?_⟩, ?_, rfl, fun pll hup => ?_⟩
  · have hbody := State.sameBody_log (({ s with power := { s.power with intOsc := true } } : State).setFlag clkSysLock false) .sysclkLost {}
    refine ⟨_, if_pos (by simp [State.mdieUp_of hup, hosc]), hbody.power, ?_, State.log_tells _ .sysclkLost {} (by decide), hbody.turn,
      hbody.works, hbody.cores⟩
    exact (State.flag_log _ _ _ (by decide) (by decide)).trans (State.flag_setFlag _ (by decide) rfl _)
  · exact if_neg (by simp [hosc])
  · have hexec := exec_refclkLnkLoss east s
    rw [if_pos hp] at hexec
    obtain ⟨hworks, hcores, hturn, hflag⟩ := (s.setFlag (clkLnkLock (if east then 0 else 1)) false).dropPorts_keeps (diePorts east)
    refine ⟨_, hexec, ?_, fun i hi => State.dropPorts_down _ _ (mem_diePorts hi),
      fun i hi => State.dropPorts_other _ _ (not_mem_diePorts hi), hworks, hcores, hturn⟩
    rw [hflag _ (by cases east <;> decide) (by cases east <;> decide)]
    exact State.flag_setFlag _ (by cases east <;> decide) rfl _
  · exact ⟨_, if_pos hp, s.refclkDown_reset⟩
  · exact (exec_refclkLnkLoss east s).trans (by rw [hp]; rfl)
  · exact if_neg (by simp [hp])
  · by_cases h : s.power.state = .off
    · rw [if_neg (not_not.mpr h)]
      exact if_neg (by simp [State.mdieUp_off h])
    · rw [if_pos h]
      exact if_pos (State.mdieUp_of h)
  · obtain ⟨hfits, hwidth, hapart, hapart'⟩ := pllBit_spec pll
    refine ⟨_, if_pos (State.mdieUp_of hup), (State.sameBody_bump _ _ _).trans (State.sameBody_setFlag _ _ _), ?_, ?_, rfl, rfl⟩
    · exact (State.flag_bump_other _ (by decide) _ hapart).trans (State.flag_setFlag _ hfits hwidth _)
    · exact (State.fld_bump _ (by decide) _).trans (by rw [State.fld_setFlag_other _ hfits _ hapart'])

end Sys2Proof.Machine
end

section
/-! SUPPORT. Control inputs (19 R505 to R507): the level that leaves an input's stages, and the brake that PWRBRK_N's level engages. -/

namespace Sys2Proof.Machine

/-! ### Registers that the brake leaves -/

/-- Charging event `k` touches its counter alone. -/
theorem State.chargeAll_fld (s : State) (c : Placed → Bool) (k : Nat) {g : RegField} (h : (audNd k).apart g) :
    (s.chargeAll c k).fld g = s.fld g := by
  refine foldl_keeps (fun t : State => t.fld g) (fun t i => ?_) _ _
  unfold State.chargeOne State.ndPlaced
  split
  · split
    · split
      · have hregs : ∀ p q, ((t.nondet k p).updPlaced i q).regs = (t.bump (audNd k) 1).regs := fun p q => by simp [State.nondet]
        exact (State.fld_congr (hregs _ _) g).trans (State.fld_bump_other t le_rfl 1 h)
      · rfl
    · rfl
  · rfl

/-- A field of the pin block is apart from every field below the block. -/
theorem RegField.apart_pin {f g : RegField} (hg : 0xB0000 ≤ g.off) (hf : f.off < 0xB0000) : f.apart g := .inl (by omega)

theorem State.engageBrake_pin (s : State) {g : RegField} (hg : 0xB0000 ≤ g.off) : s.engageBrake.fld g = s.fld g := by
  cases h : s.flag tlsBrake with
  | true => rw [State.engageBrake, if_pos h]
  | false => rw [State.engageBrake_released h, State.chargeAll_fld _ _ _ (RegField.apart_pin hg (by decide)), State.braking_fld,
      State.fld_bump_other _ (by decide) 1 (RegField.apart_pin hg (by decide)),
      State.fld_setFlag_other s (by decide) true (RegField.apart_pin hg (by decide))]

theorem State.engageBrake_turn (s : State) : s.engageBrake.turn.number = s.turn.number := by
  cases h : s.flag tlsBrake with
  | true => rw [State.engageBrake, if_pos h]
  | false => rw [State.engageBrake_released h, (State.charges_chargeAll _ _ _).turn, State.braking_turn]

theorem State.sameBody_pinEvent (s : State) (pin event tick : Nat) : (s.pinEvent pin event tick).sameBody s := by
  constructor <;> simp [State.pinEvent]

/-! ### The level that leaves an input's stages -/

/-- The bits of an input stand in the pin block, apart from each other. -/
theorem pin_fields (pin : PinId) : (pinLevel (pinCode pin)).fits ∧ (pinStuckF (pinCode pin)).fits ∧ (pinUnstableF (pinCode pin)).fits
    ∧ (pinRaw (pinCode pin)).fits ∧ (pinEvents (pinCode pin)).fits := by
  cases pin <;> decide

/-- What a level does that leaves an input's stages: LEVEL shows it, STUCK clears with it, PWRBRK_N asserts the brake. -/
structure State.driven (t s : State) (pin : PinId) (asserted : Bool) : Prop where
  level : t.flag (pinLevel (pinCode pin)) = asserted
  stuck : asserted = false → t.flag (pinStuckF (pinCode pin)) = false
  pinned : pin = .pwrbrk → t.flag tlsPin = asserted
  brake : pin = .pwrbrk → asserted = true → s.powered = true → t.brakeEngaged s
  kept : ∀ g, 0xB0000 ≤ g.off → (pinLevel (pinCode pin)).apart g → (pinStuckF (pinCode pin)).apart g → t.flag g = s.flag g
  count : t.fld (pinEvents (pinCode pin)) = s.fld (pinEvents (pinCode pin))
  number : t.turn.number = s.turn.number
  works : t.works = s.works
  cores : t.cores = s.cores
  hbm : t.hbm = s.hbm

/-- LEVEL and STUCK of an input once a level has left its stages. -/
def State.levelSet (s : State) (pin : PinId) (asserted : Bool) : State :=
  if asserted then s.setFlag (pinLevel (pinCode pin)) asserted
  else (s.setFlag (pinLevel (pinCode pin)) asserted).setFlag (pinStuckF (pinCode pin)) false

/-- With them, for PWRBRK_N, the cause of the brake. -/
def State.levelShown (s : State) (pin : PinId) (asserted : Bool) : State :=
  if pin = .pwrbrk then (s.levelSet pin asserted).setFlag tlsPin asserted else s.levelSet pin asserted

section
variable (s : State) (pin : PinId) (asserted : Bool)

theorem State.driveLevel_eq : s.driveLevel pin asserted = if pin = .pwrbrk ∧ asserted = true ∧ s.powered = true
    then (s.levelShown pin asserted).engageBrake else s.levelShown pin asserted := by
  have hpowered : ((s.setFlag (pinLevel (pinCode .pwrbrk)) true).setFlag tlsPin true).powered = s.powered := rfl
  cases pin <;> cases asserted <;> simp [State.driveLevel, State.levelShown, State.levelSet, hpowered]

theorem State.sameBody_levelShown : (s.levelShown pin asserted).sameBody s := by
  have hset : (s.levelSet pin asserted).sameBody s :=
    State.sameBody_ite (State.sameBody_setFlag _ _ _) ((State.sameBody_setFlag _ _ _).trans (State.sameBody_setFlag _ _ _))
  exact State.sameBody_ite ((State.sameBody_setFlag _ _ _).trans hset) hset

theorem State.levelSet_fld {g : RegField} (h1 : (pinLevel (pinCode pin)).apart g) (h2 : (pinStuckF (pinCode pin)).apart g) :
    (s.levelSet pin asserted).fld g = s.fld g := by
  obtain ⟨hlevel, hstuck, _⟩ := pin_fields pin
  have hfirst := State.fld_setFlag_other s hlevel asserted h1
  unfold State.levelSet
  split
  · exact hfirst
  · exact (State.fld_setFlag_other _ hstuck false h2).trans hfirst

theorem State.levelSet_level : (s.levelSet pin asserted).flag (pinLevel (pinCode pin)) = asserted
    ∧ (asserted = false → (s.levelSet pin asserted).flag (pinStuckF (pinCode pin)) = false) := by
  obtain ⟨hlevel, hstuck, _⟩ := pin_fields pin
  have hfirst := State.flag_setFlag s hlevel rfl asserted
  unfold State.levelSet
  cases asserted with
  | true => exact ⟨hfirst, fun h => absurd h (by decide)⟩
  | false => exact ⟨(State.flag_setFlag_other _ hstuck false (by cases pin <;> decide)).trans hfirst,
      fun _ => State.flag_setFlag _ hstuck rfl false⟩

/-- The cause of the brake stands apart from every other field. -/
theorem State.levelShown_fld {g : RegField} (h : tlsPin.apart g) : (s.levelShown pin asserted).fld g = (s.levelSet pin asserted).fld g := by
  unfold State.levelShown
  split
  · exact State.fld_setFlag_other _ (by decide) asserted h
  · rfl

theorem State.levelShown_flag {g : RegField} (h : tlsPin.apart g) : (s.levelShown pin asserted).flag g = (s.levelSet pin asserted).flag g := by
  rw [State.flag, s.levelShown_fld pin asserted h, State.flag]

theorem State.levelShown_pinned (h : pin = .pwrbrk) : (s.levelShown pin asserted).flag tlsPin = asserted := by
  rw [State.levelShown, if_pos h]
  exact State.flag_setFlag _ (by decide) rfl _

theorem State.driveLevel_driven : (s.driveLevel pin asserted).driven s pin asserted := by
  have hbody := s.sameBody_levelShown pin asserted
  obtain ⟨hset, hclear⟩ := s.levelSet_level pin asserted
  have hlevel := (s.levelShown_flag pin asserted (g := pinLevel (pinCode pin)) (by cases pin <;> decide)).trans hset
  have hstuck : asserted = false → _ := fun h =>
    (s.levelShown_flag pin asserted (g := pinStuckF (pinCode pin)) (by cases pin <;> decide)).trans (hclear h)
  have hpinned := s.levelShown_pinned pin asserted
  have hkept : ∀ g, 0xB0000 ≤ g.off → (pinLevel (pinCode pin)).apart g → (pinStuckF (pinCode pin)).apart g →
      (s.levelShown pin asserted).fld g = s.fld g := fun g hg h1 h2 =>
    (s.levelShown_fld pin asserted (RegField.apart_pin hg (by decide))).trans (s.levelSet_fld pin asserted h1 h2)
  have hcount := hkept (pinEvents (pinCode pin)) (by cases pin <;> decide) (by cases pin <;> decide) (by cases pin <;> decide)
  rw [State.driveLevel_eq]
  split
  · next hbrakes =>
    have hpin : ∀ g : RegField, 0xB0000 ≤ g.off → (s.levelShown pin asserted).engageBrake.fld g = (s.levelShown pin asserted).fld g :=
      fun g => (s.levelShown pin asserted).engageBrake_pin
    have hflag : ∀ g : RegField, 0xB0000 ≤ g.off → (s.levelShown pin asserted).engageBrake.flag g = (s.levelShown pin asserted).flag g :=
      fun g hg => by rw [State.flag, hpin g hg, State.flag]
    have hbrake := (s.levelShown pin asserted).engageBrake_engaged
    refine ⟨(hflag _ (by cases pin <;> decide)).trans hlevel, fun h => (hflag _ (by cases pin <;> decide)).trans (hstuck h),
      fun h => ((s.levelShown pin asserted).engageBrake_flag (by decide) (by decide) (by decide)).trans (hpinned h), fun _ _ _ => ?_,
      fun g hg h1 h2 => ?_, (hpin _ (by cases pin <;> decide)).trans hcount,
      (s.levelShown pin asserted).engageBrake_turn.trans (congrArg Turn.number hbody.turn), hbrake.works.trans hbody.works,
      hbrake.cores.trans hbody.cores, hbrake.hbm.trans hbody.hbm⟩
    · exact hbrake.of_body (p := s.power) hbody
        ((s.levelShown_fld pin asserted (by decide)).trans
          (s.levelSet_fld pin asserted (by cases pin <;> decide) (by cases pin <;> decide)))
        ((s.levelShown_fld pin asserted (by decide)).trans
          (s.levelSet_fld pin asserted (by cases pin <;> decide) (by cases pin <;> decide)))
    · rw [hflag g hg, State.flag, hkept g hg h1 h2, State.flag]
  · next hno =>
    exact ⟨hlevel, hstuck, hpinned, fun h1 h2 h3 => absurd ⟨h1, h2, h3⟩ hno,
      fun g hg h1 h2 => by rw [State.flag, hkept g hg h1 h2, State.flag], hcount, congrArg Turn.number hbody.turn, hbody.works,
      hbody.cores, hbody.hbm⟩

end

/-! ### Transitions (19 R505) -/

/-- A transition shows in RAW, and the M-die counts it. -/
def State.rawShown (s : State) (pin : PinId) (asserted : Bool) : State := (s.setFlag (pinRaw (pinCode pin)) asserted).bump (pinEvents (pinCode pin)) 1

section
variable (s : State) (pin : PinId) (asserted : Bool)

theorem State.sameBody_rawShown : (s.rawShown pin asserted).sameBody s :=
  (State.sameBody_bump _ _ _).trans (State.sameBody_setFlag _ _ _)

theorem State.rawShown_fld {g : RegField} (h1 : (pinRaw (pinCode pin)).apart g) (h2 : (pinEvents (pinCode pin)).apart g) :
    (s.rawShown pin asserted).fld g = s.fld g := by
  obtain ⟨_, _, _, hraw, hevents⟩ := pin_fields pin
  exact (State.fld_bump_other _ hevents 1 h2).trans (State.fld_setFlag_other s hraw asserted h1)

theorem State.rawShown_flag {g : RegField} (h1 : (pinRaw (pinCode pin)).apart g) (h2 : (pinEvents (pinCode pin)).apart g) :
    (s.rawShown pin asserted).flag g = s.flag g := by rw [State.flag, s.rawShown_fld pin asserted h1 h2, State.flag]

theorem State.rawShown_raw : (s.rawShown pin asserted).flag (pinRaw (pinCode pin)) = asserted
    ∧ (s.rawShown pin asserted).fld (pinEvents (pinCode pin)) = (s.fld (pinEvents (pinCode pin)) + 1) % 2 ^ (pinEvents (pinCode pin)).width := by
  obtain ⟨_, _, _, hraw, hevents⟩ := pin_fields pin
  refine ⟨?_, ?_⟩
  · exact (State.flag_bump_other _ hevents 1 (by cases pin <;> decide)).trans (State.flag_setFlag s hraw rfl asserted)
  · refine (State.fld_bump _ hevents 1).trans ?_
    rw [State.fld_setFlag_other s hraw asserted (by cases pin <;> decide)]

/-- A level that leaves the stages of an input in state `u` does so seen from `s`, where `u` shows no more than the transition. -/
theorem State.driven.of_body {t u s : State} {pin : PinId} {asserted : Bool} (h : t.driven u pin asserted) (hbody : u.sameBody s)
    (hbrake : u.fld tlsBrake = s.fld tlsBrake) (hcount : u.fld tlsBrakeCount = s.fld tlsBrakeCount) (hp : pin = .pwrbrk)
    (ha : asserted = true) (hpowered : s.powered = true) : t.brakeEngaged s :=
  (h.brake hp ha (by rw [State.powered, hbody.power]; exact hpowered)).of_body (p := s.power) hbody hbrake hcount

end

/-- What a transition does to an input. -/
theorem pinTransition_spec (s : State) (pin : PinId) (asserted : Bool) (tick : Nat) : let n := pinCode pin
    ∃ t, exec (.pinTransition pin asserted tick) s = .next t
      ∧ t.flag (pinRaw n) = asserted
      ∧ (s.power.state ≠ .off → t.fld (pinEvents n) = (s.fld (pinEvents n) + 1) % 2 ^ (pinEvents n).width)
      ∧ (s.power.state = .off ∨ s.flag (pinUnstableF n) = false → t.flag (pinLevel n) = asserted
          ∧ (asserted = false → t.flag (pinStuckF n) = false)
          ∧ (pin = .pwrbrk → t.flag tlsPin = asserted ∧ (asserted = true → s.powered = true → t.brakeEngaged s)))
      ∧ (s.power.state ≠ .off → s.flag (pinUnstableF n) = true → t.flag (pinLevel n) = s.flag (pinLevel n))
      ∧ t.works = s.works ∧ t.cores = s.cores ∧ t.hbm = s.hbm := by
  intro n
  obtain ⟨_, _, _, hraw, _⟩ := pin_fields pin
  obtain ⟨hshown, hcounted⟩ := s.rawShown_raw pin asserted
  have hunstable : (s.rawShown pin asserted).flag (pinUnstableF n) = s.flag (pinUnstableF n) :=
    s.rawShown_flag pin asserted (by cases pin <;> decide) (by cases pin <;> decide)
  have hbody := s.sameBody_rawShown pin asserted
  by_cases hoff : s.power.state = .off
  · have hdriven := (s.setFlag (pinRaw n) asserted).driveLevel_driven pin asserted
    have hunpowered : s.powered = false := by simp [State.powered, hoff]
    refine ⟨_, if_neg (by simp [State.mdieUp, hoff]), ?_, fun h => absurd hoff h, fun _ => ⟨hdriven.level, hdriven.stuck, fun hp =>
      ⟨hdriven.pinned hp, fun _ h => absurd h (by simp [hunpowered])⟩⟩, fun h => absurd hoff h, hdriven.works, hdriven.cores, hdriven.hbm⟩
    exact (hdriven.kept _ (by cases pin <;> decide) (by cases pin <;> decide) (by cases pin <;> decide)).trans
      (State.flag_setFlag s hraw rfl asserted)
  · have hup : (s.setFlag (pinRaw n) asserted).mdieUp = true := State.mdieUp_of hoff
    have hexec : exec (.pinTransition pin asserted tick) s = if (s.rawShown pin asserted).flag (pinUnstableF n)
        then .next (s.rawShown pin asserted)
        else .next (((s.rawShown pin asserted).pinEvent n (pinLevelEvent pin asserted) tick).driveLevel pin asserted) := if_pos hup
    cases hheld : s.flag (pinUnstableF n) with
    | true =>
      refine ⟨_, hexec.trans (if_pos (hunstable.trans hheld)), hshown, fun _ => hcounted, fun h => ?_, fun _ _ =>
        s.rawShown_flag pin asserted (by cases pin <;> decide) (by cases pin <;> decide), hbody.works, hbody.cores, hbody.hbm⟩
      exact absurd h (by simp [hoff])
    | false =>
      have hdriven := ((s.rawShown pin asserted).pinEvent n (pinLevelEvent pin asserted) tick).driveLevel_driven pin asserted
      have hregs := (s.rawShown pin asserted).pinEvent_regs n (pinLevelEvent pin asserted) tick
      have hbody' := ((s.rawShown pin asserted).sameBody_pinEvent n (pinLevelEvent pin asserted) tick).trans hbody
      have hfld : ∀ g, (pinRaw n).apart g → (pinEvents n).apart g →
          ((s.rawShown pin asserted).pinEvent n (pinLevelEvent pin asserted) tick).fld g = s.fld g := fun g h1 h2 =>
        (State.fld_congr hregs g).trans (s.rawShown_fld pin asserted h1 h2)
      refine ⟨_, hexec.trans (if_neg (by simp [hunstable, hheld])), ?_, fun _ => ?_, fun _ => ⟨hdriven.level, hdriven.stuck, fun hp =>
        ⟨hdriven.pinned hp, hdriven.of_body hbody' (hfld _ ?_ ?_) (hfld _ ?_ ?_) hp⟩⟩, fun _ h => absurd h (by decide),
        hdriven.works.trans hbody'.works, hdriven.cores.trans hbody'.cores, hdriven.hbm.trans hbody'.hbm⟩
      · exact (hdriven.kept _ (by cases pin <;> decide) (by cases pin <;> decide) (by cases pin <;> decide)).trans
          ((State.flag_congr hregs _).trans hshown)
      · exact hdriven.count.trans ((State.fld_congr hregs _).trans hcounted)
      all_goals cases pin <;> decide

/-! ### Inputs that the rate limit holds (19 R506) -/

theorem pinCode_turnSync {pin : PinId} : pinCode pin = 2 ↔ pin = .turnSync := by cases pin <;> decide

theorem pinUnstable_held {s : State} {pin : PinId} (held : Bool) (tick : Nat) (hup : s.power.state ≠ .off)
    (hrate : s.flag (pinRateEn (pinCode pin)) = true) (hfree : s.flag (pinUnstableF (pinCode pin)) = false) (hpin : pin ≠ .turnSync) :
    ∃ t, exec (.pinUnstable pin held tick) s = .next t ∧ t.flag (pinUnstableF (pinCode pin)) = true
      ∧ t.flag (pinLevel (pinCode pin)) = held ∧ t.flag (pinRaw (pinCode pin)) = s.flag (pinRaw (pinCode pin))
      ∧ t.tells s.turn.number .pinUnstable 0 ∧ t.works = s.works ∧ t.cores = s.cores := by
  obtain ⟨_, _, hunstable, _, _⟩ := pin_fields pin
  have hcode : pinCode pin ≠ 2 := mt pinCode_turnSync.mp hpin
  have hdriven := (s.setFlag (pinUnstableF (pinCode pin)) true).driveLevel_driven pin held
  generalize hu : (s.setFlag (pinUnstableF (pinCode pin)) true).driveLevel pin held = u at hdriven
  have hexec : exec (.pinUnstable pin held tick) s = .next ((u.log .pinUnstable {}).pinEvent (pinCode pin) 2 tick) := by
    rw [← hu]
    exact if_pos (by simp [State.mdieUp_of hup, hrate, hfree, hcode])
  have hflag : ∀ g : RegField, 0xB0000 ≤ g.off → ((u.log .pinUnstable {}).pinEvent (pinCode pin) 2 tick).flag g = u.flag g := fun g hg =>
    (State.flag_congr (State.pinEvent_regs ..) g).trans
      (State.flag_log _ _ _ (RegField.apart_pin hg (by decide)) (RegField.apart_pin hg (by decide)))
  have hbody := ((u.log .pinUnstable {}).sameBody_pinEvent (pinCode pin) 2 tick).trans (State.sameBody_log _ _ _)
  refine ⟨_, hexec, ?_, (hflag _ (by cases pin <;> decide)).trans hdriven.level, ?_, ?_, hbody.works.trans hdriven.works,
    hbody.cores.trans hdriven.cores⟩
  · exact (hflag _ (by cases pin <;> decide)).trans ((hdriven.kept _ (by cases pin <;> decide) (by cases pin <;> decide)
      (by cases pin <;> decide)).trans (State.flag_setFlag s hunstable rfl true))
  · exact (hflag _ (by cases pin <;> decide)).trans ((hdriven.kept _ (by cases pin <;> decide) (by cases pin <;> decide)
      (by cases pin <;> decide)).trans (State.flag_setFlag_other s hunstable true (by cases pin <;> decide)))
  · rw [State.tells_congr (State.pinEvent_errs ..), show s.turn.number = u.turn.number from hdriven.number.symm]
    exact State.log_tells u .pinUnstable {} (by decide)

theorem pinUnstableClear_follows {s : State} {pin : PinId} (h : s.flag (pinUnstableF (pinCode pin)) = true) :
    ∃ t, exec (.pinUnstableClear pin) s = .next t ∧ t.flag (pinUnstableF (pinCode pin)) = false
      ∧ t.flag (pinLevel (pinCode pin)) = s.flag (pinRaw (pinCode pin)) ∧ t.works = s.works ∧ t.cores = s.cores := by
  obtain ⟨_, _, hunstable, _, _⟩ := pin_fields pin
  have hclear := State.flag_setFlag s hunstable rfl false
  have hraw : (s.setFlag (pinUnstableF (pinCode pin)) false).flag (pinRaw (pinCode pin)) = s.flag (pinRaw (pinCode pin)) :=
    State.flag_setFlag_other s hunstable false (by cases pin <;> decide)
  have hexec : exec (.pinUnstableClear pin) s = _ := if_pos h
  by_cases hlevel : (s.setFlag (pinUnstableF (pinCode pin)) false).flag (pinLevel (pinCode pin))
      = (s.setFlag (pinUnstableF (pinCode pin)) false).flag (pinRaw (pinCode pin))
  · exact ⟨_, hexec.trans (if_pos hlevel), hclear, hlevel.trans hraw, rfl, rfl⟩
  · have hexec := hexec.trans (if_neg hlevel)
    generalize hu : ((s.setFlag (pinUnstableF (pinCode pin)) false).pinEvent (pinCode pin)
      (pinLevelEvent pin ((s.setFlag (pinUnstableF (pinCode pin)) false).flag (pinRaw (pinCode pin))))
      (s.setFlag (pinUnstableF (pinCode pin)) false).freeTick).tickFree = u at hexec
    have hregs : u.regs = (s.setFlag (pinUnstableF (pinCode pin)) false).regs := by
      rw [← hu]
      exact State.pinEvent_regs ..
    have hbody : u.sameBody s := by
      rw [← hu]
      refine State.sameBody.trans (by constructor <;> rfl)
        ((State.sameBody_pinEvent (s.setFlag (pinUnstableF (pinCode pin)) false) ..).trans (State.sameBody_setFlag _ _ _))
    have hdriven := u.driveLevel_driven pin ((s.setFlag (pinUnstableF (pinCode pin)) false).flag (pinRaw (pinCode pin)))
    refine ⟨_, hexec, ?_, hdriven.level.trans hraw, hdriven.works.trans hbody.works, hdriven.cores.trans hbody.cores⟩
    exact (hdriven.kept _ (by cases pin <;> decide) (by cases pin <;> decide) (by cases pin <;> decide)).trans
      ((State.flag_congr hregs _).trans hclear)

/-! ### Inputs that stay asserted (19 R507) -/

/-- With tracing on, the event of an input stands in the turn's trace. -/
theorem State.pinEvent_traced {s : State} (h : s.flag audTraceEn = true) (pin event tick : Nat) :
    ∃ e ∈ (s.pinEvent pin event tick).audit.turnTrace, e.rtype = 0x08 ∧ e.payload.take 2 = [BitVec.ofNat 8 pin, BitVec.ofNat 8 event] := by
  rw [State.pinEvent, State.trace1, if_pos (by simp [h])]
  exact ⟨_, List.mem_append_right _ (List.mem_singleton.mpr rfl), rfl, rfl⟩

theorem pinStuck_told {s : State} {pin : PinId} (tick : Nat) (hup : s.power.state ≠ .off) (hlimit : s.flag (pinStuckS (pinCode pin)) = true)
    (hlevel : s.flag (pinLevel (pinCode pin)) = true) (hfirst : s.flag (pinStuckF (pinCode pin)) = false) :
    ∃ t, exec (.pinStuck pin tick) s = .next t ∧ t.sameBody s ∧ t.flag (pinStuckF (pinCode pin)) = true
      ∧ t.flag (pinLevel (pinCode pin)) = true ∧ t.tells s.turn.number .pinStuck 0 ∧ t.flag tlsPin = s.flag tlsPin
      ∧ t.flag tlsBrake = s.flag tlsBrake
      ∧ (s.flag audTraceEn = true → ∃ e ∈ t.audit.turnTrace, e.rtype = 0x08
        ∧ e.payload.take 2 = [BitVec.ofNat 8 (pinCode pin), 3]) := by
  obtain ⟨_, hstuck, _⟩ := pin_fields pin
  generalize hu : (s.setFlag (pinStuckF (pinCode pin)) true).log .pinStuck {} = u
  have hexec : exec (.pinStuck pin tick) s = .next (u.pinEvent (pinCode pin) 3 tick) := by
    rw [← hu]
    exact if_pos (by simp [State.mdieUp_of hup, hlimit, hlevel, hfirst])
  have hkept : ∀ g, errCeDrop.apart g → errNvOverflow.apart g →
      (u.pinEvent (pinCode pin) 3 tick).flag g = (s.setFlag (pinStuckF (pinCode pin)) true).flag g := fun g h1 h2 =>
    (State.flag_congr (State.pinEvent_regs ..) g).trans (by rw [← hu]; exact State.flag_log _ _ _ h1 h2)
  have hother : ∀ g, errCeDrop.apart g → errNvOverflow.apart g → (pinStuckF (pinCode pin)).apart g →
      (u.pinEvent (pinCode pin) 3 tick).flag g = s.flag g := fun g h1 h2 h3 =>
    (hkept g h1 h2).trans (State.flag_setFlag_other s hstuck true h3)
  have hbody : u.sameBody s := hu ▸ (State.sameBody_log _ _ _).trans (State.sameBody_setFlag _ _ _)
  refine ⟨_, hexec, (State.sameBody_pinEvent u ..).trans hbody, ?_, (hother _ ?_ ?_ ?_).trans hlevel, ?_, hother _ ?_ ?_ ?_,
    hother _ ?_ ?_ ?_, fun htrace => State.pinEvent_traced ?_ _ _ _⟩
  · exact (hkept _ (by cases pin <;> decide) (by cases pin <;> decide)).trans (State.flag_setFlag s hstuck rfl true)
  case refine_5 =>
    rw [State.tells_congr (State.pinEvent_errs ..), ← hu]
    exact State.log_tells (s.setFlag (pinStuckF (pinCode pin)) true) .pinStuck {} (by decide)
  case refine_12 =>
    rw [← hu, State.flag_log _ _ _ (by decide) (by decide), State.flag_setFlag_other s hstuck true (by cases pin <;> decide)]
    exact htrace
  all_goals cases pin <;> decide

end Sys2Proof.Machine

namespace Sys2Proof

open Machine

/-- Settles O35: a transition, a limit reached or left, and a level that stays. -/
theorem pinEvents : Obligations.PinEvents := by
  refine ⟨pinTransition_spec, fun s pin => ⟨fun held tick => pinUnstable_held held tick, fun held tick h => ?_, pinUnstableClear_follows,
    fun h => if_neg (by simp [h]), fun tick => pinStuck_told tick, fun tick h => ?_⟩⟩
  · refine if_neg ?_
    rcases h with rfl | h
    · simp [pinCode]
    · simp [h]
  · refine if_neg ?_
    rcases h with h | h <;> simp [h]

end Sys2Proof
end

section
/-! SUPPORT. The sideband (16 R445 to R447; 19 R508): what each command answers and leaves. -/

namespace Sys2Proof.Machine

/-! ### Authentications (16 R439) -/

/-- A slot's failure counted. -/
def Security.failed (x : Security) (kslot : Nat) : Security := { x with fails := SMap.set 0 x.fails kslot (SMap.get 0 x.fails kslot + 1) }

theorem Security.failed_fails (x : Security) (kslot : Nat) : SMap.get 0 (x.failed kslot).fails kslot = SMap.get 0 x.fails kslot + 1 := by
  simp [Security.failed]

/-- A slot locked. -/
def Security.lock (x : Security) (kslot : Nat) : Security :=
  { x with lockouts := SMap.upd 0 x.lockouts kslot (fun n => n + 1), locked := insertOnce kslot x.locked }

/-- A failure counted and told of. -/
def State.failTold (s : State) (kslot : Nat) : State :=
  (({ s with sec := s.sec.failed kslot } : State).bump secAuthFails 1).log .authFail { detail := kslot }

/-- A slot locked and told of. -/
def State.lockTold (s : State) (kslot : Nat) : State :=
  (({ s with sec := s.sec.lock kslot } : State).bump secLockouts 1).log .authLocked { detail := kslot }

section
variable (s : State) (kslot : Nat)

theorem State.authFailed_eq : s.authFailed kslot = if (s.failTold kslot).fld secAuthTries ≤ SMap.get 0 s.sec.fails kslot + 1
    then (s.failTold kslot).lockTold kslot else s.failTold kslot := rfl

theorem State.sameBody_failTold : (s.failTold kslot).sameBody { s with sec := s.sec.failed kslot } :=
  (State.sameBody_log _ _ _).trans (State.sameBody_bump _ _ _)

theorem State.sameBody_lockTold : (s.lockTold kslot).sameBody { s with sec := s.sec.lock kslot } :=
  (State.sameBody_log _ _ _).trans (State.sameBody_bump _ _ _)

/-- A failed authentication counts for its slot, and locks it or does not. -/
theorem State.authFailed_sec : (s.authFailed kslot).sec = s.sec.failed kslot
    ∨ (s.authFailed kslot).sec = (s.sec.failed kslot).lock kslot := by
  have hfail := (s.sameBody_failTold kslot).sec
  rw [State.authFailed_eq]
  split
  · refine .inr (((s.failTold kslot).sameBody_lockTold kslot).sec.trans ?_)
    show (s.failTold kslot).sec.lock kslot = _
    rw [hfail]
  · exact .inl hfail

/-- It leaves the sessions and challenges, and is counted. -/
theorem State.authFailed_counts : (s.authFailed kslot).sec.sbSessions = s.sec.sbSessions
    ∧ (s.authFailed kslot).sec.sbChallenges = s.sec.sbChallenges ∧ (s.authFailed kslot).sec.sessions = s.sec.sessions
    ∧ (s.authFailed kslot).sec.challenges = s.sec.challenges
    ∧ SMap.get 0 (s.authFailed kslot).sec.fails kslot = SMap.get 0 s.sec.fails kslot + 1 := by
  rcases s.authFailed_sec kslot with h | h <;> rw [h] <;> exact ⟨rfl, rfl, rfl, rfl, s.sec.failed_fails kslot⟩

theorem State.authFailed_tells : (s.authFailed kslot).tells s.turn.number .authFail 0 := by
  have htells : (s.failTold kslot).tells s.turn.number .authFail 0 :=
    State.log_tells (({ s with sec := s.sec.failed kslot } : State).bump secAuthFails 1) .authFail { detail := kslot } (by decide)
  rw [State.authFailed_eq]
  split
  · exact State.log_keeps (({ s.failTold kslot with sec := (s.failTold kslot).sec.lock kslot } : State).bump secLockouts 1) _ _ _ _ _
      (by decide) htells
  · exact htells

end

/-! ### Challenges and sessions (16 R445, R446) -/

section
variable {s : State}

theorem State.sbOpen_sbEnd_self (h : Nat) : (s.sbEnd h).sbOpen h = false := by
  simp [State.sbOpen, State.sbEnd]

theorem State.sbOpen_sbEnd_other {h j : Nat} (hne : j ≠ h) : (s.sbEnd h).sbOpen j = s.sbOpen j := by
  simp only [State.sbOpen, State.sbEnd, SMap.get_set_ne _ _ _ _ hne]

/-- The challenge of a slot is used up. -/
def State.sbUsed (s : State) (ks : Nat) : State := { s with sec := { s.sec with sbChallenges := SMap.set none s.sec.sbChallenges ks none } }

section
variable {ks : Nat} {ch mac : List Byte} {k : KeySlot} (hch : SMap.get none s.sec.sbChallenges ks = some ch) (hlocked : ks ∉ s.sec.locked)
  (hslot : SMap.get none s.sec.slots ks = some k) (hrole : k.role = 2) (hflag : k.kfl % 2 = 1)
include hch hlocked hslot hrole hflag

/-- With the right MAC the first free handle is the session's. -/
theorem State.sbOpenOp_right (hmac : hmacSha512 k.key (macMessage ch 0xFF 2 ks 0) = mac) {h : Nat}
    (hfree : [1, 2, 3, 4].find? (fun h => (SMap.get none s.sec.sbSessions h).isNone) = some h) : s.sbOpenOp ks 2 mac
      = { (s.sbUsed ks).authPassed ks with
          sec := { ((s.sbUsed ks).authPassed ks).sec with sbSessions := SMap.set none s.sec.sbSessions h (some ks) }
          reply := .sideband 0 [BitVec.ofNat 8 h] } := by
  have hfree' : [1, 2, 3, 4].find? (fun h => (SMap.get none ((s.sbUsed ks).authPassed ks).sec.sbSessions h).isNone) = some h := hfree
  unfold State.sbOpenOp
  rw [hch]
  dsimp only
  rw [if_neg (by simpa using hlocked), hslot]
  dsimp only
  rw [if_neg (by simp [hrole, hflag]), if_pos hmac]
  simp only [State.sbUsed] at hfree' ⊢
  rw [hfree']
  rfl

/-- A wrong MAC is a failed authentication. -/
theorem State.sbOpenOp_wrong (hmac : hmacSha512 k.key (macMessage ch 0xFF 2 ks 0) ≠ mac) :
    s.sbOpenOp ks 2 mac = ((s.sbUsed ks).authFailed ks).sbAnswer stAuthFail [] := by
  unfold State.sbOpenOp
  rw [hch]
  dsimp only
  rw [if_neg (by simpa using hlocked), hslot]
  dsimp only
  rw [if_neg (by simp [hrole, hflag]), if_neg hmac]
  rfl

end

/-- A challenge comes with the salt of the slot that it is for. -/
theorem State.sbChallengeOp_spec (s : State) {ks : Nat} {k : KeySlot} (hslot : SMap.get none s.sec.slots ks = some k) :
    (s.sbChallengeOp ks).reply = .sideband 0 (s.newChallenge.1 ++ k.salt ++ le32 200000) ∧ s.newChallenge.1.length = 32
      ∧ SMap.get none (s.sbChallengeOp ks).sec.sbChallenges ks = some s.newChallenge.1 := by
  refine ⟨?_, by simp [State.newChallenge], ?_⟩
  · unfold State.sbChallengeOp
    rw [hslot]
    rfl
  · simp [State.sbChallengeOp, State.sbAnswer, State.answer]

/-! ### Registers (16 R447) -/

/-- One register read. -/
theorem State.sbReadOp_one {handle off : Nat} (hopen : s.sbOpen handle = true ∨ (handle = 0 ∧ sbOpenRegister off = true)) (halign : off % 4 = 0)
    (hbar : off + 4 ≤ 2 ^ 25) : s.sbReadOp handle off 1
      = { (s.read4 (0x10000 + handle) 0 off).1 with reply := .sideband 0 (le32 (s.read4 (0x10000 + handle) 0 off).2.toNat) } := by
  have hmay : ¬((!(s.sbOpen handle) && !(decide (handle = 0) && (List.range 1).all (fun i => sbOpenRegister (off + 4 * i)))) = true) := by
    rcases hopen with h | ⟨h, hreg⟩
    · simp [h]
    · simp [h, hreg]
  have hrange : ¬(1 = 0 ∨ 16 < 1 ∨ off % 4 ≠ 0 ∨ 2 ^ 25 < off + 4 * 1) := by omega
  rw [State.sbReadOp, if_neg hmay, if_neg hrange]
  simp only [State.sbValues, List.append_nil]
  rfl

/-- A register that is not one of the three, written in a session. -/
theorem State.sbWriteOp_denied {handle off : Nat} (hopen : s.sbOpen handle = true) (h1 : off ≠ 0x60004) (h2 : off ≠ 0x40020)
    (h3 : off ≠ 0x70008) (v : Nat) : s.sbWriteOp handle off v = s.sbAnswer stRoleDenied [] := by
  rw [State.sbWriteOp, if_neg (by simp [hopen]), if_neg (by simp [h1, h2, h3])]

theorem State.sbWriteOp_acts {handle off : Nat} (hopen : s.sbOpen handle = true) (h : off = 0x60004 ∨ off = 0x40020 ∨ off = 0x70008)
    (v : Nat) : s.sbWriteOp handle off v = (s.actWo off v {}).sbAnswer 0 [] := by
  rw [State.sbWriteOp, if_neg (by simp [hopen]), if_pos h]

/-- Without a session there is no write. -/
theorem State.sbWriteOp_closed {handle off : Nat} (h : s.sbOpen handle = false) (v : Nat) :
    s.sbWriteOp handle off v = s.sbAnswer stNoSession [] := by
  rw [State.sbWriteOp, if_pos (by simp [h])]

theorem State.actWo_reset (h : s.power.state = .ready) : s.actWo 0x60004 1 {} = s.warmReset := by
  rw [State.actWo, if_pos rfl, State.requestReset, if_pos rfl, if_pos (.inl h)]

end

/-- An answer leaves what a warm reset started. -/
theorem State.warmStarted.sbAnswer {t s : State} (h : t.warmStarted s) (status : Nat) (body : List Byte) :
    (t.sbAnswer status body).warmStarted s := { h with ready := h.ready }

/-- A command of the sideband. -/
def sidebandCmd (i : Instr) : Prop :=
  (∃ k, i = .sbChallenge k) ∨ (∃ k r m, i = .sbOpen k r m) ∨ (∃ h o n, i = .sbRead h o n) ∨ (∃ h o v, i = .sbWrite h o v)
    ∨ (∃ h, i = .sbClose h) ∨ (∃ m, i = .mctpControlMessage m) ∨ i = .alertResponseAddress

/-- A part whose M-die does not run is silent. -/
theorem sidebandCmd_silent {i : Instr} (hi : sidebandCmd i) {s : State} (h : s.power.state = .off) :
    exec i s = .next { s with reply := .silent } := by
  have hoff := State.mdieUp_off h
  have hsilent : ∀ t : State, (if s.mdieUp then t else s.answer .silent) = s.answer .silent := fun t => if_neg (by simp [hoff])
  rcases hi with ⟨k, rfl⟩ | ⟨k, r, m, rfl⟩ | ⟨a, o, n, rfl⟩ | ⟨a, o, v, rfl⟩ | ⟨a, rfl⟩ | ⟨m, rfl⟩ | rfl
  · exact congrArg Host.Outcome.next (hsilent _)
  · exact congrArg Host.Outcome.next (hsilent _)
  · exact congrArg Host.Outcome.next (hsilent _)
  · exact congrArg Host.Outcome.next (hsilent _)
  · exact congrArg Host.Outcome.next (if_pos (by simp [hoff]))
  · exact congrArg Host.Outcome.next (hsilent _)
  · exact congrArg (fun r => Host.Outcome.next (s.answer r)) (if_neg (by simp [hoff]))

/-- Settles O52: what each command answers, and what it leaves. -/
theorem sidebandCommands : Obligations.SidebandCommands := by
  intro s
  refine ⟨fun h i hi => sidebandCmd_silent hi h, fun hstate => ?_, fun h =>
    ⟨_, rfl, State.sbOpen_sbEnd_self _, fun j hj => State.sbOpen_sbEnd_other hj, rfl⟩⟩
  have hup := State.mdieUp_of hstate
  have hnext : ∀ t : State, (Host.Outcome.next (if s.mdieUp then t else s.answer .silent) : Host.Outcome State Fault Refusal) = .next t :=
    fun t => congrArg Host.Outcome.next (if_pos hup)
  refine ⟨fun ks k hslot => ?_, fun ks role mac hnone => (hnext _).trans ?_, fun ks mac ch k hch hlocked hslot hrole hflag =>
    ⟨fun hmac h hfree => ?_, fun hmac => ?_⟩, fun h o hopen halign hbar => (hnext _).trans (congrArg Host.Outcome.next
      (State.sbReadOp_one (hopen.imp_right fun hz => ⟨congrArg BitVec.toNat hz.1, hz.2⟩) halign hbar)), fun h o n hclosed hne => ?_,
    fun h o v => ⟨fun hclosed => (hnext _).trans (congrArg Host.Outcome.next (State.sbWriteOp_closed hclosed _)),
      fun hopen h1 h2 h3 => ?_, fun hopen hready => ?_, fun hopen => ?_⟩, fun h => ⟨fun hopen => ?_, fun hclosed => ?_⟩, fun m => ?_, ?_⟩
  · obtain ⟨hreply, hlen, hheld⟩ := s.sbChallengeOp_spec hslot
    exact ⟨_, _, hnext _, hreply, hlen, hheld, rfl⟩
  · refine congrArg Host.Outcome.next ?_
    simp only [State.sbOpenOp, hnone]
    rfl
  · exact ⟨_, (hnext _).trans (congrArg Host.Outcome.next (State.sbOpenOp_right hch hlocked hslot hrole hflag hmac hfree)), rfl,
      by simp, by simp [State.authPassed, State.sbUsed], by simp [State.authPassed], rfl⟩
  · obtain ⟨hsessions, hchallenges, _, _, hfails⟩ := (s.sbUsed ks.toNat).authFailed_counts ks.toNat
    refine ⟨_, (hnext _).trans (congrArg Host.Outcome.next (State.sbOpenOp_wrong hch hlocked hslot hrole hflag hmac)), rfl,
      (s.sbUsed ks.toNat).authFailed_tells ks.toNat, hsessions, ?_, hfails⟩
    show SMap.get none ((s.sbUsed ks.toNat).authFailed ks.toNat).sec.sbChallenges ks.toNat = none
    rw [hchallenges]
    simp [State.sbUsed]
  · have hzero : h.toNat ≠ 0 := fun hz => hne (BitVec.eq_of_toNat_eq hz)
    refine (hnext _).trans (congrArg Host.Outcome.next ?_)
    rw [State.sbReadOp, if_pos (by simp [hclosed, hzero])]
    rfl
  · exact (hnext _).trans (congrArg Host.Outcome.next (State.sbWriteOp_denied hopen (fun h => h1 (BitVec.eq_of_toNat_eq h))
      (fun h => h2 (BitVec.eq_of_toNat_eq h)) (fun h => h3 (BitVec.eq_of_toNat_eq h)) _))
  · have hacts : s.sbWriteOp h.toNat 0x60004 1 = s.warmReset.sbAnswer 0 [] := by
      rw [State.sbWriteOp_acts hopen (.inl rfl), State.actWo_reset hready]
    have hexec : exec (.sbWrite h 0x60004 1) s = .next (s.warmReset.sbAnswer 0 []) := (hnext _).trans (congrArg Host.Outcome.next hacts)
    exact ⟨_, hexec, s.warmReset_started.sbAnswer 0 [], rfl⟩
  · exact (hnext _).trans (congrArg Host.Outcome.next (State.sbWriteOp_acts hopen (.inr (.inr rfl)) 1))
  · have hexec : exec (.sbClose h) s = .next ((s.sbEnd h.toNat).sbAnswer 0 []) :=
      congrArg Host.Outcome.next ((if_neg (by simp [hup])).trans (if_pos hopen))
    exact ⟨_, hexec, rfl, rfl, State.sbOpen_sbEnd_self (s := s) _, fun j hj => State.sbOpen_sbEnd_other (s := s) hj⟩
  · exact congrArg Host.Outcome.next ((if_neg (by simp [hup])).trans (if_neg (by simp [hclosed])))
  · exact ⟨_, _, hnext _, rfl, rfl⟩
  · refine congrArg (fun r => Host.Outcome.next (s.answer r)) ?_
    rw [hup, Bool.true_and]
    rfl

end Sys2Proof.Machine
end

section
/-! SUPPORT. SPDM (16 R454 to R456): what each request answers on an open port, and that a closed one is silent. -/

namespace Sys2Proof.Machine

section
variable {s : State} {p : SpdmPort}

theorem State.spdm_open (h : s.spdmPort p = true) (code : Nat) (body : List Byte) :
    s.spdm p code body = { s with reply := .spdm code body } := if_pos h

theorem State.spdm_closed (h : s.spdmPort p = false) (code : Nat) (body : List Byte) : s.spdm p code body = { s with reply := .silent } :=
  if_neg (by simp [h])

theorem State.spdmPort_tickFree (s : State) (p : SpdmPort) : s.tickFree.spdmPort p = s.spdmPort p := by
  cases p <;> rfl

theorem State.notReadyYet_open (h : s.spdmPort p = true) :
    s.notReadyYet p = { s.bump secSpdmNotReady 1 with reply := .spdm 0x7F [0x42, 0] } := by
  have hport : (s.bump secSpdmNotReady 1).spdmPort p = true := by
    rw [← h]
    cases p with
    | doe _ => rfl
    | mctp => exact congrArg (s.mdieUp && ·) (State.flag_bump_other _ (by decide) 1 (by decide))
  rw [State.notReadyYet, if_pos h]
  exact State.spdm_open hport _ _

/-! ### The engine (R456) -/

theorem State.rsaFree_of (h1 : s.audit.signing = none) (h2 : s.audit.waiting = []) : s.rsaFree = true := by simp [State.rsaFree, h1, h2]

theorem State.rsaFree_busy (h : s.audit.signing ≠ none ∨ s.audit.waiting ≠ []) : s.rsaFree = false := by
  rw [State.rsaFree, Bool.and_eq_false_iff]
  exact h.imp (fun h => by simpa [Option.isNone_eq_false_iff, Option.isSome_iff_ne_none] using h) fun h => by simpa using h

/-! ### Measurements (R455) -/

theorem measurementIndices_one {x : BitVec 8} (h1 : 1 ≤ x.toNat) (h2 : x.toNat ≤ 14) : measurementIndices x.toNat = [x.toNat] := by
  rw [measurementIndices, if_neg (by omega), if_neg (by omega)]

theorem measurementIndices_past {x : BitVec 8} (h1 : 14 < x.toNat) (h2 : x ≠ 0xFF) : measurementIndices x.toNat = [x.toNat] := by
  have hall : x.toNat ≠ 0xFF := fun h => h2 (BitVec.eq_of_toNat_eq h)
  rw [measurementIndices, if_neg hall, if_neg (by omega)]

/-- An index that the part has, or that asks for all or none, is in range. -/
theorem measurementIndices_inRange {x : BitVec 8} (h : x.toNat ≤ 14 ∨ x = 0xFF) :
    (measurementIndices x.toNat).any (fun i => decide (14 < i)) = false := by
  rcases h with h | rfl
  · by_cases h0 : x.toNat = 0
    · rw [h0]
      rfl
    · rw [measurementIndices_one (by omega) h]
      simpa using h
  · decide

end

/-! ### A closed port -/

/-- A request on a port. -/
def spdmCmd (p : SpdmPort) (i : Instr) : Prop :=
  i = .getVersion p ∨ i = .getCapabilities p ∨ i = .negotiateAlgorithms p ∨ i = .getDigests p ∨ (∃ sl o n, i = .getCertificate p sl o n)
    ∨ (∃ sl n, i = .challenge p sl n) ∨ ∃ x g n, i = .getMeasurements p x g n

/-- Nothing is answered, and nothing but free values drawn. -/
def State.silenced (s t : State) : Prop := t.reply = .silent ∧ t = { s with reply := t.reply, freeCtr := t.freeCtr }

theorem spdmCmd_silent {p : SpdmPort} {i : Instr} (hi : spdmCmd p i) {s : State} (h : s.spdmPort p = false) :
    ∃ t, exec i s = .next t ∧ s.silenced t := by
  have hspdm : ∀ code body, s.silenced (s.spdm p code body) := fun code body => by rw [State.spdm_closed h]; exact ⟨rfl, rfl⟩
  have htick : ∀ code body, s.silenced (s.tickFree.spdm p code body) := fun code body => by
    rw [State.spdm_closed ((s.spdmPort_tickFree p).trans h)]
    exact ⟨rfl, rfl⟩
  have hbusy : s.silenced (s.notReadyYet p) := by
    rw [State.notReadyYet, if_neg (by simp [h])]
    exact ⟨rfl, rfl⟩
  rcases hi with rfl | rfl | rfl | rfl | ⟨sl, o, n, rfl⟩ | ⟨sl, n, rfl⟩ | ⟨x, g, n, rfl⟩
  · exact ⟨_, rfl, hspdm _ _⟩
  · exact ⟨_, rfl, hspdm _ _⟩
  · exact ⟨_, rfl, hspdm _ _⟩
  · exact ⟨_, rfl, hspdm _ _⟩
  · by_cases hc : sl ≠ 0 ∨ Config.certChain.length ≤ o.toNat
    · exact ⟨_, if_pos hc, hspdm _ _⟩
    · exact ⟨_, if_neg hc, hspdm _ _⟩
  · by_cases hsl : sl ≠ 0
    · exact ⟨_, if_pos hsl, hspdm _ _⟩
    · cases hfree : s.rsaFree with
      | true => exact ⟨_, (if_neg hsl).trans (if_neg (by simp [hfree])), htick _ _⟩
      | false => exact ⟨_, (if_neg hsl).trans (if_pos (by simp [hfree])), hbusy⟩
  · by_cases hany : (measurementIndices x.toNat).any (fun i => decide (14 < i)) = true
    · exact ⟨_, if_pos hany, hspdm _ _⟩
    · by_cases hwait : (g && !s.rsaFree) = true
      · exact ⟨_, (if_neg hany).trans (if_pos hwait), hbusy⟩
      · exact ⟨_, (if_neg hany).trans (if_neg hwait), htick _ _⟩

/-! ### An open port -/

/-- A nonce of the part's own. -/
def State.spdmNonce (s : State) : List Byte := (List.range 32).map (fun i => Config.freeByte 304 s.freeCtr i)

section
variable {s : State} (p : SpdmPort) (nonce : List Byte)

theorem exec_challenge_free (h : s.rsaFree = true) : exec (.challenge p 0 nonce) s
    = .next (s.tickFree.spdm p 0x03 (sha512 Config.certChain ++ s.spdmNonce ++ s.signature)) := by
  show execChallenge p 0 nonce s = _
  rw [execChallenge, if_neg (by decide), if_neg (by simp [h])]
  rfl

theorem exec_challenge_busy (h : s.rsaFree = false) : exec (.challenge p 0 nonce) s = .next (s.notReadyYet p) := by
  show execChallenge p 0 nonce s = _
  rw [execChallenge, if_neg (by decide), if_pos (by simp [h])]

/-- The blocks that were asked for, without a signature. -/
theorem exec_getMeasurements_plain {x : BitVec 8} (h : x.toNat ≤ 14 ∨ x = 0xFF) : exec (.getMeasurements p x false nonce) s
    = .next (s.tickFree.spdm p 0x60 ([BitVec.ofNat 8 (if x.toNat = 0 then 14 else (measurementIndices x.toNat).length)]
      ++ natToBytes 3 ((measurementIndices x.toNat).flatMap s.measurementBlock).length
      ++ (measurementIndices x.toNat).flatMap s.measurementBlock ++ [])) := by
  show execGetMeasurements p x false nonce s = _
  rw [execGetMeasurements, if_neg (by simp [measurementIndices_inRange h]), if_neg (by simp)]
  rfl

end

/-- Settles O53: the answer of each request. -/
theorem spdmAnswers : Obligations.SpdmAnswers := by
  intro s p
  refine ⟨fun h i hi => spdmCmd_silent hi h, fun h => ?_⟩
  have hspdm : ∀ code body, (Host.Outcome.next (s.spdm p code body) : Host.Outcome State Fault Refusal)
      = .next { s with reply := .spdm code body } := fun code body => congrArg Host.Outcome.next (State.spdm_open h code body)
  have htick : ∀ code body, (Host.Outcome.next (s.tickFree.spdm p code body) : Host.Outcome State Fault Refusal)
      = .next { s.tickFree with reply := .spdm code body } := fun code body =>
    congrArg Host.Outcome.next (State.spdm_open ((s.spdmPort_tickFree p).trans h) code body)
  have hbusy : (Host.Outcome.next (s.notReadyYet p) : Host.Outcome State Fault Refusal)
      = .next { s.bump secSpdmNotReady 1 with reply := .spdm 0x7F [0x42, 0] } := congrArg Host.Outcome.next (State.notReadyYet_open h)
  refine ⟨hspdm _ _, hspdm _ _, hspdm _ _, hspdm _ _, fun o n ho => ?_, fun sl o n hbad => (if_pos hbad).trans (hspdm _ _),
    fun sl nonce hsl => (if_pos hsl).trans (hspdm _ _), fun nonce hsign hwait => ?_, fun nonce hwait => ?_, fun x nonce h1 h2 => ?_,
    fun nonce => ?_, fun x sign nonce h1 h2 => ?_, fun x nonce hx hwait => ?_⟩
  · exact (if_neg (by simpa using ho)).trans (hspdm _ _)
  · exact ⟨_, _, _, (exec_challenge_free p nonce (State.rsaFree_of hsign hwait)).trans (htick _ _), rfl, by simp [State.spdmNonce],
      by simp [State.signature], rfl⟩
  · exact (exec_challenge_busy p nonce (State.rsaFree_busy hwait)).trans hbusy
  · refine ⟨_, (exec_getMeasurements_plain p nonce (.inl h2)).trans (htick _ _), ?_, rfl⟩
    rw [measurementIndices_one h1 h2, if_neg (by omega)]
    simp
  · have hnone : measurementIndices 0 = [] := rfl
    refine ⟨_, (exec_getMeasurements_plain p nonce (.inl (Nat.zero_le _))).trans (htick _ _), ?_, rfl⟩
    simp [hnone, natToBytes]
  · exact (if_pos (by rw [measurementIndices_past h1 h2]; simpa using h1)).trans (hspdm _ _)
  · exact ((if_neg (by simp [measurementIndices_inRange hx])).trans (if_pos (by simp [State.rsaFree_busy hwait]))).trans hbusy

end Sys2Proof.Machine
end

section
/-! SUPPORT. Admin descriptors of sessions, keys and ownership (16 R439, R441, R443, R449, R450). -/

namespace Sys2Proof.Machine

/-! ### Stores in the queue (15 R418) -/

/-- Two stores of one record. -/
def NvStore.same (x y : NvStore) : Prop := y.sid = x.sid ∧ y.type = x.type ∧ y.value = x.value

section
variable (s : State)

/-- The pump moves the first store on, and drops none. -/
theorem State.nvPump_queue {x : NvStore} (h : x ∈ s.nv.queue) : ∃ y ∈ s.nvPump.nv.queue, x.same y := by
  unfold State.nvPump
  split
  · next hq => exact absurd h (by rw [hq]; exact List.not_mem_nil)
  · next z rest hq =>
    rw [hq] at h
    have hmem : ∀ z', z.same z' → ∃ y ∈ z' :: rest, x.same y := fun z' hz => by
      rcases List.mem_cons.mp h with rfl | h
      · exact ⟨z', List.mem_cons_self, hz⟩
      · exact ⟨x, List.mem_cons_of_mem _ h, rfl, rfl, rfl⟩
    have hsame : ∃ y ∈ s.nv.queue, x.same y := ⟨x, by rw [hq]; exact h, rfl, rfl, rfl⟩
    dsimp only
    split
    · exact hsame
    · split
      · split
        · exact hsame
        · rw [State.bump_nv, State.log_nv]
          exact hmem _ ⟨rfl, rfl, rfl⟩
      · exact hmem _ ⟨rfl, rfl, rfl⟩

/-- A store stands in the queue under the number that it was given. -/
theorem State.nvStore_queued (type : Nat) (value : List Byte) : ∃ y ∈ (s.nvStore type value).1.nv.queue,
    y.sid = (s.nvStore type value).2 ∧ y.type = type ∧ y.value = value := by
  have hlast : (⟨s.nv.nextSid, type, value, ceilDiv (recBytes ⟨type, 0, value⟩) 256, 0, false⟩ : NvStore)
      ∈ s.nv.queue ++ [⟨s.nv.nextSid, type, value, ceilDiv (recBytes ⟨type, 0, value⟩) 256, 0, false⟩] :=
    List.mem_append_right _ (List.mem_singleton.mpr rfl)
  exact State.nvPump_queue ({ s with nv := { s.nv with
    queue := s.nv.queue ++ [⟨s.nv.nextSid, type, value, ceilDiv (recBytes ⟨type, 0, value⟩) 256, 0, false⟩], nextSid := s.nv.nextSid + 1 } })
    hlast

theorem State.nvStore_keeps (type : Nat) (value : List Byte) {x : NvStore} (h : x ∈ s.nv.queue) :
    ∃ y ∈ (s.nvStore type value).1.nv.queue, x.same y :=
  State.nvPump_queue ({ s with nv := { s.nv with
    queue := s.nv.queue ++ [⟨s.nv.nextSid, type, value, ceilDiv (recBytes ⟨type, 0, value⟩) 256, 0, false⟩], nextSid := s.nv.nextSid + 1 } })
    (List.mem_append_left _ h)

end

/-! ### What an acceptance leaves -/

theorem State.slotCovers_congr {s t : State} (h : t.regs = s.regs) (k : KeySlot) (g : Nat) : t.slotCovers k g = s.slotCovers k g := by
  simp only [State.slotCovers, State.ringOwner_congr h]

theorem State.accepted_number (s : State) (r : Nat) (x : Ring) (b : List Byte) : (s.accepted r x b).turn.number = s.turn.number := by
  simp [State.accepted, State.journal, State.putAccepted, State.hostPut, State.setRing]

section
variable {s : State} {w : Work} (hcheck : s.adminCheck w = none)
include hcheck

theorem State.adminRun_sessionChallenge (hop : w.op = 0x50) : s.adminRun w = s.adminSessionChallenge w := by
  rw [State.adminRun, hcheck, hop]; rfl
theorem State.adminRun_sessionOpen (hop : w.op = 0x51) : s.adminRun w = s.adminSessionOpen w := by rw [State.adminRun, hcheck, hop]; rfl
theorem State.adminRun_keyProvision (hop : w.op = 0x53) : s.adminRun w = s.adminKeyProvision w := by rw [State.adminRun, hcheck, hop]; rfl
theorem State.adminRun_takeOwnership (hop : w.op = 0x54) : s.adminRun w = s.adminTakeOwnership w := by rw [State.adminRun, hcheck, hop]; rfl

end

section
variable {s : State} {r : Fin 65536} {x : Ring} {d : AdminDesc}

theorem exec_sessionChallenge (h : s.runsAdmin r.val x 0x50 d) : exec (.sessionChallenge r d) s
    = .next ((s.accepted r.val x (adminBytes 0x50 d)).adminSessionChallenge (s.workOf r.val x (adminBytes 0x50 d))) := by
  rw [exec_admin rfl h.tosamples h.admin, State.adminRun_sessionChallenge h.passes (State.workOf_op _ _ _ _ _)]

theorem exec_sessionOpen (h : s.runsAdmin r.val x 0x51 d) : exec (.sessionOpen r d) s
    = .next ((s.accepted r.val x (adminBytes 0x51 d)).adminSessionOpen (s.workOf r.val x (adminBytes 0x51 d))) := by
  rw [exec_admin rfl h.tosamples h.admin, State.adminRun_sessionOpen h.passes (State.workOf_op _ _ _ _ _)]

theorem exec_keyProvision (h : s.runsAdmin r.val x 0x53 d) : exec (.keyProvision r d) s
    = .next ((s.accepted r.val x (adminBytes 0x53 d)).adminKeyProvision (s.workOf r.val x (adminBytes 0x53 d))) := by
  rw [exec_admin rfl h.tosamples h.admin, State.adminRun_keyProvision h.passes (State.workOf_op _ _ _ _ _)]

theorem exec_takeOwnership (h : s.runsAdmin r.val x 0x54 d) : exec (.takeOwnership r d) s
    = .next ((s.accepted r.val x (adminBytes 0x54 d)).adminTakeOwnership (s.workOf r.val x (adminBytes 0x54 d))) := by
  rw [exec_admin rfl h.tosamples h.admin, State.adminRun_takeOwnership h.passes (State.workOf_op _ _ _ _ _)]

end

/-! ### SESSION_CHALLENGE (16 R439) -/

/-- A work whose answer stands in host memory, and completes with it. -/
theorem State.answered_spec {s : State} {r q : Nat} {w : Work} (hw : s.findWork r q = some w) (hout : w.hostOut = []) (bs : List Byte) :
    ∃ v, ((s.setHostOut w w.fB bs).setResult w stOk).findWork r q = some v ∧ v.result = some stOk
      ∧ ∀ i, SMap.get none v.hostOut (w.fB + i) = bs[i]? := by
  have hput := State.findWork_updWork (f := fun x => { x with hostOut := SMap.setList none x.hostOut w.fB (bs.map some) }) hw
    fun _ => ⟨rfl, rfl⟩
  have hdone := State.findWork_updWork (f := fun x => { x with result := some stOk }) hput fun _ => ⟨rfl, rfl⟩
  refine ⟨_, hdone, rfl, fun i => ?_⟩
  rw [hout]
  exact SMap.get_setList_some bs w.fB i

/-- The challenge of a group, issued. -/
def State.challengeIssued (s : State) (g : Nat) : State :=
  { s.tickFree with sec := { s.sec with challenges := SMap.set none s.sec.challenges g (some s.newChallenge.1) } }

theorem State.adminSessionChallenge_spec {s : State} {r q : Nat} {w : Work} (hw : s.findWork r q = some w) (hout : w.hostOut = []) :
    ∃ v, (s.adminSessionChallenge w).findWork r q = some v ∧ v.result = some stOk ∧ s.newChallenge.1.length = 32
      ∧ SMap.get none (s.adminSessionChallenge w).sec.challenges w.fA = some s.newChallenge.1
      ∧ ∀ i, SMap.get none v.hostOut (w.fB + i) = s.newChallenge.1[i]? := by
  have heq : s.adminSessionChallenge w = ((s.challengeIssued w.fA).setHostOut w w.fB s.newChallenge.1).setResult w stOk := rfl
  have hsec : (((s.challengeIssued w.fA).setHostOut w w.fB s.newChallenge.1).setResult w stOk).sec = (s.challengeIssued w.fA).sec := rfl
  obtain ⟨v, hv, hresult, hbytes⟩ := State.answered_spec (s := s.challengeIssued w.fA) hw hout s.newChallenge.1
  rw [heq, hsec]
  exact ⟨v, hv, hresult, by simp [State.newChallenge], by simp [State.challengeIssued], hbytes⟩

/-! ### SESSION_OPEN (16 R441) -/

/-- The challenge of a group is used up. -/
def State.challengeUsed (s : State) (g : Nat) : State := { s with sec := { s.sec with challenges := SMap.set none s.sec.challenges g none } }

/-- The binding of a session, as the record that it waits for. -/
def State.bindStored (s : State) (g kslot role fn : Nat) (ch : List Byte) : State × Nat :=
  ((s.challengeUsed g).authPassed kslot).nvStore rtEpoch (epochValue 0 (.bind g kslot role fn ch) [] true)

section
variable {s : State} {ring seq fn g : Nat} {resp : List Byte}

theorem State.openSession_stale (h : SMap.get none s.sec.challenges g = none) :
    s.openSession ring seq fn g resp = (stChallengeStale, s) := by
  simp only [State.openSession, h]

variable {ch : List Byte} (hch : SMap.get none s.sec.challenges g = some ch)
include hch

theorem State.openSession_locked (h : fieldAt resp 0 1 ∈ s.sec.locked) :
    s.openSession ring seq fn g resp = (stAuthLocked, s.challengeUsed g) := by
  unfold State.openSession
  rw [hch]
  dsimp only
  rw [if_pos (by simpa using h)]
  rfl

variable {k : KeySlot} (hlocked : fieldAt resp 0 1 ∉ s.sec.locked) (hslot : SMap.get none s.sec.slots (fieldAt resp 0 1) = some k)
  (hrole : k.role = fieldAt resp 1 1) (hflag : k.kfl % 2 = 0) (hcovers : s.slotCovers k g = true) (howner : s.ringOwner (16 * g) = fn)
include hlocked hslot hrole hflag hcovers howner

theorem State.openSession_checked : s.openSession ring seq fn g resp =
    if hmacSha512 k.key (macMessage ch fn (fieldAt resp 1 1) (fieldAt resp 0 1) g) = sliceBytes resp 16 64 then
      (stOk, (s.bindStored g (fieldAt resp 0 1) (fieldAt resp 1 1) fn ch).1.stageEpoch (.bind g (fieldAt resp 0 1) (fieldAt resp 1 1) fn ch)
        ring seq false [(s.bindStored g (fieldAt resp 0 1) (fieldAt resp 1 1) fn ch).2])
    else (stAuthFail, (s.challengeUsed g).authFailed (fieldAt resp 0 1)) := by
  have hcovers' : (s.challengeUsed g).slotCovers k g = true := (State.slotCovers_congr rfl k g).trans hcovers
  have howner' : (s.challengeUsed g).ringOwner (16 * g) = fn := (State.ringOwner_congr rfl _).trans howner
  simp only [State.challengeUsed] at hcovers' howner'
  unfold State.openSession
  rw [hch]
  dsimp only
  rw [if_neg (by simpa using hlocked), hslot]
  dsimp only
  rw [if_neg (by simp [hrole, hflag, hcovers', howner'])]
  rfl

end

section
variable {s : State} {r q : Nat} {w : Work} (hw : s.findWork r q = some w) (hreserved : fieldAt (s.hostBytes w.fB 80) 2 2 = 0)
  (hzero : ∀ y ∈ sliceBytes (s.hostBytes w.fB 80) 6 10, y = 0) (hgroup : fieldAt (s.hostBytes w.fB 80) 4 2 = w.fA)

section
include hreserved hzero hgroup

theorem State.adminSessionOpen_eq : s.adminSessionOpen w =
    let x := s.openSession w.ring w.seq w.fn w.fA (s.hostBytes w.fB 80)
    if x.1 = stOk then x.2.updWork w.ring w.seq (fun y => { y with admin := .epoch 1 }) else x.2.setResult w x.1 := by
  rw [State.adminSessionOpen, if_neg (by simpa [hreserved] using hzero), if_neg (by simp [hgroup])]

/-- An answer that a check refuses. -/
theorem State.adminSessionOpen_refused {st : Nat} {t : State}
    (h : s.openSession w.ring w.seq w.fn w.fA (s.hostBytes w.fB 80) = (st, t)) (hst : st ≠ stOk) :
    s.adminSessionOpen w = t.setResult w st := by
  rw [State.adminSessionOpen_eq hreserved hzero hgroup, h]
  exact if_neg hst

theorem State.adminSessionOpen_taken {t : State} (h : s.openSession w.ring w.seq w.fn w.fA (s.hostBytes w.fB 80) = (stOk, t)) :
    s.adminSessionOpen w = t.updWork w.ring w.seq fun y => { y with admin := .epoch 1 } := by
  rw [State.adminSessionOpen_eq hreserved hzero hgroup, h]
  exact if_pos rfl

end

/-- A failed authentication counts for its slot, and at the limit locks it. -/
theorem State.authFailed_locks (s : State) (kslot : Nat) (h : s.fld secAuthTries ≤ SMap.get 0 s.sec.fails kslot + 1) :
    kslot ∈ (s.authFailed kslot).sec.locked ∧ (s.authFailed kslot).tells s.turn.number .authLocked 0 := by
  have htries : (s.failTold kslot).fld secAuthTries = s.fld secAuthTries :=
    (State.fld_log _ _ _ (by decide) (by decide)).trans (State.fld_bump_other _ (by decide) 1 (by decide))
  have hnumber : (s.failTold kslot).turn.number = s.turn.number := congrArg Turn.number (s.sameBody_failTold kslot).turn
  rw [State.authFailed_eq, htries, if_pos h]
  refine ⟨?_, ?_⟩
  · rw [((s.failTold kslot).sameBody_lockTold kslot).sec]
    exact mem_insertOnce.mpr (.inl rfl)
  · rw [← hnumber]
    exact State.log_tells (({ s.failTold kslot with sec := (s.failTold kslot).sec.lock kslot } : State).bump secLockouts 1) .authLocked
      { detail := kslot } (by decide)

theorem State.sameBody.withSec {t s : State} (h : t.sameBody s) (x : Security) : ({ t with sec := x } : State).sameBody { s with sec := x } :=
  { h with sec := rfl }

theorem State.sameBody_authFailed (s : State) (kslot : Nat) :
    (s.authFailed kslot).sameBody { s with sec := (s.authFailed kslot).sec } := by
  have hfail := s.sameBody_failTold kslot
  rw [State.authFailed_eq]
  split
  · exact { ((s.failTold kslot).sameBody_lockTold kslot).trans (hfail.withSec _) with sec := rfl }
  · exact { hfail with sec := rfl }

section
variable {ch : List Byte} (hch : SMap.get none s.sec.challenges w.fA = some ch) {kslot role : Nat}
  (hks : fieldAt (s.hostBytes w.fB 80) 0 1 = kslot) (hrl : fieldAt (s.hostBytes w.fB 80) 1 1 = role)
include hw hreserved hzero hgroup

theorem State.adminSessionOpen_stale (h : SMap.get none s.sec.challenges w.fA = none) :
    (s.adminSessionOpen w).finished r q stChallengeStale ∧ (s.adminSessionOpen w).sec = s.sec := by
  rw [State.adminSessionOpen_refused hreserved hzero hgroup (State.openSession_stale h) (by decide)]
  exact ⟨State.setResult_finished hw _, rfl⟩

include hch hks

theorem State.adminSessionOpen_locked (h : kslot ∈ s.sec.locked) : (s.adminSessionOpen w).finished r q stAuthLocked
    ∧ SMap.get none (s.adminSessionOpen w).sec.challenges w.fA = none ∧ (s.adminSessionOpen w).epochs = s.epochs := by
  rw [State.adminSessionOpen_refused hreserved hzero hgroup (State.openSession_locked hch (by rw [hks]; exact h)) (by decide)]
  exact ⟨State.setResult_finished ((State.findWork_congr rfl r q).trans hw) _, by simp [State.setResult, State.updWork, State.challengeUsed],
    rfl⟩

variable {k : KeySlot} (hlocked : kslot ∉ s.sec.locked) (hslot : SMap.get none s.sec.slots kslot = some k) (hrole : k.role = role)
  (hflag : k.kfl % 2 = 0) (hcovers : s.slotCovers k w.fA = true) (howner : s.ringOwner (16 * w.fA) = w.fn)
include hrl hlocked hslot hrole hflag hcovers howner

/-- With the right MAC the binding waits for its record. -/
theorem State.adminSessionOpen_right (hresult : w.result = none)
    (hmac : hmacSha512 k.key (macMessage ch w.fn role kslot w.fA) = sliceBytes (s.hostBytes w.fB 80) 16 64) :
    ∃ e, (s.adminSessionOpen w).awaits r q (.epoch 1) ∧ (s.adminSessionOpen w).epochs = s.epochs ++ [e]
      ∧ e.step = .bind w.fA kslot role w.fn ch ∧ SMap.get none (s.adminSessionOpen w).sec.challenges w.fA = none
      ∧ (∃ n ∈ (s.adminSessionOpen w).nv.queue, n.type = rtEpoch ∧ n.sid ∈ e.needs)
      ∧ SMap.get 0 (s.adminSessionOpen w).sec.fails kslot = 0 ∧ SMap.get 0 (s.adminSessionOpen w).sec.lockouts kslot = 0
      ∧ (s.adminSessionOpen w).sec.sessions = s.sec.sessions := by
  subst hks hrl
  have hopen := State.openSession_checked (ring := w.ring) (seq := w.seq) (fn := w.fn) (resp := s.hostBytes w.fB 80) hch hlocked hslot
    hrole hflag hcovers howner
  rw [if_pos hmac] at hopen
  rw [State.adminSessionOpen_taken hreserved hzero hgroup hopen]
  generalize hks : fieldAt (s.hostBytes w.fB 80) 0 1 = kslot
  generalize hrl : fieldAt (s.hostBytes w.fB 80) 1 1 = role
  have hbody : (s.bindStored w.fA kslot role w.fn ch).1.sameBody ((s.challengeUsed w.fA).authPassed kslot) := State.sameBody_nvStore _ _ _
  obtain ⟨n, hn, hsid, htype, -⟩ := State.nvStore_queued ((s.challengeUsed w.fA).authPassed kslot) rtEpoch
    (epochValue 0 (.bind w.fA kslot role w.fn ch) [] true)
  refine ⟨⟨[(s.bindStored w.fA kslot role w.fn ch).2], .bind w.fA kslot role w.fn ch, w.ring, w.seq, false, false⟩,
    State.updWork_awaits ((State.findWork_congr hbody.works r q).trans hw) hresult _, ?_, rfl, ?_, ⟨n, hn, htype, ?_⟩, ?_, ?_, ?_⟩
  · exact congrArg (· ++ _) hbody.epochs
  · show SMap.get none (s.bindStored w.fA kslot role w.fn ch).1.sec.challenges w.fA = none
    rw [hbody.sec]
    simp [State.authPassed, State.challengeUsed]
  · exact List.mem_singleton.mpr hsid
  · show SMap.get 0 (s.bindStored w.fA kslot role w.fn ch).1.sec.fails kslot = 0
    rw [hbody.sec]
    simp [State.authPassed]
  · show SMap.get 0 (s.bindStored w.fA kslot role w.fn ch).1.sec.lockouts kslot = 0
    rw [hbody.sec]
    simp [State.authPassed]
  · exact (congrArg Security.sessions hbody.sec :)

/-- A wrong MAC is a failed authentication, and the challenge is used up. -/
theorem State.adminSessionOpen_wrong
    (hmac : hmacSha512 k.key (macMessage ch w.fn role kslot w.fA) ≠ sliceBytes (s.hostBytes w.fB 80) 16 64) :
    (s.adminSessionOpen w).finished r q stAuthFail ∧ (s.adminSessionOpen w).tells s.turn.number .authFail 0
      ∧ SMap.get none (s.adminSessionOpen w).sec.challenges w.fA = none
      ∧ SMap.get 0 (s.adminSessionOpen w).sec.fails kslot = SMap.get 0 s.sec.fails kslot + 1
      ∧ (s.fld secAuthTries ≤ SMap.get 0 s.sec.fails kslot + 1 → kslot ∈ (s.adminSessionOpen w).sec.locked
        ∧ (s.adminSessionOpen w).tells s.turn.number .authLocked 0)
      ∧ (s.adminSessionOpen w).epochs = s.epochs ∧ (s.adminSessionOpen w).sec.sessions = s.sec.sessions := by
  subst hks hrl
  have hopen := State.openSession_checked (ring := w.ring) (seq := w.seq) (fn := w.fn) (resp := s.hostBytes w.fB 80) hch hlocked hslot
    hrole hflag hcovers howner
  rw [if_neg hmac] at hopen
  rw [State.adminSessionOpen_refused hreserved hzero hgroup hopen (by decide)]
  generalize fieldAt (s.hostBytes w.fB 80) 0 1 = kslot
  have hbody := (s.challengeUsed w.fA).sameBody_authFailed kslot
  obtain ⟨-, -, hsessions, hchallenges, hfails⟩ := (s.challengeUsed w.fA).authFailed_counts kslot
  refine ⟨State.setResult_finished ((State.findWork_congr hbody.works r q).trans hw) _,
    (s.challengeUsed w.fA).authFailed_tells kslot, ?_, hfails, (s.challengeUsed w.fA).authFailed_locks kslot, hbody.epochs, hsessions⟩
  show SMap.get none ((s.challengeUsed w.fA).authFailed kslot).sec.challenges w.fA = none
  rw [hchallenges]
  simp [State.challengeUsed]

end

end

/-! ### KEY_PROVISION (16 R450) -/

section
variable {s : State} {r q : Nat} {w : Work} {y : Session} (hw : s.findWork r q = some w)
  (hy : s.sessionOf (w.ring / 16) = some y)
include hy

theorem State.adminKeyProvision_eq : s.adminKeyProvision w = if (s.provisionKey y (s.hostBytes w.fB 64)).1 = stOk then
      (s.provisionKey y (s.hostBytes w.fB 64)).2.1.updWork w.ring w.seq fun x =>
        { x with admin := .key (fieldAt (s.hostBytes w.fB 64) 0 1), stores := [(s.provisionKey y (s.hostBytes w.fB 64)).2.2] }
    else (s.provisionKey y (s.hostBytes w.fB 64)).2.1.setResult w (s.provisionKey y (s.hostBytes w.fB 64)).1 := by
  simp only [State.adminKeyProvision, hy]

include hw

theorem State.adminKeyProvision_refused {st : Nat} (h : s.provisionKey y (s.hostBytes w.fB 64) = (st, s, 0)) (hst : st ≠ stOk) :
    (s.adminKeyProvision w).finished r q st ∧ (s.adminKeyProvision w).nv = s.nv := by
  rw [State.adminKeyProvision_eq hy, h, if_neg hst]
  exact ⟨State.setResult_finished hw st, rfl⟩

theorem State.adminKeyProvision_reserved (h : keyRequestReserved (s.hostBytes w.fB 64) = true) :
    (s.adminKeyProvision w).finished r q stRsvdNonzero ∧ (s.adminKeyProvision w).nv = s.nv :=
  State.adminKeyProvision_refused hw hy (if_pos h) (by decide)

theorem State.adminKeyProvision_bad (h : keyRequestReserved (s.hostBytes w.fB 64) = false)
    (hbad : keyRequestBad (s.hostBytes w.fB 64) = true
      ∨ (fieldAt (s.hostBytes w.fB 64) 1 1 ≠ 1 ∧ s.otherOwner (fieldAt (s.hostBytes w.fB 64) 0 1) = false)
      ∨ (fieldAt (s.hostBytes w.fB 64) 1 1 ≠ 0 ∧ aesKeyUnwrap (s.sessionKw y) (sliceBytes (s.hostBytes w.fB 64) 0x18 40) = none)) :
    (s.adminKeyProvision w).finished r q stKeySlotBad ∧ (s.adminKeyProvision w).nv = s.nv := by
  refine State.adminKeyProvision_refused hw hy ?_ (by decide)
  rw [State.provisionKey, if_neg (by simp [h])]
  by_cases hshape : keyRequestBad (s.hostBytes w.fB 64) = true
      ∨ (fieldAt (s.hostBytes w.fB 64) 1 1 ≠ 1 ∧ (!(s.otherOwner (fieldAt (s.hostBytes w.fB 64) 0 1))) = true)
  · exact if_pos hshape
  · rw [if_neg hshape]
    obtain ⟨hrole, hnone⟩ : fieldAt (s.hostBytes w.fB 64) 1 1 ≠ 0
        ∧ aesKeyUnwrap (s.sessionKw y) (sliceBytes (s.hostBytes w.fB 64) 0x18 40) = none := by
      rcases hbad with hb | ⟨hone, hother⟩ | hkey
      · exact absurd (.inl hb) hshape
      · exact absurd (.inr ⟨hone, by simp [hother]⟩) hshape
      · exact hkey
    rw [if_neg hrole, hnone]

/-- The key that a slot takes, as the record that it waits for. -/
theorem State.adminKeyProvision_stored {key : List Byte} (hresult : w.result = none)
    (h : keyRequestReserved (s.hostBytes w.fB 64) = false) (hshape : keyRequestBad (s.hostBytes w.fB 64) = false)
    (howner : fieldAt (s.hostBytes w.fB 64) 1 1 = 1 ∨ s.otherOwner (fieldAt (s.hostBytes w.fB 64) 0 1) = true)
    (hkey : (if fieldAt (s.hostBytes w.fB 64) 1 1 = 0 then some (zeros 32)
      else aesKeyUnwrap (s.sessionKw y) (sliceBytes (s.hostBytes w.fB 64) 0x18 40)) = some key) :
    (s.adminKeyProvision w).awaits r q (.key (fieldAt (s.hostBytes w.fB 64) 0 1)) ∧ (s.adminKeyProvision w).sec = s.sec
      ∧ ∃ e ∈ (s.adminKeyProvision w).nv.queue, e.type = rtRoleKey
        ∧ e.value = (s.hostBytes w.fB 64).take 0x18 ++ aesKeyWrap (kek "IKB7-RKW") key := by
  generalize hb : s.hostBytes w.fB 64 = b at *
  generalize hvalue : b.take 0x18 ++ aesKeyWrap (kek "IKB7-RKW") key = value
  have hstore : s.provisionKey y b = (stOk, (s.nvStore rtRoleKey value).1, (s.nvStore rtRoleKey value).2) := by
    have hnot : ¬(keyRequestBad b = true ∨ (fieldAt b 1 1 ≠ 1 ∧ (!(s.otherOwner (fieldAt b 0 1))) = true)) := by
      rintro (hb | ⟨hone, hother⟩)
      · simp [hshape] at hb
      · rcases howner with ho | ho
        · exact hone ho
        · simp [ho] at hother
    rw [State.provisionKey, if_neg (by simp [h]), if_neg hnot, hkey, ← hvalue]
  have hbody : (s.nvStore rtRoleKey value).1.sameBody s := State.sameBody_nvStore s _ _
  obtain ⟨e, he, -, htype, hval⟩ := s.nvStore_queued rtRoleKey value
  rw [State.adminKeyProvision_eq hy, hb, hstore, if_pos rfl]
  exact ⟨⟨_, State.findWork_updWork ((State.findWork_congr hbody.works r q).trans hw) fun _ => ⟨rfl, rfl⟩, hresult, rfl⟩, hbody.sec,
    e, he, htype, hval⟩

end

/-! ### TAKE_OWNERSHIP (16 R449) -/

/-- The key slot that taking ownership makes. -/
def firstKey (b : List Byte) : KeySlot := ⟨1, 0xFF, 0, 0, 4096, zeros 16, sliceBytes b 0x208 32⟩

/-- The two stores of an owner that takes the part. -/
def State.ownerStored (s : State) (b : List Byte) : State := ((s.nvStore rtOwner (ownerValue b)).1.nvStore rtRoleKey (firstKeyValue b)).1

section
variable {s : State} {r q : Nat} {w : Work} (hw : s.findWork r q = some w)
include hw

theorem State.adminTakeOwnership_refused {st : Nat} (h : s.takeOwnership w.ring w.seq (s.hostBytes w.fB 588) = (st, s)) (hst : st ≠ stOk) :
    (s.adminTakeOwnership w).finished r q st ∧ (s.adminTakeOwnership w).sec = s.sec := by
  rw [State.adminTakeOwnership, h, if_neg hst]
  exact ⟨State.setResult_finished hw st, rfl⟩

theorem State.adminTakeOwnership_owned (h : s.owned = true ∨ s.sec.pendingOwner ≠ none) :
    (s.adminTakeOwnership w).finished r q stOwned ∧ (s.adminTakeOwnership w).sec = s.sec :=
  State.adminTakeOwnership_refused hw (if_pos (h.imp_right Option.isSome_iff_ne_none.mpr)) (by decide)

variable (hfree : s.owned = false) (hpending : s.sec.pendingOwner = none)
include hfree hpending

theorem State.adminTakeOwnership_absent (h : s.flag (pinLevel 4) = false ∨ s.flag (pinUnstableF 4) = true) :
    (s.adminTakeOwnership w).finished r q stPresenceRequired ∧ (s.adminTakeOwnership w).sec = s.sec :=
  State.adminTakeOwnership_refused hw ((if_neg (by simp [hfree, hpending])).trans (if_pos (by simpa using h))) (by decide)

/-- Under presence the owner waits for its record. -/
theorem State.adminTakeOwnership_taken (hresult : w.result = none) (hpresent : s.flag (pinLevel 4) = true)
    (hstable : s.flag (pinUnstableF 4) = false) (hexp : fieldAt (s.hostBytes w.fB 588) 512 4 = 65537)
    (hofl : fieldAt (s.hostBytes w.fB 588) 516 4 / 2 = 0) (hzero : ∀ y ∈ sliceBytes (s.hostBytes w.fB 588) 0x228 36, y = 0) :
    ∃ e, (s.adminTakeOwnership w).awaits r q (.epoch 1) ∧ (s.adminTakeOwnership w).epochs = s.epochs ++ [e] ∧ e.step = .owner
      ∧ (s.adminTakeOwnership w).sec = { s.sec with
          pendingOwner := some (ownerOf (ownerValue (s.hostBytes w.fB 588)), firstKey (s.hostBytes w.fB 588)) }
      ∧ ∃ n ∈ (s.adminTakeOwnership w).nv.queue, n.type = rtOwner ∧ n.value = ownerValue (s.hostBytes w.fB 588) := by
  generalize hb : s.hostBytes w.fB 588 = b at *
  have htake : s.takeOwnership w.ring w.seq b = (stOk, ({ s.ownerStored b with sec := { (s.ownerStored b).sec with
      pendingOwner := some (ownerOf (ownerValue b), firstKey b) } } : State).stageEpoch .owner w.ring w.seq false
        [(s.nvStore rtOwner (ownerValue b)).2, ((s.nvStore rtOwner (ownerValue b)).1.nvStore rtRoleKey (firstKeyValue b)).2]) :=
    (if_neg (by simp [hfree, hpending])).trans ((if_neg (by simp [hpresent, hstable])).trans (if_neg (by simp [hexp, hofl]; exact hzero)))
  have hbody : (s.ownerStored b).sameBody s := (State.sameBody_nvStore _ _ _).trans (State.sameBody_nvStore s _ _)
  obtain ⟨n, hn, -, htype, hvalue⟩ := s.nvStore_queued rtOwner (ownerValue b)
  obtain ⟨m, hm, -, htype', hvalue'⟩ := State.nvStore_keeps (s.nvStore rtOwner (ownerValue b)).1 rtRoleKey (firstKeyValue b) hn
  rw [State.adminTakeOwnership, hb, htake, if_pos rfl]
  refine ⟨_, State.updWork_awaits ((State.findWork_congr hbody.works r q).trans hw) hresult _, congrArg (· ++ _) hbody.epochs, rfl, ?_,
    m, hm, htype'.trans htype, hvalue'.trans hvalue⟩
  show ({ (s.ownerStored b).sec with pendingOwner := _ } : Security) = _
  rw [hbody.sec]

end

end Sys2Proof.Machine
end

section
/-! SUPPORT. Session descriptors settled, on the state that the acceptance of each leaves. -/

namespace Sys2Proof.Machine

section
variable {s : State} {r : Fin 65536} {x : Ring} {d : AdminDesc}

/-- SESSION_OPEN, once its acceptance has stood. -/
theorem sessionOpen_settled (h : s.runsAdmin r.val x 0x51 d) : let resp := (s.accepted r.val x (adminBytes 0x51 d)).hostBytes d.b.toNat 80
    let kslot := fieldAt resp 0 1
    let role := fieldAt resp 1 1
    fieldAt resp 2 2 = 0 → (∀ y ∈ sliceBytes resp 6 10, y = 0) → fieldAt resp 4 2 = d.a.toNat →
    (SMap.get none s.sec.challenges d.a.toNat = none → ∃ t, exec (.sessionOpen r d) s = .next t
      ∧ t.finished r.val d.seq.toNat stChallengeStale ∧ t.sec = s.sec)
    ∧ (∀ ch, SMap.get none s.sec.challenges d.a.toNat = some ch →
      (kslot ∈ s.sec.locked → ∃ t, exec (.sessionOpen r d) s = .next t ∧ t.finished r.val d.seq.toNat stAuthLocked
        ∧ SMap.get none t.sec.challenges d.a.toNat = none ∧ t.epochs = s.epochs)
      ∧ (∀ k, kslot ∉ s.sec.locked → SMap.get none s.sec.slots kslot = some k →
        k.role = role → k.kfl % 2 = 0 → s.slotCovers k d.a.toNat = true → s.ringOwner (16 * d.a.toNat) = x.fn →
        (hmacSha512 k.key (macMessage ch x.fn role kslot d.a.toNat) = sliceBytes resp 16 64 →
          ∃ t e, exec (.sessionOpen r d) s = .next t ∧ t.awaits r.val d.seq.toNat (.epoch 1) ∧ t.epochs = s.epochs ++ [e]
            ∧ e.step = .bind d.a.toNat kslot role x.fn ch ∧ SMap.get none t.sec.challenges d.a.toNat = none
            ∧ (∃ n ∈ t.nv.queue, n.type = rtEpoch ∧ n.sid ∈ e.needs)
            ∧ SMap.get 0 t.sec.fails kslot = 0 ∧ SMap.get 0 t.sec.lockouts kslot = 0 ∧ t.sec.sessions = s.sec.sessions)
        ∧ (hmacSha512 k.key (macMessage ch x.fn role kslot d.a.toNat) ≠ sliceBytes resp 16 64 →
          ∃ t, exec (.sessionOpen r d) s = .next t ∧ t.finished r.val d.seq.toNat stAuthFail ∧ t.tells s.turn.number .authFail 0
            ∧ SMap.get none t.sec.challenges d.a.toNat = none ∧ SMap.get 0 t.sec.fails kslot = SMap.get 0 s.sec.fails kslot + 1
            ∧ (s.fld secAuthTries ≤ SMap.get 0 s.sec.fails kslot + 1 → kslot ∈ t.sec.locked ∧ t.tells s.turn.number .authLocked 0)
            ∧ t.epochs = s.epochs ∧ t.sec.sessions = s.sec.sessions))) := by
  obtain ⟨-, hsec, hepochs, -⟩ := s.accepted_keeps r.val x (adminBytes 0x51 d)
  obtain ⟨hregs, -⟩ := s.accepted_rest r.val x (adminBytes 0x51 d)
  have hnumber := s.accepted_number r.val x (adminBytes 0x51 d)
  have hfind := h.accepted_findWork 0x51
  rw [exec_sessionOpen h, ← s.workOf_fA r.val x 0x51 d, ← s.workOf_fB r.val x 0x51 d, ← hsec, ← hepochs, ← hnumber,
    ← State.fld_congr hregs]
  intro resp kslot role hreserved hzero hgroup
  refine ⟨fun hnone => ⟨_, rfl, State.adminSessionOpen_stale hfind hreserved hzero hgroup hnone⟩, fun ch hch =>
    ⟨fun hlocked => ⟨_, rfl, State.adminSessionOpen_locked hfind hreserved hzero hgroup hch rfl hlocked⟩,
      fun k hlocked hslot hrole hflag hcovers howner => ?_⟩⟩
  rw [← State.slotCovers_congr hregs] at hcovers
  rw [← State.ringOwner_congr hregs] at howner
  refine ⟨fun hmac => ?_, fun hmac => ⟨_, rfl,
    State.adminSessionOpen_wrong hfind hreserved hzero hgroup hch rfl rfl hlocked hslot hrole hflag hcovers howner hmac⟩⟩
  obtain ⟨e, hspec⟩ := State.adminSessionOpen_right hfind hreserved hzero hgroup hch rfl rfl hlocked hslot hrole hflag hcovers howner rfl hmac
  exact ⟨_, e, rfl, hspec⟩

end

/-- Settles O50: what each descriptor leaves once it has been accepted, and what an expiry takes away. -/
theorem sessionDescriptors : Obligations.SessionDescriptors := by
  intro s r x d
  refine ⟨fun h => ?_, fun h => sessionOpen_settled h, fun y h hy => ?_, fun h => ?_, fun g => ?_, fun k => ?_⟩
  · obtain ⟨v, hv, hresult, hlen, hheld, hout⟩ := State.adminSessionChallenge_spec (h.accepted_findWork 0x50) rfl
    rw [State.workOf_fB] at hout
    rw [State.workOf_fA] at hheld
    exact ⟨_, v, _, exec_sessionChallenge h, hv, hresult, hlen, hheld, fun i _ => hout i⟩
  · obtain ⟨hnv, hsec, -, -⟩ := s.accepted_keeps r.val x (adminBytes 0x53 d)
    have hfind := h.accepted_findWork 0x53
    have hy' : (s.accepted r.val x (adminBytes 0x53 d)).sessionOf (r.val / 16) = some y := by
      rw [State.sessionOf, State.owned, hsec]
      exact hy
    have hkw : s.sessionKw y = (s.accepted r.val x (adminBytes 0x53 d)).sessionKw y := by
      rw [State.sessionKw, State.sessionKw, hsec]
    have hother : ∀ n, s.otherOwner n = (s.accepted r.val x (adminBytes 0x53 d)).otherOwner n := fun n => by
      rw [State.otherOwner, State.otherOwner, hsec]
    rw [exec_keyProvision h, ← s.workOf_fB r.val x 0x53 d, ← hnv, ← hsec, hkw]
    simp only [hother]
    exact ⟨fun hres => ⟨_, rfl, State.adminKeyProvision_reserved hfind hy' hres⟩,
      fun hres hbad => ⟨_, rfl, State.adminKeyProvision_bad hfind hy' hres hbad⟩,
      fun key hres hshape howner hkey => ⟨_, rfl, State.adminKeyProvision_stored hfind hy' rfl hres hshape howner hkey⟩⟩
  · obtain ⟨-, hsec, hepochs, -⟩ := s.accepted_keeps r.val x (adminBytes 0x54 d)
    obtain ⟨hregs, -⟩ := s.accepted_rest r.val x (adminBytes 0x54 d)
    have hfind := h.accepted_findWork 0x54
    have howned : s.owned = (s.accepted r.val x (adminBytes 0x54 d)).owned := by rw [State.owned, State.owned, hsec]
    rw [exec_takeOwnership h, ← s.workOf_fB r.val x 0x54 d, ← hsec, ← hepochs, howned, ← State.flag_congr hregs, ← State.flag_congr hregs]
    refine ⟨fun hown => ⟨_, rfl, State.adminTakeOwnership_owned hfind hown⟩,
      fun hfree hpending habsent => ⟨_, rfl, State.adminTakeOwnership_absent hfind hfree hpending habsent⟩,
      fun hfree hpending hpresent hstable hexp hofl hzero => ?_⟩
    obtain ⟨e, hawaits, hstaged, hstep, hsec', hstore⟩ :=
      State.adminTakeOwnership_taken hfind hfree hpending rfl hpresent hstable hexp hofl hzero
    refine ⟨_, e, _, rfl, hawaits, hstaged, hstep, hsec', ?_, ?_, hstore⟩ <;> simp only [firstKey]
  · exact ⟨_, rfl, by simp, fun j hj => by simp only [SMap.get_set, if_neg hj], rfl⟩
  · exact ⟨_, rfl, fun j => by simp, rfl⟩

end Sys2Proof.Machine
end

section
/-! SUPPORT. The part comes up (15 R408, R409, R424; 12 R331): power, and readiness. -/

namespace Sys2Proof.Machine

/-! ### Power-up (15 R408) -/

/-- What a part shows that POWER_UP has brought up. -/
theorem State.powerUp_starts (s : State) (b : BringUpIn) : (s.powerUp b).power.state = .starting
    ∧ (s.powerUp b).power.perst = s.power.perst ∧ (s.powerUp b).host = s.host
    ∧ (s.power.perst = false → (s.powerUp b).fld nviBootStage = 4) := by
  cases hperst : s.power.perst with
  | false =>
    obtain ⟨u, hu, hstate, hup, -⟩ := State.powerUp_trains hperst b
    have hnear := u.near_train b
    have hhost := s.powerUp_host b
    rw [hu] at hhost ⊢
    exact ⟨hnear.state.trans hstate, hnear.perst.trans hup, hhost, fun _ => u.train_stage b⟩
  | true =>
    have hpower : (if s.flag tlsPin then s.engageBrake else s).power = s.power := by
      split
      · exact s.engageBrake_power.1
      · rfl
    have hheld : ((if s.flag tlsPin then s.engageBrake else s).bootImage b).power.perst = true :=
      (State.near_bootImage _ b).perst.trans (by rw [hpower, hperst])
    have hhost := s.powerUp_host b
    have heq : s.powerUp b = { ((if s.flag tlsPin then s.engageBrake else s).bootImage b).setFld nviBootStage 2 with
        power := { ((if s.flag tlsPin then s.engageBrake else s).bootImage b).power with
          state := .starting
          configReady := !((if s.flag tlsPin then s.engageBrake else s).bootImage b).power.perst } } := if_pos hheld
    rw [heq] at hhost ⊢
    exact ⟨rfl, hheld, hhost, fun h => absurd h (by decide)⟩

/-! ### Readiness (15 R424) -/

/-- What a part that becomes ready shows, with its boot counted. -/
def State.readyShown (s : State) (boot : Nat) : State :=
  let t := ((s.setPair audBootLo audBootHi boot).setFlag nviReady true).setFld nviNrCode 0
  ((t.setFld nviBootStage 7).setFlag audReplayActive (t.flag audReplay)).setPair (roWord 0x20104) (roWord 0x20108) 0

section
variable (s : State) (boot : Nat)

theorem State.readyShown_keeps : (s.readyShown boot).power = s.power ∧ (s.readyShown boot).audit = s.audit
    ∧ (s.readyShown boot).turn = s.turn := by
  simp [State.readyShown, State.setPair]

/-- Neither the turn's number nor replay shares a bit with what readiness shows. -/
theorem State.readyShown_fld {g : RegField} (hlo : (roWord 0x20104).apart g) (hhi : (roWord 0x20108).apart g) (hreplay : audReplayActive.apart g) :
    (s.readyShown boot).fld g
      = ((((s.setPair audBootLo audBootHi boot).setFlag nviReady true).setFld nviNrCode 0).setFld nviBootStage 7).fld g :=
  (State.fld_setPair_other _ (by decide) (by decide) 0 hlo hhi).trans (State.fld_setFlag_other _ (by decide) _ hreplay)

theorem State.readyShown_shows : (s.readyShown boot).flag nviReady = true ∧ (s.readyShown boot).fld nviBootStage = 7
    ∧ (s.readyShown boot).fld nviNrCode = 0 ∧ (s.readyShown boot).pair audBootLo audBootHi = boot % 2 ^ 64 := by
  have hboot : ∀ g, g = audBootLo ∨ g = audBootHi → (s.readyShown boot).fld g = (s.setPair audBootLo audBootHi boot).fld g := by
    rintro g (rfl | rfl) <;>
    rw [State.readyShown_fld _ _ (by decide) (by decide) (by decide), State.fld_setFld_other _ (by decide) _ (by decide),
      State.fld_setFld_other _ (by decide) _ (by decide), State.fld_setFlag_other _ (by decide) _ (by decide)]
  refine ⟨?_, ?_, ?_, ?_⟩
  · rw [State.flag, State.readyShown_fld _ _ (by decide) (by decide) (by decide), State.fld_setFld_other _ (by decide) _ (by decide),
      State.fld_setFld_other _ (by decide) _ (by decide), ← State.flag, State.flag_setFlag _ (by decide) rfl]
  · rw [State.readyShown_fld _ _ (by decide) (by decide) (by decide), State.fld_setFld _ (by decide)]
    rfl
  · rw [State.readyShown_fld _ _ (by decide) (by decide) (by decide), State.fld_setFld_other _ (by decide) _ (by decide),
      State.fld_setFld _ (by decide)]
    rfl
  · rw [State.pair, hboot _ (.inl rfl), hboot _ (.inr rfl), ← State.pair]
    exact State.pair_setPair s (by decide) (by decide) rfl rfl (by decide) boot

end

/-- A part that nothing holds back: the chain starts, and the turns. -/
theorem State.becomeReady_ready {s : State} (h : s.nrCode = 0) : ∃ u : State, s.becomeReady = u.readyShown (s.pair audBootLo audBootHi + 1)
    ∧ u.power.state = .ready ∧ u.audit.sealNo = 0 ∧ u.turn.phase = .none ∧ u.turn.placed = [] := by
  have hboot : ((s.setFlag lnkReady (decide (s.topoCode = 0))).setFld lnkTopoCode s.topoCode).pair audBootLo audBootHi
      = s.pair audBootLo audBootHi := by
    rw [State.pair, State.pair, State.fld_setFld_other _ (by decide) _ (by decide), State.fld_setFlag_other _ (by decide) _ (by decide),
      State.fld_setFld_other _ (by decide) _ (by decide), State.fld_setFlag_other _ (by decide) _ (by decide)]
  rw [← hboot]
  unfold State.becomeReady
  dsimp only
  rw [if_neg (by simpa using h)]
  exact ⟨_, rfl, rfl, rfl, rfl, rfl⟩

/-- What holds a part back shows, and the part waits. -/
def State.heldBack (s : State) : State :=
  ((({ (s.setFlag lnkReady (decide (s.topoCode = 0))).setFld lnkTopoCode s.topoCode with
    power := { s.power with state := .notReady } } : State).setFld nviNrCode s.nrCode).setFld nviBootStage 8)

theorem State.nrCode_lt (s : State) : s.nrCode < 8 := by
  unfold State.nrCode
  dsimp only
  (repeat' split) <;> decide

theorem State.becomeReady_held {s : State} (h : s.nrCode ≠ 0) : s.becomeReady.sameBody s.heldBack
    ∧ s.becomeReady.fld nviBootStage = s.heldBack.fld nviBootStage ∧ s.becomeReady.fld nviNrCode = s.heldBack.fld nviNrCode := by
  have heq : s.becomeReady = if s.nrCode = 5 then s.heldBack.log .topoMismatch {}
      else if s.nrCode = 6 then s.heldBack.log .holdupLow {} else s.heldBack := if_pos h
  rw [heq]
  have hlog : ∀ c, (s.heldBack.log c {}).sameBody s.heldBack ∧ (s.heldBack.log c {}).fld nviBootStage = s.heldBack.fld nviBootStage
      ∧ (s.heldBack.log c {}).fld nviNrCode = s.heldBack.fld nviNrCode := fun c =>
    ⟨State.sameBody_log _ _ _, State.fld_log _ _ _ (by decide) (by decide), State.fld_log _ _ _ (by decide) (by decide)⟩
  split
  · exact hlog _
  · split
    · exact hlog _
    · exact ⟨.refl _, rfl, rfl⟩

theorem State.heldBack_shows (s : State) : s.heldBack.fld nviBootStage = 8 ∧ s.heldBack.fld nviNrCode = s.nrCode := by
  refine ⟨?_, ?_⟩
  · exact State.fld_setFld _ (by decide) 8
  · refine (State.fld_setFld_other _ (by decide) _ (by decide)).trans ((State.fld_setFld _ (by decide) _).trans (Nat.mod_eq_of_lt ?_))
    exact Nat.lt_of_lt_of_le s.nrCode_lt (by decide)

theorem State.heldBack_keeps (s : State) : s.heldBack.power.state = .notReady ∧ s.heldBack.cores = s.cores ∧ s.heldBack.hbm = s.hbm
    ∧ s.heldBack.host = s.host := by
  simp [State.heldBack]

/-- Settles O31: power-up, and what readiness finds. -/
theorem partComesUp : Obligations.PartComesUp := by
  intro s
  refine ⟨fun b hoff hlo hhi => ?_, fun b h => if_neg ?_, fun hpowered hnot hperst => ⟨fun hcode => ?_, fun hcode => ?_⟩, fun h => if_neg ?_⟩
  · exact ⟨_, if_pos (by simp [hoff, hlo, hhi]), s.powerUp_starts b⟩
  · simp only [Bool.and_eq_true, decide_eq_true_eq]
    rintro ⟨⟨hoff, hlo⟩, hhi⟩
    rcases h with h | h | h
    · exact h hoff
    · omega
    · omega
  · obtain ⟨u, hu, hstate, hseal, hphase, hplaced⟩ := State.becomeReady_ready hcode
    obtain ⟨hready, hstage, hcode', hpair⟩ := u.readyShown_shows (s.pair audBootLo audBootHi + 1)
    obtain ⟨hpower, haudit, hturn⟩ := u.readyShown_keeps (s.pair audBootLo audBootHi + 1)
    have hexec : exec .deviceReady s = .next s.becomeReady := if_pos (by simp [hpowered, State.isReady, hnot, hperst])
    rw [← hu] at hready hstage hcode' hpair hpower haudit hturn
    rw [← hpower] at hstate
    rw [← haudit] at hseal
    rw [← hturn] at hphase hplaced
    exact ⟨_, hexec, hstate, hready, hstage, hcode', hseal, hphase, hplaced, hpair, s.becomeReady_host⟩
  · obtain ⟨hbody, hstage, hnr⟩ := State.becomeReady_held hcode
    obtain ⟨hstage', hnr'⟩ := s.heldBack_shows
    obtain ⟨hstate, hcores, hhbm, hhost⟩ := s.heldBack_keeps
    have hexec : exec .deviceReady s = .next s.becomeReady := if_pos (by simp [hpowered, State.isReady, hnot, hperst])
    exact ⟨_, hexec, (congrArg Power.state hbody.power).trans hstate, hstage.trans hstage', hnr.trans hnr', hbody.cores.trans hcores,
      hbody.hbm.trans hhbm, hbody.host.trans hhost⟩
  · rcases h with h | h | h <;> simp [h, State.isReady]

end Sys2Proof.Machine
end

section
/-! SUPPORT. Maintenance (15 R418; 17 R462, R465): windows that fall due, chains that leave a retiring core, and stores that end. -/

namespace Sys2Proof.Machine

/-! ### Windows (17 R462) -/

theorem maintWindow_opens {s : State} (h : s.power.state = .ready) : ∃ t, exec .maintWindowOpen s = .next t
    ∧ t.witness = { s.witness with due := true, hours := s.witness.hours + s.fld witReplanH }
    ∧ (s.witness.due = true → t.tells s.turn.number .replanLate 0) ∧ t.works = s.works ∧ t.cores = s.cores ∧ t.turn = s.turn := by
  have hexec : exec .maintWindowOpen s = _ := if_pos (State.isReady_of_state h)
  refine ⟨_, hexec, ?_⟩
  cases hdue : s.witness.due with
  | false => exact ⟨rfl, fun h => absurd h (by decide), rfl, rfl, rfl⟩
  | true =>
    have hbody := State.sameBody_log s .replanLate {}
    have hhours : (s.log .replanLate {}).fld witReplanH = s.fld witReplanH := State.fld_log _ _ _ (by decide) (by decide)
    refine ⟨?_, fun _ => State.log_tells s .replanLate {} (by decide), hbody.works, hbody.cores, hbody.turn⟩
    show ({ (s.log .replanLate {}).witness with due := true, hours := _ } : Witness) = _
    simp only [if_true, hbody.witness, hhours]

/-! ### Works that restart (17 R465) -/

/-- A work that starts again from its acceptance, pinned nowhere. -/
def Work.fresh (w : Work) : Prop := w.st = .accepted ∧ w.chain.pins = []

/-- Every work stays, under its name, and one that starts again does so still. -/
def State.refreshes (t s : State) : Prop :=
  ∀ w ∈ s.works, ∃ v ∈ t.works, v.ring = w.ring ∧ v.seq = w.seq ∧ (w.fresh → v.fresh)

section
variable (s : State)

theorem State.refreshes.refl : s.refreshes s := fun w hw => ⟨w, hw, rfl, rfl, id⟩

theorem State.refreshes.trans {a b c : State} (h : c.refreshes b) (g : b.refreshes a) : c.refreshes a := fun w hw => by
  obtain ⟨v, hv, hring, hseq, hfresh⟩ := g w hw
  obtain ⟨u, hu, hring', hseq', hfresh'⟩ := h v hv
  exact ⟨u, hu, hring'.trans hring, hseq'.trans hseq, hfresh' ∘ hfresh⟩

theorem State.refreshes_of {t s : State} (h : t.works = s.works) : t.refreshes s := fun w hw => ⟨w, h ▸ hw, rfl, rfl, id⟩

theorem State.refreshes_foldl {β : Type} {f : State → β → State} (h : ∀ s b, (f s b).refreshes s) (l : List β) (s : State) :
    (l.foldl f s).refreshes s :=
  List.foldlRecOn (motive := fun t : State => t.refreshes s) l f (.refl s) fun t ht b _ => (h t b).trans ht

theorem State.refreshes_updWork (r q : Nat) {f : Work → Work}
    (hf : ∀ w, (f w).ring = w.ring ∧ (f w).seq = w.seq ∧ (w.fresh → (f w).fresh)) :
    (s.updWork r q f).refreshes s := fun w hw => by
  refine ⟨_, List.mem_map.mpr ⟨w, hw, rfl⟩, ?_⟩
  split
  · exact hf w
  · exact ⟨rfl, rfl, id⟩

theorem Work.restart_fresh (w : Work) : w.restart.fresh := ⟨rfl, rfl⟩

theorem State.refreshes_abortSlice (i cause : Nat) (st : Option Nat) : (s.abortSlice i cause st).refreshes s := by
  by_cases h : ∃ p, s.placedAt i = some p ∧ p.active = true
  · obtain ⟨p, hp, ha⟩ := h
    obtain ⟨-, -, -, -, -, hworks, -⟩ := State.abortSlice_spec s i cause st hp ha
    exact (State.refreshes_of hworks).trans (State.refreshes_updWork s _ _ fun w => ⟨rfl, rfl, id⟩)
  · rw [State.abortSlice_none s i cause st fun p hp => by simpa using fun ha => h ⟨p, hp, ha⟩]
    exact .refl s

theorem State.refreshes_abortWork (w : Work) (cause : Nat) : (s.abortWork w cause).refreshes s := by
  refine State.refreshes_foldl (fun t i => ?_) _ _
  split
  · split
    · exact State.refreshes_abortSlice t i cause none
    · exact .refl t
  · exact .refl t

theorem State.refreshes_ndSpare (w : Work) (n : Nat) : (s.ndSpare w n).refreshes s := by
  have hrecords : ((List.range n).foldl (fun t i => (t.bump (audNd 5) 1).event 0x15 0 w.ring w.seq i) s).refreshes s :=
    State.refreshes_foldl (fun t i => State.refreshes_of (by simp)) _ _
  exact (State.refreshes_updWork _ w.ring w.seq (f := fun x => { x with sums := { x.sums with carried := x.sums.carried + n } })
    fun w => ⟨rfl, rfl, id⟩).trans hrecords

theorem State.refreshes_disarm (w : Work) (l : List Nat) : (s.disarm w l).refreshes s :=
  State.refreshes_of (foldl_keeps State.works (f := fun t c => t.updCore c fun k => { k with engines := [] }) (fun _ _ => rfl) _ s)

/-- What a chain's restart leaves of every other work, and of its own. -/
theorem State.refreshes_restartChain (w : Work) : (s.restartChain w).refreshes s :=
  (State.refreshes_updWork _ w.ring w.seq (f := Work.restart) fun v => ⟨rfl, rfl, fun _ => v.restart_fresh⟩).trans
    ((State.refreshes_disarm _ _ _).trans ((State.refreshes_ndSpare _ _ _).trans (s.refreshes_abortWork w 4)))

theorem State.restartChain_fresh {w v : Work} (hv : v ∈ s.works) (hring : v.ring = w.ring) (hseq : v.seq = w.seq) :
    ∃ u ∈ (s.restartChain w).works, u.ring = w.ring ∧ u.seq = w.seq ∧ u.fresh := by
  obtain ⟨u, hu, hring', hseq', -⟩ := ((State.refreshes_disarm ((s.abortWork w 4).ndSpare w w.next) w w.chain.pins).trans
    ((State.refreshes_ndSpare _ _ _).trans (s.refreshes_abortWork w 4))) v hv
  refine ⟨u.restart, List.mem_map.mpr ⟨u, hu, if_pos ⟨hring'.trans hring, hseq'.trans hseq⟩⟩, hring'.trans hring, hseq'.trans hseq,
    u.restart_fresh⟩

end

/-- Whether a work's chain is pinned to a core that retires. -/
def State.mustMove (s : State) (w : Work) : Bool :=
  w.result.isNone && decide (w.st = .accepted ∨ w.st = .running) && w.chain.pins.any s.witness.retiring.contains

/-- The works that `c` picks restart, one after another. -/
def State.restartThose (c : Work → Bool) (s : State) (w : Work) : State := if c w then s.restartChain w else s

theorem State.refreshes_restartThose (c : Work → Bool) (s : State) (w : Work) : (s.restartThose c w).refreshes s := by
  unfold State.restartThose
  split
  · exact s.refreshes_restartChain w
  · exact .refl s

theorem State.costsWork_restartThose (c : Work → Bool) (s : State) (w : Work) : (s.restartThose c w).costsWork s := by
  unfold State.restartThose
  split
  · exact s.costsWork_restartChain w
  · exact .refl s

theorem State.foldl_restartThose {c : Work → Bool} {w : Work} (hc : c w = true) {l : List Work} (hl : w ∈ l) {s : State} (hw : w ∈ s.works) :
    ∃ v ∈ (l.foldl (State.restartThose c) s).works, v.ring = w.ring ∧ v.seq = w.seq ∧ v.fresh := by
  obtain ⟨before, after, rfl⟩ := List.append_of_mem hl
  rw [List.foldl_append, List.foldl_cons]
  obtain ⟨x, hx, hring, hseq, -⟩ := State.refreshes_foldl (State.refreshes_restartThose c) before s w hw
  generalize before.foldl (State.restartThose c) s = u at hx
  obtain ⟨y, hy, hring', hseq', hfresh⟩ := u.restartChain_fresh hx hring hseq
  have hstep : u.restartThose c w = u.restartChain w := if_pos hc
  rw [hstep]
  obtain ⟨v, hv, hring'', hseq'', hkept⟩ := State.refreshes_foldl (State.refreshes_restartThose c) after (u.restartChain w) y hy
  exact ⟨v, hv, hring''.trans hring', hseq''.trans hseq', hkept hfresh⟩

/-- RETIRE_WAIT_EXPIRE, once the wait has ended. -/
theorem retireWait_expires {s : State} (hready : s.power.state = .ready) (hoffs : s.witness.pendingOffs = none)
    (hretiring : s.witness.retiring ≠ []) (hwait : s.witness.retireFrom + s.fld witRetireWait ≤ s.turn.ord) : ∃ t, exec .retireWaitExpire s = .next t
      ∧ (∀ w ∈ s.works, w.result = none → w.st = .accepted ∨ w.st = .running → (∃ c ∈ w.chain.pins, c ∈ s.witness.retiring) →
          ∃ v ∈ t.works, v.ring = w.ring ∧ v.seq = w.seq ∧ v.st = .accepted ∧ v.chain.pins = [])
      ∧ t.hbm = s.hbm ∧ t.host = s.host ∧ t.witness = s.witness := by
  have hexec : exec .retireWaitExpire s = .next (s.works.foldl (State.restartThose s.mustMove) s) :=
    if_pos (by simp [State.isReady_of_state hready, hoffs, hretiring, hwait])
  have hcosts := State.costsWork_foldl (State.costsWork_restartThose s.mustMove) s.works s
  refine ⟨_, hexec, fun w hw hresult hst hpin => ?_, hcosts.hbm, ?_, hcosts.witness⟩
  · have hmove : s.mustMove w = true := by
      simp only [State.mustMove, hresult, Option.isNone_none, hst, decide_true, Bool.and_self, Bool.true_and, List.any_eq_true]
      simpa using hpin
    obtain ⟨v, hv, hring, hseq, hstate, hpins⟩ := State.foldl_restartThose hmove hw hw
    exact ⟨v, hv, hring, hseq, hstate, hpins⟩
  · exact foldl_keeps State.host (fun t w => by unfold State.restartThose; split <;> simp) s.works s

/-! ### Stores that end (15 R418) -/

/-- The pump touches the first store's chunk alone, and registers of records. -/
theorem State.nvPump_nv (s : State) : ∃ q, s.nvPump.nv = { s.nv with queue := q } ∧ q.length = s.nv.queue.length
    ∧ ∀ x rest, s.nv.queue = x :: rest → ∃ e, q = e :: rest ∧ e.sid = x.sid ∧ e.pages = x.pages := by
  have hsame : ∃ q, s.nv = { s.nv with queue := q } ∧ q.length = s.nv.queue.length
      ∧ ∀ x rest, s.nv.queue = x :: rest → ∃ e, q = e :: rest ∧ e.sid = x.sid ∧ e.pages = x.pages :=
    ⟨s.nv.queue, rfl, rfl, fun x rest h => ⟨x, h, rfl, rfl⟩⟩
  unfold State.nvPump
  split
  · exact hsame
  · next z rest hq =>
    have hhead : ∀ z', z'.sid = z.sid → z'.pages = z.pages → (z' :: rest).length = s.nv.queue.length
        ∧ ∀ x tail, s.nv.queue = x :: tail → ∃ e, z' :: rest = e :: tail ∧ e.sid = x.sid ∧ e.pages = x.pages :=
      fun z' hsid hpages => ⟨by rw [hq]; rfl, fun x tail h => by
        rw [hq] at h
        obtain ⟨rfl, rfl⟩ := List.cons.inj h
        exact ⟨z', rfl, hsid, hpages⟩⟩
    dsimp only
    split
    · exact hsame
    · split
      · split
        · exact hsame
        · exact ⟨{ z with deferred := true } :: rest, by rw [State.bump_nv, State.log_nv], hhead _ rfl rfl⟩
      · exact ⟨_, rfl, hhead { z with chunk := min z.pages s.chunkPages, deferred := false } rfl rfl⟩

theorem State.fld_nvPump (s : State) {g : RegField} (h1 : errCeDrop.apart g) (h2 : errNvOverflow.apart g) (h3 : nviDefers.apart g) :
    s.nvPump.fld g = s.fld g := by
  unfold State.nvPump
  split
  · rfl
  · dsimp only
    split
    · rfl
    · split
      · split
        · rfl
        · exact (State.fld_bump_other _ (by decide) _ h3).trans (State.fld_log _ _ _ h1 h2)
      · rfl

theorem logBytes_append (l m : List NvRec) : logBytes (l ++ m) = logBytes l + logBytes m := by
  have hshift : ∀ (m : List NvRec) a, m.foldl (fun a r => a + recBytes r) a = a + logBytes m := by
    intro m
    induction m with
    | nil => exact fun a => rfl
    | cons r m ih =>
      intro a
      show m.foldl _ (a + recBytes r) = a + m.foldl _ (0 + recBytes r)
      rw [ih, ih]
      omega
  rw [logBytes, List.foldl_append, hshift]
  rfl

/-- A flash in service takes a record. -/
def Flash.put (f : Flash) (r : NvRec) : Flash := if f.ok then { f with log := f.log ++ [r] } else f

/-- A record that both flashes have taken, before any compaction. -/
def State.logged (s : State) (type : Nat) (value : List Byte) : State :=
  { s with nv := { s.nv with
    flash0 := s.nv.flash0.put ⟨type, s.nv.nextSeq, value⟩
    flash1 := s.nv.flash1.put ⟨type, s.nv.nextSeq, value⟩
    nextSeq := s.nv.nextSeq + 1 } }

theorem Flash.put_ok (f : Flash) (r : NvRec) : (f.put r).ok = f.ok := by
  unfold Flash.put
  split <;> rfl

theorem Flash.put_log_le (f : Flash) (r : NvRec) : logBytes (f.put r).log ≤ logBytes f.log + recBytes r := by
  unfold Flash.put
  split
  · rw [logBytes_append]
    simp [logBytes]
  · exact Nat.le_add_right _ _

/-- A log with room is not compacted. -/
theorem State.appendLog_room {s : State} {type : Nat} {value : List Byte}
    (h : logBytes s.nvLog + recBytes ⟨type, s.nv.nextSeq, value⟩ ≤ 14 * 2 ^ 20) : s.appendLog type value = s.logged type value := by
  have hlog : logBytes (s.logged type value).nvLog ≤ logBytes s.nvLog + recBytes ⟨type, s.nv.nextSeq, value⟩ := by
    unfold State.nvLog State.logged
    rw [Flash.put_ok]
    split <;> exact Flash.put_log_le _ _
  have hroom : ¬(15 * 2 ^ 20 - logBytes (s.logged type value).nvLog < 2 ^ 20) := by omega
  exact (if_neg hroom : (s.logged type value).compact = s.logged type value)

/-- The last chunk of a store has ended, and its record counts. -/
def State.storeCounted (s : State) (x : NvStore) (rest : List NvStore) : State :=
  ((({ s with nv := { s.nv with queue := rest, written := s.nv.written ++ [x.sid] } } : State).logged x.type x.value).bump nviStores 1)

section
variable {s : State} {x : NvStore} {rest : List NvStore} (hqueue : s.nv.queue = x :: rest)
include hqueue

theorem State.chunkDone_idle (h : x.chunk = 0) : s.chunkDone = s := by
  simp only [State.chunkDone, hqueue, h, if_true]

theorem State.chunkDone_more (h : x.chunk ≠ 0) (hlt : x.chunk < x.pages) : s.chunkDone.sameBody s ∧ ∃ e, s.chunkDone.nv.queue = e :: rest
    ∧ e.sid = x.sid ∧ e.pages = x.pages - x.chunk ∧ s.chunkDone.nv.flash0 = s.nv.flash0 ∧ s.chunkDone.nv.flash1 = s.nv.flash1
    ∧ s.chunkDone.nv.written = s.nv.written := by
  have hdone : s.chunkDone = ({ s with nv := { s.nv with queue := { x with pages := x.pages - x.chunk, chunk := 0 } :: rest } } : State).nvPump := by
    simp only [State.chunkDone, hqueue, h, hlt, if_true, if_false]
  obtain ⟨q, hq, -, hhead⟩ := State.nvPump_nv
    ({ s with nv := { s.nv with queue := { x with pages := x.pages - x.chunk, chunk := 0 } :: rest } } : State)
  obtain ⟨e, rfl, hsid, hpages⟩ := hhead _ _ rfl
  rw [hdone, hq]
  exact ⟨(State.sameBody_nvPump _).trans (State.sameBody_nv _ _), e, rfl, hsid, hpages, rfl, rfl, rfl⟩

theorem State.chunkDone_last (h : x.chunk ≠ 0) (hle : x.pages ≤ x.chunk)
    (hroom : logBytes s.nvLog + recBytes ⟨x.type, s.nv.nextSeq, x.value⟩ ≤ 14 * 2 ^ 20) : s.chunkDone = (s.storeCounted x rest).nvPump := by
  have happend := State.appendLog_room (s := { s with nv := { s.nv with queue := rest, written := s.nv.written ++ [x.sid] } })
    (type := x.type) (value := x.value) hroom
  simp only [State.chunkDone, hqueue, h, Nat.not_lt.mpr hle, if_false, happend]
  rfl

end

theorem State.storeCounted_spec (s : State) (x : NvStore) (rest : List NvStore) : (s.storeCounted x rest).nvPump.sameBody s
    ∧ (s.storeCounted x rest).nvPump.nv.queue.length = rest.length
    ∧ (s.storeCounted x rest).nvPump.nv.written = s.nv.written ++ [x.sid]
    ∧ (s.storeCounted x rest).nvPump.fld nviStores = (s.fld nviStores + 1) % 2 ^ nviStores.width
    ∧ (s.nv.flash0.ok = true → (s.storeCounted x rest).nvPump.nv.flash0.log = s.nv.flash0.log ++ [⟨x.type, s.nv.nextSeq, x.value⟩])
    ∧ (s.nv.flash1.ok = true → (s.storeCounted x rest).nvPump.nv.flash1.log = s.nv.flash1.log ++ [⟨x.type, s.nv.nextSeq, x.value⟩]) := by
  obtain ⟨q, hq, hlen, -⟩ := (s.storeCounted x rest).nvPump_nv
  have hlog : ∀ f : Flash, f.ok = true → (f.put ⟨x.type, s.nv.nextSeq, x.value⟩).log = f.log ++ [⟨x.type, s.nv.nextSeq, x.value⟩] :=
    fun f hf => by rw [Flash.put, if_pos hf]
  refine ⟨(State.sameBody_nvPump _).trans ((State.sameBody_bump _ _ _).trans ((State.sameBody_nv _ _).trans (State.sameBody_nv _ _))), ?_, ?_,
    ?_, fun h => ?_, fun h => ?_⟩
  · rw [hq]
    exact hlen
  · rw [hq]
    rfl
  · rw [State.fld_nvPump _ (by decide) (by decide) (by decide)]
    exact State.fld_bump _ (by decide) 1
  · rw [hq]
    exact hlog _ h
  · rw [hq]
    exact hlog _ h

end Sys2Proof.Machine
end

section
/-! SUPPORT. One re-planning (17 R460, R464, R465): what its steps leave alone, and where the new offsets and the cores to retire come from. -/

namespace Sys2Proof.Machine

/-! ### What the steps before the WITNESS record leave alone -/

/-- The registers of RAISE_MV and OFFMAX, of the offsets, and of REPLANS. -/
abbrev RegField.planned (f : RegField) : Prop := f.off ∈ [0x80000, 0x80100, 0x80104, 0x80118]

theorem RegField.planned.apart {f g : RegField} (hg : g.planned) (hf : ¬f.planned) : f.apart g :=
  .inl fun h => hf (show f.off ∈ [0x80000, 0x80100, 0x80104, 0x80118] from h ▸ hg)

/-- Work goes on, cores keep their service, and the registers of the plan keep their values. -/
structure State.keepsService (t s : State) : Prop where
  works : t.works = s.works
  cores : t.cores = s.cores
  coreState : t.witness.coreState = s.witness.coreState
  retiring : t.witness.retiring = s.witness.retiring
  fld : ∀ {g : RegField}, g.planned → t.fld g = s.fld g

/-- As `keepsService`, and the margins stay as measured. -/
structure State.keepsPlan (t s : State) : Prop extends State.keepsService t s where
  margins : t.witness.margins = s.witness.margins

section
variable (s : State)

theorem State.keepsService.trans {a b c : State} (h : c.keepsService b) (g : b.keepsService a) : c.keepsService a :=
  ⟨h.works.trans g.works, h.cores.trans g.cores, h.coreState.trans g.coreState, h.retiring.trans g.retiring,
    fun hp => (h.fld hp).trans (g.fld hp)⟩

theorem State.keepsPlan.refl : s.keepsPlan s := ⟨⟨rfl, rfl, rfl, rfl, fun _ => rfl⟩, rfl⟩

theorem State.keepsPlan.trans {a b c : State} (h : c.keepsPlan b) (g : b.keepsPlan a) : c.keepsPlan a :=
  ⟨h.tokeepsService.trans g.tokeepsService, h.margins.trans g.margins⟩

theorem State.keepsPlan_foldl {β : Type} {f : State → β → State} (h : ∀ s b, (f s b).keepsPlan s) (l : List β) (s : State) :
    (l.foldl f s).keepsPlan s :=
  List.foldlRecOn (motive := fun t : State => t.keepsPlan s) l f (.refl s) fun t ht b _ => (h t b).trans ht

theorem State.sameBody.keepsPlan {t s : State} (h : t.sameBody s) (hfld : ∀ {g : RegField}, g.planned → t.fld g = s.fld g) :
    t.keepsPlan s :=
  ⟨⟨h.works, h.cores, by rw [h.witness], by rw [h.witness], hfld⟩, by rw [h.witness]⟩

theorem State.keepsPlan_log (c : Cause) (r : ErrRec) : (s.log c r).keepsPlan s :=
  (s.sameBody_log c r).keepsPlan fun hg => s.fld_log c r (hg.apart (by decide)) (hg.apart (by decide))

theorem State.keepsPlan_setFld {f : RegField} (hf : f.fits) (hp : ¬f.planned) (x : Nat) : (s.setFld f x).keepsPlan s :=
  (s.sameBody_setFld f x).keepsPlan fun hg => s.fld_setFld_other hf x (hg.apart hp)

theorem State.keepsPlan_nvNote (type : Nat) (value : List Byte) : (s.nvNote type value).keepsPlan s :=
  (s.sameBody_nvNote type value).keepsPlan fun hg =>
    s.fld_nvNote type value (hg.apart (by decide)) (hg.apart (by decide)) (hg.apart (by decide))

theorem State.keepsPlan_repair (kind inst sub dst : Nat) : (s.repair kind inst sub dst).keepsPlan s := s.keepsPlan_nvNote _ _

theorem State.keepsPlan_addFit (i : Nat) (y : Int) : (s.addFit i y).keepsPlan s := ⟨⟨rfl, rfl, rfl, rfl, fun _ => rfl⟩, rfl⟩

theorem State.keepsPlan_tickFree : s.tickFree.keepsPlan s := ⟨⟨rfl, rfl, rfl, rfl, fun _ => rfl⟩, rfl⟩

theorem State.keepsPlan_hbm (x : Hbm) : ({ s with hbm := x } : State).keepsPlan s := ⟨⟨rfl, rfl, rfl, rfl, fun _ => rfl⟩, rfl⟩

theorem State.keepsPlan.withWeakLanes {t u s : State} (h : t.keepsPlan s) (g : u.keepsPlan s) (x : List Nat) :
    ({ t with witness := { u.witness with weakLanes := x } } : State).keepsPlan s :=
  ⟨⟨h.works, h.cores, g.coreState, g.retiring, h.fld⟩, g.margins⟩

theorem State.keepsPlan_marginPhases (x : List (Nat × Nat)) :
    ({ s with witness := { s.witness with marginPhases := x } } : State).keepsPlan s := ⟨⟨rfl, rfl, rfl, rfl, fun _ => rfl⟩, rfl⟩

theorem State.keepsPlan_readOnDie : s.readOnDie.keepsPlan s := by
  unfold State.readOnDie
  exact (State.keepsPlan_foldl (fun t k => t.keepsPlan_hbm _) _ _).trans s.keepsPlan_tickFree

theorem State.keepsPlan_judgeDies (m : List Int) : (s.judgeDies m).keepsPlan s :=
  State.keepsPlan_foldl (fun t e => by
    dsimp only
    split
    · exact (State.keepsPlan_log _ _ _).trans (t.keepsPlan_addFit _ _)
    · exact t.keepsPlan_addFit _ _) _ s

theorem State.keepsPlan_judgeLanes (l : List (Fin 104 × Int × Nat)) : (s.judgeLanes l).keepsPlan s :=
  State.keepsPlan_foldl (fun t e => by
    have hfit := t.keepsPlan_addFit (fitLane e.1.val) (e.2.1 * 65536)
    dsimp only
    split
    · split
      · split
        · exact ((State.keepsPlan_repair _ _ _ _ _).trans hfit).withWeakLanes hfit _
        · exact (State.keepsPlan_log _ _ _).trans hfit
      · exact (State.keepsPlan_log _ _ _).trans hfit
    · exact hfit) l s

theorem State.keepsPlan_judgeChannels (l : List (Fin 256 × Int)) : (s.judgeChannels l).keepsPlan s :=
  State.keepsPlan_foldl (fun t e => by
    dsimp only
    split
    · exact (State.keepsPlan_log _ _ _).trans (t.keepsPlan_addFit _ _)
    · exact t.keepsPlan_addFit _ _) l s

theorem State.keepsPlan_judgeTheta : s.judgeTheta.keepsPlan s := by
  have hkeep : ∀ x y, ({ s with thermal := x, witness := { s.witness with pendingTheta := y } } : State).keepsPlan s :=
    fun _ _ => ⟨⟨rfl, rfl, rfl, rfl, fun _ => rfl⟩, rfl⟩
  unfold State.judgeTheta
  split
  · exact .refl s
  · dsimp only
    split
    · exact (State.keepsPlan_log _ _ _).trans ((State.keepsPlan_addFit _ _ _).trans (hkeep _ _))
    · exact (State.keepsPlan_addFit _ _ _).trans (hkeep _ _)

theorem State.keepsPlan_logRaises (old new : List Nat) (unit : Nat → Nat) : (s.logRaises old new unit).keepsPlan s :=
  State.keepsPlan_foldl (fun t e => by
    split
    · exact (State.keepsPlan_log _ _ _).trans (t.keepsPlan_setFld (by decide) (by decide) _)
    · exact .refl t) _ s

theorem State.keepsPlan_spareRow (kind c row : Nat) : (s.spareRow kind c row).1.keepsPlan s := by
  unfold State.spareRow
  dsimp only
  split
  · exact s.keepsPlan_repair _ _ _ _
  · exact .refl s

theorem State.keepsPlan_spareRows : s.spareRows.1.keepsPlan s := by
  have hrows : (s.weakRows.foldl (fun (a : State × List Nat) e =>
      ((a.1.spareRow e.1 e.2.1 e.2.2).1, if (a.1.spareRow e.1 e.2.1 e.2.2).2 then a.2 else insertOnce e.2.1 a.2)) (s, [])).1.keepsPlan s :=
    List.foldlRecOn (motive := fun a : State × List Nat => a.1.keepsPlan s) _ _ (.refl s)
      fun a ha e _ => (a.1.keepsPlan_spareRow _ _ _).trans ha
  exact ⟨⟨hrows.works, hrows.cores, hrows.coreState, hrows.retiring, hrows.fld⟩, hrows.margins⟩

theorem State.keepsPlan_showLife (rl : List Nat) : (s.showLife rl).keepsPlan s := by
  have hlife : ((List.range 6).foldl (fun t i => t.setFld (witRl i) (rl.getD i 0)) s).keepsPlan s :=
    List.foldlRecOn (motive := fun t : State => t.keepsPlan s) _ _ (.refl s) fun t ht i hi => by
      have hlt := List.mem_range.mp hi
      refine (t.keepsPlan_setFld (f := witRl i) (show 16 * (i % 2) + 16 ≤ 32 by omega) ?_ _).trans ht
      simp only [witRl, roField, RegField.planned, List.mem_cons, List.not_mem_nil, or_false]
      omega
  have hdays := (State.keepsPlan_setFld _ (f := witRlDays) (by decide) (by decide) (rl.foldl min 65535)).trans hlife
  unfold State.showLife
  dsimp only
  split
  · exact (State.keepsPlan_log _ _ _).trans hdays
  · exact hdays

theorem State.noteRisk_spec : s.noteRisk.keepsPlan s ∧ s.noteRisk.witness = s.witness := by
  unfold State.noteRisk
  dsimp only
  split
  · exact ⟨(State.keepsPlan_setFld _ (f := witAtRisk) (by decide) (by decide) _).trans (s.keepsPlan_log _ _), (s.sameBody_log _ _).witness⟩
  · exact ⟨s.keepsPlan_setFld (f := witAtRisk) (by decide) (by decide) _, rfl⟩

/-! ### Margins and offsets -/

/-- The margins of one core, as a window takes them. -/
def State.takeMargin (s : State) (e : Fin 144 × List Int) : State :=
  (({ s with witness := { s.witness with margins := SMap.set [] s.witness.margins e.1.val e.2 } } : State).setFld (witMargin e.1.val)
    (BitVec.ofInt 8 (e.2.getD 0 0)).toNat).addFit e.1.val ((e.2.getD 0 0 - 5 * s.fld (witOff 0)) * 65536)

theorem State.keepsService_takeMargin (e : Fin 144 × List Int) : (s.takeMargin e).keepsService s := by
  have hfar : ¬(witMargin e.1.val).planned := by
    simp only [witMargin, roField, RegField.planned, List.mem_cons, List.not_mem_nil, or_false]
    omega
  exact ⟨rfl, rfl, rfl, rfl, fun hg => State.fld_setFld_other _ (f := witMargin e.1.val) (show 0 + 8 ≤ 32 by omega) _ (hg.apart hfar)⟩

theorem State.keepsService_takeMargins (r : ReplanIn) : (s.takeMargins r).keepsService s :=
  List.foldlRecOn (motive := fun t : State => t.keepsService s) r.coreMargins State.takeMargin (State.keepsPlan.refl s).tokeepsService
    fun t ht e _ => (t.keepsService_takeMargin e).trans ht

end

/-- States that agree before margins are taken agree afterwards. -/
theorem State.keepsPlan.takeMargins {t s : State} (h : t.keepsPlan s) (r : ReplanIn) : (t.takeMargins r).keepsPlan (s.takeMargins r) := by
  show (r.coreMargins.foldl State.takeMargin t).keepsPlan (r.coreMargins.foldl State.takeMargin s)
  generalize r.coreMargins = l
  induction l generalizing t s with
  | nil => exact h
  | cons e l ih =>
    have ht := t.keepsService_takeMargin e
    have hs := s.keepsService_takeMargin e
    refine ih ⟨⟨h.works, h.cores, h.coreState, h.retiring, fun hg => ((ht.fld hg).trans (h.fld hg)).trans (hs.fld hg).symm⟩, ?_⟩
    exact congrArg (fun m => SMap.set [] m e.1.val e.2) h.margins

theorem State.raised_congr {t s : State} (h : t.keepsService s) (old : Nat) (m : Int) : t.raised old m = s.raised old m := by
  rw [State.raised, State.raised, h.fld (g := witRaiseMv) (by decide), h.fld (g := witOffMax) (by decide)]

theorem State.newOffsets_congr {t s : State} (h : t.keepsPlan s) : t.newOffsets = s.newOffsets := by
  have hserve : t.inService = s.inService := by unfold State.inService State.coreOut; rw [h.coreState]
  have hpoint : ∀ p, t.pointMargin p = s.pointMargin p := fun p => by rw [State.pointMargin, State.pointMargin, hserve, h.margins]
  refine List.map_congr_left fun p _ => ?_
  have hoff : t.fld (witOff p) = s.fld (witOff p) := h.fld (by simp [witOff, roField])
  rw [hpoint, hoff]
  cases s.pointMargin p with
  | none => rfl
  | some m => exact State.raised_congr h.tokeepsService _ m

/-- An offset never falls, and rises to OFFMAX at most. -/
theorem State.raised_bounds (s : State) (old : Nat) (m : Int) : old ≤ s.raised old m ∧ s.raised old m ≤ max old (s.fld witOffMax) := by
  unfold State.raised
  dsimp only
  split <;> omega

theorem State.newOffsets_bounds (s : State) {p : Nat} (hp : p < 6) :
    s.fld (witOff p) ≤ s.newOffsets.getD p 0 ∧ s.newOffsets.getD p 0 ≤ max (s.fld (witOff p)) (s.fld witOffMax) := by
  have hget : s.newOffsets.getD p 0 = match s.pointMargin p with
      | some m => s.raised (s.fld (witOff p)) m
      | none => s.fld (witOff p) := by
    simp only [State.newOffsets, List.getD_eq_getElem?_getD, List.getElem?_map, List.getElem?_range hp]
    rfl
  rw [hget]
  cases s.pointMargin p with
  | none => exact ⟨le_rfl, le_max_left _ _⟩
  | some m => exact s.raised_bounds _ m

theorem State.newDieOffsets_length (s : State) (m : List Int) : (s.newDieOffsets m).length = 4 := by
  simp [State.newDieOffsets]

theorem State.newDieOffsets_le (s : State) (m : List Int) {d : Nat} (hd : d < 4) : s.fld (witDieOff d) ≤ (s.newDieOffsets m).getD d 0 := by
  have hget : (s.newDieOffsets m).getD d 0 = match m[d]? with
      | some x => s.raised (s.fld (witDieOff d)) x
      | none => s.fld (witDieOff d) := by
    simp only [State.newDieOffsets, List.getD_eq_getElem?_getD, List.getElem?_map, List.getElem?_range hd]
    rfl
  rw [hget]
  cases m[d]? with
  | none => exact le_rfl
  | some x => exact (s.raised_bounds _ x).1

/-- A core in service that has a row without a spare is to retire, or retires already. -/
theorem State.mem_toRetire (s : State) (r : ReplanIn) {c : Fin 144} (hc : c ∈ r.rowsOut) (hout : s.coreOut c.val = 0)
    (hnew : c.val ∉ s.witness.retiring) : c.val ∈ s.toRetire r := by
  simp only [State.toRetire, List.mem_filter, List.mem_eraseDups, List.mem_append, List.mem_map]
  exact ⟨.inr ⟨c, hc, rfl⟩, by simp [hout, hnew]⟩

/-! ### The re-planning as a whole -/

/-- The state once a window's measurements are judged (17 R460, R464 step 3). -/
def State.judged (s : State) (r : ReplanIn) : State :=
  let s1 := ((s.readOnDie.takeMargins r).judgeDies r.dieMargins).judgeLanes r.lanes
  let s2 := ((s1.judgeChannels r.channels).addFit fitHoldup (s1.fld nviHuCap * 65536)).judgeTheta
  r.phases.foldl (fun t e =>
    ({ t with witness := { t.witness with marginPhases := t.witness.marginPhases ++ [(e.1.val, e.2.val)] } }).log .phaseMargin
      { inst := e.1.val, detail := e.2.val }) s2

theorem State.judged_keeps (s : State) (r : ReplanIn) : (s.judged r).keepsPlan (s.takeMargins r) := by
  unfold State.judged
  exact (State.keepsPlan_foldl (fun t e => (State.keepsPlan_log _ _ _).trans (t.keepsPlan_marginPhases _)) _ _).trans
    ((State.keepsPlan_judgeTheta _).trans ((State.keepsPlan_addFit _ _ _).trans ((State.keepsPlan_judgeChannels _ _).trans
      ((State.keepsPlan_judgeLanes _ _).trans ((State.keepsPlan_judgeDies _ _).trans (s.keepsPlan_readOnDie.takeMargins r))))))

/-- The raises are told of (17 R464). -/
def State.raiseTold (s : State) (m : List Int) : State :=
  (s.logRaises ((List.range 6).map (fun p => s.fld (witOff p))) s.newOffsets (fun _ => 0)).logRaises
    ((List.range 4).map (fun d => s.fld (witDieOff d))) (s.newDieOffsets m) dieUnit

theorem State.keepsPlan_raiseTold (s : State) (m : List Int) : (s.raiseTold m).keepsPlan s := by
  unfold State.raiseTold
  exact (State.keepsPlan_logRaises _ _ _ _).trans (s.keepsPlan_logRaises _ _ _)

/-- The cores that a re-planning retires: those whose tests say so, and those that have run out of spare rows. -/
def State.outgoing (s : State) (r : ReplanIn) : List Nat :=
  s.toRetire r ++ s.spareRows.2.filter (fun c => decide (s.coreOut c = 0) && !(s.witness.retiring.contains c) && !((s.toRetire r).contains c))

/-- Weak rows get their spares, and the outgoing cores retire (17 R465, R466). -/
def State.retireOut (s : State) (r : ReplanIn) : State :=
  let s5 := r.rowRepairs.foldl (fun t e => t.repair (e.1.val + 2) e.2.1.val e.2.2.1.toNat e.2.2.2.toNat) s.spareRows.1
  (s.outgoing r).foldl (fun t c => t.repair 1 c 0 0) { s5 with witness := { s5.witness with retiring := s5.witness.retiring ++ s.outgoing r } }

/-- As the steps before it, but for the cores that retire. -/
theorem State.retireOut_spec (s : State) (r : ReplanIn) : (s.retireOut r).works = s.works
    ∧ (s.retireOut r).cores = s.cores ∧ (s.retireOut r).witness.retiring = s.witness.retiring ++ s.outgoing r
    ∧ ∀ {g : RegField}, g.planned → (s.retireOut r).fld g = s.fld g := by
  have hrows := (State.keepsPlan_foldl (f := fun t (e : Fin 3 × Fin 144 × BitVec 16 × BitVec 16) =>
    t.repair (e.1.val + 2) e.2.1.val e.2.2.1.toNat e.2.2.2.toNat) (fun t e => t.keepsPlan_repair _ _ _ _) r.rowRepairs _).trans
      s.keepsPlan_spareRows
  have hout := State.keepsPlan_foldl (f := fun t c => t.repair 1 c 0 0) (fun t c => t.keepsPlan_repair _ _ _ _) (s.outgoing r)
  refine ⟨(hout _).works.trans hrows.works, (hout _).cores.trans hrows.cores, (hout _).retiring.trans ?_,
    fun hg => ((hout _).fld hg).trans (hrows.fld hg)⟩
  exact congrArg (· ++ s.outgoing r) hrows.retiring

/-- The life left is shown, the re-planning counted, and its WITNESS record on its way (17 R467). -/
def State.storeWitness (s : State) (offs dies : List Nat) : State × Nat :=
  let rl := s.remaining
  let s7 := (s.showLife rl).bump witReplans 1
  s7.nvStore rtWitness (s7.witnessValue offs dies (s7.witness.pendingTheta.getD (s7.fld witTheta)) rl)

theorem State.storeWitness_keeps (s : State) (offs dies : List Nat) :
    (s.storeWitness offs dies).1.keepsPlan ((s.showLife s.remaining).bump witReplans 1) := by
  unfold State.storeWitness
  exact State.keepsPlan_nvNote _ _ _

/-- The new offsets wait for their record. -/
def State.awaitRecord (s : State) (offs dies : List Nat) : State :=
  let w := s.storeWitness offs dies
  ({ w.1 with witness := { w.1.witness with pendingOffs := some (offs, dies), waitSid := some w.2 } }).noteRisk

theorem State.awaitRecord_spec (s : State) (offs dies : List Nat) : (s.awaitRecord offs dies).works = s.works
    ∧ (s.awaitRecord offs dies).cores = s.cores ∧ (s.awaitRecord offs dies).witness.retiring = s.witness.retiring
    ∧ (s.awaitRecord offs dies).witness.pendingOffs = some (offs, dies) ∧ (s.awaitRecord offs dies).witness.waitSid.isSome = true
    ∧ (s.awaitRecord offs dies).fld witReplans = (s.fld witReplans + 1) % 2 ^ witReplans.width
    ∧ ∀ {g : RegField}, g.planned → witReplans.apart g → (s.awaitRecord offs dies).fld g = s.fld g := by
  have hlife := s.keepsPlan_showLife s.remaining
  have hstore := s.storeWitness_keeps offs dies
  unfold State.awaitRecord
  generalize s.storeWitness offs dies = w at hstore
  obtain ⟨hkeep, hwitness⟩ := State.noteRisk_spec
    { w.1 with witness := { w.1.witness with pendingOffs := some (offs, dies), waitSid := some w.2 } }
  have hbump := (s.showLife s.remaining).sameBody_bump witReplans 1
  refine ⟨hkeep.works.trans (hstore.works.trans (hbump.works.trans hlife.works)),
    hkeep.cores.trans (hstore.cores.trans (hbump.cores.trans hlife.cores)),
    hkeep.retiring.trans (hstore.retiring.trans ((congrArg Witness.retiring hbump.witness).trans hlife.retiring)),
    congrArg Witness.pendingOffs hwitness, congrArg (·.waitSid.isSome) hwitness, ?_, fun hg happart => ?_⟩
  · rw [← hlife.fld (g := witReplans) (by decide)]
    exact (hkeep.fld (by decide)).trans ((hstore.fld (by decide)).trans (State.fld_bump _ (by decide) 1))
  · exact (hkeep.fld hg).trans ((hstore.fld hg).trans ((State.fld_bump_other _ (by decide) 1 happart).trans (hlife.fld hg)))

/-- A re-planning judges, tells of the raises, retires, and waits for its record. -/
theorem State.replan_eq (s : State) (r : ReplanIn) : s.replan r =
    (((s.judged r).raiseTold r.dieMargins).retireOut r).awaitRecord (s.judged r).newOffsets ((s.judged r).newDieOffsets r.dieMargins) := by
  unfold State.replan State.awaitRecord State.storeWitness State.retireOut State.outgoing State.raiseTold State.judged
  with_reducible rfl

theorem State.replan_spec (s : State) (r : ReplanIn) : ∃ dies, (s.replan r).witness.pendingOffs = some ((s.takeMargins r).newOffsets, dies)
    ∧ (s.replan r).witness.waitSid.isSome = true
    ∧ (∀ p, p < 6 → s.fld (witOff p) ≤ (s.takeMargins r).newOffsets.getD p 0
      ∧ (s.takeMargins r).newOffsets.getD p 0 ≤ max (s.fld (witOff p)) (s.fld witOffMax) ∧ (s.replan r).fld (witOff p) = s.fld (witOff p))
    ∧ dies.length = 4 ∧ (∀ d, d < 4 → s.fld (witDieOff d) ≤ dies.getD d 0)
    ∧ (∀ c, c ∈ s.witness.retiring → c ∈ (s.replan r).witness.retiring)
    ∧ (∀ c : Fin 144, c ∈ r.rowsOut → s.coreOut c.val = 0 → c.val ∈ (s.replan r).witness.retiring)
    ∧ (s.replan r).fld witReplans = (s.fld witReplans + 1) % 2 ^ witReplans.width
    ∧ (s.replan r).works = s.works ∧ (s.replan r).cores = s.cores := by
  have hmargins := s.keepsService_takeMargins r
  have hjudged := (s.judged_keeps r).tokeepsService.trans hmargins
  have htold := ((s.judged r).keepsPlan_raiseTold r.dieMargins).tokeepsService.trans hjudged
  have hoffs := State.newOffsets_congr (s.judged_keeps r)
  have hoff : ∀ p, (witOff p).planned := fun p => by simp [witOff, roField]
  rw [s.replan_eq r, hoffs]
  generalize ((s.judged r).raiseTold r.dieMargins) = u at htold
  obtain ⟨hworks, hcores, hretiring, hfld⟩ := u.retireOut_spec r
  obtain ⟨hworks', hcores', hretiring', hpending, hwait, hreplans, hfld'⟩ := (u.retireOut r).awaitRecord_spec
    (s.takeMargins r).newOffsets ((s.judged r).newDieOffsets r.dieMargins)
  rw [hretiring', hretiring, htold.retiring]
  refine ⟨_, hpending, hwait, fun p hp => ?_, State.newDieOffsets_length _ _, fun d hd => ?_, fun c hc => List.mem_append_left _ hc,
    fun c hc hout => ?_, ?_, hworks'.trans (hworks.trans htold.works), hcores'.trans (hcores.trans htold.cores)⟩
  · obtain ⟨hlow, hhigh⟩ := (s.takeMargins r).newOffsets_bounds hp
    rw [hmargins.fld (hoff p)] at hlow hhigh
    rw [hmargins.fld (g := witOffMax) (by decide)] at hhigh
    exact ⟨hlow, hhigh, (hfld' (hoff p) (.inl (by simp [witOff, witReplans, roField, roWord]))).trans ((hfld (hoff p)).trans
      (htold.fld (hoff p)))⟩
  · rw [← hjudged.fld (g := witDieOff d) (by simp [witDieOff, roField])]
    exact State.newDieOffsets_le _ _ hd
  · by_cases hold : c.val ∈ s.witness.retiring
    · exact List.mem_append_left _ hold
    · refine List.mem_append_right _ (List.mem_append_left _ (u.mem_toRetire r hc ?_ (htold.retiring ▸ hold)))
      rw [State.coreOut, htold.coreState]
      exact hout
  · rw [hreplans, hfld (g := witReplans) (by decide), htold.fld (g := witReplans) (by decide)]

/-! ### Nothing to do -/

theorem replan_idle (r : ReplanIn) {s : State} (h : s.witness.window = none ∨ s.power.state ≠ .ready) : exec (.replan r) s = .next s := by
  show execReplan r s = _
  unfold execReplan
  cases hwindow : s.witness.window with
  | none => rfl
  | some w =>
    have hready : s.power.state ≠ .ready := h.resolve_left (by simp [hwindow])
    exact if_neg (by simp [State.isReady, hready])

theorem replan_runs (r : ReplanIn) {s : State} {w : Window} (hwindow : s.witness.window = some w) (hmeasured : w.measured = true)
    (hoffs : s.witness.pendingOffs = none) (hready : s.power.state = .ready) : exec (.replan r) s = .next (s.replan r) := by
  show execReplan r s = _
  rw [execReplan, hwindow]
  exact if_pos (by simp [hmeasured, hoffs, State.isReady_of_state hready])

theorem retireWait_idle {s : State} (h : s.power.state ≠ .ready ∨ s.witness.retiring = []
    ∨ s.turn.ord < s.witness.retireFrom + s.fld witRetireWait) : exec .retireWaitExpire s = .next s := by
  refine if_neg ?_
  simp only [Bool.and_eq_true, Bool.not_eq_true', List.isEmpty_eq_false_iff, decide_eq_true_eq, State.isReady]
  rintro ⟨⟨⟨hready, -⟩, hretiring⟩, hwait⟩
  rcases h with h | h | h
  · exact h hready
  · exact hretiring h
  · omega

theorem State.chunkDone_none {s : State} (h : s.nv.queue = []) : s.chunkDone = s := by simp only [State.chunkDone, h]

/-- Settles O54: each event's clauses in turn; the offsets' bounds are `raised_bounds`, and the re-planning's frame is `keepsPlan`, step by
step. -/
theorem maintenanceEvents : Obligations.MaintenanceEvents := by
  intro s
  refine ⟨maintWindow_opens, fun h => ⟨if_neg (by simp [State.isReady, h]), retireWait_idle (.inl h), fun r => replan_idle r (.inr h)⟩,
    fun r w hwindow hmeasured hoffs hready => ?_, fun r h => replan_idle r (.inl h), retireWait_expires, fun h => retireWait_idle (.inr h),
    fun h => congrArg _ (State.chunkDone_none h), fun q rest hqueue hchunk => congrArg _ (State.chunkDone_idle hqueue hchunk),
    fun q rest hqueue hchunk hlt => ?_, fun q rest hqueue hchunk hle hroom => ?_⟩
  · obtain ⟨dies, hspec⟩ := s.replan_spec r
    exact ⟨_, dies, replan_runs r hwindow hmeasured hoffs hready, hspec⟩
  · obtain ⟨hbody, e, hspec⟩ := State.chunkDone_more hqueue hchunk hlt
    exact ⟨_, e, rfl, hbody, hspec⟩
  · exact ⟨_, congrArg Host.Outcome.next (State.chunkDone_last hqueue hchunk hle hroom), s.storeCounted_spec q rest⟩

end Sys2Proof.Machine
end
